-- ==== Sys2Proof/Word.lean ====
section
/-! DEFINITION. The word types of the model and their plainest readings (R3: bit 0 is least significant,
little-endian). -/

namespace Sys2Proof

/-- One byte of memory. -/
abbrev Byte := BitVec 8

/-- A 32-bit value: a v register of one thread, an instruction word. -/
abbrev Word := BitVec 32

/-- A 64-bit value: a k register, an address. -/
abbrev DWord := BitVec 64

/-- One bit for each of the 128 thread positions, or for each register of a file. -/
abbrev Mask := BitVec 128

end Sys2Proof
end

