-- ==== Sys2Proof/Syntax.lean ====
section
/-! DEFINITION. The syntax: one constructor of `Instr` for each row of the opcode table (warp instructions of the six
classes, then the events of engines, distributor, host and management), with the operand formats of Tables 8.2 to 8.10. -/

namespace Sys2Proof

/-- The class of a clause (Table 8.1). -/
inductive Class where
  | alu | mem | eng | mat | ctl | sys
  deriving DecidableEq, Repr

/-- The guard bits of a second word (R210): GN [31], GP [30:28], GE [27]. -/
structure Guard where
  gn : Bool
  gp : BitVec 3
  ge : Bool
  deriving DecidableEq, Repr

/-- ALU format A (Table 8.2), less its opcode. -/
structure FmtA where
  nw : Bool
  u : Bool
  pb : BitVec 3
  b : BitVec 7
  a : BitVec 7
  d : BitVec 7
  deriving DecidableEq, Repr

/-- ALU format I (Table 8.3). -/
structure FmtI where
  nw : Bool
  u : Bool
  imm : BitVec 10
  a : BitVec 7
  d : BitVec 7
  deriving DecidableEq, Repr

/-- MEM format M (Table 8.4). -/
structure FmtM where
  u : Bool
  sub : BitVec 4
  sx : Bool
  dc : BitVec 2
  size : BitVec 3
  addr : BitVec 7
  data : BitVec 7
  deriving DecidableEq, Repr

/-- ENG format E (Table 8.5). -/
structure FmtE where
  sub : BitVec 3
  dc : BitVec 2
  z : BitVec 7
  y : BitVec 7
  x : BitVec 7
  deriving DecidableEq, Repr

/-- MAT format Q (Table 8.6). -/
structure FmtQ where
  z : Bool
  ar : Bool
  type : BitVec 3
  b : BitVec 7
  a : BitVec 7
  t : BitVec 7
  deriving DecidableEq, Repr

/-- CTL format C (Table 8.7). -/
structure FmtC where
  p : Bool
  n : Bool
  pred : BitVec 3
  off : BitVec 20
  deriving DecidableEq, Repr

/-- SYS format S (Table 8.8). -/
structure FmtS where
  imm : BitVec 12
  y : BitVec 7
  x : BitVec 7
  deriving DecidableEq, Repr

/-- Second word X-R (Table 8.10). -/
structure XR where
  g : Guard
  m2 : BitVec 2
  kc : Bool
  kb : Bool
  c : BitVec 7
  pb : BitVec 8
  pa : BitVec 8
  deriving DecidableEq, Repr

/-- Second word X-T. -/
structure XT where
  g : Guard
  c : BitVec 7
  sel : BitVec 4
  sat : Bool
  rnd : BitVec 3
  t2 : BitVec 4
  t1 : BitVec 4
  deriving DecidableEq, Repr

/-- Second word X-M. -/
structure XM where
  g : Guard
  scope : BitVec 3
  order : BitVec 3
  off : BitVec 20
  deriving DecidableEq, Repr

/-- Second word X-G. -/
structure XG where
  g : Guard
  scope : BitVec 3
  order : BitVec 3
  off : BitVec 10
  shift : BitVec 3
  base : BitVec 7
  deriving DecidableEq, Repr

/-- Second word X-H. -/
structure XH where
  g : Guard
  ks : BitVec 7
  deriving DecidableEq, Repr

/-- Second word X-Q. -/
structure XQ where
  g : Guard
  rnd : BitVec 3
  k : BitVec 7
  t2 : BitVec 6
  share : Bool
  btype : BitVec 3
  deriving DecidableEq, Repr

/-- Second word X-D. -/
structure XD where
  m : BitVec 5
  l : BitVec 7
  deriving DecidableEq, Repr

/-- What another module asks of this one (R395): a read of `n` bytes, a write, an atomic of Table 5.5, an MX line with its
sideband (R270), or an operation at the home of a queue (R155 to R159) or of a barrier object (Table 6.4). -/
inductive RemoteOp where
  | read (n : Nat)
  | write (data : List Byte)
  | atomic (sub size : Nat) (operand : DWord)
  | cas (size : Nat) (expected new : DWord)
  | readLine
  | writeLine (payload side : List Byte)
  /-- The elements or the count of an enqueue or a dequeue, its thread-level bit, its try bit and the bytes of a span. -/
  | enqueue (data : List (List Byte)) (thr try_ : Bool)
  | dequeue (n : Nat) (thr try_ : Bool) (span : Nat)
  | queueInit (base shape : DWord)
  | arrive (count : Nat)
  | addBytes (n : Int)
  | barrierInit (cfg : DWord)
  | barrierWait (phase : Nat)
  deriving DecidableEq, Repr

/-- A request of another module (R395, R397): source module, request identifier, domain group of the source
compartment, the root of the page tables of its context (R407), fabric physical address, operation. -/
structure RemoteReq where
  src : Nat
  ident : Nat
  group : Nat
  root : DWord
  pa : DWord
  op : RemoteOp
  deriving DecidableEq, Repr

/-- The head of a management command (R392): the connection that carries it, and bytes 0 to 23 of its element: opcode,
zero, tag, reply address, reply rkey, compartment. -/
structure MgmtHdr where
  conn : Nat
  opcode : BitVec 16
  zero : BitVec 16
  tag : BitVec 32
  replyAddr : DWord
  replyRkey : BitVec 32
  cmp : Nat
  deriving DecidableEq, Repr

/-- The head of an RDMA operation of a host (R387): the connection that carries it, and the rkey that names its target. -/
structure RdmaHdr where
  conn : Nat
  rkey : Nat
  deriving DecidableEq, Repr

/-- The operands of QUEUE-SET (Table 18.3). -/
inductive QueueSetArg where
  | faultQueue (block : DWord) (ctx : BitVec 16)
  | eventQueue (block : DWord) (ctx : BitVec 16)
  | launchQueue (index : Nat) (block table : DWord) (entries : Nat) (supervisor : Bool) (ctx : BitVec 16)
  deriving DecidableEq, Repr

/-- One constructor for each row of the opcode table. -/
inductive Instr where
  /-- CLAUSE_DECODE R204: the warp that issues next fetches and decodes its clause. -/
  | clauseDecode
  /-- IADD R235: Integer add, D := A + B. -/
  | iadd (f : FmtA) (x : Option XR)
  /-- ISUB R235: Integer subtract, D := A - B. -/
  | isub (f : FmtA) (x : Option XR)
  /-- IMUL R235: Low N bits of the integer product. -/
  | imul (f : FmtA) (x : Option XR)
  /-- IMULH R235: High N bits of the signed 2N-bit product. -/
  | imulh (f : FmtA) (x : Option XR)
  /-- IMULHU R235: High N bits of the unsigned 2N-bit product. -/
  | imulhu (f : FmtA) (x : Option XR)
  /-- IMAD R235: Low N bits of A times B plus C; always two words. -/
  | imad (f : FmtA) (x : XR)
  /-- IADD64 R235: 64-bit add on v pairs, or iadd in U mode. -/
  | iadd64 (f : FmtA) (x : Option XR)
  /-- IMIN R235: Signed minimum. -/
  | imin (f : FmtA) (x : Option XR)
  /-- IMAX R235: Signed maximum. -/
  | imax (f : FmtA) (x : Option XR)
  /-- UMIN R235: Unsigned minimum. -/
  | umin (f : FmtA) (x : Option XR)
  /-- UMAX R235: Unsigned maximum. -/
  | umax (f : FmtA) (x : Option XR)
  /-- AND R235: Bitwise and. -/
  | andR (f : FmtA) (x : Option XR)
  /-- OR R235: Bitwise or. -/
  | orR (f : FmtA) (x : Option XR)
  /-- XOR R235: Bitwise exclusive or. -/
  | xorR (f : FmtA) (x : Option XR)
  /-- ANDN R235: A and not B. -/
  | andn (f : FmtA) (x : Option XR)
  /-- SHL R235: Shift left by B mod N. -/
  | shl (f : FmtA) (x : Option XR)
  /-- SHR R235: Logical shift right by B mod N. -/
  | shr (f : FmtA) (x : Option XR)
  /-- SAR R235: Arithmetic shift right by B mod N. -/
  | sar (f : FmtA) (x : Option XR)
  /-- ROTL R235: Rotate left by B mod N. -/
  | rotl (f : FmtA) (x : Option XR)
  /-- LEA R235: 64-bit address A plus sign-extended B shifted by s; always two words. -/
  | lea (f : FmtA) (x : XR)
  /-- IADDI R236: Add a sign-extended immediate. -/
  | iaddi (f : FmtI) (x : Option (BitVec 32))
  /-- ANDI R236: And with a zero-extended immediate. -/
  | andi (f : FmtI) (x : Option (BitVec 32))
  /-- ORI R236: Or with a zero-extended immediate. -/
  | ori (f : FmtI) (x : Option (BitVec 32))
  /-- XORI R236: Exclusive or with a zero-extended immediate. -/
  | xori (f : FmtI) (x : Option (BitVec 32))
  /-- SHLI R236: Shift left by an immediate. -/
  | shli (f : FmtI)
  /-- SHRI R236: Logical shift right by an immediate. -/
  | shri (f : FmtI)
  /-- SARI R236: Arithmetic shift right by an immediate. -/
  | sari (f : FmtI)
  /-- MOVI R236: Move an immediate into the destination. -/
  | movi (f : FmtI) (x : Option (BitVec 32))
  /-- MOV R236: Move source b, permuted or from a k register, into the destination. -/
  | mov (f : FmtA) (x : Option XR)
  /-- BFX R236: Extract a bit field. -/
  | bfx (f : FmtI)
  /-- BFI R236: Insert a bit field into the destination. -/
  | bfi (f : FmtI)
  /-- CLZ R237: Count leading zero bits. -/
  | clz (f : FmtA) (x : Option XR)
  /-- POPC R237: Count one bits. -/
  | popc (f : FmtA) (x : Option XR)
  /-- BREV R237: Reverse the bits. -/
  | brev (f : FmtA) (x : Option XR)
  /-- IABS R237: Magnitude of a signed value. -/
  | iabs (f : FmtA) (x : Option XR)
  /-- NOT R237: Bitwise complement. -/
  | notR (f : FmtA) (x : Option XR)
  /-- SEXT8 R237: Sign-extend the low 8 bits. -/
  | sext8 (f : FmtA) (x : Option XR)
  /-- SEXT16 R237: Sign-extend the low 16 bits. -/
  | sext16 (f : FmtA) (x : Option XR)
  /-- ZEXT8 R237: Zero-extend the low 8 bits. -/
  | zext8 (f : FmtA) (x : Option XR)
  /-- ZEXT16 R237: Zero-extend the low 16 bits. -/
  | zext16 (f : FmtA) (x : Option XR)
  /-- FADD R238: FP32 add, rounded once. -/
  | fadd (f : FmtA) (x : Option XR)
  /-- FSUB R238: FP32 subtract, rounded once. -/
  | fsub (f : FmtA) (x : Option XR)
  /-- FMUL R238: FP32 multiply, rounded once. -/
  | fmul (f : FmtA) (x : Option XR)
  /-- FFMA R238: FP32 fused multiply-add with one rounding; always two words. -/
  | ffma (f : FmtA) (x : XR)
  /-- FMIN R239: FP32 minimum returning an operand's bit pattern. -/
  | fmin (f : FmtA) (x : Option XR)
  /-- FMAX R239: FP32 maximum returning an operand's bit pattern. -/
  | fmax (f : FmtA) (x : Option XR)
  /-- FDIV R238: FP32 divide, rounded once. -/
  | fdiv (f : FmtA) (x : Option XR)
  /-- FNEG R240: Invert the sign bit. -/
  | fneg (f : FmtA) (x : Option XR)
  /-- FABS R240: Clear the sign bit. -/
  | fabs (f : FmtA) (x : Option XR)
  /-- FRCP R240: Reciprocal rounded once. -/
  | frcp (f : FmtA) (x : Option XR)
  /-- FRSQRT R240: Reciprocal square root rounded once. -/
  | frsqrt (f : FmtA) (x : Option XR)
  /-- FSQRT R240: Square root rounded once. -/
  | fsqrt (f : FmtA) (x : Option XR)
  /-- FEXP2 R240: Power of two rounded once. -/
  | fexp2 (f : FmtA) (x : Option XR)
  /-- FLOG2 R240: Base-2 logarithm rounded once. -/
  | flog2 (f : FmtA) (x : Option XR)
  /-- FFLOOR R240: Largest integral value not above A. -/
  | ffloor (f : FmtA) (x : Option XR)
  /-- FCEIL R240: Smallest integral value not below A. -/
  | fceil (f : FmtA) (x : Option XR)
  /-- FTRUNC R240: Integral value toward zero. -/
  | ftrunc (f : FmtA) (x : Option XR)
  /-- FRINT R240: Integral value in the rounding mode. -/
  | frint (f : FmtA) (x : Option XR)
  /-- HADD2 R241: Packed BF16 or FP16 pair add. -/
  | hadd2 (f : FmtA) (x : XR)
  /-- HMUL2 R241: Packed BF16 or FP16 pair multiply. -/
  | hmul2 (f : FmtA) (x : XR)
  /-- HFMA2 R241: Packed BF16 or FP16 pair fused multiply-add. -/
  | hfma2 (f : FmtA) (x : XR)
  /-- CVT R242: Convert between types with rounding and saturation, stepping the generator under SR. -/
  | cvt (f : FmtA) (x : XT)
  /-- MXPACK R243: Pack FP32 registers into one MX register and its scales. -/
  | mxpack (f : FmtA) (x : XT)
  /-- MXUNPACK R244: Widen an MX register with its scales into FP32 registers. -/
  | mxunpack (f : FmtA) (x : XT)
  /-- SGET R245: Read eight scale bytes into a k register. -/
  | sget (f : FmtA) (x : XT)
  /-- SPUT R245: Write eight scale bytes from a k register. -/
  | sput (f : FmtA) (x : XT)
  /-- SMOV R245: Copy a scale register. -/
  | smov (f : FmtA) (x : XT)
  /-- SADD R245: Add a clamped offset to every scale byte. -/
  | sadd (f : FmtA) (x : XT)
  /-- SMAX R245: Bytewise maximum of two scale registers. -/
  | smax (f : FmtA) (x : XT)
  /-- SFILL R245: Fill every scale byte from a k register. -/
  | sfill (f : FmtA) (x : XT)
  /-- ICMP R246: Integer compare into a predicate, combined with a predicate. -/
  | icmp (f : FmtA) (x : XT)
  /-- FCMP R246: Floating-point compare into a predicate. -/
  | fcmp (f : FmtA) (x : XT)
  /-- PLOG R247: Logical operation on predicates. -/
  | plog (f : FmtA) (x : XT)
  /-- SEL R248: Select A or B by a predicate. -/
  | sel (f : FmtA) (x : XR)
  /-- PMOV_GET R249: Copy a predicate of every position into two k registers. -/
  | pmovGet (f : FmtA) (x : XT)
  /-- PMOV_PUT R249: Set a predicate of each executing thread from two k registers. -/
  | pmovPut (f : FmtA) (x : XT)
  /-- VOTE_ANY R250: Predicate true when any present position holds the predicate. -/
  | voteAny (f : FmtA) (x : XT)
  /-- VOTE_ALL R250: Predicate true when all present positions hold the predicate. -/
  | voteAll (f : FmtA) (x : XT)
  /-- VOTE_BALLOT R250: Bit mask of present positions holding the predicate into two k registers. -/
  | voteBallot (f : FmtA) (x : XT)
  /-- VOTE_COUNT R250: Count of present positions holding the predicate. -/
  | voteCount (f : FmtA) (x : XT)
  /-- SHFL R251: Read register a of the thread indexed by B. -/
  | shfl (f : FmtA) (x : Option XR)
  /-- BCAST R252: Broadcast register a of thread s. -/
  | bcast (f : FmtI)
  /-- REDUX R253: Reduce a source over present positions into a k register. -/
  | redux (f : FmtA) (x : XT)
  /-- SCAN R254: Inclusive or exclusive prefix over present positions. -/
  | scan (f : FmtA) (x : XT)
  /-- RDS R255: Read a special register. -/
  | rds (f : FmtI)
  /-- WRS_FFLAGS R256: Replace the warp's sticky flags after earlier flag-setting instructions complete. -/
  | wrsFflags (f : FmtI)
  /-- WRS_SRSEED R256: Set the quarter's generator state at the end of the clock, zero written as 1. -/
  | wrsSrseed (f : FmtI)
  /-- KGET R257: Copy a 64-bit k register into a v pair of every executing thread. -/
  | kget (f : FmtI)
  /-- WFIELD R258: Extract work-identifier field f from a value. -/
  | wfield (f : FmtI)
  /-- WFIELD_EXT R258: Read the extent of work-identifier field f. -/
  | wfieldExt (f : FmtI)
  /-- GGET R259: Read a block-uniform register, acquiring its last publication. -/
  | gget (f : FmtA) (x : XT)
  /-- GPUT R259: Write the owner's copy of a block-uniform register. -/
  | gput (f : FmtA) (x : XT)
  /-- GCLAIM R259: Take ownership of a block-uniform register, blocking while another warp owns it. -/
  | gclaim (f : FmtA) (x : XT)
  /-- GREL R259: Publish the owner's copy with release and give up ownership. -/
  | grel (f : FmtA) (x : XT)
  /-- LD R266: Global load with order and scope. -/
  | ld (f : FmtM) (x : Option XM)
  /-- ST R266: Global store with order and scope. -/
  | st (f : FmtM) (x : Option XM)
  /-- LDS R266: Scratchpad load. -/
  | lds (f : FmtM) (x : Option XM)
  /-- STS R266: Scratchpad store. -/
  | sts (f : FmtM) (x : Option XM)
  /-- LDP R266: Private-memory load. -/
  | ldp (f : FmtM) (x : Option XM)
  /-- STP R266: Private-memory store. -/
  | stp (f : FmtM) (x : Option XM)
  /-- LDX R268: Gather load from a k base plus shifted index. -/
  | ldx (f : FmtM) (x : XG)
  /-- STX R268: Scatter store to a k base plus shifted index. -/
  | stx (f : FmtM) (x : XG)
  /-- LDMX R269: Load four MX lines into a v register and its scales. -/
  | ldmx (f : FmtM) (x : Option XM)
  /-- STMX R269: Store an MX register and its scales as four lines. -/
  | stmx (f : FmtM) (x : Option XM)
  /-- ATOM R271: Atomic read-modify-write, combined per address and performed at the home. -/
  | atom (f : FmtM) (x : Option XM)
  /-- CAS R272: Compare-and-swap, threads at one address served as one operation. -/
  | cas (f : FmtM) (x : XM)
  /-- CHASE R273: Send one chase packet per thread to walk a pointer chain. -/
  | chase (f : FmtM) (x : XH)
  /-- FENCE R274: Memory fence at an order and scope, retiring after stores are acknowledged. -/
  | fence (f : FmtM)
  /-- PF R275: Prefetch lines into the L2 and L1. -/
  | pf (f : FmtM) (x : Option XM)
  /-- IPF R276: Prefetch consecutive lines into the instruction cache. -/
  | ipf (f : FmtM) (x : Option XM)
  /-- CWB R277: Write back, invalidate or both on loose or private L1 lines. -/
  | cwb (f : FmtM) (x : Option XM)
  /-- CMDW R282: Write a command-window slot from a k register. -/
  | cmdw (f : FmtE)
  /-- GO R283: Snapshot the command window, start a copy command and write its future handle. -/
  | go (f : FmtE)
  /-- F_TEST R284: Return a future's status. -/
  | fTest (f : FmtE)
  /-- F_WAIT R284: Wait for a future to leave pending or the bound to expire. -/
  | fWait (f : FmtE) (x : BitVec 32)
  /-- F_CANCEL R170: Cancel a command not yet taken by its engine. -/
  | fCancel (f : FmtE)
  /-- Q_INIT R285: Initialise a queue control block at its home. -/
  | qInit (f : FmtE)
  /-- Q_ENQ R287: Enqueue one or per-thread elements, blocking or try. -/
  | qEnq (f : FmtE)
  /-- Q_DEQ R287: Dequeue one or per-thread elements, blocking or try. -/
  | qDeq (f : FmtE)
  /-- Q_INFO R288: Read a queue's head, tail, counts and flags without a check. -/
  | qInfo (f : FmtE)
  /-- BAR_INIT R289: Initialise a barrier object. -/
  | barInit (f : FmtE)
  /-- BAR_ARV R290: Arrive at a barrier with a count. -/
  | barArv (f : FmtE)
  /-- BAR_EXP R290: Add expected bytes to a barrier. -/
  | barExp (f : FmtE)
  /-- BAR_WAIT R291: Wait for a barrier's phase to differ from v, with a bound. -/
  | barWait (f : FmtE) (x : BitVec 32)
  /-- BAR_TEST R291: Read a barrier object at one moment. -/
  | barTest (f : FmtE)
  /-- BAR_BLK R292: Arrive at the block barrier and block until its phase completes. -/
  | barBlk (f : FmtE)
  /-- BAR_CMP R290: Subtract completed bytes from a barrier. -/
  | barCmp (f : FmtE)
  /-- MMA R297: One matrix step into an accumulator tile. -/
  | mma (f : FmtQ) (x : Option XQ)
  /-- ACCZ R298: Zero an accumulator tile. -/
  | accz (f : FmtQ)
  /-- ACCLD R298: Load a tile from eight v registers. -/
  | accld (f : FmtQ)
  /-- ACCST R298: Store a tile into eight v registers. -/
  | accst (f : FmtQ)
  /-- MRQ R299: Requantise a tile's rows into MX blocks in registers or lines. -/
  | mrq (f : FmtQ) (x : Option XQ)
  /-- MGD R302: Guidance rendezvous of the twins, extrapolating the leader's tile. -/
  | mgd (f : FmtQ) (x : XQ)
  /-- MACC R304: Add one tile into another. -/
  | macc (f : FmtQ) (x : XQ)
  /-- MSCL R304: Scale a tile by an FP32 factor. -/
  | mscl (f : FmtQ) (x : XQ)
  /-- MPLANE R301: Write a register group as a plane tile in scratchpad. -/
  | mplane (f : FmtQ)
  /-- BRA R307: Uniform conditional branch, trapping when divergent. -/
  | bra (f : FmtC)
  /-- BRD R308: Divergent branch shedding the minority as spawn records. -/
  | brd (f : FmtC) (x : XD)
  /-- JMP R307: Uniform jump. -/
  | jmp (f : FmtC)
  /-- CALL R307: Write the next clause to k127 and jump. -/
  | call (f : FmtC)
  /-- CALLI R309: Indirect call dividing threads by target. -/
  | calli (f : FmtC) (x : XD)
  /-- RET R307: Transfer to the address in a k register. -/
  | ret (f : FmtC)
  /-- RETI R310: Return through each thread's link pair, dividing by target. -/
  | reti (f : FmtC)
  /-- JOIN R311: Close a divergent region, ending a partial warp or waiting in a twin. -/
  | join (f : FmtC) (x : XD)
  /-- EXIT R312: End each executing thread and clear its position. -/
  | exit (f : FmtC)
  /-- YIELD R313: Yield to other ready warps as the Y bit does. -/
  | yield (f : FmtC)
  /-- ACQUIRE R313: Request the full allotment and block until granted. -/
  | acquire (f : FmtC)
  /-- TRAP R314: Raise the software trap with a 12-bit code. -/
  | trap (f : FmtC)
  /-- BRK R314: Raise the breakpoint trap. -/
  | brk (f : FmtC)
  /-- NOP R313: No operation. -/
  | nop (f : FmtC)
  /-- RDSP R316: Read a privileged register into a k register. -/
  | rdsp (f : FmtS)
  /-- WRSP R316: Write a privileged register that has no behaviour of its own. -/
  | wrsp (f : FmtS)
  /-- WRSP_XPC R331: Write xpc with index 0, discarding saved latches and chase replay records. -/
  | wrspXpc (f : FmtS)
  /-- WRSP_XDELEG R337: Write the delegation mask, only its delegable bits. -/
  | wrspXdeleg (f : FmtS)
  /-- ERET R317: Resume the interrupted warp in user mode as its cause gives. -/
  | eret (f : FmtS)
  /-- TLBI R318: Discard cached translations of a page, context or compartment. -/
  | tlbi (f : FmtS)
  /-- CFL R319: Write back or invalidate L1 or L2 lines. -/
  | cfl (f : FmtS)
  /-- QDRAIN R320: Quiesce or break a queue at its home and unpin its line. -/
  | qdrain (f : FmtS)
  /-- CTXS R379: Pre-empt a cluster and write its save area. -/
  | ctxs (f : FmtS)
  /-- CTXR R384: Check a save area, place and restore the cluster, and reissue its replay records. -/
  | ctxr (f : FmtS)
  /-- HALT R322: Kill the issuing warp or fence a context. -/
  | halt (f : FmtS)
  /-- YIELD_EXPIRY R207: 64 clocks after a yield the warp may start its next clause. -/
  | yieldExpiry (w : Nat)
  /-- RESUME_ELEMENT R375: the part takes one element of a compartment's resume queue. -/
  | resumeElement (cmp : Nat)
  /-- LOAD_RETURN R75: a read return lands. -/
  | loadReturn (id : Nat)
  /-- STORE_ACK R137: the home acknowledges one store of a group. -/
  | storeAck (id : Nat)
  /-- CHASE_STEP R196: an owner performs one step of thread t's packet. -/
  | chaseStep (id t : Nat)
  /-- CHASE_REPLY R198, R199: every packet of a chase has ended. -/
  | chaseReply (id : Nat)
  /-- PAGE_WALK R370: a walker completes a walk for a core's TLB. -/
  | pageWalk (core ctx : Nat) (va : DWord)
  /-- COPY_TAKE R174: an engine takes a command and reads its table. -/
  | copyTake (id : Nat)
  /-- SERIAL_COMMAND_START R173: a serial command may make its first access. -/
  | serialCommandStart (id : Nat)
  /-- COPY_COMPLETE R140: a command performs its accesses and ends. -/
  | copyComplete (id : Nat)
  /-- MATRIX_ENGINE_START R295: the engine of a quarter starts its next instruction. -/
  | matrixEngineStart (q : Nat)
  /-- MATRIX_ENGINE_COMPLETE R293: the running matrix instruction completes. -/
  | matrixEngineComplete (q : Nat)
  /-- MGD_RENDEZVOUS R193: both twins' mgd have reached the engine. -/
  | mgdRendezvous (leader : Nat)
  /-- QUEUE_PUBLISH R155: a reserved element is written and made visible. -/
  | queuePublish (home id : Nat)
  /-- QUEUE_DELIVER R156: a taken element is delivered and its slot freed. -/
  | queueDeliver (home id : Nat)
  /-- QUEUE_WAITER_SERVE R158: the home serves the oldest waiter of a direction. -/
  | queueWaiterServe (home : Nat) (enq : Bool)
  /-- QUEUE_INIT_SERVE R159: a waiting q.init writes the block. -/
  | queueInitServe (home : Nat)
  /-- BAR_WAIT_TIMEOUT R165: a barrier wait's bound expires. -/
  | barWaitTimeout (w : Nat)
  /-- F_WAIT_TIMEOUT R284: a future wait's bound expires. -/
  | fWaitTimeout (w : Nat)
  /-- WARP_FORMATION R56, R57: the warp former forms the group of record slot rec in a warp slot. -/
  | warpFormation (block rec slot : Nat)
  /-- GROUP_WAIT_EXPIRY R56: a group whose oldest record waited 2,048 clocks is formed. -/
  | groupWaitExpiry (block rec slot : Nat)
  /-- ACQUIRE_GRANT R39: a quarter grants its oldest acquire. -/
  | acquireGrant (q : Nat)
  /-- ADMISSION_THROTTLE R41: the admission throttle of a core starts or ends. -/
  | admissionThrottle (core : Nat)
  /-- GCLAIM_GRANT R44: the oldest queued gclaim takes an unowned register. -/
  | gclaimGrant (block g : Nat)
  /-- ALLOTMENT_RETURN R84: an ended warp's slot and allotment return. -/
  | allotmentReturn (w : Nat)
  /-- LAUNCH_DEQUEUE R350: the distributor dequeues a launch header. -/
  | launchDequeue (cmp q : Nat)
  /-- DEPENDENCE_RELEASE R351: a launch's dependence barrier has changed phase. -/
  | dependenceRelease (launch : Nat)
  /-- CLUSTER_PLACEMENT R354: the distributor places a launch's next cluster on the named cores. -/
  | clusterPlacement (launch : Nat) (cores : List Nat) (rot : Nat)
  /-- RESOURCE_REPORT R357: a base die reports its cores' free resources. -/
  | resourceReport (die : Nat)
  /-- LAUNCH_COMPLETE R358: a launch completes. -/
  | launchComplete (launch : Nat)
  /-- PRIORITY_BOOST R361: a warp that started nothing for 768 clocks is boosted. -/
  | priorityBoost (w : Nat)
  /-- SCORE_DECAY R362: the lost-locality scores of a quarter are halved. -/
  | scoreDecay (q : Nat)
  /-- SOFT_ERROR_CORRECTION R385: a soft error of a unit is corrected and counted. -/
  | softErrorCorrection (cmp unit : Nat)
  /-- CORRECTED_ERROR R385: a corrected-error record is posted. -/
  | correctedError (cmp unit : Nat)
  /-- LINK_DOWN R398: a UCIe link fails beyond repair. -/
  | linkDown (die link : Nat)
  /-- PLANE_DEAD R397: a plane has lost every port. -/
  | planeDead (plane : Nat)
  /-- REMOTE_REQUEST R395, R397: a request of another module reaches this one. -/
  | remoteRequest (r : RemoteReq)
  /-- RDMA_WRITE R387, R388: an RDMA WRITE posted on a connection. -/
  | rdmaWrite (h : RdmaHdr) (va : DWord) (data : List Byte)
  /-- RDMA_READ R387, R388: an RDMA READ posted on a connection. -/
  | rdmaRead (h : RdmaHdr) (va : DWord) (len : Nat)
  /-- HOST_WINDOW_WRITE R160: an RDMA WRITE to a host window posted on a connection. -/
  | hostWindowWrite (h : RdmaHdr) (data : List Byte)
  /-- SYNC_SUMMARY R394. -/
  | syncSummary (h : MgmtHdr)
  /-- COMPARTMENT_SET R339: sets a compartment's groups. -/
  | compartmentSet (h : MgmtHdr) (coreGroups : BitVec 48) (stackGroups : BitVec 8)
  /-- CONTEXT_CREATE R333. -/
  | contextCreate (h : MgmtHdr) (ctx : BitVec 16) (ptroot xvec : DWord)
  /-- CONTEXT_DESTROY R386: fences a context and frees its entries and tokens. -/
  | contextDestroy (h : MgmtHdr) (ctx : BitVec 16)
  /-- QUEUE_SET R349, R407, R408. -/
  | queueSet (h : MgmtHdr) (what : QueueSetArg)
  /-- WINDOW_MAP R387. -/
  | windowMap (h : MgmtHdr) (block : DWord) (ctx : BitVec 16)
  /-- REGION_REGISTER R387, R389. -/
  | regionRegister (h : MgmtHdr) (ctx : BitVec 16) (base : DWord) (len : Nat) (rd wr side : Bool)
  /-- THROTTLE_SET R363: sixteen entries of 1 to 32. -/
  | throttleSet (h : MgmtHdr) (table : List Nat)
  /-- DOMAIN_SET R395. -/
  | domainSet (h : MgmtHdr) (own group : Nat) (ranges : List (Nat × Nat))
  /-- QUIESCE R397. -/
  | quiesce (h : MgmtHdr)
  /-- PLANE_MAP R396. -/
  | planeMap (h : MgmtHdr) (entries : List Nat)
  /-- RELEASE R397: ends the quiescence. -/
  | release (h : MgmtHdr)
  /-- ATTEST R401, mode 0. -/
  | attest (h : MgmtHdr) (nonce : List Byte)
  /-- ATTEST_CERTIFICATE_CHAIN R401, mode 1. -/
  | attestCertificateChain (h : MgmtHdr)
  /-- FIRMWARE_WRITE R399: stages part of an image. -/
  | firmwareWrite (h : MgmtHdr) (off : Nat) (data : List Byte)
  /-- FIRMWARE_COMMIT R399: verifies the staged image and writes it to flash. -/
  | firmwareCommit (h : MgmtHdr)
  /-- RESET R399: the boot ROM verifies and runs firmware, or enters recovery. -/
  | reset
  /-- THERMAL_LIMIT R402: the clock is lowered. -/
  | thermalLimit
  /-- THERMAL_RESTORE R402: the clock is restored. -/
  | thermalRestore
  /-- CRITICAL_TEMPERATURE R402: issue stops in every quarter. -/
  | criticalTemperature
  /-- POWER_REMOVAL R402: all state is lost. -/
  | powerRemoval
  /-- MANAGEMENT_BAD_OPCODE R392: a command with an opcode that no command defines. -/
  | managementBadOpcode (h : MgmtHdr) (operands : List Byte)
  deriving DecidableEq, Repr

end Sys2Proof
end

