-- ==== Sys2Proof/Config.lean ====
section
/-! DEFINITION. What an implementation fixes and the free values: opaque constants, so that no proof knows them.
Log 2 (free values), log 17 (handles and tokens), log 18 (signatures and digests). -/

namespace Sys2Proof.Config

/-- The bytes 40 to 47 of a queue control block, which the part writes and whose reading is not defined
(Table 6.1); applied to a counter of the state. DESIGN CHOICE, log 2. -/
opaque queueHardware : Nat → DWord

/-- The owner's copy of a g register between its `gclaim` and the owner's first `gput` (Table 2.2 gives no value);
applied to a counter of the state. DESIGN CHOICE, log 2. -/
opaque unputCopy : Nat → DWord

/-- A byte that the warp former finds where a record that the program wrote over points beyond the spawn region (R54 says
that it uses what it reads there); applied to a counter of the state and the byte's place. DESIGN CHOICE, log 2. -/
opaque strayByte : Nat → Nat → Byte

/-- A byte of a scratchpad line with an uncorrectable error as the matrix engine reads it (R385 names no result);
applied to a counter of the state and the byte's key. DESIGN CHOICE, log 2. -/
opaque failedByte : Nat → Nat → Byte

/-- The check field of a future handle (Table 6.5, R169), for a context, an engine token and a sequence.
DESIGN CHOICE, log 17. -/
opaque handleCheck : Nat → BitVec 16 → BitVec 32 → BitVec 16

/-- The engine token that the part assigns to a copy engine within a context (R169): context, core, engine.
DESIGN CHOICE, log 17. -/
opaque engineToken : Nat → Nat → Nat → BitVec 16

/-- The check field of a resume token (R374): compartment, context, sequence. DESIGN CHOICE, log 17. -/
opaque resumeCheck : Nat → BitVec 16 → BitVec 32 → BitVec 16

/-- The check field of a cluster token (R378): compartment, context, sequence. DESIGN CHOICE, log 17. -/
opaque clusterCheck : Nat → BitVec 16 → BitVec 32 → BitVec 16

/-- Whether the signature that a firmware image carries verifies over a digest against the vendor key in fuses (R399).
DESIGN CHOICE, log 18. -/
opaque imageVerifies : List Byte → List Byte → Bool

/-- The security version that a firmware image carries (R399). DESIGN CHOICE, log 18. -/
opaque imageVersion : List Byte → Nat

/-- The management peers of a firmware image's configuration (R393, R399). DESIGN CHOICE, log 18. -/
opaque imagePeers : List Byte → List Nat

/-- The signature of the device identity key over a digest (R401). DESIGN CHOICE, log 18. -/
opaque identitySignature : List Byte → List Byte

/-- The sixteen bytes of the serial number (R401). DESIGN CHOICE, log 18. -/
opaque serialNumber : List Byte

/-- The command that the operand bytes 24 to 255 of a management element stand for (Table 18.3 names the operands of a command
and gives no places for them): the whole element. DESIGN CHOICE, log 18. -/
opaque commandOf : List Byte → Option Instr

/-- The bytes of the firmware configuration and of the compartment table whose digest a report holds (R401 gives no
layout): the image, the core groups and stack groups of the eight compartments. DESIGN CHOICE, log 18. -/
opaque configText : List Byte → List Nat → List Byte

/-- The base die to which the firmware of an image assigns each of the 48 core groups (R18). DESIGN CHOICE, log 7. -/
opaque groupDies : List Byte → List Nat

/-- The certificate chain of the identity key (R401). DESIGN CHOICE, log 18. -/
opaque certificateChain : List Byte

/-- The state of a firmware-trained stack group: true when it trained (R399). DESIGN CHOICE, log 18. -/
opaque stacksTrained : List Byte → BitVec 8

/-- The rkey that management issues for its n-th region or window (R387). DESIGN CHOICE, log 18. -/
opaque rkeyOf : Nat → Nat

/-- The base die that link `l` of base die `d` joins to it (R398 numbers links and does not say which pair each one
joins). DESIGN CHOICE, log 18. -/
opaque linkPeer : Nat → Nat → Nat

/-- The domain group of the compartment of another module that owns a stack there (R395): module, stack.
DESIGN CHOICE, log 18. -/
opaque remoteGroup : Nat → Nat → Nat

/-- Threads of a warp. -/
abbrev lanes : Nat := 128

/-- Warp-registers of a quarter (R11). -/
abbrev quarterRegs : Nat := 1024

/-- Accumulator tiles of a quarter (R11). -/
abbrev quarterTiles : Nat := 64

/-- Warp slots of a quarter (R11). -/
abbrev quarterSlots : Nat := 32

/-- Lines of a core's L1: 256 KiB (R11). -/
abbrev l1Lines : Nat := 2048

/-- Lines of the L2 slice of a base die: 256 MiB (R16). -/
abbrev sliceLines : Nat := 2097152

/-- Cores of the part (R16). -/
abbrev cores : Nat := 192

end Sys2Proof.Config
end

