-- ==== Sys2Proof/WellFormed.lean ====
section
/-! DEFINITION. When an instruction is well-formed: the fields that its format, its opcode map and its entry allow
(R212, R214 to R218, R231, R232 and the tables of each chapter). What fails a check here is an illegal instruction
(0x01). Events of the table have no encoding and are always well-formed. -/

namespace Sys2Proof

/-- Why a word or an instruction is not one (R218), by name. -/
inductive IllFormed where
  /-- An opcode that no row of the class's map assigns (R217). -/
  | unassigned
  /-- A long bit that disagrees with R215. -/
  | longBit
  /-- A must-be-zero field that is not zero (R214, R232). -/
  | zeroField
  /-- U set or clear where the instruction forbids it (R231, R260). -/
  | uniform
  /-- NW on an instruction that is not latching (R80). -/
  | latch
  /-- A permute that R85 does not allow. -/
  | permute
  /-- A reserved type, size, rounding, scope, shift, L or M code (R218). -/
  | reserved
  /-- A sub, sel or operation value the instruction does not define (R218). -/
  | subOperation
  /-- An order that Table 5.4 forbids (R129). -/
  | order
  /-- A scaled with an unscaled matrix type (R189). -/
  | mixedTypes
  /-- A guard where none is allowed (R212). -/
  | guarded
  deriving DecidableEq, Repr

/-- One check: nothing when it holds, else its name. -/
def chk (b : Bool) (e : IllFormed) : List IllFormed := if b then [] else [e]

/-- The defaults of an absent X-R word (Table 8.9). -/
def XR.default : XR := ⟨⟨false, 0, false⟩, 0, false, false, 0, 0, 0⟩

/-- The X-R word of an instruction of one or two words (R215). -/
def xr (x : Option XR) : XR := x.getD XR.default

/-- The X-Q word of a MAT instruction of one or two words (R215, Table 8.9). -/
def xq (f : FmtQ) (x : Option XQ) : XQ := x.getD ⟨⟨false, 0, false⟩, 0, 0, 0, false, f.type⟩

/-- Table 3.5: the kinds and parameters of a long permute. -/
def okPerm (p : BitVec 8) : Bool :=
  match p.toNat / 16, p.toNat % 16 with
  | 0, n => n == 0
  | 1, _ => true
  | 2, _ => true
  | 3, _ => true
  | 4, n => n ≤ 3
  | 5, n => 1 ≤ n && n ≤ 7
  | 6, n => n ≤ 7
  | 7, n => n ≤ 7
  | _, _ => false

/-- Format A (Table 8.2, R80, R231): U, NW, and the short permute in U mode. -/
def aForm (uOk latchOk : Bool) (f : FmtA) : List IllFormed :=
  chk (uOk || !f.u) .uniform ++ chk (!f.nw || (latchOk && !f.u)) .latch ++ chk (!f.nw || f.d == 0) .zeroField
    ++ chk (!f.u || f.pb == 0) .permute

/-- Format I (Table 8.3). -/
def iForm (uOk latchOk : Bool) (f : FmtI) : List IllFormed :=
  chk (uOk || !f.u) .uniform ++ chk (!f.nw || (latchOk && !f.u)) .latch ++ chk (!f.nw || f.d == 0) .zeroField

/-- X-R (Table 8.10, R85): `bSrc` when b is a source, `cSrc` when c is used, `m2ok` the m2 values allowed. -/
def rForm (bSrc cSrc : Bool) (m2ok : BitVec 2 → Bool) (f : FmtA) (x : XR) : List IllFormed :=
  chk (m2ok x.m2) .reserved ++ chk (okPerm x.pa && okPerm x.pb) .permute
    ++ chk (!f.u || (x.pa == 0 && x.pb == 0 && !x.kb && !x.kc)) .uniform
    ++ chk (x.pb == 0 || f.pb == 0) .permute
    ++ chk (bSrc || (f.pb == 0 && x.pb == 0 && !x.kb)) .zeroField
    ++ chk (!x.kb || (f.pb == 0 && x.pb == 0)) .permute
    ++ chk (cSrc || (x.c == 0 && !x.kc)) .zeroField

/-- The reserved codes of an X-T word (R95, R101). -/
def tForm (_f : FmtA) (x : XT) : List IllFormed :=
  chk (x.rnd.toNat ≤ 4) .reserved ++ chk (x.t1 != 15 && x.t2 != 15) .reserved

/-- An X-T word that carries only sel. -/
def plainT (x : XT) : List IllFormed :=
  chk (x.c == 0 && !x.sat && x.rnd == 0 && x.t1 == 0 && x.t2 == 0) .zeroField

/-- Source b and its permute are not used. -/
def bZero (f : FmtA) : List IllFormed := chk (f.b == 0 && f.pb == 0) .zeroField

/-- The MX element types of Table 4.6. -/
def mxType (t : BitVec 4) : Bool := 5 ≤ t.toNat && t.toNat ≤ 10

/-- The types of `redux` and `scan` (R253). -/
def redType (t : BitVec 4) : Bool := t == 0 || t == 1 || t == 2 || t == 14

/-- The scale-register operations (R245). -/
def sclForm (f : FmtA) (x : XT) (sel : Nat) : List IllFormed :=
  chk (x.sel.toNat == sel) .subOperation ++ chk (f.pb == 0 && !x.sat && x.rnd == 0 && x.t1 == 0 && x.t2 == 0) .zeroField

/-- Format M (Table 10.1): U and sx. -/
def mForm (uOk : Bool → Bool) (load : Bool) (f : FmtM) : List IllFormed :=
  chk (uOk f.u) .uniform ++ chk (!f.sx || (load && f.size.toNat < 2)) .zeroField

/-- Table 5.4: the orders of loads. -/
def loadOrder (o : BitVec 3) : Bool := o == 0 || o == 1 || o == 2 || o == 5

/-- Table 5.4: the orders of stores. -/
def storeOrder (o : BitVec 3) : Bool := o == 0 || o == 1 || o == 3 || o == 5

/-- Table 5.4: the orders of `atom` and `cas`. -/
def atomOrder (o : BitVec 3) : Bool := o.toNat ≤ 5

/-- Order and scope of an X-M word (R129). -/
def mOrder (ok : BitVec 3 → Bool) : Option XM → List IllFormed
  | none => []
  | some x => chk (ok x.order) .order ++ chk (x.scope != 7) .reserved

/-- An X-M word whose order and scope must be zero (Table 10.1). -/
def mPlain : Option XM → List IllFormed
  | none => []
  | some x => chk (x.order == 0 && x.scope == 0) .zeroField

/-- Order, scope and shift of an X-G word (R129, Table 8.10). -/
def gOrder (ok : BitVec 3 → Bool) (x : XG) : List IllFormed :=
  chk (ok x.order) .order ++ chk (x.scope != 7) .reserved ++ chk (x.shift.toNat ≤ 4) .reserved

/-- The matrix types that carry scales (R96). -/
def scaledType (t : BitVec 3) : Bool := t.toNat ≤ 5

/-- X-Q: no guard (R212) and a defined rounding. The spec names GE alone; GN and GP may be anything while GE is 0 (DESIGN
CHOICE, log 56). -/
def qWord (x : XQ) : List IllFormed := chk (!x.g.ge) .guarded ++ chk (x.rnd.toNat ≤ 4) .reserved

/-- The predicate fields of `bra` and `brd` (Table 8.7). -/
def cPred (f : FmtC) : List IllFormed := chk (f.p || (!f.n && f.pred == 0)) .zeroField

/-- X-D: the limits of L and M (Table 8.10). -/
def dWord (x : XD) : List IllFormed := chk (x.m.toNat ≤ 16 && x.l.toNat ≤ 111) .reserved

/-- Every check that an instruction fails. -/
def Instr.problems : Instr → List IllFormed
  | .iadd f x =>
    aForm true true f ++ rForm true false (fun m => m == 0) f (xr x)
  | .isub f x =>
    aForm true true f ++ rForm true false (fun m => m == 0) f (xr x)
  | .imul f x =>
    aForm true true f ++ rForm true false (fun m => m == 0) f (xr x)
  | .imulh f x =>
    aForm true true f ++ rForm true false (fun m => m == 0) f (xr x)
  | .imulhu f x =>
    aForm true true f ++ rForm true false (fun m => m == 0) f (xr x)
  | .imad f x =>
    aForm true true f ++ rForm true true (fun m => m == 0) f x
  | .iadd64 f x =>
    aForm true true f ++ rForm true false (fun m => m == 0) f (xr x)
  | .imin f x =>
    aForm true true f ++ rForm true false (fun m => m == 0) f (xr x)
  | .imax f x =>
    aForm true true f ++ rForm true false (fun m => m == 0) f (xr x)
  | .umin f x =>
    aForm true true f ++ rForm true false (fun m => m == 0) f (xr x)
  | .umax f x =>
    aForm true true f ++ rForm true false (fun m => m == 0) f (xr x)
  | .andR f x =>
    aForm true true f ++ rForm true false (fun m => m == 0) f (xr x)
  | .orR f x =>
    aForm true true f ++ rForm true false (fun m => m == 0) f (xr x)
  | .xorR f x =>
    aForm true true f ++ rForm true false (fun m => m == 0) f (xr x)
  | .andn f x =>
    aForm true true f ++ rForm true false (fun m => m == 0) f (xr x)
  | .shl f x =>
    aForm true true f ++ rForm true false (fun m => m == 0) f (xr x)
  | .shr f x =>
    aForm true true f ++ rForm true false (fun m => m == 0) f (xr x)
  | .sar f x =>
    aForm true true f ++ rForm true false (fun m => m == 0) f (xr x)
  | .rotl f x =>
    aForm true true f ++ rForm true false (fun m => m == 0) f (xr x)
  | .lea f x =>
    aForm true true f ++ rForm true false (fun _ => true) f x
  | .iaddi f x =>
    iForm true true f ++ chk (x.isNone || f.imm == 0) .zeroField
  | .andi f x =>
    iForm true true f ++ chk (x.isNone || f.imm == 0) .zeroField
  | .ori f x =>
    iForm true true f ++ chk (x.isNone || f.imm == 0) .zeroField
  | .xori f x =>
    iForm true true f ++ chk (x.isNone || f.imm == 0) .zeroField
  | .shli f =>
    iForm true true f ++ chk (f.imm.toNat < (if f.u then 64 else 32)) .zeroField
  | .shri f =>
    iForm true true f ++ chk (f.imm.toNat < (if f.u then 64 else 32)) .zeroField
  | .sari f =>
    iForm true true f ++ chk (f.imm.toNat < (if f.u then 64 else 32)) .zeroField
  | .movi f x =>
    iForm true true f ++ chk (x.isNone || f.imm == 0) .zeroField ++ chk (f.a == 0) .zeroField
  | .mov f x =>
    aForm true true f ++ rForm true false (fun m => m == 0) f (xr x) ++ chk (f.a == 0 && (xr x).pa == 0) .zeroField
  | .bfx f =>
    iForm true true f
  | .bfi f =>
    iForm true true f
  | .clz f x =>
    aForm true true f ++ rForm false false (fun m => m == 0) f (xr x) ++ chk (f.b == 0) .subOperation
  | .popc f x =>
    aForm true true f ++ rForm false false (fun m => m == 0) f (xr x) ++ chk (f.b == 1) .subOperation
  | .brev f x =>
    aForm true true f ++ rForm false false (fun m => m == 0) f (xr x) ++ chk (f.b == 2) .subOperation
  | .iabs f x =>
    aForm true true f ++ rForm false false (fun m => m == 0) f (xr x) ++ chk (f.b == 3) .subOperation
  | .notR f x =>
    aForm true true f ++ rForm false false (fun m => m == 0) f (xr x) ++ chk (f.b == 4) .subOperation
  | .sext8 f x =>
    aForm true true f ++ rForm false false (fun m => m == 0) f (xr x) ++ chk (f.b == 5) .subOperation
  | .sext16 f x =>
    aForm true true f ++ rForm false false (fun m => m == 0) f (xr x) ++ chk (f.b == 6) .subOperation
  | .zext8 f x =>
    aForm true true f ++ rForm false false (fun m => m == 0) f (xr x) ++ chk (f.b == 7) .subOperation
  | .zext16 f x =>
    aForm true true f ++ rForm false false (fun m => m == 0) f (xr x) ++ chk (f.b == 8) .subOperation
  | .fadd f x =>
    aForm true true f ++ rForm true false (fun _ => true) f (xr x)
  | .fsub f x =>
    aForm true true f ++ rForm true false (fun _ => true) f (xr x)
  | .fmul f x =>
    aForm true true f ++ rForm true false (fun _ => true) f (xr x)
  | .ffma f x =>
    aForm true true f ++ rForm true true (fun _ => true) f x
  | .fmin f x =>
    aForm true true f ++ rForm true false (fun m => m == 0) f (xr x)
  | .fmax f x =>
    aForm true true f ++ rForm true false (fun m => m == 0) f (xr x)
  | .fdiv f x =>
    aForm true true f ++ rForm true false (fun _ => true) f (xr x)
  | .fneg f x =>
    aForm true true f ++ rForm false false (fun m => m == 0) f (xr x) ++ chk (f.b == 0) .subOperation
  | .fabs f x =>
    aForm true true f ++ rForm false false (fun m => m == 0) f (xr x) ++ chk (f.b == 1) .subOperation
  | .frcp f x =>
    aForm true true f ++ rForm false false (fun _ => true) f (xr x) ++ chk (f.b == 2) .subOperation
  | .frsqrt f x =>
    aForm true true f ++ rForm false false (fun _ => true) f (xr x) ++ chk (f.b == 3) .subOperation
  | .fsqrt f x =>
    aForm true true f ++ rForm false false (fun _ => true) f (xr x) ++ chk (f.b == 4) .subOperation
  | .fexp2 f x =>
    aForm true true f ++ rForm false false (fun _ => true) f (xr x) ++ chk (f.b == 5) .subOperation
  | .flog2 f x =>
    aForm true true f ++ rForm false false (fun _ => true) f (xr x) ++ chk (f.b == 6) .subOperation
  | .ffloor f x =>
    aForm true true f ++ rForm false false (fun m => m == 0) f (xr x) ++ chk (f.b == 7) .subOperation
  | .fceil f x =>
    aForm true true f ++ rForm false false (fun m => m == 0) f (xr x) ++ chk (f.b == 8) .subOperation
  | .ftrunc f x =>
    aForm true true f ++ rForm false false (fun m => m == 0) f (xr x) ++ chk (f.b == 9) .subOperation
  | .frint f x =>
    aForm true true f ++ rForm false false (fun _ => true) f (xr x) ++ chk (f.b == 10) .subOperation
  | .hadd2 f x =>
    aForm false true f ++ rForm true false (fun m => !m.getLsbD 1) f x
  | .hmul2 f x =>
    aForm false true f ++ rForm true false (fun m => !m.getLsbD 1) f x
  | .hfma2 f x =>
    aForm false true f ++ rForm true true (fun m => !m.getLsbD 1) f x
  | .cvt f x =>
    aForm true true f ++ tForm f x ++ bZero f ++ chk (x.c == 0 && x.sel == 0) .zeroField
  | .mxpack f x =>
    aForm false false f ++ tForm f x ++ bZero f ++ chk (x.c == 0) .zeroField ++ chk (x.sel.toNat ≤ 1) .subOperation
      ++ chk (x.t1 == 2 && mxType x.t2) .reserved ++ chk (x.sel == 1 || !x.sat) .zeroField
  | .mxunpack f x =>
    aForm false false f ++ tForm f x ++ bZero f ++ chk (x.c == 0 && x.sel == 0 && !x.sat && x.rnd == 0) .zeroField
      ++ chk (mxType x.t1 && x.t2 == 2) .reserved
  | .sget f x =>
    aForm false false f ++ sclForm f x 0 ++ chk (x.c.toNat < 4 && f.b == 0) .zeroField
  | .sput f x =>
    aForm false false f ++ sclForm f x 1 ++ chk (x.c.toNat < 4 && f.b == 0) .zeroField
  | .smov f x =>
    aForm false false f ++ sclForm f x 2 ++ chk (x.c == 0 && f.b == 0) .zeroField
  | .sadd f x =>
    aForm false false f ++ sclForm f x 3 ++ chk (x.c == 0) .zeroField
  | .smax f x =>
    aForm false false f ++ sclForm f x 4 ++ chk (x.c == 0) .zeroField
  | .sfill f x =>
    aForm false false f ++ sclForm f x 5 ++ chk (x.c == 0 && f.b == 0) .zeroField
  | .icmp f x =>
    aForm true false f ++ tForm f x ++ chk (f.d.toNat < 8 && x.c.toNat < 8 && x.t2 == 0 && x.rnd == 0 && !x.sat) .zeroField
      ++ chk (x.sel.toNat < 6) .subOperation ++ chk (x.t1.toNat < 2 || 10 ≤ x.t1.toNat) .reserved
  | .fcmp f x =>
    aForm true false f ++ tForm f x ++ chk (f.d.toNat < 8 && x.c.toNat < 8 && x.t2 == 0 && x.rnd == 0 && !x.sat) .zeroField
      ++ chk (x.sel.toNat < 8) .subOperation ++ chk (2 ≤ x.t1.toNat && x.t1.toNat ≤ 4) .reserved
  | .plog f x =>
    aForm false false f ++ plainT x ++ chk (f.pb == 0 && f.d.toNat < 8 && f.a.toNat < 8 && f.b.toNat < 8) .zeroField
      ++ chk (x.sel.toNat < 6) .subOperation ++ chk (x.sel.toNat < 4 || f.b == 0) .zeroField
  | .sel f x =>
    aForm false true f ++ rForm true true (fun m => m == 0) f x ++ chk (x.c.toNat < 8 && !x.kc) .zeroField
  | .pmovGet f x =>
    aForm false false f ++ plainT x ++ bZero f ++ chk (x.sel == 0) .subOperation ++ chk (f.a.toNat < 8) .zeroField
  | .pmovPut f x =>
    aForm false false f ++ plainT x ++ bZero f ++ chk (x.sel == 1) .subOperation ++ chk (f.d.toNat < 8) .zeroField
  | .voteAny f x =>
    aForm false false f ++ plainT x ++ bZero f ++ chk (x.sel == 0) .subOperation ++ chk (f.a.toNat < 8 && f.d.toNat < 8) .zeroField
  | .voteAll f x =>
    aForm false false f ++ plainT x ++ bZero f ++ chk (x.sel == 1) .subOperation ++ chk (f.a.toNat < 8 && f.d.toNat < 8) .zeroField
  | .voteBallot f x =>
    aForm false false f ++ plainT x ++ bZero f ++ chk (x.sel == 2) .subOperation ++ chk (f.a.toNat < 8) .zeroField
  | .voteCount f x =>
    aForm false false f ++ plainT x ++ bZero f ++ chk (x.sel == 3) .subOperation ++ chk (f.a.toNat < 8) .zeroField
  | .shfl f x =>
    aForm false true f ++ rForm true false (fun m => m == 0) f (xr x) ++ chk ((xr x).pa == 0) .zeroField
  | .bcast f =>
    iForm false true f ++ chk (f.imm.toNat < 128) .zeroField
  | .redux f x =>
    aForm false false f ++ tForm f x ++ bZero f ++ chk (x.c == 0 && x.t2 == 0 && x.rnd == 0 && !x.sat) .zeroField ++ chk (redType x.t1) .reserved
      ++ chk (x.sel.toNat < 6 && (x.t1 != 2 || x.sel.toNat < 3)) .subOperation
  | .scan f x =>
    aForm false true f ++ tForm f x ++ bZero f ++ chk (x.c == 0 && x.t2 == 0 && x.rnd == 0 && !x.sat) .zeroField ++ chk (redType x.t1) .reserved
      ++ chk (x.sel.toNat % 8 < 6 && (x.t1 != 2 || x.sel.toNat % 8 < 3)) .subOperation
  | .rds f =>
    iForm true true f ++ chk (f.a == 0) .zeroField
  | .wrsFflags f =>
    iForm true false f ++ chk f.u .uniform ++ chk (f.d == 0) .zeroField ++ chk (f.imm == 0x00A) .subOperation
  | .wrsSrseed f =>
    iForm true false f ++ chk f.u .uniform ++ chk (f.d == 0) .zeroField ++ chk (f.imm != 0x00A) .subOperation
  | .kget f =>
    iForm false true f ++ chk (f.a == 0 && f.imm.toNat < 128) .zeroField
  | .wfield f =>
    iForm true true f ++ chk (f.imm.toNat < 6) .subOperation
  | .wfieldExt f =>
    iForm true true f ++ chk (8 ≤ f.imm.toNat && f.imm.toNat < 14) .subOperation ++ chk (f.a == 0) .zeroField
  | .gget f x =>
    aForm false false f ++ plainT x ++ bZero f ++ chk (x.sel == 0) .subOperation
  | .gput f x =>
    aForm false false f ++ plainT x ++ bZero f ++ chk (x.sel == 1) .subOperation
  | .gclaim f x =>
    aForm false false f ++ plainT x ++ bZero f ++ chk (x.sel == 2) .subOperation ++ chk (f.a == 0) .zeroField
  | .grel f x =>
    aForm false false f ++ plainT x ++ bZero f ++ chk (x.sel == 3) .subOperation ++ chk (f.a == 0) .zeroField
  | .ld f x =>
    mForm (fun _ => true) true f ++ chk (f.sub == 0) .zeroField ++ chk (f.size.toNat ≤ 4) .reserved ++ mOrder loadOrder x
  | .st f x =>
    mForm (fun _ => true) false f ++ chk (f.sub == 0) .zeroField ++ chk (f.size.toNat ≤ 4) .reserved ++ mOrder storeOrder x
  | .lds f x =>
    mForm (fun _ => true) true f ++ chk (f.sub == 0) .zeroField ++ chk (f.size.toNat ≤ 4) .reserved ++ mOrder loadOrder x
  | .sts f x =>
    mForm (fun _ => true) false f ++ chk (f.sub == 0) .zeroField ++ chk (f.size.toNat ≤ 4) .reserved ++ mOrder storeOrder x
  | .ldp f x =>
    mForm (fun u => !u) true f ++ chk (f.sub == 0) .zeroField ++ chk (f.size.toNat ≤ 4) .reserved ++ mPlain x
  | .stp f x =>
    mForm (fun u => !u) false f ++ chk (f.sub == 0) .zeroField ++ chk (f.size.toNat ≤ 4) .reserved ++ mPlain x
  | .ldx f x =>
    mForm (fun u => !u) true f ++ chk (f.sub == 0) .zeroField ++ chk (f.size.toNat ≤ 4) .reserved ++ gOrder loadOrder x
  | .stx f x =>
    mForm (fun u => !u) false f ++ chk (f.sub == 0) .zeroField ++ chk (f.size.toNat ≤ 4) .reserved ++ gOrder storeOrder x
  | .ldmx f x =>
    mForm id false f ++ chk (f.sub.toNat ≤ 2) .subOperation ++ chk (f.size == 0) .zeroField ++ mOrder loadOrder x
  | .stmx f x =>
    mForm id false f ++ chk (f.sub.toNat ≤ 2) .subOperation ++ chk (f.size == 0) .zeroField ++ mOrder storeOrder x
  | .atom f x =>
    mForm (fun _ => true) false f ++ chk (f.sub.toNat ≤ 9) .subOperation
      ++ chk (f.size == 2 || (f.size == 3 && f.sub != 1)) .reserved ++ mOrder atomOrder x
  | .cas f x =>
    mForm (fun _ => true) false f ++ chk (f.sub == 0) .zeroField ++ chk (f.size == 2 || f.size == 3) .reserved ++ mOrder atomOrder (some x)
  | .chase f _ =>
    mForm (fun u => !u) false f ++ chk (f.sub.toNat < 8) .zeroField ++ chk (f.size == 3) .reserved
  | .fence f =>
    mForm (fun u => !u) false f ++ chk (2 ≤ f.sub.toNat && f.sub.toNat ≤ 5) .order ++ chk (f.size.toNat ≤ 6) .reserved
      ++ chk (f.addr == 0 && f.data == 0) .zeroField
  | .pf f x =>
    mForm (fun _ => true) false f ++ chk (f.sub == 0 && f.size == 0) .zeroField ++ mPlain x
  | .ipf f x =>
    mForm id false f ++ chk (f.size == 0) .zeroField ++ mPlain x
  | .cwb f x =>
    mForm (fun _ => true) false f ++ chk (f.sub.toNat < 8 && f.size == 0) .zeroField ++ chk (f.sub.toNat % 4 ≤ 2) .subOperation
      ++ chk (!(f.sub.getLsbD 2 && f.u)) .uniform ++ mPlain x
  | .cmdw f =>
    chk (f.sub.toNat < 4) .subOperation ++ chk (f.y == 0 && f.z == 0) .zeroField
  | .go f =>
    chk (f.sub.toNat < 4) .subOperation ++ chk ((f.sub.getLsbD 0 || f.y == 0) && (f.sub.getLsbD 1 || f.z == 0)) .zeroField
  | .fTest f =>
    chk (f.sub == 0) .subOperation ++ chk (f.z == 0) .zeroField
  | .fWait f _ =>
    chk (f.sub == 0) .subOperation ++ chk (f.z == 0) .zeroField
  | .fCancel f =>
    chk (f.sub == 0) .subOperation ++ chk (f.z == 0) .zeroField
  | .qInit f =>
    chk (f.sub == 0) .subOperation
  | .qEnq f =>
    chk (f.sub.toNat < 4) .subOperation ++ chk (f.sub.getLsbD 1 || f.z == 0) .zeroField
  | .qDeq f =>
    chk (f.sub.toNat < 4) .subOperation ++ chk (f.sub.getLsbD 1 || f.z == 0) .zeroField
  | .qInfo f =>
    chk (f.sub == 0) .subOperation ++ chk (f.z == 0) .zeroField
  | .barInit f =>
    chk (f.sub == 0) .subOperation ++ chk (f.z == 0) .zeroField
  | .barArv f =>
    chk (f.sub == 0) .subOperation ++ chk (f.z == 0) .zeroField
  | .barExp f =>
    chk (f.sub == 0) .subOperation ++ chk (f.z == 0) .zeroField
  | .barWait f _ =>
    chk (f.sub == 0) .subOperation
  | .barTest f =>
    chk (f.sub == 0) .subOperation ++ chk (f.z == 0) .zeroField
  | .barBlk f =>
    chk (f.sub == 0) .subOperation ++ chk (f.x == 0 && f.y == 0 && f.z == 0) .zeroField
  | .barCmp f =>
    chk (f.sub == 0) .subOperation ++ chk (f.z == 0) .zeroField
  | .mma f x =>
    qWord (xq f x) ++ chk ((xq f x).rnd == 0 && (xq f x).k == 0 && (xq f x).t2 == 0) .zeroField
      ++ chk (scaledType f.type == scaledType (xq f x).btype) .mixedTypes
  | .accz f =>
    chk (f.b == 0 && f.type == 0 && !f.ar && !f.z && f.a == 0) .zeroField
  | .accld f =>
    chk (f.b == 0 && f.type == 0 && !f.ar && !f.z) .zeroField
  | .accst f =>
    chk (f.b == 0 && f.type == 0 && !f.ar && !f.z) .zeroField
  | .mrq f x =>
    chk (!f.z && (!f.ar || f.b == 0) && (f.ar || f.a == 0)) .zeroField ++ chk (f.type.toNat ≤ 5) .reserved
      ++ (match x with | none => [] | some x => qWord x ++ chk (x.k == 0 && x.t2 == 0 && !x.share && x.btype == 0) .zeroField)
  | .mgd f x =>
    chk (f.b == 0 && f.type == 0 && !f.ar && !f.z && f.a == 0) .zeroField ++ qWord x ++ chk (x.rnd == 0 && x.t2 == 0 && !x.share && x.btype == 0) .zeroField
  | .macc f x =>
    chk (f.b == 0 && f.type == 0 && !f.ar && !f.z && f.a == 0) .zeroField ++ qWord x ++ chk (x.rnd == 0 && x.k == 0 && !x.share && x.btype == 0) .zeroField
  | .mscl f x =>
    chk (f.b == 0 && f.type == 0 && !f.ar && !f.z && f.a == 0) .zeroField ++ qWord x ++ chk (x.t2 == 0 && !x.share && x.btype == 0) .zeroField
  | .mplane f =>
    chk (f.t == 0 && !f.z && f.ar) .zeroField
  | .bra f =>
    cPred f
  | .brd f x =>
    cPred f ++ dWord x
  | .jmp f =>
    chk (!f.p && !f.n && f.pred == 0) .zeroField
  | .call f =>
    chk (!f.p && !f.n && f.pred == 0) .zeroField
  | .calli f x =>
    chk (!f.p && !f.n && f.pred == 0) .zeroField ++ chk (f.off.toNat < 128) .zeroField ++ dWord x
  | .ret f =>
    chk (!f.p && !f.n && f.pred == 0) .zeroField ++ chk (f.off.toNat < 128) .zeroField
  | .reti f =>
    chk (!f.p && !f.n && f.pred == 0) .zeroField ++ chk (f.off == 0) .zeroField
  | .join f x =>
    chk (!f.p && !f.n && f.pred == 0) .zeroField ++ chk (f.off == 0) .zeroField ++ dWord x
  | .exit f =>
    chk (!f.p && !f.n && f.pred == 0) .zeroField ++ chk (f.off == 0) .zeroField
  | .yield f =>
    chk (!f.p && !f.n && f.pred == 0) .zeroField ++ chk (f.off == 0) .zeroField
  | .acquire f =>
    chk (!f.p && !f.n && f.pred == 0) .zeroField ++ chk (f.off == 0) .zeroField
  | .trap f =>
    chk (!f.p && !f.n && f.pred == 0) .zeroField ++ chk (f.off.toNat < 4096) .zeroField
  | .brk f =>
    chk (!f.p && !f.n && f.pred == 0) .zeroField ++ chk (f.off == 0) .zeroField
  | .nop f =>
    chk (!f.p && !f.n && f.pred == 0) .zeroField ++ chk (f.off == 0) .zeroField
  | .rdsp f =>
    chk (f.y == 0) .zeroField
  | .wrsp f =>
    chk (f.x == 0) .zeroField ++ chk (f.imm != 1 && f.imm != 7) .subOperation
  | .wrspXpc f =>
    chk (f.x == 0) .zeroField ++ chk (f.imm == 1) .subOperation
  | .wrspXdeleg f =>
    chk (f.x == 0) .zeroField ++ chk (f.imm == 7) .subOperation
  | .eret f =>
    chk (f.imm == 0) .subOperation ++ chk (f.x == 0 && f.y == 0) .zeroField
  | .tlbi f =>
    chk (f.imm.toNat ≤ 2) .subOperation ++ chk (f.imm == 0 || f.y == 0) .zeroField
  | .cfl f =>
    chk (f.imm.toNat < 8 && f.imm.toNat % 4 ≤ 2) .subOperation ++ chk (f.imm.getLsbD 2 || (f.x == 0 && f.y == 0)) .zeroField
  | .qdrain f =>
    chk (f.imm.toNat ≤ 1) .subOperation ++ chk (f.y == 0) .zeroField
  | .ctxs f =>
    chk (f.imm == 0) .subOperation
  | .ctxr f =>
    chk (f.imm == 0) .subOperation
  | .halt f =>
    chk (f.imm.toNat ≤ 1) .subOperation ++ chk (f.y == 0 && (f.imm == 1 || f.x == 0)) .zeroField
  -- The events of the part are no code: nothing of them is checked.
  | _ => []

/-- An instruction is well-formed when no check fails. -/
def Instr.wf (i : Instr) : Bool := i.problems.isEmpty

end Sys2Proof
end

