-- ==== Sys2Proof/Decode.lean ====
section
/-! DEFINITION. The decoder of clause headers and instructions (R202 to R204, R214 to R218) and the encoder written
from the same tables (Tables 8.1 to 8.10). A word does not say its class: the clause header does (R203). -/

namespace Sys2Proof

/-! ### Clause headers -/

/-- A clause header (Table 8.1). -/
structure Header where
  gn : Bool
  gp : BitVec 3
  ge : Bool
  y : Bool
  wait : BitVec 4
  long : BitVec 15
  cls : Class
  n : BitVec 4
  deriving DecidableEq, Repr

/-- The class codes of Table 8.1; 6 and 7 are reserved. -/
def Class.ofCode (c : BitVec 3) : Option Class :=
  match c.toNat with
  | 0 => some .alu
  | 1 => some .mem
  | 2 => some .eng
  | 3 => some .mat
  | 4 => some .ctl
  | 5 => some .sys
  | _ => none

/-- The code of a class (Table 8.1). -/
def Class.code : Class → BitVec 3
  | .alu => 0
  | .mem => 1
  | .eng => 2
  | .mat => 3
  | .ctl => 4
  | .sys => 5

/-- The faults that the header word alone shows (R202, R212): none is an illegal clause (0x03). -/
def Header.parse (w : Word) : Option Header :=
  let n := w.extractLsb' 0 4
  let long := w.extractLsb' 7 15
  let ge := w.getLsbD 27
  let gn := w.getLsbD 31
  let gp := w.extractLsb' 28 3
  match Class.ofCode (w.extractLsb' 4 3) with
  | none => none
  | some c =>
    if n = 0 then none
    else if long >>> n.toNat ≠ 0 then none
    else if !ge && (gn || gp != 0) then none
    else if c = .mat ∧ ge then none
    else some ⟨gn, gp, ge, w.getLsbD 26, w.extractLsb' 22 4, long, c, n⟩

/-- The header word of a header (Table 8.1). -/
def Header.word (h : Header) : Word :=
  BitVec.ofBool h.gn ++ h.gp ++ BitVec.ofBool h.ge ++ BitVec.ofBool h.y ++ h.wait ++ h.long ++ h.cls.code ++ h.n

/-- The number of long bits set (R203). -/
def Header.longs (h : Header) : Nat := ((List.range 15).filter fun i => h.long.getLsbD i).length

/-- The number of words after the header (R203). -/
def Header.body (h : Header) : Nat := h.n.toNat + h.longs

/-- Where the words of instruction `i` begin, counted after the header (R203). -/
def Header.wordIndex (h : Header) (i : Nat) : Nat := i + ((List.range i).filter fun j => h.long.getLsbD j).length

/-- The words of instruction `i` of a clause. -/
def Header.instrWords (h : Header) (ws : List Word) (i : Nat) : Word × Option Word :=
  let k := h.wordIndex i
  (ws.getD k 0, if h.long.getLsbD i then some (ws.getD (k + 1) 0) else none)

/-! ### Formats -/

/-- The opcode of a first word. -/
def opOf (w : Word) : Nat := (w.extractLsb' 0 6).toNat

/-- Table 8.2. -/
def FmtA.parse (w : Word) : FmtA :=
  ⟨w.getLsbD 31, w.getLsbD 30, w.extractLsb' 27 3, w.extractLsb' 20 7, w.extractLsb' 13 7, w.extractLsb' 6 7⟩

/-- Table 8.2. -/
def FmtA.pack (f : FmtA) (op : BitVec 6) : Word :=
  BitVec.ofBool f.nw ++ BitVec.ofBool f.u ++ f.pb ++ f.b ++ f.a ++ f.d ++ op

/-- Table 8.3. -/
def FmtI.parse (w : Word) : FmtI :=
  ⟨w.getLsbD 31, w.getLsbD 30, w.extractLsb' 20 10, w.extractLsb' 13 7, w.extractLsb' 6 7⟩

/-- Table 8.3. -/
def FmtI.pack (f : FmtI) (op : BitVec 6) : Word :=
  BitVec.ofBool f.nw ++ BitVec.ofBool f.u ++ f.imm ++ f.a ++ f.d ++ op

/-- Table 8.4; bit 31 is checked by `decodeRaw`. -/
def FmtM.parse (w : Word) : FmtM :=
  ⟨w.getLsbD 30, w.extractLsb' 26 4, w.getLsbD 25, w.extractLsb' 23 2, w.extractLsb' 20 3, w.extractLsb' 13 7,
    w.extractLsb' 6 7⟩

/-- Table 8.4. -/
def FmtM.pack (f : FmtM) (op : BitVec 6) : Word :=
  0#1 ++ BitVec.ofBool f.u ++ f.sub ++ BitVec.ofBool f.sx ++ f.dc ++ f.size ++ f.addr ++ f.data ++ op

/-- Table 8.5. -/
def FmtE.parse (w : Word) : FmtE :=
  ⟨w.extractLsb' 29 3, w.extractLsb' 27 2, w.extractLsb' 20 7, w.extractLsb' 13 7, w.extractLsb' 6 7⟩

/-- Table 8.5. -/
def FmtE.pack (f : FmtE) (op : BitVec 6) : Word := f.sub ++ f.dc ++ f.z ++ f.y ++ f.x ++ op

/-- Table 8.6. -/
def FmtQ.parse (w : Word) : FmtQ :=
  ⟨w.getLsbD 31, w.getLsbD 30, w.extractLsb' 27 3, w.extractLsb' 20 7, w.extractLsb' 13 7, w.extractLsb' 6 7⟩

/-- Table 8.6. -/
def FmtQ.pack (f : FmtQ) (op : BitVec 6) : Word :=
  BitVec.ofBool f.z ++ BitVec.ofBool f.ar ++ f.type ++ f.b ++ f.a ++ f.t ++ op

/-- Table 8.7; bit 31 is checked by `decodeRaw`. -/
def FmtC.parse (w : Word) : FmtC :=
  ⟨w.getLsbD 30, w.getLsbD 29, w.extractLsb' 26 3, w.extractLsb' 6 20⟩

/-- Table 8.7. -/
def FmtC.pack (f : FmtC) (op : BitVec 6) : Word :=
  0#1 ++ BitVec.ofBool f.p ++ BitVec.ofBool f.n ++ f.pred ++ f.off ++ op

/-- Table 8.8. -/
def FmtS.parse (w : Word) : FmtS := ⟨w.extractLsb' 20 12, w.extractLsb' 13 7, w.extractLsb' 6 7⟩

/-- Table 8.8. -/
def FmtS.pack (f : FmtS) (op : BitVec 6) : Word := f.imm ++ f.y ++ f.x ++ op

/-- The guard bits of a second word (R210, R216). -/
def Guard.parse (w : Word) : Guard := ⟨w.getLsbD 31, w.extractLsb' 28 3, w.getLsbD 27⟩

/-- The guard bits of a second word (R210, R216). -/
def Guard.pack (g : Guard) : BitVec 5 := BitVec.ofBool g.gn ++ g.gp ++ BitVec.ofBool g.ge

/-- X-R (Table 8.10). -/
def XR.parse (w : Word) : XR :=
  ⟨Guard.parse w, w.extractLsb' 25 2, w.getLsbD 24, w.getLsbD 23, w.extractLsb' 16 7, w.extractLsb' 8 8,
    w.extractLsb' 0 8⟩

/-- X-R. -/
def XR.pack (x : XR) : Word :=
  x.g.pack ++ x.m2 ++ BitVec.ofBool x.kc ++ BitVec.ofBool x.kb ++ x.c ++ x.pb ++ x.pa

/-- X-T (Table 8.10). -/
def XT.parse (w : Word) : Except IllFormed XT :=
  if w.extractLsb' 23 4 = 0 then
    .ok ⟨Guard.parse w, w.extractLsb' 16 7, w.extractLsb' 12 4, w.getLsbD 11, w.extractLsb' 8 3, w.extractLsb' 4 4,
      w.extractLsb' 0 4⟩
  else .error .zeroField

/-- X-T. -/
def XT.pack (x : XT) : Word :=
  x.g.pack ++ 0#4 ++ x.c ++ x.sel ++ BitVec.ofBool x.sat ++ x.rnd ++ x.t2 ++ x.t1

/-- X-M (Table 8.10). -/
def XM.parse (w : Word) : Except IllFormed XM :=
  if w.getLsbD 26 = false then
    .ok ⟨Guard.parse w, w.extractLsb' 23 3, w.extractLsb' 20 3, w.extractLsb' 0 20⟩
  else .error .zeroField

/-- X-M. -/
def XM.pack (x : XM) : Word := x.g.pack ++ 0#1 ++ x.scope ++ x.order ++ x.off

/-- X-G (Table 8.10). -/
def XG.parse (w : Word) : Except IllFormed XG :=
  if w.getLsbD 26 = false then
    .ok ⟨Guard.parse w, w.extractLsb' 23 3, w.extractLsb' 20 3, w.extractLsb' 10 10, w.extractLsb' 7 3,
      w.extractLsb' 0 7⟩
  else .error .zeroField

/-- X-G. -/
def XG.pack (x : XG) : Word := x.g.pack ++ 0#1 ++ x.scope ++ x.order ++ x.off ++ x.shift ++ x.base

/-- X-H (Table 8.10). -/
def XH.parse (w : Word) : Except IllFormed XH :=
  if w.extractLsb' 7 20 = 0 then .ok ⟨Guard.parse w, w.extractLsb' 0 7⟩ else .error .zeroField

/-- X-H. -/
def XH.pack (x : XH) : Word := x.g.pack ++ 0#20 ++ x.ks

/-- X-Q (Table 8.10). -/
def XQ.parse (w : Word) : Except IllFormed XQ :=
  if w.extractLsb' 20 7 = 0 then
    .ok ⟨Guard.parse w, w.extractLsb' 17 3, w.extractLsb' 10 7, w.extractLsb' 4 6, w.getLsbD 3, w.extractLsb' 0 3⟩
  else .error .zeroField

/-- X-Q. -/
def XQ.pack (x : XQ) : Word := x.g.pack ++ 0#7 ++ x.rnd ++ x.k ++ x.t2 ++ BitVec.ofBool x.share ++ x.btype

/-- X-D (Table 8.10, R212). -/
def XD.parse (w : Word) : Except IllFormed XD :=
  if w.extractLsb' 12 20 = 0 then .ok ⟨w.extractLsb' 7 5, w.extractLsb' 0 7⟩ else .error .zeroField

/-- X-D. -/
def XD.pack (x : XD) : Word := 0#20 ++ x.m ++ x.l

/-! ### Second words (R215) -/

/-- Marked "1": no second word. -/
def one (x : Option Word) (i : Instr) : Except IllFormed Instr :=
  match x with
  | none => .ok i
  | some _ => .error .longBit

/-- Marked "2": a second word. -/
def two {α : Type} (p : Word → Except IllFormed α) (x : Option Word) (k : α → Except IllFormed Instr) :
    Except IllFormed Instr :=
  match x with
  | none => .error .longBit
  | some w => match p w with
    | .ok a => k a
    | .error e => .error e

/-- Marked "1 or 2". -/
def either {α : Type} (p : Word → Except IllFormed α) (x : Option Word) (k : Option α → Instr) :
    Except IllFormed Instr :=
  match x with
  | none => .ok (k none)
  | some w => match p w with
    | .ok a => .ok (k (some a))
    | .error e => .error e

/-- X-R has no zero bits. -/
def XR.read (w : Word) : Except IllFormed XR := .ok (XR.parse w)

/-- X-I and X-B take every word (Table 8.10). -/
def wordRead (w : Word) : Except IllFormed (BitVec 32) := .ok w

/-! ### Opcode maps (Tables 8.11 to 8.16) -/

/-- The opcode map of class ALU (Table 8.11). -/
def decodeAlu (w : Word) (x : Option Word) : Except IllFormed Instr :=
  match opOf w with
  | 0x01 => let f := FmtA.parse w; either XR.read x (.iadd f)
  | 0x02 => let f := FmtA.parse w; either XR.read x (.isub f)
  | 0x03 => let f := FmtA.parse w; either XR.read x (.imul f)
  | 0x04 => let f := FmtA.parse w; either XR.read x (.imulh f)
  | 0x05 => let f := FmtA.parse w; either XR.read x (.imulhu f)
  | 0x06 => let f := FmtA.parse w; two XR.read x fun x => .ok (.imad f x)
  | 0x07 => let f := FmtA.parse w; either XR.read x (.iadd64 f)
  | 0x08 => let f := FmtA.parse w; either XR.read x (.imin f)
  | 0x09 => let f := FmtA.parse w; either XR.read x (.imax f)
  | 0x0A => let f := FmtA.parse w; either XR.read x (.umin f)
  | 0x0B => let f := FmtA.parse w; either XR.read x (.umax f)
  | 0x0C => let f := FmtA.parse w; either XR.read x (.andR f)
  | 0x0D => let f := FmtA.parse w; either XR.read x (.orR f)
  | 0x0E => let f := FmtA.parse w; either XR.read x (.xorR f)
  | 0x0F => let f := FmtA.parse w; either XR.read x (.andn f)
  | 0x10 => let f := FmtA.parse w; either XR.read x (.shl f)
  | 0x11 => let f := FmtA.parse w; either XR.read x (.shr f)
  | 0x12 => let f := FmtA.parse w; either XR.read x (.sar f)
  | 0x13 => let f := FmtA.parse w; either XR.read x (.rotl f)
  | 0x14 => let f := FmtI.parse w; either wordRead x (.iaddi f)
  | 0x15 => let f := FmtI.parse w; either wordRead x (.andi f)
  | 0x16 => let f := FmtI.parse w; either wordRead x (.ori f)
  | 0x17 => let f := FmtI.parse w; either wordRead x (.xori f)
  | 0x18 => let f := FmtI.parse w; one x (.shli f)
  | 0x19 => let f := FmtI.parse w; one x (.shri f)
  | 0x1A => let f := FmtI.parse w; one x (.sari f)
  | 0x1B => let f := FmtI.parse w; either wordRead x (.movi f)
  | 0x1C => let f := FmtA.parse w; either XR.read x (.mov f)
  | 0x1D => let f := FmtA.parse w; two XR.read x fun x => .ok (.lea f x)
  | 0x1E =>
    let f := FmtA.parse w
    if f.b = 0 then either XR.read x (.clz f)
    else if f.b = 1 then either XR.read x (.popc f)
    else if f.b = 2 then either XR.read x (.brev f)
    else if f.b = 3 then either XR.read x (.iabs f)
    else if f.b = 4 then either XR.read x (.notR f)
    else if f.b = 5 then either XR.read x (.sext8 f)
    else if f.b = 6 then either XR.read x (.sext16 f)
    else if f.b = 7 then either XR.read x (.zext8 f)
    else if f.b = 8 then either XR.read x (.zext16 f)
    else .error .subOperation
  | 0x1F => let f := FmtI.parse w; one x (.bfx f)
  | 0x20 => let f := FmtA.parse w; either XR.read x (.fadd f)
  | 0x21 => let f := FmtA.parse w; either XR.read x (.fsub f)
  | 0x22 => let f := FmtA.parse w; either XR.read x (.fmul f)
  | 0x23 => let f := FmtA.parse w; two XR.read x fun x => .ok (.ffma f x)
  | 0x24 => let f := FmtA.parse w; either XR.read x (.fmin f)
  | 0x25 => let f := FmtA.parse w; either XR.read x (.fmax f)
  | 0x26 => let f := FmtA.parse w; either XR.read x (.fdiv f)
  | 0x27 =>
    let f := FmtA.parse w
    if f.b = 0 then either XR.read x (.fneg f)
    else if f.b = 1 then either XR.read x (.fabs f)
    else if f.b = 2 then either XR.read x (.frcp f)
    else if f.b = 3 then either XR.read x (.frsqrt f)
    else if f.b = 4 then either XR.read x (.fsqrt f)
    else if f.b = 5 then either XR.read x (.fexp2 f)
    else if f.b = 6 then either XR.read x (.flog2 f)
    else if f.b = 7 then either XR.read x (.ffloor f)
    else if f.b = 8 then either XR.read x (.fceil f)
    else if f.b = 9 then either XR.read x (.ftrunc f)
    else if f.b = 10 then either XR.read x (.frint f)
    else .error .subOperation
  | 0x28 => let f := FmtA.parse w; two XR.read x fun x => .ok (.hadd2 f x)
  | 0x29 => let f := FmtA.parse w; two XR.read x fun x => .ok (.hmul2 f x)
  | 0x2A => let f := FmtA.parse w; two XR.read x fun x => .ok (.hfma2 f x)
  | 0x2B => let f := FmtA.parse w; two XT.parse x fun x => .ok (.cvt f x)
  | 0x2C => let f := FmtA.parse w; two XT.parse x fun x => .ok (.mxpack f x)
  | 0x2D => let f := FmtA.parse w; two XT.parse x fun x => .ok (.mxunpack f x)
  | 0x2E =>
    let f := FmtA.parse w
    two XT.parse x fun x =>
      if x.sel = 0 then .ok (.sget f x)
      else if x.sel = 1 then .ok (.sput f x)
      else if x.sel = 2 then .ok (.smov f x)
      else if x.sel = 3 then .ok (.sadd f x)
      else if x.sel = 4 then .ok (.smax f x)
      else if x.sel = 5 then .ok (.sfill f x)
      else .error .subOperation
  | 0x2F => let f := FmtI.parse w; one x (.bfi f)
  | 0x30 => let f := FmtA.parse w; two XT.parse x fun x => .ok (.icmp f x)
  | 0x31 => let f := FmtA.parse w; two XT.parse x fun x => .ok (.fcmp f x)
  | 0x32 => let f := FmtA.parse w; two XT.parse x fun x => .ok (.plog f x)
  | 0x33 => let f := FmtA.parse w; two XR.read x fun x => .ok (.sel f x)
  | 0x34 =>
    let f := FmtA.parse w
    two XT.parse x fun x =>
      if x.sel = 0 then .ok (.voteAny f x)
      else if x.sel = 1 then .ok (.voteAll f x)
      else if x.sel = 2 then .ok (.voteBallot f x)
      else if x.sel = 3 then .ok (.voteCount f x)
      else .error .subOperation
  | 0x35 => let f := FmtA.parse w; either XR.read x (.shfl f)
  | 0x36 => let f := FmtI.parse w; one x (.bcast f)
  | 0x37 => let f := FmtA.parse w; two XT.parse x fun x => .ok (.redux f x)
  | 0x38 => let f := FmtA.parse w; two XT.parse x fun x => .ok (.scan f x)
  | 0x39 => let f := FmtI.parse w; one x (.rds f)
  | 0x3A =>
    let f := FmtI.parse w
    if f.imm = 0x00A then one x (.wrsFflags f)
    else one x (.wrsSrseed f)
  | 0x3B => let f := FmtI.parse w; one x (.kget f)
  | 0x3C =>
    let f := FmtA.parse w
    two XT.parse x fun x =>
      if x.sel = 0 then .ok (.gget f x)
      else if x.sel = 1 then .ok (.gput f x)
      else if x.sel = 2 then .ok (.gclaim f x)
      else if x.sel = 3 then .ok (.grel f x)
      else .error .subOperation
  | 0x3D =>
    let f := FmtI.parse w
    if ¬ (f.imm.getLsbD 3) then one x (.wfield f)
    else one x (.wfieldExt f)
  | 0x3E =>
    let f := FmtA.parse w
    two XT.parse x fun x =>
      if x.sel = 0 then .ok (.pmovGet f x)
      else if x.sel = 1 then .ok (.pmovPut f x)
      else .error .subOperation
  | _ => .error .unassigned

/-- The opcode map of class MEM (Table 8.12). -/
def decodeMem (w : Word) (x : Option Word) : Except IllFormed Instr :=
  if w.getLsbD 31 then .error .zeroField else
  match opOf w with
  | 0x01 => let f := FmtM.parse w; either XM.parse x (.ld f)
  | 0x02 => let f := FmtM.parse w; either XM.parse x (.st f)
  | 0x03 => let f := FmtM.parse w; either XM.parse x (.lds f)
  | 0x04 => let f := FmtM.parse w; either XM.parse x (.sts f)
  | 0x05 => let f := FmtM.parse w; either XM.parse x (.ldp f)
  | 0x06 => let f := FmtM.parse w; either XM.parse x (.stp f)
  | 0x07 => let f := FmtM.parse w; two XG.parse x fun x => .ok (.ldx f x)
  | 0x08 => let f := FmtM.parse w; two XG.parse x fun x => .ok (.stx f x)
  | 0x09 => let f := FmtM.parse w; either XM.parse x (.ldmx f)
  | 0x0A => let f := FmtM.parse w; either XM.parse x (.stmx f)
  | 0x0B => let f := FmtM.parse w; either XM.parse x (.atom f)
  | 0x0C => let f := FmtM.parse w; two XM.parse x fun x => .ok (.cas f x)
  | 0x0D => let f := FmtM.parse w; two XH.parse x fun x => .ok (.chase f x)
  | 0x0E => let f := FmtM.parse w; one x (.fence f)
  | 0x0F => let f := FmtM.parse w; either XM.parse x (.pf f)
  | 0x10 => let f := FmtM.parse w; either XM.parse x (.ipf f)
  | 0x11 => let f := FmtM.parse w; either XM.parse x (.cwb f)
  | _ => .error .unassigned

/-- The opcode map of class ENG (Table 8.13). -/
def decodeEng (w : Word) (x : Option Word) : Except IllFormed Instr :=
  match opOf w with
  | 0x01 => let f := FmtE.parse w; one x (.cmdw f)
  | 0x02 => let f := FmtE.parse w; one x (.go f)
  | 0x03 => let f := FmtE.parse w; one x (.fTest f)
  | 0x04 => let f := FmtE.parse w; two wordRead x fun x => .ok (.fWait f x)
  | 0x05 => let f := FmtE.parse w; one x (.fCancel f)
  | 0x06 => let f := FmtE.parse w; one x (.qInit f)
  | 0x07 => let f := FmtE.parse w; one x (.qEnq f)
  | 0x08 => let f := FmtE.parse w; one x (.qDeq f)
  | 0x09 => let f := FmtE.parse w; one x (.qInfo f)
  | 0x0A => let f := FmtE.parse w; one x (.barInit f)
  | 0x0B => let f := FmtE.parse w; one x (.barArv f)
  | 0x0C => let f := FmtE.parse w; one x (.barExp f)
  | 0x0D => let f := FmtE.parse w; two wordRead x fun x => .ok (.barWait f x)
  | 0x0E => let f := FmtE.parse w; one x (.barTest f)
  | 0x0F => let f := FmtE.parse w; one x (.barBlk f)
  | 0x10 => let f := FmtE.parse w; one x (.barCmp f)
  | _ => .error .unassigned

/-- The opcode map of class MAT (Table 8.14). -/
def decodeMat (w : Word) (x : Option Word) : Except IllFormed Instr :=
  match opOf w with
  | 0x01 => let f := FmtQ.parse w; either XQ.parse x (.mma f)
  | 0x02 => let f := FmtQ.parse w; one x (.accz f)
  | 0x03 => let f := FmtQ.parse w; one x (.accld f)
  | 0x04 => let f := FmtQ.parse w; one x (.accst f)
  | 0x05 => let f := FmtQ.parse w; either XQ.parse x (.mrq f)
  | 0x06 => let f := FmtQ.parse w; two XQ.parse x fun x => .ok (.mgd f x)
  | 0x07 => let f := FmtQ.parse w; two XQ.parse x fun x => .ok (.macc f x)
  | 0x08 => let f := FmtQ.parse w; two XQ.parse x fun x => .ok (.mscl f x)
  | 0x09 => let f := FmtQ.parse w; one x (.mplane f)
  | _ => .error .unassigned

/-- The opcode map of class CTL (Table 8.15). -/
def decodeCtl (w : Word) (x : Option Word) : Except IllFormed Instr :=
  if w.getLsbD 31 then .error .zeroField else
  match opOf w with
  | 0x01 => let f := FmtC.parse w; one x (.bra f)
  | 0x02 => let f := FmtC.parse w; two XD.parse x fun x => .ok (.brd f x)
  | 0x03 => let f := FmtC.parse w; one x (.jmp f)
  | 0x04 => let f := FmtC.parse w; one x (.call f)
  | 0x05 => let f := FmtC.parse w; two XD.parse x fun x => .ok (.calli f x)
  | 0x06 => let f := FmtC.parse w; one x (.ret f)
  | 0x07 => let f := FmtC.parse w; one x (.reti f)
  | 0x08 => let f := FmtC.parse w; two XD.parse x fun x => .ok (.join f x)
  | 0x09 => let f := FmtC.parse w; one x (.exit f)
  | 0x0A => let f := FmtC.parse w; one x (.yield f)
  | 0x0B => let f := FmtC.parse w; one x (.acquire f)
  | 0x0C => let f := FmtC.parse w; one x (.trap f)
  | 0x0D => let f := FmtC.parse w; one x (.brk f)
  | 0x0E => let f := FmtC.parse w; one x (.nop f)
  | _ => .error .unassigned

/-- The opcode map of class SYS (Table 8.16). -/
def decodeSys (w : Word) (x : Option Word) : Except IllFormed Instr :=
  match opOf w with
  | 0x01 => let f := FmtS.parse w; one x (.rdsp f)
  | 0x02 =>
    let f := FmtS.parse w
    if f.imm = 1 then one x (.wrspXpc f)
    else if f.imm = 7 then one x (.wrspXdeleg f)
    else one x (.wrsp f)
  | 0x03 => let f := FmtS.parse w; one x (.eret f)
  | 0x04 => let f := FmtS.parse w; one x (.tlbi f)
  | 0x05 => let f := FmtS.parse w; one x (.cfl f)
  | 0x06 => let f := FmtS.parse w; one x (.qdrain f)
  | 0x07 => let f := FmtS.parse w; one x (.ctxs f)
  | 0x08 => let f := FmtS.parse w; one x (.ctxr f)
  | 0x09 => let f := FmtS.parse w; one x (.halt f)
  | _ => .error .unassigned

/-- The instruction that a word pair of a class holds, before the checks of its fields. -/
def decodeRaw (c : Class) (w : Word) (x : Option Word) : Except IllFormed Instr :=
  match c with
  | .alu => decodeAlu w x
  | .mem => decodeMem w x
  | .eng => decodeEng w x
  | .mat => decodeMat w x
  | .ctl => decodeCtl w x
  | .sys => decodeSys w x

/-- The decoder of one instruction: total on any words, rejecting by name (R214 to R218). -/
def decode (c : Class) (w : Word) (x : Option Word) : Except IllFormed Instr :=
  match decodeRaw c w x with
  | .error e => .error e
  | .ok i => match i.problems with
    | [] => .ok i
    | e :: _ => .error e

/-- R208: the opcodes of the control transfers in their classes. -/
def isTransfer (c : Class) (w : Word) : Bool :=
  match c with
  | .ctl => (1 ≤ opOf w && opOf w ≤ 9) || opOf w == 0x0C
  | .sys => opOf w == 3 || opOf w == 9
  | _ => false

/-- R208: a control transfer before the last instruction of its clause. -/
def Header.misplaced (h : Header) (ws : List Word) : Bool :=
  (List.range (h.n.toNat - 1)).any fun i => isTransfer h.cls (h.instrWords ws i).1

/-- R204, 5: the lowest-numbered instruction that is illegal. -/
def Header.illegalAt (h : Header) (ws : List Word) : Option Nat :=
  (List.range h.n.toNat).find? fun i =>
    match decode h.cls (h.instrWords ws i).1 (h.instrWords ws i).2 with
    | .ok _ => false
    | .error _ => true

/-! ### The encoder -/

/-- The class and the words of an instruction. -/
structure Encoded where
  cls : Class
  w0 : Word
  w1 : Option Word
  deriving DecidableEq, Repr

/-- The encoding of a warp instruction (Tables 8.2 to 8.16); an event has none. -/
def encode : Instr → Option Encoded
  | .iadd f x => some ⟨.alu, f.pack 0x01, (x.map XR.pack)⟩
  | .isub f x => some ⟨.alu, f.pack 0x02, (x.map XR.pack)⟩
  | .imul f x => some ⟨.alu, f.pack 0x03, (x.map XR.pack)⟩
  | .imulh f x => some ⟨.alu, f.pack 0x04, (x.map XR.pack)⟩
  | .imulhu f x => some ⟨.alu, f.pack 0x05, (x.map XR.pack)⟩
  | .imad f x => some ⟨.alu, f.pack 0x06, (some x.pack)⟩
  | .iadd64 f x => some ⟨.alu, f.pack 0x07, (x.map XR.pack)⟩
  | .imin f x => some ⟨.alu, f.pack 0x08, (x.map XR.pack)⟩
  | .imax f x => some ⟨.alu, f.pack 0x09, (x.map XR.pack)⟩
  | .umin f x => some ⟨.alu, f.pack 0x0A, (x.map XR.pack)⟩
  | .umax f x => some ⟨.alu, f.pack 0x0B, (x.map XR.pack)⟩
  | .andR f x => some ⟨.alu, f.pack 0x0C, (x.map XR.pack)⟩
  | .orR f x => some ⟨.alu, f.pack 0x0D, (x.map XR.pack)⟩
  | .xorR f x => some ⟨.alu, f.pack 0x0E, (x.map XR.pack)⟩
  | .andn f x => some ⟨.alu, f.pack 0x0F, (x.map XR.pack)⟩
  | .shl f x => some ⟨.alu, f.pack 0x10, (x.map XR.pack)⟩
  | .shr f x => some ⟨.alu, f.pack 0x11, (x.map XR.pack)⟩
  | .sar f x => some ⟨.alu, f.pack 0x12, (x.map XR.pack)⟩
  | .rotl f x => some ⟨.alu, f.pack 0x13, (x.map XR.pack)⟩
  | .lea f x => some ⟨.alu, f.pack 0x1D, (some x.pack)⟩
  | .iaddi f x => some ⟨.alu, f.pack 0x14, x⟩
  | .andi f x => some ⟨.alu, f.pack 0x15, x⟩
  | .ori f x => some ⟨.alu, f.pack 0x16, x⟩
  | .xori f x => some ⟨.alu, f.pack 0x17, x⟩
  | .shli f => some ⟨.alu, f.pack 0x18, none⟩
  | .shri f => some ⟨.alu, f.pack 0x19, none⟩
  | .sari f => some ⟨.alu, f.pack 0x1A, none⟩
  | .movi f x => some ⟨.alu, f.pack 0x1B, x⟩
  | .mov f x => some ⟨.alu, f.pack 0x1C, (x.map XR.pack)⟩
  | .bfx f => some ⟨.alu, f.pack 0x1F, none⟩
  | .bfi f => some ⟨.alu, f.pack 0x2F, none⟩
  | .clz f x => some ⟨.alu, f.pack 0x1E, (x.map XR.pack)⟩
  | .popc f x => some ⟨.alu, f.pack 0x1E, (x.map XR.pack)⟩
  | .brev f x => some ⟨.alu, f.pack 0x1E, (x.map XR.pack)⟩
  | .iabs f x => some ⟨.alu, f.pack 0x1E, (x.map XR.pack)⟩
  | .notR f x => some ⟨.alu, f.pack 0x1E, (x.map XR.pack)⟩
  | .sext8 f x => some ⟨.alu, f.pack 0x1E, (x.map XR.pack)⟩
  | .sext16 f x => some ⟨.alu, f.pack 0x1E, (x.map XR.pack)⟩
  | .zext8 f x => some ⟨.alu, f.pack 0x1E, (x.map XR.pack)⟩
  | .zext16 f x => some ⟨.alu, f.pack 0x1E, (x.map XR.pack)⟩
  | .fadd f x => some ⟨.alu, f.pack 0x20, (x.map XR.pack)⟩
  | .fsub f x => some ⟨.alu, f.pack 0x21, (x.map XR.pack)⟩
  | .fmul f x => some ⟨.alu, f.pack 0x22, (x.map XR.pack)⟩
  | .ffma f x => some ⟨.alu, f.pack 0x23, (some x.pack)⟩
  | .fmin f x => some ⟨.alu, f.pack 0x24, (x.map XR.pack)⟩
  | .fmax f x => some ⟨.alu, f.pack 0x25, (x.map XR.pack)⟩
  | .fdiv f x => some ⟨.alu, f.pack 0x26, (x.map XR.pack)⟩
  | .fneg f x => some ⟨.alu, f.pack 0x27, (x.map XR.pack)⟩
  | .fabs f x => some ⟨.alu, f.pack 0x27, (x.map XR.pack)⟩
  | .frcp f x => some ⟨.alu, f.pack 0x27, (x.map XR.pack)⟩
  | .frsqrt f x => some ⟨.alu, f.pack 0x27, (x.map XR.pack)⟩
  | .fsqrt f x => some ⟨.alu, f.pack 0x27, (x.map XR.pack)⟩
  | .fexp2 f x => some ⟨.alu, f.pack 0x27, (x.map XR.pack)⟩
  | .flog2 f x => some ⟨.alu, f.pack 0x27, (x.map XR.pack)⟩
  | .ffloor f x => some ⟨.alu, f.pack 0x27, (x.map XR.pack)⟩
  | .fceil f x => some ⟨.alu, f.pack 0x27, (x.map XR.pack)⟩
  | .ftrunc f x => some ⟨.alu, f.pack 0x27, (x.map XR.pack)⟩
  | .frint f x => some ⟨.alu, f.pack 0x27, (x.map XR.pack)⟩
  | .hadd2 f x => some ⟨.alu, f.pack 0x28, (some x.pack)⟩
  | .hmul2 f x => some ⟨.alu, f.pack 0x29, (some x.pack)⟩
  | .hfma2 f x => some ⟨.alu, f.pack 0x2A, (some x.pack)⟩
  | .cvt f x => some ⟨.alu, f.pack 0x2B, (some x.pack)⟩
  | .mxpack f x => some ⟨.alu, f.pack 0x2C, (some x.pack)⟩
  | .mxunpack f x => some ⟨.alu, f.pack 0x2D, (some x.pack)⟩
  | .sget f x => some ⟨.alu, f.pack 0x2E, (some x.pack)⟩
  | .sput f x => some ⟨.alu, f.pack 0x2E, (some x.pack)⟩
  | .smov f x => some ⟨.alu, f.pack 0x2E, (some x.pack)⟩
  | .sadd f x => some ⟨.alu, f.pack 0x2E, (some x.pack)⟩
  | .smax f x => some ⟨.alu, f.pack 0x2E, (some x.pack)⟩
  | .sfill f x => some ⟨.alu, f.pack 0x2E, (some x.pack)⟩
  | .icmp f x => some ⟨.alu, f.pack 0x30, (some x.pack)⟩
  | .fcmp f x => some ⟨.alu, f.pack 0x31, (some x.pack)⟩
  | .plog f x => some ⟨.alu, f.pack 0x32, (some x.pack)⟩
  | .sel f x => some ⟨.alu, f.pack 0x33, (some x.pack)⟩
  | .pmovGet f x => some ⟨.alu, f.pack 0x3E, (some x.pack)⟩
  | .pmovPut f x => some ⟨.alu, f.pack 0x3E, (some x.pack)⟩
  | .voteAny f x => some ⟨.alu, f.pack 0x34, (some x.pack)⟩
  | .voteAll f x => some ⟨.alu, f.pack 0x34, (some x.pack)⟩
  | .voteBallot f x => some ⟨.alu, f.pack 0x34, (some x.pack)⟩
  | .voteCount f x => some ⟨.alu, f.pack 0x34, (some x.pack)⟩
  | .shfl f x => some ⟨.alu, f.pack 0x35, (x.map XR.pack)⟩
  | .bcast f => some ⟨.alu, f.pack 0x36, none⟩
  | .redux f x => some ⟨.alu, f.pack 0x37, (some x.pack)⟩
  | .scan f x => some ⟨.alu, f.pack 0x38, (some x.pack)⟩
  | .rds f => some ⟨.alu, f.pack 0x39, none⟩
  | .wrsFflags f => some ⟨.alu, f.pack 0x3A, none⟩
  | .wrsSrseed f => some ⟨.alu, f.pack 0x3A, none⟩
  | .kget f => some ⟨.alu, f.pack 0x3B, none⟩
  | .wfield f => some ⟨.alu, f.pack 0x3D, none⟩
  | .wfieldExt f => some ⟨.alu, f.pack 0x3D, none⟩
  | .gget f x => some ⟨.alu, f.pack 0x3C, (some x.pack)⟩
  | .gput f x => some ⟨.alu, f.pack 0x3C, (some x.pack)⟩
  | .gclaim f x => some ⟨.alu, f.pack 0x3C, (some x.pack)⟩
  | .grel f x => some ⟨.alu, f.pack 0x3C, (some x.pack)⟩
  | .ld f x => some ⟨.mem, f.pack 0x01, (x.map XM.pack)⟩
  | .st f x => some ⟨.mem, f.pack 0x02, (x.map XM.pack)⟩
  | .lds f x => some ⟨.mem, f.pack 0x03, (x.map XM.pack)⟩
  | .sts f x => some ⟨.mem, f.pack 0x04, (x.map XM.pack)⟩
  | .ldp f x => some ⟨.mem, f.pack 0x05, (x.map XM.pack)⟩
  | .stp f x => some ⟨.mem, f.pack 0x06, (x.map XM.pack)⟩
  | .ldx f x => some ⟨.mem, f.pack 0x07, (some x.pack)⟩
  | .stx f x => some ⟨.mem, f.pack 0x08, (some x.pack)⟩
  | .ldmx f x => some ⟨.mem, f.pack 0x09, (x.map XM.pack)⟩
  | .stmx f x => some ⟨.mem, f.pack 0x0A, (x.map XM.pack)⟩
  | .atom f x => some ⟨.mem, f.pack 0x0B, (x.map XM.pack)⟩
  | .cas f x => some ⟨.mem, f.pack 0x0C, (some x.pack)⟩
  | .chase f x => some ⟨.mem, f.pack 0x0D, (some x.pack)⟩
  | .fence f => some ⟨.mem, f.pack 0x0E, none⟩
  | .pf f x => some ⟨.mem, f.pack 0x0F, (x.map XM.pack)⟩
  | .ipf f x => some ⟨.mem, f.pack 0x10, (x.map XM.pack)⟩
  | .cwb f x => some ⟨.mem, f.pack 0x11, (x.map XM.pack)⟩
  | .cmdw f => some ⟨.eng, f.pack 0x01, none⟩
  | .go f => some ⟨.eng, f.pack 0x02, none⟩
  | .fTest f => some ⟨.eng, f.pack 0x03, none⟩
  | .fWait f x => some ⟨.eng, f.pack 0x04, (some x)⟩
  | .fCancel f => some ⟨.eng, f.pack 0x05, none⟩
  | .qInit f => some ⟨.eng, f.pack 0x06, none⟩
  | .qEnq f => some ⟨.eng, f.pack 0x07, none⟩
  | .qDeq f => some ⟨.eng, f.pack 0x08, none⟩
  | .qInfo f => some ⟨.eng, f.pack 0x09, none⟩
  | .barInit f => some ⟨.eng, f.pack 0x0A, none⟩
  | .barArv f => some ⟨.eng, f.pack 0x0B, none⟩
  | .barExp f => some ⟨.eng, f.pack 0x0C, none⟩
  | .barWait f x => some ⟨.eng, f.pack 0x0D, (some x)⟩
  | .barTest f => some ⟨.eng, f.pack 0x0E, none⟩
  | .barBlk f => some ⟨.eng, f.pack 0x0F, none⟩
  | .barCmp f => some ⟨.eng, f.pack 0x10, none⟩
  | .mma f x => some ⟨.mat, f.pack 0x01, (x.map XQ.pack)⟩
  | .accz f => some ⟨.mat, f.pack 0x02, none⟩
  | .accld f => some ⟨.mat, f.pack 0x03, none⟩
  | .accst f => some ⟨.mat, f.pack 0x04, none⟩
  | .mrq f x => some ⟨.mat, f.pack 0x05, (x.map XQ.pack)⟩
  | .mgd f x => some ⟨.mat, f.pack 0x06, (some x.pack)⟩
  | .macc f x => some ⟨.mat, f.pack 0x07, (some x.pack)⟩
  | .mscl f x => some ⟨.mat, f.pack 0x08, (some x.pack)⟩
  | .mplane f => some ⟨.mat, f.pack 0x09, none⟩
  | .bra f => some ⟨.ctl, f.pack 0x01, none⟩
  | .brd f x => some ⟨.ctl, f.pack 0x02, (some x.pack)⟩
  | .jmp f => some ⟨.ctl, f.pack 0x03, none⟩
  | .call f => some ⟨.ctl, f.pack 0x04, none⟩
  | .calli f x => some ⟨.ctl, f.pack 0x05, (some x.pack)⟩
  | .ret f => some ⟨.ctl, f.pack 0x06, none⟩
  | .reti f => some ⟨.ctl, f.pack 0x07, none⟩
  | .join f x => some ⟨.ctl, f.pack 0x08, (some x.pack)⟩
  | .exit f => some ⟨.ctl, f.pack 0x09, none⟩
  | .yield f => some ⟨.ctl, f.pack 0x0A, none⟩
  | .acquire f => some ⟨.ctl, f.pack 0x0B, none⟩
  | .trap f => some ⟨.ctl, f.pack 0x0C, none⟩
  | .brk f => some ⟨.ctl, f.pack 0x0D, none⟩
  | .nop f => some ⟨.ctl, f.pack 0x0E, none⟩
  | .rdsp f => some ⟨.sys, f.pack 0x01, none⟩
  | .wrspXpc f => some ⟨.sys, f.pack 0x02, none⟩
  | .wrspXdeleg f => some ⟨.sys, f.pack 0x02, none⟩
  | .wrsp f => some ⟨.sys, f.pack 0x02, none⟩
  | .eret f => some ⟨.sys, f.pack 0x03, none⟩
  | .tlbi f => some ⟨.sys, f.pack 0x04, none⟩
  | .cfl f => some ⟨.sys, f.pack 0x05, none⟩
  | .qdrain f => some ⟨.sys, f.pack 0x06, none⟩
  | .ctxs f => some ⟨.sys, f.pack 0x07, none⟩
  | .ctxr f => some ⟨.sys, f.pack 0x08, none⟩
  | .halt f => some ⟨.sys, f.pack 0x09, none⟩
  -- The events of the part have no encoding.
  | _ => none

/-! ### The words of the opcode table -/

/-- The classes in the order in which a word of the table is tried (log 9). -/
def tableClasses : List Class := [.sys, .ctl, .mat, .eng, .mem, .alu]

/-- A word of the table read in one class: as one word, else with its second word. -/
def decodeTableIn (w0 w1 : Word) (c : Class) : Option Encoded :=
  match decode c w0 none, decode c w0 (some w1) with
  | .ok _, _ => if w1 = 0 then some ⟨c, w0, none⟩ else none
  | .error _, .ok _ => some ⟨c, w0, some w1⟩
  | .error _, .error _ => none

/-- The reading of a table word: its class and its words (log 9). -/
def tableWord (_nbits w : Nat) : Option Encoded :=
  tableClasses.findSome? (decodeTableIn (BitVec.ofNat 32 w) (BitVec.ofNat 32 (w >>> 32)))

/-- The instruction the decoder reads from a word of the opcode table (log 9). -/
def decodeTableWord (nbits w : Nat) : Option Instr :=
  match tableWord nbits w with
  | none => none
  | some e => (decode e.cls e.w0 e.w1).toOption

end Sys2Proof
end

