-- ==== Sys2Proof/Machine/State.lean ====
section
/-! DEFINITION. The state of the part as plain data, what can stop the model, and the state after reset. Maps are
lists of key and value in one canonical form (`Store`). The rule that gives each field stands beside it; a field
that is the model's own is marked with its log entry. -/

namespace Sys2Proof.Machine

/-- What stops the machine. -/
inductive Fault where
  /-- Raised by the meaning of a warp instruction when `State.cur` names no warp (log 1). Safe: no agent of the part
  executes an instruction without a warp. -/
  | noIssuingWarp
  /-- Raised by `step` after POWER_REMOVAL: all state is lost (R402). Safe: nothing runs without power. -/
  | powerRemoved
  deriving DecidableEq, Repr

/-- What has no meaning. -/
inductive Refusal where
  /-- Raised by an arm of `exec` whose instruction is not modelled. Safe: nothing follows from it. -/
  | notModelled (mnemonic : String)
  deriving DecidableEq, Repr

/-! ### Canonical stores -/

/-- A map from keys to values with a default for unlisted keys. -/
abbrev Store (α : Type) := List (Nat × α)

/-- The value at a key; `d` where the key is not listed. -/
def Store.get {α : Type} (d : α) (m : Store α) (a : Nat) : α :=
  match m with
  | [] => d
  | (k, x) :: r => if k = a then x else Store.get d r a

/-- The listed form of the values `f 0` to `f (n-1)` at keys `b` to `b+n-1`: defaults are not listed. -/
def Store.block {α : Type} [DecidableEq α] (d : α) (b n : Nat) (f : Nat → α) : Store α :=
  (List.range n).filterMap fun i => if f i = d then none else some (b + i, f i)

/-- The map with keys `b` to `b+n-1` set to `f 0` to `f (n-1)`, in canonical form. -/
def Store.setBlock {α : Type} [DecidableEq α] (d : α) (m : Store α) (b n : Nat) (f : Nat → α) : Store α :=
  m.filter (fun p => p.1 < b) ++ Store.block d b n f ++ m.filter (fun p => b + n ≤ p.1)

/-- The map with one key set. -/
def Store.set {α : Type} [DecidableEq α] (d : α) (m : Store α) (a : Nat) (x : α) : Store α :=
  Store.setBlock d m a 1 fun _ => x

/-- The canonical form: keys strictly rise and no listed value is the default. -/
def Store.wf {α : Type} [DecidableEq α] (d : α) (m : Store α) : Bool :=
  decide (m.Pairwise fun p q => p.1 < q.1) && m.all fun p => p.2 ≠ d

/-- A map of named things: an unlisted name has none. -/
abbrev Table (α : Type) := Store (Option α)

/-- The thing of a name. -/
def Table.find {α : Type} (m : Table α) (n : Nat) : Option α := Store.get none m n

/-- The map with a thing put under a name. -/
def Table.put {α : Type} [DecidableEq α] (m : Table α) (n : Nat) (x : α) : Table α := Store.set none m n (some x)

/-- The map without a name. -/
def Table.erase {α : Type} [DecidableEq α] (m : Table α) (n : Nat) : Table α := Store.set none m n none

/-- The names and things of a map. -/
def Table.all {α : Type} (m : Table α) : List (Nat × α) := m.filterMap fun p => p.2.map fun x => (p.1, x)

/-! ### Schedule (log 1) -/

/-- Which agent moves next: the model's own schedule (log 1). -/
inductive Move where
  /-- A warp decodes its clause or issues its next instruction. -/
  | warp (id : Nat)
  /-- An event of the opcode table. -/
  | event (i : Instr)
  /-- Clocks of the main clock and ticks of `gtime` pass. -/
  | tick (clocks ns : Nat)
  /-- A line of memory takes an uncorrectable error (R385). -/
  | lineError (line : Nat)
  /-- A register, latch or tile of a warp takes an uncorrectable error (R385): file 0 v, 1 e, 2 k, 3 latch, 4 tile. -/
  | registerError (warp file n : Nat)
  /-- A core's L1 evicts a line (R362). -/
  | evict (core line : Nat)
  /-- The L2 writes a dirty line back to its stack (R319). -/
  | l2WriteBack (line : Nat)
  /-- An RDMA SEND on a connection (R387). -/
  | send (conn : Nat)
  /-- A host opens or loses a connection (R387, R402): its number, its port, its peer. -/
  | connect (conn port peer : Nat)
  | disconnect (conn : Nat)
  /-- The operations of a connection that wait go on as far as they can (R388). -/
  | serve (conn : Nat)
  /-- A chase packet of another module arrives (R196): the domain group of its compartment (R395) and its 96 bytes. -/
  | packetIn (group : Nat) (bytes : List Byte)
  /-- A RESET falls within the flash write of a commit (R399). -/
  | flashCut (h : MgmtHdr)
  /-- Another module withdraws a request of its own that waits at a home here (R161, R165, R386, R395): its number and the
  identifier of the request. -/
  | remoteWithdraw (src ident : Nat)
  /-- What waits for a plane is tried again (R397). -/
  | resend
  deriving DecidableEq, Repr

/-! ### Warps -/

/-- The states of Table 2.4; blocked is `Warp.wait`, swapped is `Warp.swapped`. -/
inductive Phase where
  | prologue | acquiring | running | ended
  deriving DecidableEq, Repr

/-- What a blocked warp waits for (R34). -/
inductive Wait where
  /-- Pending registers (R76), as masks of v, e and k. The warp issues again. -/
  | interlock (v e k : Mask)
  /-- A snapshot pool entry for k0 to k(m-1) (R52). The warp issues again. -/
  | pool (m : Nat)
  /-- A command place of the core (R173). The warp issues again. -/
  | goFull
  /-- A `fence` that has not retired (R274). The warp issues again. -/
  | fence
  /-- A plane that carries nothing now, of a `cfl` or a `qdrain` (R315, R397). The warp issues again. -/
  | plane
  /-- A `ctxs` or `ctxr` (R315). The warp issues again. -/
  | sys
  /-- What it waited for when it was swapped out, withdrawn (R67, R303). The warp issues again. -/
  | again
  /-- The beats of an instruction that rounds stochastically (R103, log 47). The warp issues again. -/
  | beats
  /-- `gclaim` (R43). -/
  | gclaim
  /-- A queue operation at its home, `q.init` and `qdrain` included (R157, R159, R320). -/
  | queue (op : Nat)
  /-- A barrier object's waiter list (R165). -/
  | barrier (id : Nat)
  /-- A future (R284): context, token and sequence, with the clock of the deadline and the result register. -/
  | future (handle : DWord) (deadline : Option Nat) (dst : Nat)
  /-- The block barrier (R167). -/
  | blockBar
  /-- The twin's `mgd` (R302). -/
  | mgd
  /-- A twin's `join` (R66): the clause after it, L and M. -/
  | join (after : DWord) (l m : Nat)
  /-- A resume element (R372, R373). -/
  | resume
  deriving DecidableEq, Repr

/-- A wait after which the warp issues its instruction again. -/
def Wait.reissues : Wait → Bool
  | .interlock _ _ _ | .pool _ | .goFull | .fence | .plane | .sys | .again | .beats => true
  | _ => false

/-- What the part keeps of a recorded chase beside its record (R376, log 11): the clause it stands in, its mode, whether it
has trapped and whether its records wait for `eret`, and its step words as they stood at issue. -/
structure Walk where
  pc : DWord
  super : Bool
  trapped : Bool
  held : Bool
  steps : List DWord
  deriving DecidableEq, Repr

/-- A warp (R67, Table 3.1, Table 15.1). -/
structure Warp where
  /-- R10, R29: its core. -/
  core : Nat
  /-- R10, R29: its quarter. -/
  quarter : Nat
  /-- R36, R67: its warp slot. -/
  slot : Nat
  /-- R29: its block. -/
  block : Nat
  /-- R29: its index in the block. -/
  widx : Nat
  /-- R62: its place in a pair. -/
  twin : Nat
  /-- R57: formed from spawn records. -/
  formed : Bool
  /-- R339: its compartment. -/
  cmp : Nat
  /-- R330: its context. -/
  ctx : Nat
  /-- R329, R335: supervisor mode. -/
  super : Bool
  /-- R34, R67: Table 2.4. -/
  phase : Phase
  /-- R67, R379: in a save area. -/
  swapped : Bool
  /-- R83, R322: killed: what still comes back for it is dropped. -/
  killed : Bool
  /-- R34: what it is blocked on. -/
  wait : Option Wait
  /-- R33, R35: the thread mask. -/
  mask : Mask
  /-- R20, R35: work identifiers. -/
  wids : Store DWord
  /-- R203: address of the clause's header. -/
  pc : DWord
  /-- R203, R208: the instruction of the clause that is next. -/
  ix : Nat
  /-- R204: whether the clause at pc has been decoded. -/
  fetched : Bool
  /-- R202, R206: the clause's header. -/
  hdr : Header
  /-- R204: the clause's words as fetched. -/
  words : List Word
  /-- R36, R38: whether it holds the full allotment. -/
  full : Bool
  /-- R36, R37: v registers of the allotment. -/
  va : Nat
  /-- R36, R37: k registers of the allotment. -/
  ka : Nat
  /-- R38, R192: accumulator tiles of the allotment. -/
  ta : Nat
  /-- R71: v registers, keyed 128r + t. -/
  v : Store Word
  /-- R71: scale registers, keyed 32r + i. -/
  e : Store Byte
  /-- R71: k registers. -/
  k : Store DWord
  /-- R71: predicates; p0 reads true. -/
  p : Store Mask
  /-- R192: accumulator tiles. -/
  acc : Store Word
  /-- R79, R80: latches. -/
  lat : Store DWord
  /-- R82: how many latches have been written. -/
  latN : Nat
  /-- R82, R317: the latches a trap saved. -/
  slat : Store DWord
  /-- R77: dependency counters. -/
  d : Store Nat
  /-- R75: pending bits of v. -/
  pendV : Mask
  /-- R75: pending bits of e. -/
  pendE : Mask
  /-- R75: pending bits of k. -/
  pendK : Mask
  /-- R264, R385: registers marked uncorrectable. -/
  markV : Mask
  /-- R264, R385: the same of e. -/
  markE : Mask
  /-- R264, R385: the same of k. -/
  markK : Mask
  /-- R385: the same of latches. -/
  markL : BitVec 4
  /-- R385: the same of tiles. -/
  markT : BitVec 64
  /-- R264: the address behind a mark. -/
  markAddr : Store DWord
  /-- R88: sticky flags. -/
  fflags : BitVec 5
  /-- R172, R282: the command window. -/
  win : Store DWord
  /-- R330, R335: Table 15.1, Table 15.2. -/
  xpc : DWord
  /-- R330, R335: Table 15.1. -/
  xcause : DWord
  /-- R330, R335: Table 15.1. -/
  xval : DWord
  /-- R330, R335: Table 15.1, Table 15.3. -/
  xstat : DWord
  /-- R330: Table 15.1. -/
  xscr0 : DWord
  /-- R330: Table 15.1. -/
  xscr1 : DWord
  /-- R317, R331: whether xpc still holds what the trap wrote. -/
  xarm : Bool
  /-- R137: outstanding stores. -/
  out : Nat
  /-- R398: a store that failed. -/
  sfail : Option DWord
  /-- R361: priority. -/
  prio : Nat
  /-- R361: boosted. -/
  boosted : Bool
  /-- R361: since when it has started nothing. -/
  idleSince : Nat
  /-- R362: lost-locality score. -/
  score : Nat
  /-- R207: when it yielded. -/
  yieldAt : Option Nat
  /-- R207: the ready warps it yielded to that have not started a clause since, each with the instruction of its clause at which
  it stood. -/
  yieldFor : List (Nat × Nat)
  /-- R39, R41: since when it waits in acquire. -/
  acqAt : Option Nat
  /-- R39, R360: gtime at which it was placed or formed. -/
  age : Nat
  /-- R302: how many mgd it has completed. -/
  mgdN : Nat
  /-- R374: the resume token it waits with. -/
  token : Option DWord
  /-- R372: the trap it is suspended on. -/
  susp : Option (Nat × DWord)
  /-- R199, R317: where it stood when a chase that it had passed trapped (log 11). -/
  xback : Option DWord
  /-- R376: what Table 17.3 has no place for of its recorded chases, in record order, while it is swapped out (log 11). -/
  walks : List Walk
  deriving DecidableEq, Repr

/-! ### Blocks, clusters, launches -/

/-- A pending spawn record (R50, R68): its slot, M, snapshot pool entry, key fields, age and wait. -/
structure Rec where
  /-- R50: its slot in the record area. -/
  slot : Nat
  /-- R50, R308: how many k registers travel. -/
  m : Nat
  /-- R51, R52: its snapshot pool entry. -/
  pool : Option Nat
  /-- R50: where its thread goes on. -/
  pc : DWord
  /-- R50, R66: of a follower. -/
  follower : Bool
  /-- R50: supervisor mode. -/
  super : Bool
  /-- R56: its age. -/
  seq : Nat
  /-- R20, R50: its thread. -/
  wid : DWord
  /-- R56: when it was written. -/
  waited : Nat
  /-- R374: a fault record of the former waits on this token. -/
  token : Option DWord
  deriving DecidableEq, Repr

/-- A resident or swapped block (R28 to R30, R43, R49 to R57, R167, R353); `arrivals` holds the clauses at which shed
threads of its twins have arrived (R66). -/
structure Block where
  /-- R27: its launch. -/
  launch : Nat
  /-- R25: its cluster. -/
  cluster : Nat
  /-- R25: its index in the cluster. -/
  index : Nat
  /-- R24: its number in the launch. -/
  blkno : DWord
  /-- R28: its cores. -/
  cores : List Nat
  /-- R62: of a paired launch. -/
  paired : Bool
  /-- R22: its threads. -/
  threads : Nat
  /-- R22, R23: W_b, the width of a thread's index. -/
  wbits : Nat
  /-- R30: its scratchpad window. -/
  window : Nat
  /-- R36: prologue v. -/
  pv : Nat
  /-- R36: full v. -/
  fv : Nat
  /-- R36: k. -/
  ka : Nat
  /-- R38: tiles. -/
  acc : Nat
  /-- R49: Lmax. -/
  lmax : Nat
  /-- R49: Mmax. -/
  mmax : Nat
  /-- R353: its spawn region. -/
  region : Nat
  /-- R49, R353: the base of its spawn region. -/
  spawnBase : DWord
  /-- R121: the base of its private region. -/
  privBase : DWord
  /-- R121: private bytes per thread. -/
  privBytes : Nat
  /-- R43, R89: published block-uniform registers. -/
  gpub : Store DWord
  /-- R43: the owner's copies. -/
  gown : Store DWord
  /-- R43, R89: owners. -/
  gowner : Table Nat
  /-- R44: queued gclaims, oldest first. -/
  claims : List (Nat × Nat)
  /-- R167: members of the block barrier. -/
  live : Nat
  /-- R167: members that have arrived. -/
  arrived : Nat
  /-- R167: phase of the block barrier. -/
  phase : Nat
  /-- R50, R68: pending spawn records. -/
  recs : List Rec
  /-- R66: shed threads that have arrived at a join. -/
  arrivals : List (Nat × DWord)
  /-- R53: the core of its reserved slot. -/
  resCore : Nat
  /-- R53: the quarter of its reserved slot. -/
  resQuarter : Nat
  /-- R53: its reserved warp slot. -/
  resSlot : Nat
  /-- R53: the formed warp in it. -/
  resWarp : Option Nat
  /-- R68: when it was swapped out. -/
  outAt : Nat
  /-- R121, R129: dirty private bytes that the L1 holds. -/
  priv : Table Byte
  /-- R67, R379: in a save area. -/
  swapped : Bool
  deriving DecidableEq, Repr

/-- A cluster (R25, R378). -/
structure Cluster where
  /-- R378: its cluster token. -/
  token : DWord
  /-- R25: its launch. -/
  launch : Nat
  /-- R339: its compartment. -/
  cmp : Nat
  /-- R330: its context. -/
  ctx : Nat
  /-- R25: its blocks in order. -/
  blocks : List Nat
  /-- R67, R379: in a save area. -/
  swapped : Bool
  /-- R379: the warp whose `ctxs` has stopped its issue. -/
  stopping : Option Nat
  deriving DecidableEq, Repr

/-- A launch header (Table 16.1) as the distributor read it. -/
structure LaunchHdr where
  prio : Nat
  coop : Bool
  paired : Bool
  entry : DWord
  widths : List Nat
  extents : List Nat
  b : Nat
  c : Nat
  pv : Nat
  fv : Nat
  ka : Nat
  acc : Nat
  scratch : Nat
  privBytes : Nat
  arg : DWord
  regionBase : DWord
  spawn : Nat
  lmax : Nat
  mmax : Nat
  regions : Nat
  dep : Option (DWord × Nat)
  comp : Option DWord
  deriving DecidableEq, Repr

/-- Where a launch stands (R350 to R358). -/
inductive LaunchState where
  | queued | waiting | active | placed
  deriving DecidableEq, Repr

/-- A launch (R348 to R358). -/
structure Launch where
  /-- R349: its compartment. -/
  cmp : Nat
  /-- R349: its launch queue. -/
  queue : Nat
  /-- R349: its context. -/
  ctx : Nat
  /-- R349: starts in supervisor mode. -/
  super : Bool
  /-- R348, R350: its entry of the launch table. -/
  entryIx : Nat
  /-- R348, R350: the address of that entry. -/
  entryAddr : DWord
  /-- R348: its header. -/
  hdr : LaunchHdr
  /-- R350, R351, R354: where it stands. -/
  state : LaunchState
  /-- R354: its next cluster. -/
  next : Nat
  deriving DecidableEq, Repr

/-! ### Work in flight -/

/-- A register write that lands later (R75). -/
inductive RegWrite where
  | v (r : Nat) (vals : List (Nat × Word))
  | k (r : Nat) (val : DWord)
  | e (r : Nat) (vals : List (Nat × Byte))
  deriving DecidableEq, Repr

/-- What a replay record keeps of an instruction (Table 17.3). -/
structure Replay where
  kind : Nat
  counter : Nat
  ix : Nat
  w0 : Word
  w1 : Word
  mask : Mask
  addrs : List (Nat × DWord)
  deriving DecidableEq, Repr

/-- A read or result in flight (R75, R264): where it lands, what it writes and what it marks. -/
structure Load where
  /-- R75: who issued it. -/
  warp : Nat
  /-- R83: the slot it issued in. -/
  slot : Nat
  /-- R83: the generation it issued in. -/
  gen : Nat
  /-- R77: its counter. -/
  dc : Option Nat
  /-- R75: what lands. -/
  writes : List RegWrite
  /-- R264: what is marked when it lands. -/
  bad : List (Nat × Nat × DWord)
  /-- R376, R377: what a save area keeps of it. -/
  rep : Option Replay
  /-- R393: it comes from another module. -/
  far : Bool
  deriving DecidableEq, Repr

/-- A group of stores not yet acknowledged (R137). -/
structure Ack where
  /-- R137: who stored. -/
  warp : Nat
  /-- R83: the slot. -/
  slot : Nat
  /-- R83: the generation. -/
  gen : Nat
  /-- R77: its counter. -/
  dc : Option Nat
  /-- R137: acknowledgements to come. -/
  left : Nat
  /-- R393: they come from another module. -/
  far : Bool
  deriving DecidableEq, Repr

/-- Where one thread's packet stands (R195 to R199). -/
inductive ChaseState where
  | flying
  | done (result : DWord)
  | fault (kind : Nat) (addr : DWord)
  | hop
  | bad (addr : DWord)
  deriving DecidableEq, Repr

/-- One thread's chase packet (Table 7.7): `owner` is the module and base die it stands at. -/
structure Packet where
  /-- R194: its thread position. -/
  pos : Nat
  /-- R194, R196: its pointer. -/
  ptr : DWord
  /-- R196: its step. -/
  step : Nat
  /-- R197: its hops. -/
  hops : Nat
  /-- R195, R196: where it stands. -/
  owner : Option (Nat × Nat)
  /-- R200: sent again. -/
  replay : Bool
  /-- R195, R199: where it stands in its walk. -/
  st : ChaseState
  deriving DecidableEq, Repr

/-- A chase (R194 to R200): `pc` is its clause, `super` the mode it issued in, `trapped` that it has trapped and its replay
is not complete (R199, R335), `held` that its records wait for `eret` (R200). -/
structure Chase where
  warp : Nat
  pc : DWord
  super : Bool
  trapped : Bool
  held : Bool
  slot : Nat
  gen : Nat
  dc : Nat
  dst : Nat
  steps : List DWord
  cmp : Nat
  ctx : Nat
  root : DWord
  packets : List Packet
  rep : Replay
  deriving DecidableEq, Repr

/-- What a chase packet carries beside its walk (Table 7.7). -/
structure Carried where
  steps : List DWord
  route : DWord
  ctxid : Nat
  root : DWord
  deriving DecidableEq, Repr

/-- A copy command (R172 to R186). -/
structure Cmd where
  warp : Nat
  slot : Nat
  gen : Nat
  cmp : Nat
  ctx : Nat
  block : Nat
  cluster : Nat
  launch : Nat
  core : Nat
  engine : Nat
  token : BitVec 16
  seq : BitVec 32
  handle : DWord
  w : List DWord
  dc : Nat
  kreg : Nat
  barrier : Option DWord
  /-- R168, R169: its future's status. -/
  status : Nat
  /-- R170, R174: taken by its engine. -/
  taken : Bool
  /-- R173: a serial command may make its first access. -/
  started : Bool
  /-- R174: its table. -/
  table : List Byte
  /-- R103, R179: the generator it rounds with. -/
  gstate : Word
  deriving DecidableEq, Repr

/-- Who makes a queue operation (R407). -/
inductive QAgent where
  /-- A warp, with the slot and generation of its issue. -/
  | warp (w slot gen : Nat)
  /-- A host-window write (R160): its connection and rkey. -/
  | window (conn rkey : Nat)
  /-- An event record (R390): its source. -/
  | event (source : Nat)
  /-- Another module (R152, R395): its number and the identifier of its request. -/
  | module (src ident : Nat)
  /-- The distributor, for a launch queue (R350). -/
  | distributor (queue : Nat)
  /-- A fault record of the part (R373): the warp or command that waits on it. -/
  | record (warp cmd : Option Nat)
  deriving DecidableEq, Repr

/-- A queue operation that waits or has been reserved or taken (R155 to R158): `status` is the register that a try form
writes on completion (R280), `via` the page tables and the domain group of another module's context (R395, R407). -/
structure QOp where
  status : Option Nat
  via : Option (DWord × Nat)
  agent : QAgent
  enq : Bool
  threads : List Nat
  thr : Bool
  span : Nat
  cmp : Nat
  ctx : Nat
  cluster : Nat
  addr : DWord
  data : List (List Byte)
  dst : Nat
  dc : Option Nat
  counters : List Nat
  slots : List (List (Nat × Bool))
  word : Word
  init : List DWord
  /-- R320: a `qdrain` in this mode. -/
  drain : Option Nat
  deriving DecidableEq, Repr

/-- The home of a queue (R152, R158, R159): operations reserved or taken, and the waiter lists, oldest first. -/
structure QHome where
  /-- R155, R156: reserved or taken, in order. -/
  busy : List Nat
  /-- R158: waiting enqueues. -/
  enqW : List Nat
  /-- R158: waiting dequeues. -/
  deqW : List Nat
  /-- R152, R159, R320: arrived and not yet performed: a q.init or a qdrain that waits, and what arrived behind it. -/
  line : List Nat
  /-- R152, R320: its line is pinned. -/
  pin : Bool
  deriving DecidableEq, Repr

/-- What waits for a plane that carries nothing now (R397): a record of the part's own whose control block cannot be
translated, or a chase packet of another module. -/
inductive Delayed where
  | post (id : Nat) (op : QOp)
  | packet (group : Nat) (c : Carried) (p : Packet)
  deriving DecidableEq, Repr

/-- Who waits at a barrier object (R165, R351). -/
inductive BWho where
  | warp (w : Nat)
  | launch (l : Nat)
  /-- Another module (R395): its number and the identifier of its request. -/
  | module (src ident : Nat)
  deriving DecidableEq, Repr

/-- A waiter of a barrier object: its key, the phase value, the deadline, and whether a phase has completed since. -/
structure BWait where
  who : BWho
  key : Nat
  /-- R165: the phase waited to pass. -/
  phase : Nat
  /-- R165: its bound. -/
  deadline : Option Nat
  dst : Nat
  woken : Option Nat
  deriving DecidableEq, Repr

/-! ### Matrix engines -/

/-- A matrix-engine instruction with the operands it captured at issue (R188 to R193, R297 to R304). -/
inductive MatKind where
  | mma (tile : Nat) (zero share : Bool) (ta tb : Nat) (baddr : Nat) (a sa b sb : List Nat)
  | accz (tile : Nat)
  | accld (tile : Nat) (vals : List Word)
  | accst (tile r : Nat)
  | mrqReg (tile r ty rnd : Nat)
  | mrqMem (tile ty rnd : Nat) (lines : List (Nat × Bool × DWord))
  | mgd (tile : Nat) (g : Word)
  | macc (tile t2 : Nat)
  | mscl (tile : Nat) (g : Word) (rnd : Nat)
  deriving DecidableEq, Repr

/-- An instruction held by a matrix engine. -/
structure MatOp where
  warp : Nat
  slot : Nat
  gen : Nat
  kind : MatKind
  deriving DecidableEq, Repr

/-- R63: a B tile that an `mma` with the share bit has fetched: its pair, the twin that issued it, the address, the type
and when it issued. -/
structure Shared where
  block : Nat
  widx : Nat
  twin : Nat
  baddr : Nat
  ty : Nat
  at_ : Nat
  deriving DecidableEq, Repr

/-- A quarter's matrix engine (R188, R193): its queue, its running instruction, the `mgd` that wait for their twins,
and the B tiles it keeps for twins. -/
structure Engine where
  /-- R188: its queue. -/
  queue : List MatOp
  /-- R188, R293: the instruction that runs. -/
  run : Option MatOp
  /-- R193, R302: mgd that wait for a twin. -/
  rendezvous : List MatOp
  /-- R193: the B tiles kept for a twin, for 64 clocks each. -/
  shared : List Shared
  deriving DecidableEq, Repr

/-- R103, R104: the steps that a unit of a quarter takes of its generator, `per` in each of the `left` clocks to come: the
unit is 0 VA, 1 VB, 2 the matrix engine; `words` are the states that its steps have left, in order. -/
structure Draw where
  quarter : Nat
  unit : Nat
  /-- The warp that waits for it and the point at which it stands; 0 for the engine. -/
  warp : Nat
  point : DWord
  left : Nat
  per : Nat
  words : List Word
  deriving DecidableEq, Repr

/-! ### Contexts, compartments, the outside -/

/-- A context (R330, R333). -/
structure Ctx where
  /-- R333, R365: page-table root. -/
  ptroot : DWord
  /-- R330, R333: trap vector. -/
  xvec : DWord
  /-- R330, R337: delegation mask. -/
  xdeleg : DWord
  /-- R332: the vector and the mask before the last write, for other warps in its clock. -/
  old : DWord × DWord
  /-- R332: the warp that last wrote one of them, and when. -/
  wrote : Option (Nat × Nat)
  /-- R386: fenced. -/
  fenced : Bool
  /-- R169: engines it has used. -/
  engines : List (Nat × Nat)
  /-- R169: command sequences. -/
  seqs : Store Nat
  deriving DecidableEq, Repr

/-- A launch queue (R349). -/
structure LaunchQueue where
  block : DWord
  table : DWord
  entries : Nat
  super : Bool
  ctx : Nat
  /-- R352: the root of its context's page tables, for when the context is destroyed (log 48). -/
  root : DWord
  /-- R408: stopped. -/
  stopped : Bool
  deriving DecidableEq, Repr

/-- Who waits on a resume token (R374): a warp, or the warp former for a group of a block, whose
records hold the token. -/
inductive Waiter where
  | warp (w : Nat)
  | former (block : Nat)
  deriving DecidableEq, Repr

/-- An outstanding resume token (R374, R375): the action noted while the cluster was swapped out. -/
structure Token where
  token : DWord
  who : Waiter
  /-- R375: a resume action noted while swapped. -/
  noted : Option Nat
  deriving DecidableEq, Repr

/-- A compartment (R339, R340). -/
structure Comp where
  /-- R339: its core groups. -/
  coreGroups : BitVec 48
  /-- R339: its stack groups. -/
  stackGroups : BitVec 8
  /-- R83, R330: dropped-return count. -/
  drc : DWord
  /-- R349, R373: its fault queue. -/
  qfault : Option (DWord × Nat)
  /-- R349, R390: its event queue. -/
  qevent : Option (DWord × Nat)
  /-- R395: its domain group. -/
  group : Nat
  /-- R373: sequence of fault records. -/
  seqFault : Nat
  /-- R390: sequences of event records. -/
  seqEvent : Store Nat
  /-- R390: event records lost. -/
  lost : Store Nat
  /-- R374: sequence of resume tokens. -/
  seqToken : Nat
  /-- R378: sequence of cluster tokens. -/
  seqCluster : Nat
  /-- R374: outstanding resume tokens. -/
  tokens : List Token
  /-- R349: its launch queues. -/
  queues : Table LaunchQueue
  deriving DecidableEq, Repr

/-- A target of RDMA that management made (R387). -/
inductive Target where
  | region (cmp ctx : Nat) (base : DWord) (len : Nat) (rd wr side : Bool)
  | window (cmp ctx : Nat) (block : DWord)
  deriving DecidableEq, Repr

/-- What the part sends to the host or to another module (R160, R388, R392, R397). -/
inductive HostMsg where
  /-- An operation of a connection is done (R387, R388). -/
  | writeDone (conn rkey : Nat)
  | readData (conn rkey : Nat) (data : List Byte)
  | sendDone (conn : Nat)
  /-- R387, R389: a remote access error. -/
  | accessError (conn rkey : Nat)
  /-- R392: the reply to a command. -/
  | reply (conn : Nat) (addr : DWord) (rkey : BitVec 32) (data : List Byte)
  /-- R397: the answer to a request of another module; none where it is refused. -/
  | remote (src ident : Nat) (data : Option (List Byte))
  /-- R196: a chase packet to another module (Table 7.7). -/
  | packet (module : Nat) (bytes : List Byte)
  /-- R198: the reply of a chase packet to its route: the end of its walk. -/
  | chaseReply (route : DWord) (end_ : Packet)
  deriving DecidableEq, Repr

/-- An operation that a host posts on a connection (R387). -/
inductive HostOp where
  | write (rkey : Nat) (va : DWord) (data : List Byte)
  | read (rkey : Nat) (va : DWord) (len : Nat)
  | window (rkey : Nat) (data : List Byte)
  | send
  deriving DecidableEq, Repr

/-- A connection (R387, R388): its port, its peer, the operations posted on it and not yet performed in posting order,
and whether a host-window write of it waits at a queue (R160). -/
structure Conn where
  /-- R15, R387: its port. -/
  port : Nat
  /-- R393: its peer. -/
  peer : Nat
  /-- R388: what it has posted. -/
  posted : List HostOp
  /-- R160, R388: a window write of it waits. -/
  waiting : Bool
  deriving DecidableEq, Repr

/-- A cached translation (R369, R370): the compartment and context it serves, its level, its page base and its leaf. -/
structure TlbEntry where
  core : Nat
  cmp : Nat
  ctx : Nat
  level : Nat
  page : Nat
  leafAt : DWord
  /-- R368, R370: the leaf as cached. -/
  leaf : DWord
  deriving DecidableEq, Repr

/-- What a base die last reported of a quarter (R357). -/
structure Report where
  /-- R357: free slots last reported. -/
  slots : Nat
  granules : Nat
  tiles : Nat
  scratch : Nat
  deriving DecidableEq, Repr

/-- A line of a core's L1 (R362): the quarter that brought it in, its line number, whether a read did (stores alone bring in the
lines that `cwb` keeps, R277), and whether it lies on a loose page or in a private area (R277, R319). -/
structure Fill where
  quarter : Nat
  line : Nat
  read : Bool
  weak : Bool
  deriving DecidableEq, Repr

/-- What runs on the management processor (R399, R400). -/
inductive Boot where
  | rom | recovery | running
  deriving DecidableEq, Repr

/-- The state of the part. -/
structure State where
  /-- log 1: the moves to come. -/
  agenda : List Move
  /-- log 1: the warp whose instruction this step executes. -/
  cur : Nat
  /-- log 2: how many free values have been drawn. -/
  fresh : Nat
  /-- log 2: the next name of a warp, block, request or command. -/
  nextId : Nat
  /-- R402: whether the part has power. -/
  power : Bool
  /-- R399, R400: what the management processor runs: boot ROM, recovery, firmware. -/
  boot : Boot
  /-- R402: issue stopped in every quarter. -/
  issueStopped : Bool
  /-- R402: the main clock lowered. -/
  clockLow : Bool
  /-- R3, R87: main clocks since reset. -/
  clock : Nat
  /-- R87: a core's offset of `cyc`: cores are not aligned. -/
  cycOff : Store Nat
  /-- R87, R390: global time. -/
  gtime : Nat
  /-- R117, R119, R120: every stack's payload bytes and every resident block's scratchpad window. -/
  mem : List Host.Cell
  /-- R13, R99: sidebands. -/
  side : List Host.Cell
  /-- R119, R319: what a stack still holds of payload bytes that the L2 holds newer. -/
  stale : Table Byte
  /-- R119, R319: the same of sideband bytes. -/
  staleSide : Table Byte
  /-- R385: by line, the bytes that an uncorrectable error leaves failed: payload bytes 0 to 127, sideband bytes from
  bit 128. -/
  failed : Store (BitVec 136)
  /-- R385: corrections not yet reported. -/
  corrected : Store Nat
  /-- R385: when a corrected-error record was last posted. -/
  correctedAt : Table Nat
  /-- R129, R134, R277, R398: loose bytes that a core's L1 holds for a warp newer than their home, each with the virtual
  address of its store. -/
  l1 : Table (Byte × DWord)
  /-- R11, R362: the lines that reads and kept stores have brought into L1s. -/
  fills : List Fill
  /-- R362: the victim tag arrays. -/
  tags : List (Nat × Nat)
  /-- R362: when a quarter last halved its scores. -/
  decayAt : Store Nat
  /-- R363: the throttle tables; an unlisted core holds Table 16.3. -/
  throttle : Store (List Nat)
  /-- R369, R370: cached translations of cores and engines. -/
  tlb : List TlbEntry
  /-- R67: every warp that holds a slot or stands in a save area. -/
  warps : Table Warp
  /-- R28, R353: resident and swapped blocks. -/
  blocks : Table Block
  /-- R25, R378: resident and swapped clusters. -/
  clusters : Table Cluster
  /-- R348, R358: launches the distributor holds. -/
  launches : Table Launch
  /-- R83: generations. -/
  gens : Store Nat
  /-- R103: stochastic-rounding generators; an unlisted quarter holds 1. -/
  sr : Store Word
  /-- R103, R104: steps of the generators under way. -/
  draws : List Draw
  /-- R104, R256: states that a `wrs` has given generators in this clock, which they take at its end. -/
  seeds : Table Word
  /-- R188, R193: matrix engines. -/
  engines : Table Engine
  /-- R75, R77, R264: reads and results in flight. -/
  loads : Table Load
  /-- R137: stores not yet acknowledged. -/
  acks : Table Ack
  /-- R194, R200: chases and their packets. -/
  chases : Table Chase
  /-- R168, R173, R186: copy commands and their futures. -/
  cmds : Table Cmd
  /-- R155, R157, R158: queue operations that wait or are under way. -/
  qops : Table QOp
  /-- R152, R158, R159: what a queue's home holds. -/
  homes : Table QHome
  /-- R165, R351: waiters of barrier objects. -/
  barWaits : Table BWait
  /-- R330, R333: contexts. -/
  ctxs : Table Ctx
  /-- R339, R340: compartments. -/
  comps : Table Comp
  /-- R387: regions and host windows. -/
  rkeys : Table Target
  /-- R160, R388, R392, R397: what the part has sent to hosts and other modules. -/
  hostOut : List HostMsg
  /-- R387: the connections of hosts. -/
  conns : Table Conn
  /-- R395: the part's own module number. -/
  ownModule : Nat
  /-- R395: the domain's members. -/
  members : List Nat
  /-- R396: the plane map. -/
  planeMap : List Nat
  /-- R397: planes with no port. -/
  deadPlanes : List Nat
  /-- R397: between QUIESCE and RELEASE. -/
  quiesced : Bool
  /-- R397: what waits for a plane and has no home or warp to wait at. -/
  delayed : List Delayed
  /-- R397: answers kept for requests sent again. -/
  remoteLog : List (Nat × Nat × Option (List Byte))
  /-- R398: failed UCIe links. -/
  downLinks : List (Nat × Nat)
  /-- R18, R339: where a core group stands. -/
  coreDie : Table Nat
  /-- R357: the last resource report. -/
  reports : Table Report
  /-- R357: when a base die last reported. -/
  reportAt : Store Nat
  /-- R360: the warps that each quarter has started in this clock, with their pipes. -/
  chosen : List (Nat × Nat × Nat)
  /-- R9, R10: the clock from which a pipe of a quarter accepts an instruction. -/
  pipes : Store Nat
  /-- R41: cores under the admission throttle. -/
  throttled : List Nat
  /-- R399: the firmware image that runs. -/
  image : List Byte
  /-- R399: the firmware image in flash. -/
  flash : List Byte
  /-- R399: a reset fell within a flash write: flash holds no valid image. -/
  torn : Bool
  /-- R399, R400: the staged image. -/
  staged : List Byte
  /-- R399: the minimum security version in fuses. -/
  fuseMin : Nat
  /-- R389, R400: peers whose management window is mapped. -/
  peers : List Nat
  deriving DecidableEq, Repr

/-! ### Reset -/

/-- The default throttle table (Table 16.3). -/
def defaultThrottle : List Nat := [32, 24, 16, 12, 8, 6, 6, 6, 4, 4, 4, 4, 2, 2, 2, 2]

/-- An unowned compartment (log 7). -/
def Comp.unowned : Comp :=
  { coreGroups := 0, stackGroups := 0, drc := 0, qfault := none, qevent := none, group := 0, seqFault := 0,
    seqEvent := [], lost := [], seqToken := 0, seqCluster := 0, tokens := [], queues := [] }

/-- The machine right after reset: the boot ROM is about to run (R399), nothing is placed, the generators hold 1
(R103), plane map entry i is i (R396), the throttle tables hold Table 16.3 (R363). Fields that no rule gives a reset
value are at the values of log 7. -/
def State.reset : State :=
  { agenda := [], cur := 0, fresh := 0, nextId := 1, power := true, boot := .rom, issueStopped := false,
    clockLow := false, clock := 0, cycOff := [], gtime := 0, mem := [], side := [], stale := [], staleSide := [], failed := [], corrected := [],
    correctedAt := [], l1 := [], fills := [], tags := [], decayAt := [], throttle := [], tlb := [], warps := [], blocks := [],
    clusters := [], launches := [], gens := [], sr := [], draws := [], seeds := [], engines := [], loads := [], acks := [], chases := [],
    cmds := [], qops := [], homes := [], barWaits := [], ctxs := [], comps := [], rkeys := [], hostOut := [],
    conns := [],
    ownModule := 0, members := [], planeMap := List.range 16, deadPlanes := [], quiesced := false, delayed := [], remoteLog := [],
    downLinks := [], coreDie := [], reports := [], reportAt := [], chosen := [], pipes := [], throttled := [], image := [], flash := [], torn := false, staged := [], fuseMin := 0,
    peers := [] }

end Sys2Proof.Machine
end

