-- ==== Sys2Proof/Machine/Mem.lean ====
section
/-! DEFINITION. Memory and translation: bytes and sidebands, fabric physical addresses (R117 to R119), page tables and
translation caches (R365 to R371), scratchpad windows (R120), loose lines in the L1 (R134). -/

namespace Sys2Proof.Machine

/-! ### Bytes -/

/-- The number that bytes hold, least significant first (R3). -/
def natOfBytes (l : List Byte) : Nat := l.foldr (fun b n => b.toNat + 256 * n) 0

/-- The `n` bytes of a number, least significant first (R3). -/
def bytesOfNat (n x : Nat) : List Byte := (List.range n).map fun i => BitVec.ofNat 8 (x >>> (8 * i))

/-- The memory form of R117 to R121 is canonical. -/
def Memory.wf (m : List Host.Cell) : Bool := Store.wf 0 m

/-- The byte of memory at a key; a byte that nothing has written reads 0 (log 3). -/
def State.byte (s : State) (a : Nat) : Byte := Store.get 0 s.mem a

/-- The `n` bytes of memory from a key. -/
def State.bytes (s : State) (a n : Nat) : List Byte := (List.range n).map fun i => s.byte (a + i)

/-- The little-endian number in `n` bytes of memory. -/
def State.num (s : State) (a n : Nat) : Nat := natOfBytes (s.bytes a n)

/-- R385: the failure of bytes of a line cleared: payload bytes 0 to 127, sideband bytes from 128. -/
def clearBits (m : Store (BitVec 136)) (line : Nat) (bits : List Nat) : Store (BitVec 136) :=
  Store.set 0 m line (bits.foldl (fun x i => x &&& ~~~ (1#136 <<< i)) (Store.get 0 m line))

/-- R385: a store to part of a failed line leaves the rest of it failed: `n` payload bytes from a key. -/
def clearRun (m : Store (BitVec 136)) (a n : Nat) : Store (BitVec 136) :=
  match m with
  | [] => []
  | _ => (List.range n).foldl (fun m i => clearBits m ((a + i) / 128) [(a + i) % 128]) m

/-- Memory with bytes written from a key; none of them is failed any more (R385). -/
def State.wrRaw (s : State) (a : Nat) (l : List Byte) : State :=
  { s with
    mem := Store.setBlock 0 s.mem a l.length fun i => l.getD i 0
    failed := clearRun s.failed a l.length }

/-- What the stacks still hold of bytes that the L2 holds newer (R319); a scratchpad has no L2. -/
def State.keepStale (s : State) (a n : Nat) : State :=
  if 2 ^ 80 ≤ a then s
  else { s with stale := Store.setBlock none s.stale a n fun i => some ((s.stale.find (a + i)).getD (s.byte (a + i))) }

/-- Bytes written at the L2 home of their line: the stack keeps the old ones until a write-back (R119, R319). -/
def State.wrBytes (s : State) (a : Nat) (l : List Byte) : State := (s.keepStale a l.length).wrRaw a l

/-- Memory with the `n` bytes of a number written from a key. -/
def State.wrNum (s : State) (a n x : Nat) : State := s.wrBytes a (bytesOfNat n x)

/-- Sideband byte `i` of a line, given by a key in it (R13). -/
def State.sideByte (s : State) (a i : Nat) : Byte := Store.get 0 s.side (a / 128 * 8 + i)

/-- The sideband of a line written: byte `p.1` := `p.2` for each pair. -/
def State.wrSide (s : State) (a : Nat) (l : List (Nat × Byte)) : State :=
  let k := a / 128 * 8
  { s with
    side := l.foldl (fun m p => Store.set 0 m (k + p.1) p.2) s.side
    failed := match s.failed with | [] => [] | m => clearBits m (a / 128) (l.map fun p => 128 + p.1)
    staleSide := if 2 ^ 80 ≤ a then s.staleSide
      else l.foldl (fun m p => Store.set none m (k + p.1) (some ((m.find (k + p.1)).getD (s.sideByte a p.1)))) s.staleSide }

/-- R319: dirty L2 lines among keys `lo` to `hi - 1` (line boundaries) written back to their stacks. -/
def State.l2Clean (s : State) (lo hi : Nat) : State :=
  { s with
    stale := s.stale.filter fun p => p.1 < lo ∨ hi ≤ p.1
    staleSide := s.staleSide.filter fun p => p.1 < lo / 16 ∨ hi / 16 ≤ p.1 }

/-- R319: dirty L2 lines among keys `lo` to `hi - 1` invalidated: later reads return what the stacks hold. -/
def State.l2Drop (s : State) (lo hi : Nat) : State :=
  let old := s.stale.all.filter fun p => lo ≤ p.1 ∧ p.1 < hi
  let oldS := s.staleSide.all.filter fun p => lo / 16 ≤ p.1 ∧ p.1 < hi / 16
  let s1 := { s with
    mem := old.foldl (fun m (p : Nat × Byte) => Store.set 0 m p.1 p.2) s.mem
    side := oldS.foldl (fun m (p : Nat × Byte) => Store.set 0 m p.1 p.2) s.side }
  s1.l2Clean lo hi

/-- R385: the failed bytes of the line of a key. -/
def State.failMask (s : State) (a : Nat) : BitVec 136 := Store.get 0 s.failed (a / 128)

/-- R385: a byte of memory that returns an uncorrectable error. -/
def State.byteFailed (s : State) (a : Nat) : Bool := (s.failMask a).getLsbD (a % 128)

/-- R385: `n` bytes of memory of which one returns an uncorrectable error. -/
def State.runFailed (s : State) (a n : Nat) : Bool := (List.range n).any fun i => s.byteFailed (a + i)

/-- R385: a sideband byte of a line, given by a key in it, that returns an uncorrectable error. -/
def State.sideFailed (s : State) (a i : Nat) : Bool := (s.failMask a).getLsbD (128 + i)

/-- R385: a line, payload and sideband, of which a byte returns an uncorrectable error. -/
def State.lineFailed (s : State) (a : Nat) : Bool := s.failMask a != 0

/-- A store of a whole line, payload and sideband, clears its failure (R385). -/
def State.clearFailed (s : State) (a : Nat) : State := { s with failed := Store.set 0 s.failed (a / 128) 0 }

/-! ### Keys -/

/-- The key of a byte of a stack (R119): tag 0 is this part, whatever its number in the domain (R395); `m + 1` is module
`m`. -/
def memKey (tag stack off : Nat) : Nat := tag * 2 ^ 52 + stack * 2 ^ 46 + off

/-- The key of a byte of a block's scratchpad window (R30, R120). -/
def padKey (block byte : Nat) : Nat := 2 ^ 80 + block * 2 ^ 24 + byte

/-- Whether a key is one of a scratchpad. -/
def isPad (a : Nat) : Bool := 2 ^ 80 ≤ a

/-- The tag of a memory key. -/
def keyTag (a : Nat) : Nat := a / 2 ^ 52

/-- R395: a byte of this part: its scratchpads and its stacks. -/
def isLocal (a : Nat) : Bool := isPad a || keyTag a == 0

/-- The tag of a module number. -/
def State.tagOf (s : State) (module : Nat) : Nat := if module = s.ownModule then 0 else module + 1

/-- The module number of a tag. -/
def State.moduleOf (s : State) (tag : Nat) : Nat := if tag = 0 then s.ownModule else tag - 1

/-- The stack of a memory key. -/
def keyStack (a : Nat) : Nat := a / 2 ^ 46 % 64

/-- The stack offset of a memory key. -/
def keyOffset (a : Nat) : Nat := a % 2 ^ 46

/-- The base die of a stack (R8). -/
def stackDie (stack : Nat) : Nat := stack / 8

/-- The die of a core (R339, log 7). -/
def State.dieOf (s : State) (core : Nat) : Nat := (s.coreDie.find (core / 4)).getD (core / 48)

/-- Whether the UCIe link between two base dies has failed (R398). -/
def State.linkFailed (s : State) (d1 d2 : Nat) : Bool :=
  d1 != d2 && s.downLinks.any fun l =>
    (l.1 == d1 && Config.linkPeer l.1 l.2 == d2) || (l.1 == d2 && Config.linkPeer l.1 l.2 == d1)

/-- Whether an access from a core to a memory key needs a failed link (R398). -/
def State.broken (s : State) (core a : Nat) : Bool :=
  !isPad a && isLocal a && s.linkFailed (s.dieOf core) (stackDie (keyStack a))

/-- Whether an access to a key must wait: a remote request on a dead plane or while the module is quiesced
(R138, R396, R397). -/
def State.planeHeld (s : State) (a : Nat) : Bool :=
  !isLocal a
    && (s.quiesced || s.deadPlanes.contains (s.planeMap.getD (keyOffset a / 128 % 16) 0))

/-! ### Fabric physical addresses -/

/-- Why an access does not translate: the cause, and the entry of a malformed walk (R367). Cause `heldCause` is no trap:
the access waits (R397). -/
structure Fail where
  cause : Nat
  entry : Option DWord
  deriving DecidableEq, Repr

/-- What stands for the cause of an access whose walk needs a plane that carries nothing now (R397): it waits. -/
def heldCause : Nat := 0x100

/-- Whether a module number names a member of the domain (R395). -/
def State.isMember (s : State) (m : Nat) : Bool := m == s.ownModule || s.members.contains m

/-- The key under which a core's L1 holds, for the warp of a slot, a byte not yet written back (R134, log 5). -/
def l1Key (slot a : Nat) : Nat := slot * 2 ^ 96 + a

/-- A loose byte that an L1 holds: the slot of its warp, the key of its home, its value, and the virtual address of the store
that left it (R398). -/
structure LooseByte where
  slot : Nat
  key : Nat
  val : Byte
  va : DWord
  deriving DecidableEq, Repr

/-- The loose bytes that the L1s hold for the warps of some slots among keys `lo` to `hi - 1`. -/
def State.loose (s : State) (who : Nat → Bool) (lo hi : Nat) : List LooseByte :=
  s.l1.all.filterMap fun p =>
    if who (p.1 / 2 ^ 96) ∧ lo ≤ p.1 % 2 ^ 96 ∧ p.1 % 2 ^ 96 < hi then some ⟨p.1 / 2 ^ 96, p.1 % 2 ^ 96, p.2.1, p.2.2⟩ else none

/-- The slots of a core (R36). -/
def ofCore (core slot : Nat) : Bool := slot / 128 == core

/-- The little-endian number in `n` bytes as a core sees them: the loose bytes that its L1 holds over those of their homes
(R126, R134, R370). -/
def State.seen (s : State) (core a n : Nat) : Nat :=
  natOfBytes ((List.range n).map fun i => match s.loose (ofCore core) (a + i) (a + i + 1) with
    | p :: _ => p.val
    | [] => s.byte (a + i))

/-- Loose bytes dropped (R277). -/
def State.dropLoose (s : State) (who : Nat → Bool) (lo hi : Nat) : State :=
  { s with l1 := s.l1.filter fun p => !(who (p.1 / 2 ^ 96) ∧ lo ≤ p.1 % 2 ^ 96 ∧ p.1 % 2 ^ 96 < hi) }

/-- A loose byte whose home lies beyond a failed link for its core: its write-back fails (R398). -/
def State.looseCut (s : State) (p : LooseByte) : Bool := s.broken (p.slot / 128) p.key

/-- Loose bytes written back to their homes and dropped from the L1 (R134, R277), but for those that need a failed link,
which stay (R398). -/
def State.writeBack (s : State) (who : Nat → Bool) (lo hi : Nat) : State :=
  let go := (s.loose who lo hi).filter fun p => !s.looseCut p
  let s1 := go.foldl (fun s p => s.wrBytes p.key [p.val]) s
  { s1 with l1 := s1.l1.filter fun p => !go.any fun x => p.1 = l1Key x.slot x.key }

/-- A loose byte has its home on a plane that carries nothing now: its write-back waits (R397). -/
def State.backHeld (s : State) (who : Nat → Bool) : Bool := (s.loose who 0 (2 ^ 96)).any fun p => s.planeHeld p.key

/-- R117 to R119: the key that a fabric physical address names, or a protection failure. -/
def State.resolve (s : State) (pa : DWord) : Except Fail Nat :=
  let m := (pa.extractLsb' 52 11).toNat
  let stack := (pa.extractLsb' 46 5).toNat
  let off := (pa.extractLsb' 0 37).toNat
  if pa.getLsbD 63 then .error ⟨7, none⟩
  else if !s.isMember m then .error ⟨7, none⟩
  else if pa.extractLsb' 37 9 ≠ 0 then .error ⟨7, none⟩
  else
    let y := stack * 2 ^ 37 + off
    let st := if pa.getLsbD 51 then y / 2 ^ 10 % 32 else stack
    let o := if pa.getLsbD 51 then y / 2 ^ 15 * 2 ^ 10 + y % 2 ^ 10 else off
    if o ≥ 128000000000 then .error ⟨7, none⟩ else .ok (memKey (s.tagOf m) st o)

/-- A compartment; one that management has never set is unowned. -/
def State.comp (s : State) (c : Nat) : Comp := (s.comps.find c).getD Comp.unowned

/-- R340, R395: the stack is one that the compartment may reach. -/
def State.owns (s : State) (cmp : Nat) (a : Nat) : Bool :=
  let c := s.comp cmp
  if isLocal a then c.stackGroups.getLsbD (keyStack a / 4)
  else Config.remoteGroup (s.moduleOf (keyTag a)) (keyStack a) == c.group

/-! ### Page tables -/

/-- Who accesses: the compartment, the context, the core whose translations serve it (192 and above: none), and the
cluster whose scratchpad windows it reaches. -/
structure Agent where
  cmp : Nat
  ctx : Nat
  core : Nat
  cluster : Nat
  deriving DecidableEq, Repr

/-- What an access needs of its page (R366, R368). -/
inductive Need where
  /-- V alone. -/
  | read
  /-- W, and D when performed. -/
  | write
  /-- X (R346). -/
  | fetch
  deriving DecidableEq, Repr

/-- A translated address: where it lies, how its page behaves (R124), the leaf that gave it and the core whose access it
is. -/
structure Trans where
  key : Nat
  kind : Nat
  mx : Bool
  ms : Bool
  leafAt : Nat
  leaf : DWord
  core : Nat
  deriving DecidableEq, Repr

/-- The key under which a context is kept. -/
def ctxKey (cmp ctx : Nat) : Nat := cmp * 65536 + ctx

/-- The context of an agent. -/
def State.ctxOf (s : State) (cmp ctx : Nat) : Option Ctx := s.ctxs.find (ctxKey cmp ctx)

/-- R366: a non-leaf entry whose "must be 0" fields hold. -/
def pteTableOk (e : DWord) : Bool :=
  !e.getLsbD 63 && e.extractLsb' 12 3 == 0 && e.extractLsb' 4 7 == 0 && !e.getLsbD 1 && !e.getLsbD 2

/-- R366, R367: a leaf of a level whose fields hold. -/
def pteLeafOk (level : Nat) (e : DWord) : Bool :=
  !e.getLsbD 63 && e.extractLsb' 12 3 == 0 && e.extractLsb' 4 2 != 3
    && match level with
      | 1 => !e.getLsbD 3
      | 2 => e.extractLsb' 15 12 == 0
      | _ => e.getLsbD 51 && e.extractLsb' 15 33 == 0

/-- R367: the fabric physical address that a leaf gives. -/
def leafPa (level : Nat) (e va : DWord) : DWord :=
  match level with
  | 1 => (e &&& 0x7FFFFFFFFFFF8000) ||| (va &&& 0x7FFF)
  | 2 => (e &&& 0x7FFFFFFFF8000000) ||| (va &&& 0x7FFFFFF)
  | _ => (e &&& 0x7FFF000000000000) ||| ((va.extractLsb' 37 2).zeroExtend 64 <<< 46) ||| (va &&& 0x1FFFFFFFFF)

/-- One walk for an access of a core (R365, R370, R385, R397, R398): `fuel` is the level of the table at `base`. -/
def State.walk (s : State) (core : Nat) (va : DWord) : Nat → DWord → Except Fail (Nat × Nat × DWord)
  | 0, _ => .error ⟨7, none⟩
  | level + 1, base =>
    let l := level + 1
    let ix := va.toNat / 2 ^ (15 + 12 * level) % 4096
    match s.resolve (base + BitVec.ofNat 64 (8 * ix)) with
    | .error f => .error f
    | .ok at_ =>
      if s.planeHeld at_ then .error ⟨heldCause, none⟩
      else if s.runFailed at_ 8 || s.broken core at_ then .error ⟨0x15, none⟩
      else
        let e : DWord := BitVec.ofNat 64 (s.seen core at_ 8)
        if !e.getLsbD 0 then .error ⟨6, none⟩
        else if l = 1 then if pteLeafOk 1 e then .ok (1, at_, e) else .error ⟨7, some e⟩
        else if e.getLsbD 3 then
          if l ≤ 3 && pteLeafOk l e then .ok (l, at_, e) else .error ⟨7, some e⟩
        else if pteTableOk e then s.walk core va level (e &&& 0x7FFFFFFFFFFF8000)
        else .error ⟨7, some e⟩

/-- The low address bits that a leaf of a level maps. -/
def pageBits (level : Nat) : Nat := if level = 1 then 15 else if level = 2 then 27 else 39

/-- R371: a translation with G serves a context of its compartment whose own walk reaches the same leaf. -/
def State.shares (s : State) (a : Agent) (va : DWord) (e : TlbEntry) : Bool :=
  e.leaf.getLsbD 10 && match s.ctxOf a.cmp a.ctx with
    | none => false
    | some c => match s.walk a.core va 4 c.ptroot with
      | .ok x => x.1 == e.level && x.2.1 == e.leafAt.toNat
      | .error _ => false

/-- A translation that a core holds and that serves an access (R370, R371). -/
def State.tlbHit (s : State) (a : Agent) (va : DWord) : Option TlbEntry :=
  s.tlb.find? fun e => e.core == a.core && e.cmp == a.cmp && e.page == va.toNat / 2 ^ pageBits e.level
    && (e.ctx == a.ctx || s.shares a va e)

/-- The leaf that serves a virtual address: cached, else walked (R365, R370). -/
def State.leafFor (s : State) (a : Agent) (va : DWord) : Except Fail (Nat × Nat × DWord) :=
  match s.tlbHit a va with
  | some e => .ok (e.level, e.leafAt.toNat, e.leaf)
  | none =>
    match s.ctxOf a.cmp a.ctx with
    | none => .error ⟨6, none⟩
    | some c => s.walk a.core va 4 c.ptroot

/-- R366: a leaf lets an access have what it needs. -/
def leafAllows (e : DWord) (need : Need) : Bool :=
  match need with
  | .read => true
  | .write => e.getLsbD 1
  | .fetch => e.getLsbD 2

/-- R117, R366, R367: the address that a leaf gives an access, where `may` lets the access reach it (R340, R395). -/
def State.leafTrans (s : State) (core : Nat) (may : Nat → Bool) (va : DWord) (need : Need) (x : Nat × Nat × DWord) :
    Except Fail Trans :=
  let e := x.2.2
  if !leafAllows e need then .error ⟨7, none⟩
  else match s.resolve (leafPa x.1 e va) with
    | .error f => .error f
    | .ok k =>
      if may k then .ok ⟨k, (e.extractLsb' 4 2).toNat, e.getLsbD 7, e.getLsbD 6, x.2.1, e, core⟩ else .error ⟨7, none⟩

/-- R117, R340, R366, R367: a virtual address translated for an access. -/
def State.xlate (s : State) (a : Agent) (va : DWord) (need : Need) : Except Fail Trans :=
  if va.getLsbD 63 then .error ⟨7, none⟩
  else match s.leafFor a va with
    | .error f => .error f
    | .ok x => s.leafTrans a.core (s.owns a.cmp) va need x

/-- R395: a stack that the compartments of a domain group may reach. -/
def State.groupOwns (s : State) (group : Nat) (k : Nat) : Bool :=
  if isLocal k then
    (List.range 8).any fun c => (s.comp c).stackGroups.getLsbD (keyStack k / 4) && (s.comp c).group == group
  else Config.remoteGroup (s.moduleOf (keyTag k)) (keyStack k) == group

/-- A virtual address translated from a root of page tables, for a core, where `may` lets the access reach what it finds. -/
def State.xlateFrom (s : State) (core : Nat) (root : DWord) (may : Nat → Bool) (va : DWord) (need : Need) : Except Fail Trans :=
  if va.getLsbD 63 then .error ⟨7, none⟩
  else match s.walk core va 4 root with
    | .error f => .error f
    | .ok x => s.leafTrans core may va need x

/-- R196, R395, R407: a virtual address translated in a context of another module, whose request carries the root of its
page tables and the domain group of its compartment. -/
def State.xlateVia (s : State) (via : DWord × Nat) (va : DWord) (need : Need) : Except Fail Trans :=
  s.xlateFrom 4096 via.1 (s.groupOwns via.2) va need

/-- R196, R395: where an address lies that another module refuses: its module, and not the one that translates, checks it. -/
def State.refusedAt (s : State) (core : Nat) (root : DWord) (may : Nat → Bool) (va : DWord) : Option Trans :=
  match s.xlateFrom core root (fun _ => true) va .read with
  | .ok t => if isLocal t.key || may t.key then none else some t
  | .error _ => none

/-- The bits that an access sets in the leaf that it uses: A, and D for a write (R368). -/
def leafBits (write : Bool) : DWord := if write then 0x300 else 0x100

/-- R397: the leaf of an access has a bit to be set, and its home is on a plane that carries nothing now. -/
def State.leafHeld (s : State) (t : Trans) (write : Bool) : Bool :=
  t.leaf &&& leafBits write != leafBits write && s.planeHeld t.leafAt

/-- R368: A set, and D for a write, in the leaf that an access used, before it is performed: one OR at the entry's home,
after the bytes of its line that the core still holds (R127, R134). A home beyond a failed link is not written (R398). -/
def State.touch (s : State) (t : Trans) (write : Bool) : State :=
  if t.leaf &&& leafBits write = leafBits write || s.broken t.core t.leafAt then s
  else
    let line := t.leafAt / 128 * 128
    let s1 := s.writeBack (ofCore t.core) line (line + 128)
    { s1.wrNum t.leafAt 8 ((BitVec.ofNat 64 (s1.num t.leafAt 8) ||| leafBits write).toNat) with
      tlb := s.tlb.map fun e => if e.leafAt.toNat = t.leafAt then { e with leaf := e.leaf ||| leafBits write } else e }

/-! ### Either space -/

/-- The block of index `i` of a cluster (R25, R120). -/
def State.blockAt (s : State) (cluster i : Nat) : Option Nat :=
  match s.clusters.find cluster with
  | none => none
  | some c => c.blocks[i]?

/-- R120: the key of a scratchpad address of a cluster. -/
def State.padAt (s : State) (cluster : Nat) (a : Nat) : Except Fail Nat :=
  if a / 2 ^ 28 ≠ 0 then .error ⟨7, none⟩
  else match s.blockAt cluster (a / 2 ^ 24) with
    | none => .error ⟨7, none⟩
    | some b => match s.blocks.find b with
      | none => .error ⟨7, none⟩
      | some blk => if a % 2 ^ 24 < blk.window then .ok (padKey b (a % 2 ^ 24)) else .error ⟨7, none⟩

/-- A scratchpad byte behaves as a released page with its sideband (R120). -/
def padTrans (k : Nat) : Trans := ⟨k, 0, true, false, 0, 0x300, 4096⟩

/-- An address in either space, bit 63 choosing the scratchpad (R175, R271, R281). -/
def State.xany (s : State) (a : Agent) (addr : DWord) (need : Need) : Except Fail Trans :=
  if addr.getLsbD 63 then
    if addr.extractLsb' 32 31 ≠ 0 then .error ⟨7, none⟩
    else match s.padAt a.cluster (addr.toNat % 2 ^ 32) with
      | .error f => .error f
      | .ok k => .ok (padTrans k)
  else s.xlate a addr need

/-! ### Loose lines (R134, log 5) -/

/-- A loose byte that the L1 holds for a warp, as a plain access of that warp finds it (R134). -/
def State.heldByte (s : State) (slot : Nat) (t : Trans) (plain : Bool) (i : Nat) : Option Byte :=
  if t.kind = 2 && plain && !t.ms then (s.l1.find (l1Key slot (t.key + i))).map (·.1) else none

/-- A byte as an access of the warp of a slot reads it (R134). -/
def State.byteAt (s : State) (slot : Nat) (t : Trans) (plain : Bool) (i : Nat) : Byte :=
  (s.heldByte slot t plain i).getD (s.byte (t.key + i))

/-- The bytes that an access of the warp of a slot reads (R134). -/
def State.readAt (s : State) (slot : Nat) (t : Trans) (plain : Bool) (n : Nat) : List Byte :=
  (List.range n).map fun i => s.byteAt slot t plain i

/-- Bytes written by an access of the warp of a slot at a virtual address: a plain access to a loose page stays in its core's
L1 (R134, log 5). -/
def State.writeAt (s : State) (slot : Nat) (t : Trans) (va : DWord) (plain : Bool) (l : List Byte) : State :=
  if t.kind = 2 && plain && !t.ms then
    { s with l1 := Store.setBlock none s.l1 (l1Key slot t.key) l.length fun i => l[i]?.map fun b => (b, va + BitVec.ofNat 64 i) }
  else if t.ms then s.wrRaw t.key l
  else s.wrBytes t.key l

/-- Bytes written at the home of a translated address (R119, R124). -/
def State.wrAt (s : State) (t : Trans) (l : List Byte) : State := if t.ms then s.wrRaw t.key l else s.wrBytes t.key l

/-! ### Runs of bytes -/

/-- `n` bytes translated in 8-byte units from an 8-byte aligned address (R388, R407): the units, or the address of the
first that fails. -/
def units (xlate : DWord → Except Fail Trans) (addr : DWord) (n : Nat) : Except (DWord × Fail) (List Trans) :=
  (List.range ((n + 7) / 8)).foldl
    (fun acc i => match acc with
      | .error e => .error e
      | .ok l => match xlate (addr + BitVec.ofNat 64 (8 * i)) with
        | .error f => .error (addr + BitVec.ofNat 64 (8 * i), f)
        | .ok t => .ok (l ++ [t]))
    (.ok [])

/-- The units of a run in either space as an agent reaches them. -/
def State.xunits (s : State) (a : Agent) (addr : DWord) (n : Nat) (need : Need) : Except (DWord × Fail) (List Trans) :=
  units (fun x => s.xany a x need) addr n

/-- The bytes of translated units. -/
def State.readUnits (s : State) (l : List Trans) (n : Nat) : List Byte :=
  (l.flatMap fun t => s.bytes t.key 8).take n

/-- Bytes written into translated units, with A and D set (R368). -/
def State.writeUnits (s : State) : List Trans → List Byte → State
  | [], _ => s
  | t :: r, l => State.writeUnits ((s.touch t true).wrAt t (l.take 8)) r (l.drop 8)

/-- The leaves of translated units with A set (R368). -/
def State.touchAll (s : State) (l : List Trans) (write : Bool) : State := l.foldl (fun s t => s.touch t write) s

end Sys2Proof.Machine
end

