-- ==== Sys2Proof/Machine/Warp.lean ====
section
/-! DEFINITION. Warps: registers (R71), predicates, guards (R210), latches (R79 to R82), counters (R77), generations
(R83), the advance past an instruction (R208) and results that land later (R75). -/

namespace Sys2Proof.Machine

/-! ### Warps of the state -/

/-- The warp of a name. -/
def State.warp (s : State) (id : Nat) : Option Warp := s.warps.find id

/-- A warp put under a name. -/
def State.putWarp (s : State) (id : Nat) (w : Warp) : State := { s with warps := s.warps.put id w }

/-- A warp changed. -/
def State.mapWarp (s : State) (id : Nat) (f : Warp → Warp) : State :=
  match s.warps.find id with
  | none => s
  | some w => s.putWarp id (f w)

/-- A block changed. -/
def State.mapBlock (s : State) (id : Nat) (f : Block → Block) : State :=
  match s.blocks.find id with
  | none => s
  | some b => { s with blocks := s.blocks.put id (f b) }

/-- A compartment changed. -/
def State.mapComp (s : State) (c : Nat) (f : Comp → Comp) : State := { s with comps := s.comps.put c (f (s.comp c)) }

/-- A context changed. -/
def State.mapCtx (s : State) (cmp ctx : Nat) (f : Ctx → Ctx) : State :=
  match s.ctxOf cmp ctx with
  | none => s
  | some c => { s with ctxs := s.ctxs.put (ctxKey cmp ctx) (f c) }

/-- The next name for a warp, block, request or command (log 2). -/
def State.tick1 (s : State) : State := { s with nextId := s.nextId + 1 }

/-- The number of a warp's slot in the part. -/
def slotKey (core quarter slot : Nat) : Nat := core * 128 + quarter * 32 + slot

/-- The number of a warp's slot. -/
def Warp.slotNo (w : Warp) : Nat := slotKey w.core w.quarter w.slot

/-- The number of a warp's quarter. -/
def Warp.quarterNo (w : Warp) : Nat := w.core * 4 + w.quarter

/-- The generation of a slot (R83). -/
def State.gen (s : State) (slot : Nat) : Nat := Store.get 0 s.gens slot

/-- R83: the generation of a slot increments. -/
def State.bumpGen (s : State) (slot : Nat) : State := { s with gens := Store.set 0 s.gens slot ((s.gen slot + 1) % 64) }

/-- R83: an operation at a home whose elements are to land in a slot under a generation. -/
def QOp.landsIn (op : QOp) (slot gen : Nat) : Bool :=
  match op.agent with
  | .warp _ n g => n == slot && g == gen
  | _ => false

/-- The instructions that an engine holds, runs or has at a rendezvous. -/
def Engine.ops (e : Engine) : List MatOp := e.queue ++ e.run.toList ++ e.rendezvous

/-- R84: a return for a slot under a generation is still in flight: load data, a store acknowledgement, a chase reply, a
dequeued element or an engine completion (R83). -/
def State.genBusy (s : State) (slot gen : Nat) : Bool :=
  s.loads.all.any (fun p => p.2.slot == slot && p.2.gen == gen)
    || s.acks.all.any (fun p => p.2.slot == slot && p.2.gen == gen)
    || s.chases.all.any (fun p => p.2.slot == slot && p.2.gen == gen)
    || s.cmds.all.any (fun p => p.2.slot == slot && p.2.gen == gen && p.2.status == 0)
    || s.qops.all.any (fun p => p.2.landsIn slot gen)
    || s.engines.all.any fun p => p.2.ops.any fun o => o.slot == slot && o.gen == gen

/-- R84: a slot may take its next generation: no return of that generation is in flight. -/
def State.genFree (s : State) (slot : Nat) : Bool := !s.genBusy slot ((s.gen slot + 1) % 64)

/-- R83: a dropped return is counted in the compartment of its slot's core. -/
def State.countDrop (s : State) (slot : Nat) : State :=
  let g := slot / 128 / 4
  { s with comps := s.comps.map fun p => (p.1, p.2.map fun c => if c.coreGroups.getLsbD g then { c with drc := c.drc + 1 } else c) }

/-- R83: the warp of a return, while its slot keeps the generation of the issue. A warp that has ended keeps it until its
returns have settled (R312, Table 2.4); the returns of a killed one are dropped. -/
def State.owner (s : State) (warp slot gen : Nat) : Option Warp :=
  match s.warp warp with
  | none => none
  | some w => if w.slotNo == slot && s.gen slot == gen && !w.killed && !w.swapped then some w else none

/-- Who a warp is to translation. -/
def State.agentOf (s : State) (w : Warp) : Agent :=
  ⟨w.cmp, w.ctx, w.core, match s.blocks.find w.block with | none => 0 | some b => b.cluster⟩

/-- A header with one instruction of a class, unguarded (Table 8.1). -/
def plainHeader (c : Class) (long : Bool) : Header :=
  ⟨false, 0, false, false, 0, if long then 1 else 0, c, 1⟩

/-- A warp before anything is placed in it: every register zero, nothing pending, nothing marked (R89, R333). -/
def Warp.blank : Warp :=
  { core := 0, quarter := 0, slot := 0, block := 0, widx := 0, twin := 2, formed := false, cmp := 0, ctx := 0,
    super := false, phase := .prologue, swapped := false, killed := false, wait := none, mask := 0, wids := [], pc := 0, ix := 0,
    fetched := false, hdr := plainHeader .alu false, words := [], full := false, va := 0, ka := 0, ta := 0, v := [],
    e := [], k := [], p := [], acc := [], lat := [], latN := 0, slat := [], d := [], pendV := 0, pendE := 0,
    pendK := 0, markV := 0, markE := 0, markK := 0, markL := 0, markT := 0, markAddr := [], fflags := 0, win := [],
    xpc := 0, xcause := 0, xval := 0, xstat := 0, xscr0 := 0, xscr1 := 0, xarm := false, out := 0, sfail := none,
    prio := 0, boosted := false, idleSince := 0, score := 0, yieldAt := none, yieldFor := [], acqAt := none, age := 0,
    mgdN := 0, token := none, susp := none, xback := none, walks := [] }

/-! ### Registers -/

/-- v register `r` of position `t`. -/
def Warp.vr (w : Warp) (r t : Nat) : Word := Store.get 0 w.v (r * 128 + t)

/-- The pair at `r` of position `t` (R3: low half in the even register). -/
def Warp.vp (w : Warp) (r t : Nat) : DWord := w.vr (r + 1) t ++ w.vr r t

/-- k register `n`. -/
def Warp.kr (w : Warp) (n : Nat) : DWord := Store.get 0 w.k n

/-- Scale byte `i` of e register `n`. -/
def Warp.er (w : Warp) (n i : Nat) : Byte := Store.get 0 w.e (n * 32 + i)

/-- Predicate `n` of every position; p0 reads true (R71). -/
def Warp.pr (w : Warp) (n : Nat) : Mask := if n = 0 then BitVec.allOnes 128 else Store.get 0 w.p n

/-- Element (m, n) of tile `t` is word `32m + n` (R192). -/
def Warp.ar (w : Warp) (t i : Nat) : Word := Store.get 0 w.acc (t * 1024 + i)

/-- v register `r` written at the positions of a mask. -/
def Warp.setV (w : Warp) (r : Nat) (m : Mask) (f : Nat → Word) : Warp :=
  { w with v := Store.setBlock 0 w.v (r * 128) 128 fun t => if m.getLsbD t then f t else w.vr r t }

/-- The pair at `r` written at the positions of a mask. -/
def Warp.setVP (w : Warp) (r : Nat) (m : Mask) (f : Nat → DWord) : Warp :=
  (w.setV r m fun t => (f t).extractLsb' 0 32).setV (r + 1) m fun t => (f t).extractLsb' 32 32

/-- k register `n` written. -/
def Warp.setK (w : Warp) (n : Nat) (x : DWord) : Warp := { w with k := Store.set 0 w.k n x }

/-- e register `n` written whole. -/
def Warp.setE (w : Warp) (n : Nat) (f : Nat → Byte) : Warp := { w with e := Store.setBlock 0 w.e (n * 32) 32 f }

/-- Predicate `n` written at the positions of a mask; writes to p0 are discarded (R71). -/
def Warp.setP (w : Warp) (n : Nat) (m x : Mask) : Warp :=
  if n = 0 then w else { w with p := Store.set 0 w.p n ((w.pr n &&& ~~~m) ||| (x &&& m)) }

/-- A tile written whole. -/
def Warp.setAcc (w : Warp) (t : Nat) (f : Nat → Word) : Warp := { w with acc := Store.setBlock 0 w.acc (t * 1024) 1024 f }

/-- Dependency counter `n` (R77). -/
def Warp.dn (w : Warp) (n : Nat) : Nat := Store.get 0 w.d n

/-- R77: a counter incremented. -/
def Warp.incD (w : Warp) (n : Nat) : Warp := { w with d := Store.set 0 w.d n (w.dn n + 1) }

/-- R77: a counter decremented. -/
def Warp.decD (w : Warp) (n : Nat) : Warp := { w with d := Store.set 0 w.d n (w.dn n - 1) }

/-! ### Masks and guards -/

/-- The mask whose bit `t` is `f t`. -/
def maskOf (f : Nat → Bool) : Mask :=
  BitVec.ofNat 128 ((List.range 128).foldr (fun t n => n * 2 + (if f t then 1 else 0)) 0)

/-- The positions of a mask, in ascending order. -/
def positions (m : Mask) : List Nat := (List.range 128).filter fun t => m.getLsbD t

/-- The number of positions of a mask. -/
def count (m : Mask) : Nat := (positions m).length

/-- The clause guard: true in every position when it is not enabled (R202, R210). -/
def Warp.clauseGuard (w : Warp) : Mask :=
  if w.hdr.ge then (if w.hdr.gn then ~~~ w.pr w.hdr.gp.toNat else w.pr w.hdr.gp.toNat) else BitVec.allOnes 128

/-- R210: the guard of an instruction with a second word that may carry one. -/
def Warp.guardOf (w : Warp) (g : Option Guard) : Mask :=
  match g with
  | some g => if g.ge then (if g.gn then ~~~ w.pr g.gp.toNat else w.pr g.gp.toNat) else w.clauseGuard
  | none => w.clauseGuard

/-- The positions an instruction executes for: active and unguarded (R213). -/
def Warp.exec (w : Warp) (g : Option Guard) : Mask := w.mask &&& w.guardOf g

/-- R213: an instruction that executes once for the warp executes. -/
def Warp.once (w : Warp) (g : Option Guard) : Bool := w.exec g != 0

/-! ### Latches (R79 to R82) -/

/-- The entry of latch `n` at position `t`. -/
def Warp.lr (w : Warp) (n t : Nat) : DWord := Store.get 0 w.lat (n * 128 + t)

/-- R79: L2 into L3, L1 into L2, L0 into L1, then L0 written. -/
def Warp.latch (w : Warp) (f : Nat → DWord) : Warp :=
  { w with
    lat := Store.setBlock 0 [] 0 512 fun i => if i < 128 then f i else Store.get 0 w.lat (i - 128)
    latN := min 15 (w.latN + 1) }

/-! ### Moving on -/

/-- A warp that may issue: placed, not blocked (R359). -/
def Warp.ready (w : Warp) : Bool :=
  w.wait == none && !w.swapped && (w.phase == .prologue || w.phase == .running)

/-- The effective priority of a warp (R361). -/
def Warp.rank (w : Warp) : Nat := if w.boosted then 8 else w.prio

/-- R207: the warp is held from its next clause. -/
def Warp.held (w : Warp) : Bool := w.yieldAt != none && w.yieldFor != []

/-- A warp that may be ready: placed, and not blocked by a wait that its home or another warp has to end (R34, R359). -/
def Warp.mayBeReady (w : Warp) : Bool :=
  !w.swapped && (w.phase == .prologue || w.phase == .running) && match w.wait with | none => true | some x => x.reissues

/-- R207: the other warps of a warp's quarter at equal or higher priority that may be ready, each with the instruction at which it
stands: those that are not ready (R359) are taken off as soon as the step ends (`State.unyield`). -/
def State.peersOf (s : State) (id : Nat) (w : Warp) : List (Nat × Nat) :=
  (s.warps.all.filter fun p => p.1 != id && p.2.quarterNo == w.quarterNo && p.2.mayBeReady && !p.2.held && w.rank ≤ p.2.rank).map
    fun p => (p.1, p.2.ix)

/-- The address of the next clause in program order (R203). -/
def Warp.nextClause (w : Warp) : DWord := w.pc + BitVec.ofNat 64 (4 * (1 + w.hdr.body))

/-- The warp at the start of a clause (R81). -/
def Warp.enter (w : Warp) (pc : DWord) : Warp :=
  { w with pc := pc, ix := 0, fetched := false, words := [], lat := [], latN := 0, wait := none }

/-- R207: a warp yields: to the warps that are ready (log 37). -/
def State.yieldWarp (s : State) (id : Nat) : State :=
  match s.warp id with
  | none => s
  | some w => s.putWarp id { w with yieldAt := some s.clock, yieldFor := s.peersOf id w }

/-- A control transfer to a clause header (R209). -/
def State.jump (s : State) (id : Nat) (pc : DWord) : State :=
  match s.warp id with
  | none => s
  | some w =>
    let s1 := s.putWarp id { w.enter pc with idleSince := s.clock, boosted := false }
    if w.hdr.y then s1.yieldWarp id else s1

/-- R208: past the instruction: the next of the clause, or the next clause, with the header's yield (R207). A warp that
resumed and has not decoded its clause again goes on from CLAUSE_DECODE. -/
def State.advance (s : State) (id : Nat) : State :=
  match s.warp id with
  | none => s
  | some w =>
    if !w.fetched || w.ix + 1 < w.hdr.n.toNat then
      s.putWarp id { w with ix := w.ix + 1, wait := none, idleSince := s.clock, boosted := false }
    else s.jump id w.nextClause

/-- A warp blocks (R34). -/
def State.block (s : State) (id : Nat) (why : Wait) : State := s.mapWarp id fun w => { w with wait := some why }

/-! ### Results that land later (R75, R83, R264) -/

/-- The registers that a result writes, as masks of v, e and k. -/
def RegWrite.regs : RegWrite → Mask × Mask × Mask
  | .v r _ => (1#128 <<< r, 0, 0)
  | .e r _ => (0, 1#128 <<< r, 0)
  | .k r _ => (0, 0, 1#128 <<< r)

/-- A result written into its register. -/
def Warp.land (w : Warp) : RegWrite → Warp
  | .v r vals => { w with v := vals.foldl (fun m p => Store.set 0 m (r * 128 + p.1) p.2) w.v }
  | .e r vals => { w with e := vals.foldl (fun m p => Store.set 0 m (r * 32 + p.1) p.2) w.e }
  | .k r x => w.setK r x

/-- Pending bits set for results to come. -/
def Warp.pend (w : Warp) (l : List RegWrite) : Warp :=
  l.foldl (fun w x => let r := x.regs
    { w with pendV := w.pendV ||| r.1, pendE := w.pendE ||| r.2.1, pendK := w.pendK ||| r.2.2 }) w

/-- Pending bits cleared. -/
def Warp.unpend (w : Warp) (l : List RegWrite) : Warp :=
  l.foldl (fun w x => let r := x.regs
    { w with pendV := w.pendV &&& ~~~ r.1, pendE := w.pendE &&& ~~~ r.2.1, pendK := w.pendK &&& ~~~ r.2.2 }) w

/-- The key of a register's mark: file 0 v, 1 e, 2 k, 3 latch, 4 tile. -/
def markKey (file n : Nat) : Nat := file * 128 + n

/-- R264, R385: a register marked, with the address its trap reports. -/
def Warp.mark (w : Warp) (file n : Nat) (addr : DWord) : Warp :=
  let w := { w with markAddr := Store.set 0 w.markAddr (markKey file n) addr }
  match file with
  | 0 => { w with markV := w.markV ||| (1#128 <<< n) }
  | 1 => { w with markE := w.markE ||| (1#128 <<< n) }
  | 2 => { w with markK := w.markK ||| (1#128 <<< n) }
  | 3 => { w with markL := w.markL ||| (1#4 <<< n) }
  | _ => { w with markT := w.markT ||| (1#64 <<< n) }

/-- R264: a mark cleared. -/
def Warp.unmark (w : Warp) (file n : Nat) : Warp :=
  let w := { w with markAddr := Store.set 0 w.markAddr (markKey file n) 0 }
  match file with
  | 0 => { w with markV := w.markV &&& ~~~ (1#128 <<< n) }
  | 1 => { w with markE := w.markE &&& ~~~ (1#128 <<< n) }
  | 2 => { w with markK := w.markK &&& ~~~ (1#128 <<< n) }
  | 3 => { w with markL := w.markL &&& ~~~ (1#4 <<< n) }
  | _ => { w with markT := w.markT &&& ~~~ (1#64 <<< n) }

/-- Whether a register is marked (R264). -/
def Warp.marked (w : Warp) (file n : Nat) : Bool :=
  match file with
  | 0 => w.markV.getLsbD n
  | 1 => w.markE.getLsbD n
  | 2 => w.markK.getLsbD n
  | 3 => w.markL.getLsbD n
  | _ => w.markT.getLsbD n

/-- A result in flight is sent: pending bits and the counter share (R75, R77). -/
def State.sendLoad (s : State) (id : Nat) (w : Warp) (dc : Option Nat) (writes : List RegWrite)
    (bad : List (Nat × Nat × DWord)) (rep : Option Replay) (far : Bool) : State :=
  let w1 := w.pend writes
  let w2 := match dc with | some n => w1.incD n | none => w1
  { (s.putWarp id w2).tick1 with
    loads := s.loads.put s.nextId ⟨id, w.slotNo, s.gen w.slotNo, dc, writes, bad, rep, far⟩ }

/-- Stores in flight: the outstanding-store counter and the counter share (R77, R137). -/
def State.sendAcks (s : State) (id : Nat) (w : Warp) (dc : Option Nat) (n : Nat) (far : Bool) : State :=
  if n = 0 then s.putWarp id w
  else
    let w1 := { w with out := w.out + n }
    let w2 := match dc with | some n => w1.incD n | none => w1
    { (s.putWarp id w2).tick1 with acks := s.acks.put s.nextId ⟨id, w.slotNo, s.gen w.slotNo, dc, n, far⟩ }

end Sys2Proof.Machine
end

