-- ==== Sys2Proof/Machine/Home.lean ====
section
/-! DEFINITION. The homes of queues (R150 to R159, R407) and barrier objects (R162 to R165): the checks and the
operations that a home performs one at a time. -/

namespace Sys2Proof.Machine

/-! ### Queue control blocks (Table 6.1) -/

/-- R151: the ones'-complement sum of the eight words of bytes 0 to 15. -/
def onesSum (l : List Byte) : Nat :=
  (List.range 8).foldl (fun acc i =>
    let w := (l.getD (2 * i) 0).toNat + 256 * (l.getD (2 * i + 1) 0).toNat
    if acc + w > 0xFFFF then acc + w - 0xFFFF else acc + w) 0

/-- The fields of a queue control block that the home acts on. -/
structure QBlk where
  base : Nat
  cap : Nat
  size : Nat
  flags : Nat
  head : Nat
  tail : Nat
  free : Nat
  resv : Nat
  deriving DecidableEq, Repr

/-- The control block at a key. -/
def State.qblk (s : State) (k : Nat) : QBlk :=
  ⟨s.num k 8, s.num (k + 8) 4, s.num (k + 12) 2, s.num (k + 14) 2, s.num (k + 16) 4, s.num (k + 20) 4,
    s.num (k + 24) 4, s.num (k + 28) 4⟩

/-- The visible elements of a queue (R157). -/
def QBlk.visible (q : QBlk) : Nat := (q.tail + 2 ^ 32 - q.head) % 2 ^ 32

/-- A power of two up to 2^24 (Table 6.1). -/
def isPow2 (n : Nat) : Bool := (List.range 25).any fun i => n == 2 ^ i

/-- Table 6.2 and R385: `none` when every check passes, else whether the first failing row sets broken. -/
def State.qcheck (s : State) (k : Nat) (thr : Bool) : Option Bool :=
  let q := s.qblk k
  if s.runFailed k 64 then some true
  else if s.num (k + 48) 2 ≠ 0x51E0 then some true
  else if s.num (k + 50) 2 ≠ onesSum (s.bytes k 16) then some true
  else if !isPow2 q.cap then some true
  else if q.size < 8 || q.size > 256 || q.size % 8 != 0 then some true
  else if q.base % 8 ≠ 0 then some true
  else if q.flags % 8 = 7 || q.flags / 32 != 0 || s.num (k + 52) 12 != 0 then some true
  else if q.visible > q.cap then some true
  else if q.free + q.visible + q.resv ≠ q.cap then some true
  else if q.flags / 16 % 2 = 1 then some false
  else if thr && q.flags / 8 % 2 = 0 then some false
  else none

/-- A field of a control block written in the synchronisation cache (R152). -/
def State.qput (s : State) (k off n x : Nat) : State := s.wrRaw (k + off) (bytesOfNat n x)

/-- R153: broken set and the check rewritten (R151). -/
def State.qbreak (s : State) (k : Nat) : State :=
  let s1 := s.qput k 14 2 (s.num (k + 14) 2 ||| 16)
  s1.qput k 50 2 (onesSum (s1.bytes k 16))

/-- The home of a queue. -/
def State.home (s : State) (k : Nat) : QHome := (s.homes.find k).getD ⟨[], [], [], [], false⟩

/-- R152: the line of a control block pinned. -/
def State.pin (s : State) (k : Nat) : State := { s with homes := s.homes.put k { s.home k with pin := true } }

/-- The home of a queue changed, with the waiter counts of its block kept current (Table 6.1, R152). -/
def State.putHome (s : State) (k : Nat) (h : QHome) : State :=
  (({ s with homes := s.homes.put k h }).qput k 32 4 h.enqW.length).qput k 36 4 h.deqW.length

/-- R159, R320: a `q.init` or a `qdrain`, which is performed once no slot is reserved or taken. -/
def QOp.solo (op : QOp) : Bool := op.init != [] || op.drain.isSome

/-- The number of elements of an operation (R155). -/
def QOp.n (op : QOp) : Nat := op.threads.length

/-- The address of the slot of counter value `n`: the ring is in the block's space (R150). -/
def QBlk.slot (q : QBlk) (pad : Bool) (n : Nat) : DWord :=
  let a : DWord := BitVec.ofNat 64 (q.base + n % q.cap * q.size)
  if pad then a ||| 0x8000000000000000 else a

/-- The cluster whose window holds a scratchpad key (R407). -/
def State.padCluster (s : State) (k : Nat) : Nat :=
  match s.blocks.find (k / 2 ^ 24 % 2 ^ 56) with
  | none => 0
  | some b => b.cluster

/-- Who reaches the ring of an operation (R407). -/
def State.qagent (s : State) (k : Nat) (op : QOp) : Agent :=
  ⟨op.cmp, op.ctx, 4096, if isPad k then s.padCluster k else op.cluster⟩

/-- R407: a slot address translated for an operation: in the context of its agent, and in the block's space (R150). -/
def State.slotAt (s : State) (k : Nat) (op : QOp) (x : DWord) : Except Fail Trans :=
  let need : Need := if op.enq then .write else .read
  match op.via with
  | some v => s.xlateVia v x need
  | none => if isPad k then s.xany (s.qagent k op) x need else s.xlate (s.qagent k op) x need

/-- The failing slot of the lowest address, with how it fails. -/
def lowestFail : List (DWord × Fail) → Option (DWord × Fail)
  | [] => none
  | x :: r => match lowestFail r with
    | none => some x
    | some y => if y.1.toNat < x.1.toNat then some y else some x

/-- R407: the slots an operation would use, translated, or the address of the lowest that fails. -/
def State.qslots (s : State) (k : Nat) (op : QOp) (q : QBlk) (counters : List Nat) :
    Except (DWord × Fail) (List (List Trans)) :=
  let all := counters.map fun n => (q.slot (isPad k) n, units (s.slotAt k op) (q.slot (isPad k) n) q.size)
  match lowestFail (all.filterMap fun p => match p.2 with | .error e => some (p.1, e.2) | .ok _ => none) with
  | some e => .error e
  | none => .ok (all.filterMap fun p => match p.2 with | .error _ => none | .ok t => some t)

/-- What a home answers to a request. -/
inductive QRes where
  /-- Refused before any effect: the cause, with the entry of a malformed walk (R367), the trap value, and the state with
  broken set where Table 6.2 says so. -/
  | refuse (why : Fail) (val : DWord) (s : State)
  /-- Not served: the waiter list, or status 1 (R157). -/
  | wait
  /-- The home cannot reach a slot now (R397): the request waits in front of it. -/
  | held
  /-- Reserved or taken (R155, R156). -/
  | served (s : State)

/-- The elements that enqueues reserved and have not published (R155). -/
def State.unpublished (s : State) (h : QHome) : Nat :=
  (h.busy.map fun id => match s.qops.find id with
    | some op => if op.enq then op.counters.length else 0
    | none => 0).sum

/-- R127, R134, R142: the lines of an operation's slots leave the L1 of the core that issued it before the home reaches
them. -/
def State.slotsHome (s : State) (op : QOp) (slots : List Trans) : State :=
  match op.agent with
  | .warp _ slot _ => slots.foldl (fun s t =>
      let lo := t.key / 128 * 128
      s.writeBack (ofCore (slot / 128)) lo (lo + 128)) s
  | _ => s

/-- R153 to R158, R407: one request at its home, in the order of R153. `mayServe` is false where an earlier request of the
direction waits; a waiter (`late`) has its slots checked when there is room for it. -/
def State.qperform (s : State) (k id : Nat) (op : QOp) (mayServe late : Bool) : QRes :=
  let q := s.qblk k
  let h := s.home k
  match s.qcheck k op.thr with
  | some b => .refuse ⟨0x0B, none⟩ op.addr (if b then s.qbreak k else s)
  | none =>
    let room := if op.enq then q.free else q.visible
    if op.thr && q.cap < op.n then .refuse ⟨0x02, none⟩ (op.word.zeroExtend 64) s
    else if op.span < q.size then .refuse ⟨0x02, none⟩ (op.word.zeroExtend 64) s
    else if late && room < op.n then .wait
    else
      let first := if op.enq then q.tail + s.unpublished h else q.head
      let counters := (List.range op.n).map fun i => (first + i) % 2 ^ 32
      match s.qslots k op q counters with
      | .error e => if e.2.cause = heldCause then .held else .refuse e.2 e.1 s
      | .ok slots =>
        if slots.flatten.any fun t => s.planeHeld t.key || s.leafHeld t op.enq then .held
        else if !mayServe || room < op.n then .wait
        else
          let s1 := (s.slotsHome op slots.flatten).touchAll slots.flatten op.enq
          let s2 := if op.enq then s1.qput k 24 4 (q.free - op.n) else s1.qput k 16 4 ((q.head + op.n) % 2 ^ 32)
          let s3 := s2.qput k 28 4 (q.resv + op.n)
          let op1 := { op with counters := counters, slots := slots.map fun l => l.map fun t => (t.key, t.ms) }
          .served ({ s3 with qops := s3.qops.put id op1 }.putHome k { h with busy := h.busy ++ [id], pin := true })

/-- A request that has just reached its home. -/
def State.qserve (s : State) (k id : Nat) (op : QOp) (mayServe : Bool) : QRes := s.qperform k id op mayServe false

/-- A waiter that its home would serve or refuse now (R158). -/
def State.qripe (s : State) (k : Nat) : List Nat → Bool
  | [] => false
  | id :: _ => match s.qops.find id with
    | none => true
    | some op => match s.qperform k id op true true with
      | .wait | .held => false
      | _ => true

/-- R152, R158: a request may reach a home: no `q.init` waits in front of it, and no waiter is to be served first. -/
def State.homeIdle (s : State) (k : Nat) : Bool :=
  let h := s.home k
  h.line == [] && !s.qripe k h.enqW && !s.qripe k h.deqW

/-- R157, R158: a request joins the list of its direction. -/
def State.qjoin (s : State) (k id : Nat) (op : QOp) : State :=
  let h := s.home k
  let s1 := { s with qops := s.qops.put id op }
  s1.putHome k (if op.enq then { h with enqW := h.enqW ++ [id], pin := true } else { h with deqW := h.deqW ++ [id], pin := true })

/-- A request leaves its list (R161, R386). -/
def State.qleave (s : State) (k id : Nat) : State :=
  let h := s.home k
  { s with qops := s.qops.erase id }.putHome k
    { h with enqW := h.enqW.filter (· ≠ id), deqW := h.deqW.filter (· ≠ id), line := h.line.filter (· ≠ id) }

/-- R157, R158: whether the list of an operation's direction is empty. -/
def State.qempty (s : State) (k : Nat) (enq : Bool) : Bool :=
  let h := s.home k
  if enq then h.enqW == [] else h.deqW == []

/-- R152, R159: a request that waits in front of a home for its turn. -/
def State.qline (s : State) (k id : Nat) (op : QOp) : State :=
  let h := s.home k
  { s with qops := s.qops.put id op }.putHome k { h with line := h.line ++ [id], pin := true }

/-- R398: the way between a home and a slot of its ring needs a failed link. -/
def State.slotCut (s : State) (k a : Nat) : Bool :=
  !isPad k && !isPad a && isLocal k && isLocal a
    && s.linkFailed (stackDie (keyStack k)) (stackDie (keyStack a))

/-- R385, R398: a slot whose bytes return an uncorrectable error to its home. -/
def State.slotFails (s : State) (k : Nat) (l : List (Nat × Bool)) : Bool :=
  l.any fun p => s.runFailed p.1 8 || s.slotCut k p.1

/-- The bytes of a reserved or taken slot; zeros where they return an uncorrectable error (R264, log 40). -/
def State.slotBytes (s : State) (k : Nat) (l : List (Nat × Bool)) (n : Nat) : List Byte :=
  if s.slotFails k l then List.replicate n 0 else (l.flatMap fun p => s.bytes p.1 8).take n

/-- Bytes written into a reserved slot; those that need a failed link are lost (R398). -/
def State.wrSlot (s : State) (k : Nat) : List (Nat × Bool) → List Byte → State
  | [], _ => s
  | p :: r, l =>
    State.wrSlot (if s.slotCut k p.1 then s else if p.2 then s.wrRaw p.1 (l.take 8) else s.wrBytes p.1 (l.take 8)) k r (l.drop 8)

/-- R159, R285: the block that `q.init` writes; the waiter counts are kept, the hardware bytes are the part's own
(a free value, log 2). -/
def State.qinit (s : State) (k : Nat) (img : List DWord) : State :=
  let h := s.home k
  let s1 := s.wrRaw k (img.flatMap fun d => bytesOfNat 8 d.toNat)
  let s2 := ((s1.qput k 16 8 0).qput k 24 4 (s1.num (k + 8) 4)).qput k 28 4 0
  let s3 := (s2.qput k 40 8 (Config.queueHardware s2.fresh).toNat).qput k 48 2 0x51E0
  let s4 := (s3.qput k 50 2 (onesSum (s3.bytes k 16))).qput k 52 12 0
  { s4 with fresh := s4.fresh + 1 }.putHome k { h with pin := true }

/-- R320: what `qdrain` does at a home with no slot reserved or taken: in mode 1 it sets broken; the fields go to memory, and the
line is no longer pinned. -/
def State.drainAt (s : State) (k mode : Nat) : State :=
  let lo := k / 128 * 128
  let s1 := (if mode = 1 then s.qbreak k else s).l2Clean lo (lo + 128)
  { s1 with homes := s1.homes.put k { s1.home k with pin := false } }

/-- R285: whether the bytes that `q.init` would write pass Table 6.2; a scratchpad ring base has bits [63:32] zero. -/
def qinitOk (pad : Bool) (base shape : DWord) : Bool :=
  let size := (shape.extractLsb' 32 16).toNat
  let flags := (shape.extractLsb' 48 16).toNat
  isPow2 (shape.extractLsb' 0 32).toNat && 8 ≤ size && size ≤ 256 && size % 8 == 0
    && base.toNat % 8 == 0 && flags % 8 != 7 && flags / 32 == 0 && (!pad || base.toNat < 2 ^ 32)

/-! ### Barrier objects (Table 6.3) -/

/-- The object at a key. -/
def State.barObj (s : State) (k : Nat) : BitVec 128 := BitVec.ofNat 128 (s.num k 16)

/-- R162: the checks that every operation makes. -/
def barOk (x : BitVec 128) : Bool :=
  x.extractLsb' 120 8 == 0xB7 && x.extractLsb' 80 40 == 0 && x.extractLsb' 0 20 != 0
    && (x.extractLsb' 20 20).toNat ≤ (x.extractLsb' 0 20).toNat && x.extractLsb' 45 3 != 7

/-- The phase of an object. -/
def barPhase (x : BitVec 128) : Nat := (x.extractLsb' 40 4).toNat

/-- An object with its pending bytes, overrun, phase and pending arrivals replaced. -/
def barMake (x : BitVec 128) (bytes : BitVec 32) (overrun : Bool) (phase : BitVec 4) (arr : BitVec 20) : BitVec 128 :=
  (x.extractLsb' 80 48 ++ bytes ++ x.extractLsb' 45 3 ++ BitVec.ofBool overrun ++ phase ++ arr ++ x.extractLsb' 0 20 :
    BitVec (48 + 32 + 3 + 1 + 4 + 20 + 20))

/-- Table 6.4: what changes an object. -/
inductive BarOp where
  | arrive (c : Nat)
  | bytes (x : Int)
  deriving DecidableEq, Repr

/-- Table 6.4, R163, R164: the object after an operation, whether it overran and whether a phase completed; `none`
where the pending bytes would leave their range. -/
def barApply (x : BitVec 128) (op : BarOp) : Option (BitVec 128 × Bool × Bool) :=
  let arr := (x.extractLsb' 20 20).toNat
  let pend := (x.extractLsb' 48 32).toInt
  let ovr := match op with | .arrive c => decide (c > arr) | .bytes _ => false
  let arr1 := match op with | .arrive c => if c > arr then 0 else arr - c | .bytes _ => arr
  let pend1 := match op with | .arrive _ => pend | .bytes d => pend + d
  if pend1 < -2147483648 ∨ pend1 > 2147483647 then none
  else
    let fin := arr1 == 0 && pend1 == 0
    let y := barMake x (BitVec.ofInt 32 pend1) (x.getLsbD 44 || ovr)
      (if fin then x.extractLsb' 40 4 + 1 else x.extractLsb' 40 4)
      (if fin then x.extractLsb' 0 20 else BitVec.ofNat 20 arr1)
    some (y, ovr, fin)

/-- Table 6.4: the object that `bar.init` writes. -/
def barFresh (cfg : DWord) : BitVec 128 :=
  (0xB7#8 ++ 0#40 ++ 0#32 ++ cfg.extractLsb' 20 3 ++ 0#1 ++ 0#4 ++ cfg.extractLsb' 0 20 ++ cfg.extractLsb' 0 20 :
    BitVec (8 + 40 + 32 + 3 + 1 + 4 + 20 + 20))

/-- R397: the results of the last 4,096 requests of a source are kept. -/
def State.keepResult (s : State) (src ident : Nat) (data : Option (List Byte)) : State :=
  let mine := ((src, ident, data) :: s.remoteLog.filter fun e => e.1 == src).take 4096
  { s with remoteLog := mine ++ s.remoteLog.filter fun e => e.1 != src }

/-- R395, R397: the answer to a request of another module, kept and sent. -/
def State.answerModule (s : State) (src ident : Nat) (data : Option (List Byte)) : State :=
  let s1 := s.keepResult src ident data
  { s1 with hostOut := s1.hostOut ++ [.remote src ident data] }

/-- R163, R165: every waiter of an object woken by a completion; warps return "changed" with the phase. -/
def State.barWake (s : State) (k : Nat) (phase : Nat) : State :=
  (s.barWaits.all.filter fun p => p.2.key == k).foldl
    (fun s p => match p.2.who with
      | .warp w =>
        let s1 := { s with barWaits := s.barWaits.erase p.1 }
        (s1.mapWarp w fun x => { x.setK p.2.dst (BitVec.ofNat 64 (phase + 16)) with
          pendK := x.pendK &&& ~~~ (1#128 <<< p.2.dst) }).advance w
      | .launch _ =>
        if p.2.woken.isSome then s else { s with barWaits := s.barWaits.put p.1 { p.2 with woken := some phase } }
      | .module src ident =>
        ({ s with barWaits := s.barWaits.erase p.1 } : State).answerModule src ident (some (bytesOfNat 8 (phase + 16))))
    s

/-- R351: a failing object lets the launches that still wait on it be rejected. -/
def State.barSpoil (s : State) (k : Nat) : State :=
  (s.barWaits.all.filter fun p => p.2.key == k).foldl
    (fun s p => match p.2.who with
      | .launch _ =>
        if p.2.woken.isSome then s else { s with barWaits := s.barWaits.put p.1 { p.2 with woken := some 16 } }
      | _ => s)
    s

/-- What the home of a barrier object answers. -/
inductive BRes where
  | corrupt (s : State)
  | done (overrun : Bool) (s : State)

/-- R162 to R164, R385: one operation on the object at a translated address. -/
def State.barDo (s : State) (t : Trans) (op : BarOp) : BRes :=
  let x := s.barObj t.key
  if s.runFailed t.key 16 || !barOk x then .corrupt (s.barSpoil t.key)
  else match barApply x op with
    | none => .corrupt s
    | some (y, ovr, fin) =>
      let s1 := (s.touch t true).wrAt t (bytesOfNat 16 y.toNat)
      .done ovr (if fin then s1.barWake t.key (barPhase y) else s1)

end Sys2Proof.Machine
end

