-- ==== Sys2Proof/Machine/Operands.lean ====
section
/-! DEFINITION. Operand forms: vector operand codes (Table 3.2), pairs (R72), permutes (Tables 3.4 and 3.5), k operands
(kb, kc and U mode), register groups, and the checks, interlocks and marks of what an instruction names
(R37, R72, R73, R76, R81, R264). -/

namespace Sys2Proof.Machine

/-! ### Permutes on the read path -/

/-- The thread that thread `t` reads under a short permute (Table 3.4). -/
def permShort (pb : BitVec 3) (t : Nat) : Nat :=
  match pb.toNat with
  | 0 => t
  | 1 => t ^^^ 15
  | 2 => t ^^^ 1
  | 3 => t ^^^ 2
  | 4 => t ^^^ 4
  | 5 => t ^^^ 8
  | 6 => t / 16 * 16 + (t + 1) % 16
  | _ => t / 16 * 16

/-- The thread that thread `t` reads under a long permute (Table 3.5). -/
def permLong (p : BitVec 8) (t : Nat) : Nat :=
  let n := p.toNat % 16
  match p.toNat / 16 with
  | 0 => t
  | 1 => t ^^^ n
  | 2 => t / 16 * 16 + (t + n) % 16
  | 3 => t / 16 * 16 + n
  | 4 => t ^^^ (2 ^ (n + 1) - 1)
  | 5 => t ^^^ (n * 16)
  | 6 => (t / 16 + n) % 8 * 16 + t % 16
  | _ => n * 16 + t % 16

/-! ### What an instruction names -/

/-- A register that an instruction reads or writes. -/
inductive Ref where
  /-- A vector source code (Table 3.2). -/
  | src (code : BitVec 7)
  /-- A vector source code of a pair. -/
  | srcPair (code : BitVec 7)
  /-- A v register written. -/
  | dst (code : BitVec 7)
  /-- A v pair written. -/
  | dstPair (code : BitVec 7)
  /-- A v register read and written. -/
  | both (code : BitVec 7)
  /-- `n` v registers from a code, read. -/
  | group (code n : Nat)
  /-- `n` v registers from a code, written. -/
  | groupDst (code n : Nat)
  /-- A k register read. -/
  | k (n : Nat)
  /-- A k register written. -/
  | kDst (n : Nat)
  /-- `n` k registers from `r`, read. -/
  | kGroup (r n : Nat)
  /-- `n` k registers from `r`, written. -/
  | kGroupDst (r n : Nat)
  /-- An e register read. -/
  | e (n : Nat)
  /-- An e register written. -/
  | eDst (n : Nat)
  /-- An accumulator tile read. -/
  | tile (n : Nat)
  /-- An accumulator tile written. -/
  | tileDst (n : Nat)
  deriving DecidableEq, Repr

/-- A vector source code that Table 3.2, the allotment (R37) and the clause's latches (R81) allow. -/
def Warp.srcOk (w : Warp) (c : Nat) : Bool :=
  if c < 112 then c < w.va else if c < 116 then c - 112 < w.latN else c < 120

/-- What R37, R72, R73 and R81 allow. -/
def Ref.ok (w : Warp) : Ref → Bool
  | .src c => w.srcOk c.toNat
  | .srcPair c =>
    if c.toNat < 112 then c.toNat % 2 == 0 && c.toNat + 1 < w.va else w.srcOk c.toNat
  | .dst c => c.toNat < 112 && c.toNat < w.va
  | .both c => c.toNat < 112 && c.toNat < w.va
  | .dstPair c => c.toNat < 112 && c.toNat % 2 == 0 && c.toNat + 1 < w.va
  | .group c n => c + n ≤ 112 && c + n ≤ w.va
  | .groupDst c n => c + n ≤ 112 && c + n ≤ w.va
  | .k n => n < w.ka
  | .kDst n => n < w.ka
  | .kGroup r n => r + n ≤ w.ka
  | .kGroupDst r n => r + n ≤ w.ka
  | .e n => n < w.va && n < 112
  | .eDst n => n < w.va && n < 112
  | .tile n => n < w.ta
  | .tileDst n => n < w.ta

/-- `n` bits of a mask from bit `r`. -/
def bitsFrom (r n : Nat) : Mask := BitVec.ofNat 128 ((2 ^ n - 1) * 2 ^ r)

/-- The v, e and k registers of a reference, as masks. -/
def Ref.regs : Ref → Mask × Mask × Mask
  | .src c | .dst c | .both c => if c.toNat < 112 then (bitsFrom c.toNat 1, 0, 0) else (0, 0, 0)
  | .srcPair c | .dstPair c => if c.toNat < 112 then (bitsFrom c.toNat 2, 0, 0) else (0, 0, 0)
  | .group c n | .groupDst c n => (bitsFrom c n, 0, 0)
  | .k n | .kDst n => (0, 0, bitsFrom n 1)
  | .kGroup r n | .kGroupDst r n => (0, 0, bitsFrom r n)
  | .e n | .eDst n => (0, bitsFrom n 1, 0)
  | .tile _ | .tileDst _ => (0, 0, 0)

/-- R76: a register that is read or written has a pending write. -/
def Ref.pending (w : Warp) (r : Ref) : Bool :=
  let m := r.regs
  (m.1 &&& w.pendV) ||| (m.2.1 &&& w.pendE) ||| (m.2.2 &&& w.pendK) != 0

/-- R76: the registers of references that have a pending write, as masks of v, e and k. -/
def pendingOf (w : Warp) (l : List Ref) : Mask × Mask × Mask :=
  let m := l.foldl (fun (a : Mask × Mask × Mask) r => (a.1 ||| r.regs.1, a.2.1 ||| r.regs.2.1, a.2.2 ||| r.regs.2.2)) (0, 0, 0)
  (m.1 &&& w.pendV, m.2.1 &&& w.pendE, m.2.2 &&& w.pendK)

/-- The marks that reading a reference meets (R264, R385): file and number. -/
def Ref.reads : Ref → List (Nat × Nat)
  | .src c => if c.toNat < 112 then [(0, c.toNat)] else if c.toNat < 116 then [(3, c.toNat - 112)] else []
  | .srcPair c =>
    if c.toNat < 112 then [(0, c.toNat), (0, c.toNat + 1)] else if c.toNat < 116 then [(3, c.toNat - 112)] else []
  | .both c => [(0, c.toNat)]
  | .group c n => (List.range n).map fun i => (0, c + i)
  | .k n => [(2, n)]
  | .kGroup r n => (List.range n).map fun i => (2, r + i)
  | .e n => [(1, n)]
  | .tile n => [(4, n)]
  | .dst _ | .dstPair _ | .groupDst _ _ | .kDst _ | .kGroupDst _ _ | .eDst _ | .tileDst _ => []

/-- The first marked register that references read. -/
def firstMark (w : Warp) (l : List Ref) : Option (Nat × Nat) :=
  (l.flatMap Ref.reads).find? fun p => w.marked p.1 p.2

/-! ### Values of operands -/

/-- A 64-bit vector source of thread `t`'s source thread `s` (Table 3.2); a 32-bit read takes bits [31:0]. -/
def Warp.srcPair (w : Warp) (c : Nat) (s : Nat) : DWord :=
  if c < 112 then w.vp c s
  else if c < 116 then w.lr (c - 112) s
  else match c with
    | 117 => BitVec.ofNat 64 s
    | 118 => BitVec.ofNat 64 (s % 16)
    | 119 => BitVec.ofNat 64 (s / 16)
    | _ => 0

/-- A 32-bit vector source of source thread `s` (Table 3.2). -/
def Warp.src (w : Warp) (c : Nat) (s : Nat) : Word :=
  if c < 112 then w.vr c s else (w.srcPair c s).extractLsb' 0 32

/-- The low word of a k register, as kb and kc read it (R73). -/
def Warp.kw (w : Warp) (n : Nat) : Word := (w.kr n).extractLsb' 0 32

/-- The source thread of source b of format A with an X-R word (R85). -/
def permB (f : FmtA) (x : XR) (t : Nat) : Nat := if x.pb = 0 then permShort f.pb t else permLong x.pb t

/-- Source a of format A (R85). -/
def Warp.srcA (w : Warp) (f : FmtA) (x : XR) (t : Nat) : Word := w.src f.a.toNat (permLong x.pa t)

/-- Source b of format A (R73, R85). -/
def Warp.srcB (w : Warp) (f : FmtA) (x : XR) (t : Nat) : Word :=
  if x.kb then w.kw f.b.toNat else w.src f.b.toNat (permB f x t)

/-- Source c of an X-R word (R73). -/
def Warp.srcC (w : Warp) (x : XR) (t : Nat) : Word := if x.kc then w.kw x.c.toNat else w.src x.c.toNat t

/-- Source a as a pair. -/
def Warp.pairA (w : Warp) (f : FmtA) (x : XR) (t : Nat) : DWord := w.srcPair f.a.toNat (permLong x.pa t)

/-- Source b as a pair (R73). -/
def Warp.pairB (w : Warp) (f : FmtA) (x : XR) (t : Nat) : DWord :=
  if x.kb then w.kr f.b.toNat else w.srcPair f.b.toNat (permB f x t)

/-- References of source a. -/
def refA (f : FmtA) : Ref := if f.u then .k f.a.toNat else .src f.a

/-- References of source b. -/
def refB (f : FmtA) (x : XR) : Ref := if f.u || x.kb then .k f.b.toNat else .src f.b

/-- References of source c. -/
def refC (f : FmtA) (x : XR) : Ref := if f.u || x.kc then .k x.c.toNat else .src x.c

/-- References of source a as a pair. -/
def refPairA (f : FmtA) : Ref := if f.u then .k f.a.toNat else .srcPair f.a

/-- References of source b as a pair. -/
def refPairB (f : FmtA) (x : XR) : Ref := if f.u || x.kb then .k f.b.toNat else .srcPair f.b

/-- References of a destination: none under NW (R80). -/
def refD (u nw : Bool) (d : BitVec 7) : List Ref := if nw then [] else if u then [.kDst d.toNat] else [.dst d]

/-- References of a pair destination. -/
def refPairD (u nw : Bool) (d : BitVec 7) : List Ref := if nw then [] else if u then [.kDst d.toNat] else [.dstPair d]

/-! ### Results of ALU instructions -/

/-- R79, R80: a 32-bit result written to `d` and latched. -/
def Warp.result (w : Warp) (nw : Bool) (d : Nat) (m : Mask) (f : Nat → Word) : Warp :=
  let w1 := if nw then w else w.setV d m f
  w1.latch fun t => if m.getLsbD t then (f t).zeroExtend 64 else if nw then 0 else (w.vr d t).zeroExtend 64

/-- R79, R80: a 64-bit result written to the pair `d` and latched. -/
def Warp.resultPair (w : Warp) (nw : Bool) (d : Nat) (m : Mask) (f : Nat → DWord) : Warp :=
  let w1 := if nw then w else w.setVP d m f
  w1.latch fun t => if m.getLsbD t then f t else if nw then 0 else w.vp d t

end Sys2Proof.Machine
end

