-- ==== Sys2Proof/Machine/Ops.lean ====
section
/-! DEFINITION. The shared operations of every meaning: event and fault records (R373, R390), the end and the kill of
warps (R67, R312, R322), the fencing of a context (R386), taking a trap (R335 to R337) and returning from one (R317),
and the issue of an instruction (R34, R76 to R78, R334). -/

namespace Sys2Proof.Machine

/-! ### Numbers of the system book -/

/-- The `ctxid` layout (Table 15.1). -/
def ctxid (cmp ctx : Nat) : Nat := cmp * 65536 + ctx

/-- The `xcore` layout (Table 15.1). -/
def Warp.xcore (w : Warp) : Nat := w.slot * 1024 + w.quarter * 256 + w.core

/-- The token of a warp's cluster (R378). -/
def State.clusterToken (s : State) (w : Warp) : DWord :=
  match s.blocks.find w.block with
  | none => 0
  | some b => match s.clusters.find b.cluster with
    | none => 0
    | some c => c.token

/-- The point at which a warp stands (Table 15.2). -/
def Warp.point (w : Warp) : DWord := (w.pc &&& 0x0FFFFFFFFFFFFFFC) ||| (BitVec.ofNat 64 w.ix <<< 60)

/-! ### Event records (R390, Table 18.1) -/

/-- An enqueue that the part makes on a queue of its own (R373, R390). -/
def partEnqueue (agent : QAgent) (cmp ctx : Nat) (addr : DWord) (data : List Byte) : QOp :=
  { status := none, via := none, agent := agent, enq := true, threads := [0], thr := false, span := data.length, cmp := cmp
    ctx := ctx, cluster := 0, addr := addr, data := [data], dst := 0, dc := none, counters := [], slots := [], word := 0
    init := [], drain := none }

/-- R390: a record that cannot be served is dropped and counted. -/
def State.eventLost (s : State) (cmp source : Nat) : State :=
  s.mapComp cmp fun c => { c with lost := Store.set 0 c.lost source (min 65535 (Store.get 0 c.lost source + 1)) }

/-- R407: the page of the control block of an operation that its home performs used for a write (R368). -/
def State.touchBlock (s : State) (op : QOp) : State :=
  match s.xany ⟨op.cmp, op.ctx, 4096, op.cluster⟩ op.addr .write with
  | .ok t => s.touch t true
  | .error _ => s

/-- R390: an event record performed at its home: a try enqueue, which carries the count of the records lost before it; none
where the home cannot reach a slot now (R397). -/
def State.eventAt (s : State) (k id : Nat) (op : QOp) (source : Nat) : Option State :=
  let d := op.data.headD []
  let lost := Store.get 0 (s.comp op.cmp).lost source
  let op1 := { op with data := [d.take 6 ++ bytesOfNat 2 lost ++ d.drop 8] }
  match s.qserve k id op1 (s.qempty k true) with
  | .refuse _ _ s1 => some (s1.eventLost op.cmp source)
  | .wait => some (s.eventLost op.cmp source)
  | .held => none
  | .served s1 => some ((s1.touchBlock op).mapComp op.cmp fun c => { c with lost := Store.set 0 c.lost source 0 })

/-- R152: nothing is to be performed at a home before a request that arrives with the translation `t`, and the home and the
leaf of its page can be reached (R397). -/
def State.homeOpen (s : State) (t : Trans) : Bool := s.homeIdle t.key && !s.planeHeld t.key && !s.leafHeld t true

/-- R397: an operation of the part's own whose control block cannot be translated now. -/
def State.postLater (s : State) (id : Nat) (op : QOp) : State := { s with delayed := s.delayed ++ [.post id op] }

/-- R152, R391: an earlier record for the same queue waits for a plane. -/
def State.recordBefore (s : State) (op : QOp) : Bool :=
  s.delayed.any fun d => match d with
    | .post _ o => o.cmp == op.cmp && o.ctx == op.ctx && o.addr == op.addr
    | .packet _ _ _ => false

/-- R390: an event record sent to its queue: it takes its turn there (R152, R391); without a home it is lost (log 53). -/
def State.sendEvent (s : State) (id : Nat) (op : QOp) (source : Nat) : State :=
  if s.recordBefore op then s.postLater id op
  else match s.xany ⟨op.cmp, op.ctx, 4096, 0⟩ op.addr .write with
  | .error f => if f.cause = heldCause then s.postLater id op else s.eventLost op.cmp source
  | .ok t =>
    if s.homeOpen t then match s.eventAt t.key id op source with
      | some s1 => s1
      | none => s.qline t.key id op
    else s.qline t.key id op

/-- The bytes of an event record, less its lost field (Table 18.1). -/
def eventBytes (seq kind source : Nat) (subject detail : DWord) (gtime : Nat) : List Byte :=
  bytesOfNat 4 seq ++ bytesOfNat 1 kind ++ bytesOfNat 1 source ++ bytesOfNat 2 0
    ++ bytesOfNat 8 subject.toNat ++ bytesOfNat 8 detail.toNat ++ bytesOfNat 8 gtime

/-- R390: a record posted as a try enqueue. A compartment without an event queue loses it (log 53). -/
def State.postEvent (s : State) (cmp kind source : Nat) (subject detail : DWord) : State :=
  let c := s.comp cmp
  let seq := Store.get 0 c.seqEvent source
  let s1 := s.mapComp cmp fun c => { c with seqEvent := Store.set 0 c.seqEvent source ((seq + 1) % 2 ^ 32) }
  match c.qevent with
  | none => s1.eventLost cmp source
  | some (block, ctx) => s1.tick1.sendEvent s1.nextId
      (partEnqueue (.event source) cmp ctx block (eventBytes seq kind source subject detail s.gtime)) source

/-- R390: kinds 8 to 10 go to every compartment. -/
def State.postEventAll (s : State) (kind source : Nat) (detail : DWord) : State :=
  (List.range 8).foldl (fun s c => s.postEvent c kind source 0 detail) s

/-! ### Fault records (R373, Table 17.2) -/

/-- What a fault record says, less its sequence. -/
structure FaultRec where
  cause : Nat
  source : Nat
  pos : Option Nat
  flags : Nat
  location : Nat
  cmp : Nat
  ctx : Nat
  cluster : DWord
  addr : DWord
  point : DWord
  token : DWord
  value : DWord
  deriving DecidableEq, Repr

/-- Table 17.2. -/
def FaultRec.bytes (r : FaultRec) (seq : Nat) : List Byte :=
  bytesOfNat 4 seq ++ bytesOfNat 1 r.cause ++ bytesOfNat 1 r.source ++ bytesOfNat 1 (r.pos.getD 0) ++ bytesOfNat 1 0
    ++ bytesOfNat 2 (r.flags + if r.pos.isSome then 32 else 0) ++ bytesOfNat 2 0 ++ bytesOfNat 4 r.location
    ++ bytesOfNat 4 (ctxid r.cmp r.ctx) ++ bytesOfNat 4 0 ++ bytesOfNat 8 r.cluster.toNat ++ bytesOfNat 8 r.addr.toNat
    ++ bytesOfNat 8 r.point.toNat ++ bytesOfNat 8 r.token.toNat ++ bytesOfNat 8 r.value.toNat

/-- R373, R390: a fault record that is lost: an event of kind fault-lost, whose subject is the cluster of the record
(log 39). -/
def State.faultLost (s : State) (cmp cause : Nat) (cluster : DWord) : State :=
  s.postEvent cmp 3 1 cluster (BitVec.ofNat 64 cause)

/-- R373: a fault record sent to its queue; `false` where it is lost: without a home (log 53), or refused there (Table 6.2,
R407). It takes its turn at the home (R152) and waits for a plane that carries nothing (R397). -/
def State.sendFault (s : State) (id : Nat) (op : QOp) : State × Bool :=
  if s.recordBefore op then (s.postLater id op, true)
  else match s.xany ⟨op.cmp, op.ctx, 4096, 0⟩ op.addr .write with
  | .error f => (if f.cause = heldCause then s.postLater id op else s, f.cause = heldCause)
  | .ok t =>
    if s.homeOpen t then match s.qserve t.key id op (s.qempty t.key true) with
      | .refuse _ _ s1 => (s1, false)
      | .wait => ((s.touch t true).qjoin t.key id op, true)
      | .held => (s.qline t.key id op, true)
      | .served s1 => (s1.touch t true, true)
    else (s.qline t.key id op, true)

/-- R373: a record posted as a blocking enqueue; `false` where it is discarded with an event of kind fault-lost. A
compartment without a fault queue loses it (log 53). -/
def State.postFault (s : State) (r : FaultRec) (agent : QAgent) : State × Bool :=
  let c := s.comp r.cmp
  match c.qfault with
  | none => (s.faultLost r.cmp r.cause r.cluster, false)
  | some (block, ctx) =>
    let sent := s.tick1.sendFault s.nextId (partEnqueue agent r.cmp ctx block (r.bytes c.seqFault))
    if sent.2 then (sent.1.mapComp r.cmp fun c => { c with seqFault := (c.seqFault + 1) % 2 ^ 32 }, true)
    else (sent.1.faultLost r.cmp r.cause r.cluster, false)

/-! ### What a trap says (Table 15.4, Table 17.2) -/

/-- A trap: its cause, its value and what a fault record says of it. -/
structure Trap where
  cause : Nat
  val : DWord
  pos : Option Nat
  write : Bool
  fetch : Bool
  entry : Option DWord
  value : Option DWord
  deriving DecidableEq, Repr

/-- A trap with a cause and a value alone. -/
def Trap.of (cause : Nat) (val : DWord) : Trap := ⟨cause, val, none, false, false, none, none⟩

/-- The trap of an access at an address that does not translate (R366, R367). -/
def Fail.trap (f : Fail) (addr : DWord) (write : Bool) (pos : Option Nat) : Trap :=
  ⟨f.cause, addr, pos, write, false, f.entry, none⟩

/-- The causes whose records carry an address (Table 17.2). -/
def hasAddress (cause : Nat) : Bool := [5, 6, 7, 0x0F, 0x11, 0x15, 0x16].contains cause

/-- The fault record of a warp's trap (Table 17.2). Flag [4], replay held, is set for the traps of a chase: the table does not say
whether replay records that the warp holds for another instruction set it too (DESIGN CHOICE, log 61). -/
def State.recordOf (s : State) (w : Warp) (t : Trap) (token : DWord) (double : Bool) : FaultRec :=
  { cause := t.cause, source := 0, pos := t.pos
    flags := (if t.cause = 0x0F ∨ t.cause = 0x10 then 16 else 0) + (if t.fetch then 8 else 0)
      + (if t.write then 4 else 0) + (if t.entry.isSome then 2 else 0) + (if double then 1 else 0)
    location := w.xcore, cmp := w.cmp, ctx := w.ctx, cluster := s.clusterToken w
    addr := if hasAddress t.cause then t.val else 0
    point := w.point, token := token
    value := (t.entry.orElse fun _ => t.value).getD t.val }


/-! ### Failed stores (R398) -/

/-- R398: a failed store: a fault record, and a store failure against the warp. -/
def State.storeFail (s : State) (id : Nat) (w : Warp) (pos : Option Nat) (addr : DWord) : State :=
  let r := s.postFault (s.recordOf w { Trap.of 0x15 addr with pos := pos, write := true } 0 false) (.record none none)
  r.1.mapWarp id fun w => { w with sfail := w.sfail.orElse fun _ => some addr }

/-- R398: a write-back of loose bytes that fails is a failed store of the warp in whose slot the L1 holds them, at the virtual
address of the store (log 5). -/
def State.failSlot (s : State) (slot : Nat) (va : DWord) : State :=
  match s.warps.all.find? fun p => p.2.slotNo == slot && !p.2.swapped with
  | some p => s.storeFail p.1 p.2 none va
  | none => s

/-- The first byte of each line that the L1 holds for a slot: a write-back is one for each. -/
def firstOfLine : List LooseByte → List LooseByte
  | [] => []
  | p :: r => p :: (firstOfLine r).filter fun x => !(x.slot == p.slot && x.key / 128 == p.key / 128)

/-- R134, R398: loose bytes among keys `lo` to `hi - 1` leave the L1: written back, or failed stores where they need a
failed link. -/
def State.sendHome (s : State) (who : Nat → Bool) (lo hi : Nat) : State :=
  let cut := firstOfLine ((s.loose who lo hi).filter s.looseCut)
  ((cut.foldl (fun s p => s.failSlot p.slot p.va) s).writeBack who lo hi).dropLoose who lo hi

/-- The slot of one warp. -/
def ofWarp (w : Warp) (slot : Nat) : Bool := slot == w.slotNo

/-- R134, R137: every loose byte that its core's L1 holds for a warp goes home. -/
def State.sendOwn (s : State) (w : Warp) : State := s.sendHome (ofWarp w) 0 (2 ^ 96)

/-! ### The end of threads and warps -/

/-- The twin of a warp: the other warp of its pair, where it is placed and unformed (R29, R62). -/
def State.twinOf (s : State) (id : Nat) (w : Warp) : Option (Nat × Warp) :=
  if w.twin = 2 || w.formed then none
  else s.warps.all.find? fun p => p.1 != id && p.2.block == w.block && p.2.widx == w.widx && !p.2.formed

/-- R167: the phase of the block barrier completes when every member has arrived. -/
def State.blockBarTest (s : State) (b : Nat) : State :=
  match s.blocks.find b with
  | none => s
  | some blk =>
    if blk.live ≠ 0 && blk.arrived == blk.live then
      let s1 := s.mapBlock b fun blk => { blk with arrived := 0, phase := (blk.phase + 1) % 256 }
      (s1.warps.all.filter fun p => p.2.block == b && p.2.wait == some .blockBar).foldl (fun s p => s.advance p.1) s1
    else s

/-- The private index of a thread (R121). -/
def privIndex (paired : Bool) (blkt twin : Nat) : Nat := if paired then 2 * blkt + twin else blkt

/-- The block-linear index of a thread (R23): the low W_b bits of its wid. -/
def blktOf (wbits : Nat) (wid : DWord) : Nat := wid.toNat % 2 ^ wbits

/-- R121: the private lines of a thread dropped from the L1. -/
def Block.dropPriv (b : Block) (i : Nat) : Block :=
  let t := if b.paired then 2 * b.threads else b.threads
  { b with priv := b.priv.filter fun p => p.1 / 4 % t ≠ i }

/-- The block-linear index of the thread at a position. -/
def Warp.blkt (w : Warp) (b : Block) (t : Nat) : Nat := blktOf b.wbits (Store.get 0 w.wids t)

/-- R44: a register that its owner leaves: published or not, then unowned. -/
def Block.leaveG (b : Block) (g : Nat) (publish : Bool) : Block :=
  { b with
    gpub := if publish then Store.set 0 b.gpub g (Store.get 0 b.gown g) else b.gpub
    gowner := b.gowner.erase g }

/-- R44: every register that a warp owns. -/
def Block.leaveAll (b : Block) (id : Nat) (publish : Bool) : Block :=
  (b.gowner.all.filter fun p => p.2 == id).foldl (fun b (p : Nat × Nat) => b.leaveG p.1 publish) b

/-- The home whose lists hold a request. -/
def State.homeOf (s : State) (op : Nat) : Option Nat :=
  (s.homes.all.find? fun p => p.2.enqW.contains op || p.2.deqW.contains op || p.2.line.contains op).map (·.1)

/-- An `mgd`, which its warp waits for (R302). -/
def MatKind.isMgd : MatKind → Bool
  | .mgd _ _ => true
  | _ => false

/-- A warp's blocked requests withdrawn from every list (R161, R165, R303, R386). -/
def State.withdraw (s : State) (id : Nat) : State :=
  match s.warp id with
  | none => s
  | some w => match w.wait with
    | some (.queue op) => match s.homeOf op with
      | some k => s.qleave k op
      | none => s
    | some (.barrier n) => { s with barWaits := s.barWaits.erase n }
    | some .gclaim => s.mapBlock w.block fun b => { b with claims := b.claims.filter fun p => p.2 ≠ id }
    | some .mgd => { s with engines := s.engines.map fun (p : Nat × Option Engine) => (p.1, p.2.map fun e =>
        { e with
          queue := e.queue.filter fun (o : MatOp) => !(o.warp == id && o.kind.isMgd)
          rendezvous := e.rendezvous.filter fun (o : MatOp) => o.warp ≠ id }) }
    | _ => s

/-- Replay records of a warp's chases discarded (R331): the destinations' pending bits clear with their old values, and the
counter shares are released. -/
def State.discardChases (s : State) (id : Nat) (l : List (Nat × Chase)) : State :=
  l.foldl (fun s p => ({ s with chases := s.chases.erase p.1 } : State).mapWarp id fun w =>
    (w.unpend [.v p.2.dst [], .v (p.2.dst + 1) []]).decD p.2.dc) s

/-- The chases of a warp under its generation: those that have trapped with the others. -/
def State.chasesOf (s : State) (id : Nat) : List (Nat × Chase) :=
  s.chases.all.filter fun p => p.2.warp == id && s.gen p.2.slot == p.2.gen

/-- R200, R331: the trapped chases of a warp, whose records the part keeps until their replay is complete (R199). -/
def State.trappedChases (s : State) (id : Nat) : List (Nat × Chase) := (s.chasesOf id).filter fun p => p.2.trapped

/-- R200: the records that wait for `eret` of a warp discarded: it ends, and none will come. -/
def State.dropHeld (s : State) (id : Nat) : State := s.discardChases id ((s.trappedChases id).filter fun p => p.2.held)

/-- A warp ends (R67): it holds its slot and allotment until ALLOTMENT_RETURN, where its generation increments (Table 2.4,
R83). What still comes back for it settles in it where it ended by itself (R312), and is dropped where it was killed (R322). -/
def State.endWarp (s : State) (id : Nat) (publish : Bool) : State :=
  match s.warp id with
  | none => s
  | some w =>
    let s1 := if publish then s.sendOwn w else s
    let s2 := s1.mapBlock w.block fun b => { b.leaveAll id publish with claims := b.claims.filter fun p => p.2 ≠ id }
    (s2.putWarp id { w with
      phase := .ended, killed := !publish, wait := none, mask := 0, acqAt := none, token := none, susp := none
      xback := none }).dropHeld id

/-- R312: threads of a warp end: their positions clear, their private lines are dropped and they leave the block
barrier. -/
def State.endThreads (s : State) (id : Nat) (m : Mask) : State :=
  match s.warp id with
  | none => s
  | some w =>
    let gone := positions (w.mask &&& m)
    let s1 := s.putWarp id { w with mask := w.mask &&& ~~~ m }
    let s2 := s1.mapBlock w.block fun b =>
      let b1 := gone.foldl (fun b t => b.dropPriv (privIndex b.paired (w.blkt b t) w.twin)) b
      { b1 with live := b1.live - gone.length }
    s2.blockBarTest w.block

/-- R322: a warp is killed: its threads end without publication, its requests are withdrawn and the records of its trapped
chases discarded (R200); its in-flight returns are dropped (R83). -/
def State.killOnly (s : State) (id : Nat) : State :=
  ((s.withdraw id).endThreads id (BitVec.allOnes 128)).endWarp id false

/-! ### Fencing a context (R386) -/

/-- R284: the warps of a context that wait on a future return its status. -/
def State.wakeFutures (s : State) (cmp ctx : Nat) (handle : DWord) (status : Nat) : State :=
  s.warps.all.foldl
    (fun s p => match p.2.wait with
      | some (.future h _ dst) =>
        if h == handle && p.2.cmp == cmp && p.2.ctx == ctx then
          (s.mapWarp p.1 fun w => w.setK dst (BitVec.ofNat 64 status)).advance p.1
        else s
      | _ => s) s

/-- A command ends with a status: the handle's pending bit clears, the counter completes and every `f.wait` on it
returns (R77, R169, R170). -/
def State.endCmd (s : State) (id status : Nat) : State :=
  match s.cmds.find id with
  | none => s
  | some c =>
    let s0 := { s with cmds := s.cmds.put id { c with status := status } }
    let s1 := s0.wakeFutures c.cmp c.ctx c.handle status
    match s1.owner c.warp c.slot c.gen with
    | none => s1.countDrop c.slot
    | some w => s1.putWarp c.warp ({ w with pendK := w.pendK &&& ~~~ (1#128 <<< c.kreg) }.decD c.dc)

/-- R66, R386: the records of a block of a fenced context are discarded; their threads are no more (R53, R167). -/
def State.discardRecs (s : State) (cmp ctx : Nat) (p : Nat × Option Block) : Nat × Option Block :=
  match p.2 with
  | none => p
  | some b => match s.clusters.find b.cluster with
    | some c => if c.cmp == cmp && c.ctx == ctx then (p.1, some { b with recs := [], live := b.live - b.recs.length }) else p
    | none => p

/-- R386: the warps, requests, commands and packets of a context, and the records of its blocks. -/
def State.fence (s : State) (cmp ctx : Nat) : State :=
  let s1 := s.mapCtx cmp ctx fun c => { c with fenced := true }
  let s2 := (s1.warps.all.filter fun p => p.2.cmp == cmp && p.2.ctx == ctx && p.2.phase != .ended && !p.2.swapped).foldl
    (fun s p => s.killOnly p.1) s1
  let s3 := (s2.cmds.all.filter fun p => p.2.cmp == cmp && p.2.ctx == ctx && p.2.status == 0).foldl
    (fun s p => s.endCmd p.1 (if p.2.taken then 3 else 2)) s2
  let s4 := { s3 with
    chases := s3.chases.filter fun p => match p.2 with | some c => !(c.cmp == cmp && c.ctx == ctx) | none => false
    blocks := s3.blocks.map (s3.discardRecs cmp ctx) }
  s4.postEvent cmp 6 6 0 (BitVec.ofNat 64 (ctxid cmp ctx))

/-! ### Taking a trap -/

/-- The causes that may be delegated (R337, Table 15.4). -/
def delegable (cause : Nat) : Bool := [6, 7, 0x0F, 0x10, 0x15, 0x16].contains cause

/-- R336: a double trap fences the context and posts a record with the double-trap flag. -/
def State.doubleTrap (s : State) (w : Warp) (t : Trap) : State :=
  ((s.postFault (s.recordOf w t 0 true) (.record none none)).1).fence w.cmp w.ctx

/-- R332: the trap vector and the delegation mask that a warp's trap uses: in the clock of a write by another warp, those
before it. -/
def Ctx.forTrap (c : Ctx) (id clock : Nat) : DWord × DWord :=
  match c.wrote with
  | some (w, t) => if w ≠ id ∧ t = clock then c.old else (c.xvec, c.xdeleg)
  | none => (c.xvec, c.xdeleg)

/-- The same for a warp of the state; zeros where its context is gone. -/
def State.trapRegs (s : State) (id : Nat) (w : Warp) : DWord × DWord :=
  match s.ctxOf w.cmp w.ctx with
  | some c => c.forTrap id s.clock
  | none => (0, 0)

/-- R335, R336: the trap state saved and the handler entered, or a double trap. A handler whose clause cannot be fetched is
entered, and its own fetch fault is the double trap, whose record says what failed and where (DESIGN CHOICE, log 61). -/
def State.enterHandler (s : State) (id : Nat) (w : Warp) (t : Trap) : State :=
  let xvec := (s.trapRegs id w).1
  if w.super || xvec == 0 || xvec.extractLsb' 0 2 != 0 then s.doubleTrap w t
  else s.putWarp id { w with
    xpc := w.point
    xcause := BitVec.ofNat 64 t.cause
    xval := t.val
    xstat := BitVec.ofNat 64 (w.latN * 256 + (if s.trappedChases id = [] then 0 else 16) + 1)
    slat := w.lat
    lat := []
    latN := 0
    super := true
    xarm := true
    pc := xvec
    ix := 0
    fetched := false
    words := []
    wait := none
    token := none
    susp := none
    idleSince := s.clock
    boosted := false }

/-- R374: a resume token for a compartment. -/
def State.newToken (s : State) (cmp ctx : Nat) (who : Waiter) : State × DWord :=
  let seq : BitVec 32 := BitVec.ofNat 32 (s.comp cmp).seqToken
  let token : DWord := Config.resumeCheck cmp (BitVec.ofNat 16 ctx) seq ++ BitVec.ofNat 16 ctx ++ seq
  (s.mapComp cmp fun c => { c with seqToken := (c.seqToken + 1) % 2 ^ 32, tokens := c.tokens ++ [⟨token, who, none⟩] }, token)

/-- TAKING A TRAP (R335 to R337, R372 to R374): the one operation by which every instruction and event does. A cause
that is delegable and delegated suspends the warp on a fault record; otherwise the handler is entered. An access that must
wait for a plane (R397) is no trap. -/
def State.takeTrap (s : State) (id : Nat) (t : Trap) : State :=
  match s.warp id with
  | none => s
  | some w =>
    if t.cause = heldCause then s
    else if !w.super && delegable t.cause && (s.trapRegs id w).2.getLsbD t.cause
        && (s.comp w.cmp).tokens.length < 4096 then
      let st := s.newToken w.cmp w.ctx (.warp id)
      let r := st.1.postFault (s.recordOf w t st.2 false) (.record (some id) none)
      if r.2 then
        r.1.putWarp id { w with
          wait := some .resume, token := some st.2, susp := some (t.cause, t.val), idleSince := s.clock, boosted := false }
      else (r.1.mapComp w.cmp fun c => { c with tokens := c.tokens.filter (·.token ≠ st.2) }).enterHandler id w t
    else s.enterHandler id w t

/-- R361: a trap that no instruction of the warp has raised by starting, that of a chase or of a clause's decode: the warp keeps
its boost, and its clocks without a start go on. -/
def State.takeAside (s : State) (id : Nat) (w : Warp) (t : Trap) : State :=
  (s.takeTrap id t).mapWarp id fun x => { x with idleSince := w.idleSince, boosted := w.boosted }

/-- R64, R303: a twin that waits in `mgd` takes the twin-absent trap when its twin has ended. -/
def State.twinGone (s : State) (id : Nat) (w : Warp) : State :=
  match s.twinOf id w with
  | some (p, x) => if x.wait == some .mgd then (s.withdraw p).takeTrap p (Trap.of 0x0E 0) else s
  | none => s

/-! ### Releases (R137) -/

/-- What a release or a fence finds. -/
inductive Retire where
  /-- Its condition is not met. -/
  | waits
  /-- A store has failed (R398): the trap that it takes. -/
  | fails (t : Trap) (s : State)
  | retires (s : State) (w : Warp)

/-- R137, R134, R398: a release or a fence at a scope: at block scope and wider the warp's loose bytes go home; at module
scope and wider every store is acknowledged first, and a store failure traps. -/
def State.retire (s : State) (id : Nat) (w : Warp) (scope : Nat) : Retire :=
  if scope < 2 then .retires s w
  else if (4 ≤ scope && w.out != 0) || s.backHeld (ofWarp w) then .waits
  else
    let s1 := s.sendOwn w
    let w1 := (s1.warp id).getD w
    match (if 4 ≤ scope then w1.sfail else none) with
    | some a => .fails (Trap.of 0x15 a) (s1.putWarp id { w1 with sfail := none })
    | none => .retires s1 w1

/-- R300: a warp's `mrq` has memory writes to come: its later accesses wait. -/
def State.mrqBusy (s : State) (id : Nat) (w : Warp) : Bool :=
  match s.engines.find w.quarterNo with
  | none => false
  | some e => (e.queue ++ e.run.toList).any fun o => o.warp == id
      && match o.kind with | .mrqMem _ _ _ _ => true | _ => false

/-! ### Blocked warps (R34, R67) -/

/-- T' of R49. -/
def Block.slots (b : Block) : Nat := if b.paired then 2 * b.threads else b.threads

/-- The number of pool entries (R49). -/
def Block.poolSize (b : Block) : Nat := 2 * (b.slots / 128)

/-- The lowest pool entry that no record names (R51). -/
def Block.poolFree (b : Block) : Option Nat :=
  (List.range b.poolSize).find? fun j => !(b.recs.any fun r => r.pool == some j)

/-- The commands of a core that have not ended (R173). -/
def State.coreCmds (s : State) (core : Nat) : List Cmd :=
  (s.cmds.all.filter fun p => p.2.core == core && p.2.status == 0).map (·.2)

/-! ### The snapshot pool (R51, R52) -/

/-- `n` bytes from an address cut at line boundaries. -/
def lineRuns (va : DWord) (n : Nat) : List (DWord × Nat) :=
  let o := va.toNat % 128
  if n = 0 then []
  else (List.range ((o + n + 127) / 128)).map fun i =>
    let lo := 128 * i - o
    (va + BitVec.ofNat 64 lo, min n (128 * (i + 1) - o) - lo)

/-- Bytes at any virtual address, cut at line boundaries, translated. -/
def State.xspan (s : State) (a : Agent) (va : DWord) (n : Nat) (need : Need) : Except (DWord × Fail) (List (Trans × Nat)) :=
  (lineRuns va n).foldl
    (fun acc r => match acc with
      | .error e => .error e
      | .ok l => match s.xlate a r.1 need with
        | .error f => .error (r.1, f)
        | .ok t => .ok (l ++ [(t, r.2)]))
    (.ok [])

/-- The bytes along translated runs. -/
def State.readSpan (s : State) (l : List (Trans × Nat)) : List Byte := l.flatMap fun p => s.bytes p.1.key p.2

/-- The bounds of a block's launch. -/
def Block.recSize (b : Block) : Nat := 24 + 4 * b.lmax

/-- The offset of pool entry `j` from the region base. -/
def Block.poolOffset (b : Block) (j : Nat) : Nat := b.slots * b.recSize + j * (8 * b.mmax)

/-- The snapshot of k0 to k(M-1) (R51). -/
def Warp.snapBytes (w : Warp) (m : Nat) : List Byte := (List.range m).flatMap fun i => bytesOfNat 8 (w.kr i).toNat

/-- What a branch does about its snapshot. -/
inductive Snap where
  /-- M is 0: no entry. -/
  | none
  /-- A live entry holds the same snapshot. -/
  | share (j : Nat)
  /-- The lowest free entry is written. -/
  | write (j : Nat)
  /-- No entry: the instruction blocks. -/
  | full
  deriving DecidableEq, Repr

/-- The bytes of pool entry `j`, or why they cannot be read (R374, R385, R397, R398). -/
def State.poolBytes (s : State) (ag : Agent) (b : Block) (j m : Nat) : Except (DWord × Fail) (List Byte) :=
  let va := b.spawnBase + BitVec.ofNat 64 (b.poolOffset j)
  match s.xspan ag va (8 * m) .read with
  | .error e => .error e
  | .ok l =>
    if l.any fun p => s.planeHeld p.1.key then .error (va, ⟨heldCause, none⟩)
    else if l.any fun p => s.runFailed p.1.key p.2 || s.broken ag.core p.1.key then .error (va, ⟨0x15, none⟩)
    else .ok (s.readSpan l)

/-- Pool entry `j` holds a snapshot. -/
def State.poolHolds (s : State) (ag : Agent) (b : Block) (j m : Nat) (bytes : List Byte) : Bool :=
  match s.poolBytes ag b j m with
  | .ok l => l == bytes
  | .error _ => false

/-- R51: the entry that a snapshot takes. -/
def State.snapFor (s : State) (ag : Agent) (b : Block) (m : Nat) (bytes : List Byte) : Snap :=
  if m = 0 then .none
  else match (List.range b.poolSize).find? fun j =>
      (b.recs.any fun r => r.pool == some j && r.m == m) && s.poolHolds ag b j m bytes with
    | some j => .share j
    | Option.none => match b.poolFree with
      | some j => .write j
      | Option.none => .full

/-- R34, R67: a warp is blocked: what it waits for has not come. A `ctxs` or `ctxr`, a `cfl` or `qdrain` that waits for a
plane, and what a swap-out withdrew, is blocked until it issues again (log 54); beats under way block nobody (R103). -/
def State.blockedNow (s : State) (w : Warp) : Bool :=
  match w.wait with
  | none | some .beats => false
  | some (.interlock v e k) => (v &&& w.pendV) != 0 || (e &&& w.pendE) != 0 || (k &&& w.pendK) != 0
  | some (.pool m) => match s.blocks.find w.block with
    | some b => s.snapFor (s.agentOf w) b m (w.snapBytes m) == .full
    | none => false
  | some .goFull => 128 ≤ (s.coreCmds w.core).length
  | some .fence => w.out != 0 || s.backHeld (ofWarp w)
  | some _ => true

/-! ### Replay records (R376) -/

/-- The bytes of the replay record of a load for `n` threads (Table 17.3). -/
def loadRecord (n : Nat) : Nat := 32 + 8 * n

/-- The bytes of the replay record of a chase for `n` threads (Table 17.3). -/
def chaseRecord (n : Nat) : Nat := 32 + 16 * n

/-- The bytes of the record of a queue operation (Table 17.3). -/
def QOp.recordSize (op : QOp) : Nat := 40 + if op.enq then (if op.thr then 256 * op.n else 256) else 0

/-- R376: the bytes that the records of a warp take. -/
def State.recordBytes (s : State) (id : Nat) : Nat :=
  ((s.loads.all.filter fun p => p.2.warp == id).map fun p => match p.2.rep with | some r => loadRecord r.addrs.length | none => 0).sum
    + ((s.chases.all.filter fun p => p.2.warp == id).map fun p => chaseRecord p.2.packets.length).sum
    + ((s.qops.all.filter fun p => match p.2.agent with | .warp w _ _ => w == id && !p.2.solo | _ => false).map
        fun p => p.2.recordSize).sum

/-- R376: there is room for a record of `n` bytes. -/
def State.recordRoom (s : State) (id n : Nat) : Bool := s.recordBytes id + n ≤ 36864

/-! ### Returning from a trap -/

/-- A packet that ended in a fault or a hop reply (R199). -/
def Packet.stopped (p : Packet) : Bool := match p.st with | .fault _ _ | .hop => true | _ => false

/-- R200: the faulted and stopped packets of a chase sent again from their recorded step and pointer. -/
def Chase.resend (c : Chase) : Chase :=
  { c with
    held := false
    rep := { c.rep with addrs := (c.packets.filter Packet.stopped).map fun p => (p.pos, p.ptr) }
    packets := c.packets.map fun p => if p.stopped then { p with st := .flying, replay := true, hops := 0, owner := none } else p }

/-- The chase of a warp whose trap awaits `eret`, its records kept (R199). -/
def State.chaseOf (s : State) (id : Nat) : Option (Nat × Chase) :=
  s.chases.all.find? fun p => p.2.warp == id && p.2.held && s.gen p.2.slot == p.2.gen

/-- A warp at a point in the layout of Table 15.2, to be decoded again. -/
def Warp.at (w : Warp) (point : DWord) : Warp :=
  { w with pc := point &&& 0x0FFFFFFFFFFFFFFC, ix := (point.extractLsb' 60 4).toNat, fetched := false, words := [] }

/-- Table 11.6: where a warp at its resume point goes on, by the cause of its trap. A trapped chase is completed by its
packets, sent again; the warp goes on where it stood (log 11). -/
def State.resumeBy (s : State) (id cause : Nat) : State :=
  if cause = 0x0C ∨ cause = 0x12 ∨ cause = 0x13 then s.mapWarp id fun w => { w with ix := w.ix + 1 }
  else if cause = 0x0F ∨ cause = 0x10 then
    match s.chaseOf id with
    | none => s
    | some (n, c) =>
      ({ s with chases := s.chases.put n c.resend } : State).mapWarp id fun w =>
        { w.at (w.xback.getD w.point) with xback := none }
  else s

/-- RETURNING FROM A TRAP (R317, R331, R338, Table 11.6): user mode, the saved latches and their count, the resume
point by the cause while `xpc` holds what the trap wrote. -/
def State.returnTrap (s : State) (id : Nat) : State :=
  match s.warp id with
  | none => s
  | some w =>
    let s1 := s.putWarp id { w.at w.xpc with
      lat := w.slat
      latN := (w.xstat.extractLsb' 8 4).toNat
      slat := []
      xstat := w.xstat &&& 0xFFFFFFFFFFFFFFFE
      super := false
      wait := none
      idleSince := s.clock
      boosted := false }
    if w.xarm then s1.resumeBy id w.xcause.toNat else s1

/-- R375, action 0: a suspended warp goes on as `eret` would. -/
def State.retrySuspended (s : State) (id : Nat) : State :=
  match s.warp id with
  | none => s
  | some w =>
    let cause := match w.susp with | some p => p.1 | none => 0
    (s.putWarp id { w with wait := none, token := none, susp := none, fetched := false }).resumeBy id cause

/-- R375, action 1: a suspended warp enters its handler with the trap state of R335. -/
def State.trapSuspended (s : State) (id : Nat) : State :=
  match s.warp id with
  | none => s
  | some w =>
    let p := w.susp.getD (0, 0)
    s.enterHandler id { w with wait := none, token := none, susp := none } (Trap.of p.1 p.2)

/-! ### Issue -/

/-- What an instruction does when its operands may be read. -/
inductive Res where
  /-- It has had its effect; the warp goes to the next instruction. -/
  | done (s : State)
  /-- It has had its effect and has set where the warp goes. -/
  | moved (s : State)
  /-- It has not issued, or it blocks: the warp stays at it. -/
  | stay (s : State)
  /-- It traps. -/
  | trap (t : Trap) (s : State)

/-- The state after an instruction of warp `id`. -/
def State.finish (id : Nat) : Res → State
  | .done s => s.advance id
  | .moved s => s
  | .stay s => s
  | .trap t s => s.takeTrap id t

/-- The first word of an instruction, as traps report it (Table 15.4). -/
def firstWord (i : Instr) : DWord := match encode i with | some e => e.w0.zeroExtend 64 | none => 0

/-- R379, 1: the cluster of a warp has stopped issue for a `ctxs` that has not completed. -/
def State.stoppedFor (s : State) (w : Warp) : Bool :=
  match s.blocks.find w.block with
  | none => false
  | some b => match s.clusters.find b.cluster with
    | none => false
    | some c => match c.stopping with
      | none => false
      | some p => match s.warp p with
        | none => false
        | some x => x.wait == some .sys && !x.swapped

/-- A warp whose agent may let it issue: it is placed, its wait is one after which it issues again, and issue is not
stopped (R34, R207, R379, R402); an instruction whose beats are under way ends (R376). -/
def State.mayIssue (s : State) (w : Warp) : Bool :=
  s.power && !s.issueStopped && !w.swapped && (w.phase == .prologue || w.phase == .running) && !w.held
    && (w.wait == some .beats || !s.stoppedFor w) && match w.wait with | none => true | some x => x.reissues

/-- The counters that the wait mask names read zero (R78, R206). -/
def Warp.waitMet (w : Warp) : Bool :=
  w.ix != 0 || (List.range 4).all fun i => !w.hdr.wait.getLsbD i || w.dn i == 0

/-- R37, R76, R264: operands checked, interlocks met, marks taken; then the effect. -/
def State.gate (s : State) (id : Nat) (w : Warp) (i : Instr) (refs : List Ref) (effect : State → Warp → Res) : Res :=
  if !w.waitMet then .stay s
  else if refs.any fun r => !r.ok w then .trap (Trap.of 0x02 (firstWord i)) s
  else if refs.any fun r => r.pending w then
    let m := pendingOf w refs
    .stay (s.putWarp id { w with wait := some (.interlock m.1 m.2.1 m.2.2) })
  else match firstMark w refs with
    | some p => .trap (Trap.of 0x15 (Store.get 0 w.markAddr (markKey p.1 p.2))) (s.putWarp id (w.unmark p.1 p.2))
    | none => effect s w

/-- The warp with a wait that lets it issue again cleared. -/
def Warp.woken (w : Warp) : Warp := { w with wait := none }

/-- The meaning of a warp instruction: issued by the warp that moves (log 1). -/
def State.issue (s : State) (i : Instr) (refs : Warp → List Ref) (effect : State → Warp → Res) :
    Host.Outcome State Fault Refusal :=
  match s.warp s.cur with
  | none => .fault .noIssuingWarp
  | some w =>
    if s.mayIssue w then
      .next (State.finish s.cur
        ((if w.wait == none then s else s.putWarp s.cur w.woken).gate s.cur w.woken i (refs w) effect))
    else .next s

end Sys2Proof.Machine
end

