-- ==== Sys2Proof/Machine/Int.lean ====
section
/-! DEFINITION. Integer, logic, shift, immediate, move, bit-field and unary ALU instructions (R230 to R237). -/

namespace Sys2Proof.Machine

/-! ### Shapes -/

/-- An ALU instruction whose one destination is a v register, or a k register under U (R79, R80, R230, R231). -/
def State.alu (s : State) (i : Instr) (refs : List Ref) (u nw : Bool) (d : BitVec 7) (g : Option Guard)
    (vec : Warp → Nat → Word) (uni : Warp → DWord) : Host.Outcome State Fault Refusal :=
  s.issue i (fun _ => refs ++ refD u nw d) fun s w =>
    let m := w.exec g
    .done (if u then (if m = 0 then s else s.putWarp s.cur (w.setK d.toNat (uni w)))
      else s.putWarp s.cur (w.result nw d.toNat m (vec w)))

/-- An ALU instruction whose one destination is a v pair, or a k register under U. -/
def State.aluPair (s : State) (i : Instr) (refs : List Ref) (u nw : Bool) (d : BitVec 7) (g : Option Guard)
    (vec : Warp → Nat → DWord) (uni : Warp → DWord) : Host.Outcome State Fault Refusal :=
  s.issue i (fun _ => refs ++ refPairD u nw d) fun s w =>
    let m := w.exec g
    .done (if u then (if m = 0 then s else s.putWarp s.cur (w.setK d.toNat (uni w)))
      else s.putWarp s.cur (w.resultPair nw d.toNat m (vec w)))

/-- Two sources in format A (R235). -/
def State.alu2 (s : State) (i : Instr) (f : FmtA) (x : XR) (op : (n : Nat) → BitVec n → BitVec n → BitVec n) :
    Host.Outcome State Fault Refusal :=
  s.alu i [refA f, refB f x] f.u f.nw f.d (some x.g)
    (fun w t => op 32 (w.srcA f x t) (w.srcB f x t)) (fun w => op 64 (w.kr f.a.toNat) (w.kr f.b.toNat))

/-- One source in format A (R237). -/
def State.alu1 (s : State) (i : Instr) (f : FmtA) (x : XR) (op : (n : Nat) → BitVec n → BitVec n) :
    Host.Outcome State Fault Refusal :=
  s.alu i [refA f] f.u f.nw f.d (some x.g) (fun w t => op 32 (w.srcA f x t)) (fun w => op 64 (w.kr f.a.toNat))

/-- One source and an immediate in format I (R236); no guard of its own (R210). -/
def State.aluI (s : State) (i : Instr) (f : FmtI) (op : (n : Nat) → BitVec n → BitVec n) :
    Host.Outcome State Fault Refusal :=
  s.alu i [if f.u then .k f.a.toNat else .src f.a] f.u f.nw f.d none
    (fun w t => op 32 (w.src f.a.toNat t)) (fun w => op 64 (w.kr f.a.toNat))

/-! ### Operations -/

/-- The high half of the signed product (Table 9.3). -/
def mulHigh (n : Nat) (a b : BitVec n) : BitVec n := BitVec.ofInt n (a.toInt * b.toInt / 2 ^ n)

/-- The high half of the unsigned product (Table 9.3). -/
def mulHighU (n : Nat) (a b : BitVec n) : BitVec n := BitVec.ofNat n (a.toNat * b.toNat / 2 ^ n)

/-- Signed minimum. -/
def sMin (n : Nat) (a b : BitVec n) : BitVec n := if a.slt b then a else b

/-- Signed maximum. -/
def sMax (n : Nat) (a b : BitVec n) : BitVec n := if a.slt b then b else a

/-- Unsigned minimum. -/
def uMin (n : Nat) (a b : BitVec n) : BitVec n := if a.ult b then a else b

/-- Unsigned maximum. -/
def uMax (n : Nat) (a b : BitVec n) : BitVec n := if a.ult b then b else a

/-- The sign-extended immediate (R236): imm10, or imm32 of an X-I word. -/
def immS (n : Nat) (f : FmtI) (x : Option (BitVec 32)) : BitVec n :=
  match x with
  | none => f.imm.signExtend n
  | some y => y.signExtend n

/-- The zero-extended immediate (R236). -/
def immZ (n : Nat) (f : FmtI) (x : Option (BitVec 32)) : BitVec n :=
  match x with
  | none => f.imm.zeroExtend n
  | some y => y.zeroExtend n

/-- The position of a bit field (Table 9.4). -/
def fieldPos (f : FmtI) : Nat := (f.imm.extractLsb' 0 5).toNat

/-- The length of a bit field: 0 is read as 32 (R236). -/
def fieldLen (f : FmtI) : Nat := if f.imm.extractLsb' 5 5 = 0 then 32 else (f.imm.extractLsb' 5 5).toNat

/-- A bit field extracted (Table 9.4). -/
def bitExtract (pos len n : Nat) (a : BitVec n) : BitVec n := (a >>> pos) &&& BitVec.ofNat n (2 ^ len - 1)

/-- A bit field inserted (Table 9.4). -/
def bitInsert (pos len n : Nat) (d a : BitVec n) : BitVec n :=
  let m : BitVec n := BitVec.ofNat n ((2 ^ len - 1) * 2 ^ pos)
  (d &&& ~~~m) ||| ((a <<< pos) &&& m)

/-- The number of leading zero bits. -/
def leadingZeros (n : Nat) (a : BitVec n) : BitVec n :=
  BitVec.ofNat n (((List.range n).find? fun i => a.getLsbD (n - 1 - i)).getD n)

/-- The number of one bits. -/
def popCount (n : Nat) (a : BitVec n) : BitVec n := BitVec.ofNat n ((List.range n).filter fun i => a.getLsbD i).length

/-- The bits in reverse order. -/
def bitReverse (n : Nat) (a : BitVec n) : BitVec n :=
  BitVec.ofNat n ((List.range n).foldl (fun acc i => acc * 2 + (a.getLsbD i).toNat) 0)

/-- The magnitude of a signed value. -/
def magnitude (n : Nat) (a : BitVec n) : BitVec n := if a.msb then -a else a

/-! ### Integer operations (R235) -/

/-- iadd (R235, Table 9.3). -/
def execIadd (f : FmtA) (x : Option XR) (s : State) : Host.Outcome State Fault Refusal :=
  s.alu2 (.iadd f x) f (xr x) (fun _ a b => a + b)

/-- isub (R235, Table 9.3). -/
def execIsub (f : FmtA) (x : Option XR) (s : State) : Host.Outcome State Fault Refusal :=
  s.alu2 (.isub f x) f (xr x) (fun _ a b => a - b)

/-- imul (R235, Table 9.3). -/
def execImul (f : FmtA) (x : Option XR) (s : State) : Host.Outcome State Fault Refusal :=
  s.alu2 (.imul f x) f (xr x) (fun _ a b => a * b)

/-- imulh (R235, Table 9.3). -/
def execImulh (f : FmtA) (x : Option XR) (s : State) : Host.Outcome State Fault Refusal :=
  s.alu2 (.imulh f x) f (xr x) mulHigh

/-- imulhu (R235, Table 9.3). -/
def execImulhu (f : FmtA) (x : Option XR) (s : State) : Host.Outcome State Fault Refusal :=
  s.alu2 (.imulhu f x) f (xr x) mulHighU

/-- imin (R235, Table 9.3). -/
def execImin (f : FmtA) (x : Option XR) (s : State) : Host.Outcome State Fault Refusal :=
  s.alu2 (.imin f x) f (xr x) sMin

/-- imax (R235, Table 9.3). -/
def execImax (f : FmtA) (x : Option XR) (s : State) : Host.Outcome State Fault Refusal :=
  s.alu2 (.imax f x) f (xr x) sMax

/-- umin (R235, Table 9.3). -/
def execUmin (f : FmtA) (x : Option XR) (s : State) : Host.Outcome State Fault Refusal :=
  s.alu2 (.umin f x) f (xr x) uMin

/-- umax (R235, Table 9.3). -/
def execUmax (f : FmtA) (x : Option XR) (s : State) : Host.Outcome State Fault Refusal :=
  s.alu2 (.umax f x) f (xr x) uMax

/-- andR (R235, Table 9.3). -/
def execAndR (f : FmtA) (x : Option XR) (s : State) : Host.Outcome State Fault Refusal :=
  s.alu2 (.andR f x) f (xr x) (fun _ a b => a &&& b)

/-- orR (R235, Table 9.3). -/
def execOrR (f : FmtA) (x : Option XR) (s : State) : Host.Outcome State Fault Refusal :=
  s.alu2 (.orR f x) f (xr x) (fun _ a b => a ||| b)

/-- xorR (R235, Table 9.3). -/
def execXorR (f : FmtA) (x : Option XR) (s : State) : Host.Outcome State Fault Refusal :=
  s.alu2 (.xorR f x) f (xr x) (fun _ a b => a ^^^ b)

/-- andn (R235, Table 9.3). -/
def execAndn (f : FmtA) (x : Option XR) (s : State) : Host.Outcome State Fault Refusal :=
  s.alu2 (.andn f x) f (xr x) (fun _ a b => a &&& ~~~b)

/-- shl (R235, Table 9.3). -/
def execShl (f : FmtA) (x : Option XR) (s : State) : Host.Outcome State Fault Refusal :=
  s.alu2 (.shl f x) f (xr x) (fun n a b => a <<< (b.toNat % n))

/-- shr (R235, Table 9.3). -/
def execShr (f : FmtA) (x : Option XR) (s : State) : Host.Outcome State Fault Refusal :=
  s.alu2 (.shr f x) f (xr x) (fun n a b => a >>> (b.toNat % n))

/-- sar (R235, Table 9.3). -/
def execSar (f : FmtA) (x : Option XR) (s : State) : Host.Outcome State Fault Refusal :=
  s.alu2 (.sar f x) f (xr x) (fun n a b => a.sshiftRight (b.toNat % n))

/-- rotl (R235, Table 9.3). -/
def execRotl (f : FmtA) (x : Option XR) (s : State) : Host.Outcome State Fault Refusal :=
  s.alu2 (.rotl f x) f (xr x) (fun n a b => a.rotateLeft (b.toNat % n))

/-- imad (R235): the low bits of A times B plus C. -/
def execImad (f : FmtA) (x : XR) (s : State) : Host.Outcome State Fault Refusal :=
  s.alu (.imad f x) [refA f, refB f x, refC f x] f.u f.nw f.d (some x.g)
    (fun w t => w.srcA f x t * w.srcB f x t + w.srcC x t)
    (fun w => w.kr f.a.toNat * w.kr f.b.toNat + w.kr x.c.toNat)

/-- iadd64 (R235): pairs, or iadd under U. -/
def execIadd64 (f : FmtA) (x : Option XR) (s : State) : Host.Outcome State Fault Refusal :=
  let y := xr x
  s.aluPair (.iadd64 f x) [refPairA f, refPairB f y] f.u f.nw f.d (some y.g)
    (fun w t => w.pairA f y t + w.pairB f y t) (fun w => w.kr f.a.toNat + w.kr f.b.toNat)

/-- lea (R235): a 64-bit address plus a sign-extended 32-bit index shifted by m2. -/
def execLea (f : FmtA) (x : XR) (s : State) : Host.Outcome State Fault Refusal :=
  s.aluPair (.lea f x) [refPairA f, refB f x] f.u f.nw f.d (some x.g)
    (fun w t => w.pairA f x t + ((w.srcB f x t).signExtend 64 <<< x.m2.toNat))
    (fun w => w.kr f.a.toNat + ((w.kw f.b.toNat).signExtend 64 <<< x.m2.toNat))

/-! ### Immediates, moves and bit fields (R236) -/

/-- iaddi (R236, Table 9.4). -/
def execIaddi (f : FmtI) (x : Option (BitVec 32)) (s : State) : Host.Outcome State Fault Refusal :=
  s.aluI (.iaddi f x) f (fun n a => a + immS n f x)

/-- andi (R236, Table 9.4). -/
def execAndi (f : FmtI) (x : Option (BitVec 32)) (s : State) : Host.Outcome State Fault Refusal :=
  s.aluI (.andi f x) f (fun n a => a &&& immZ n f x)

/-- ori (R236, Table 9.4). -/
def execOri (f : FmtI) (x : Option (BitVec 32)) (s : State) : Host.Outcome State Fault Refusal :=
  s.aluI (.ori f x) f (fun n a => a ||| immZ n f x)

/-- xori (R236, Table 9.4). -/
def execXori (f : FmtI) (x : Option (BitVec 32)) (s : State) : Host.Outcome State Fault Refusal :=
  s.aluI (.xori f x) f (fun n a => a ^^^ immZ n f x)

/-- shli (R236, Table 9.4). -/
def execShli (f : FmtI) (s : State) : Host.Outcome State Fault Refusal :=
  s.aluI (.shli f) f (fun _ a => a <<< f.imm.toNat)

/-- shri (R236, Table 9.4). -/
def execShri (f : FmtI) (s : State) : Host.Outcome State Fault Refusal :=
  s.aluI (.shri f) f (fun _ a => a >>> f.imm.toNat)

/-- sari (R236, Table 9.4). -/
def execSari (f : FmtI) (s : State) : Host.Outcome State Fault Refusal :=
  s.aluI (.sari f) f (fun _ a => a.sshiftRight f.imm.toNat)

/-- movi (R236). -/
def execMovi (f : FmtI) (x : Option (BitVec 32)) (s : State) : Host.Outcome State Fault Refusal :=
  s.alu (.movi f x) [] f.u f.nw f.d none (fun _ _ => immS 32 f x) (fun _ => immS 64 f x)

/-- mov (R236): source b, permuted or from a k register. -/
def execMov (f : FmtA) (x : Option XR) (s : State) : Host.Outcome State Fault Refusal :=
  let y := xr x
  s.alu (.mov f x) [refB f y] f.u f.nw f.d (some y.g) (fun w t => w.srcB f y t) (fun w => w.kr f.b.toNat)

/-- bfx (R236). -/
def execBfx (f : FmtI) (s : State) : Host.Outcome State Fault Refusal :=
  s.aluI (.bfx f) f (bitExtract (fieldPos f) (fieldLen f))

/-- bfi (R236): the destination is read; under NW its field names v0 (log 27). -/
def execBfi (f : FmtI) (s : State) : Host.Outcome State Fault Refusal :=
  s.alu (.bfi f) (if f.u then [.k f.a.toNat, .k f.d.toNat] else [.src f.a, .both f.d]) f.u f.nw f.d none
    (fun w t => bitInsert (fieldPos f) (fieldLen f) 32 (w.vr f.d.toNat t) (w.src f.a.toNat t))
    (fun w => bitInsert (fieldPos f) (fieldLen f) 64 (w.kr f.d.toNat) (w.kr f.a.toNat))

/-! ### Unary operations (R237) -/

/-- clz (R237, Table 9.5). -/
def execClz (f : FmtA) (x : Option XR) (s : State) : Host.Outcome State Fault Refusal :=
  s.alu1 (.clz f x) f (xr x) leadingZeros

/-- popc (R237, Table 9.5). -/
def execPopc (f : FmtA) (x : Option XR) (s : State) : Host.Outcome State Fault Refusal :=
  s.alu1 (.popc f x) f (xr x) popCount

/-- brev (R237, Table 9.5). -/
def execBrev (f : FmtA) (x : Option XR) (s : State) : Host.Outcome State Fault Refusal :=
  s.alu1 (.brev f x) f (xr x) bitReverse

/-- iabs (R237, Table 9.5). -/
def execIabs (f : FmtA) (x : Option XR) (s : State) : Host.Outcome State Fault Refusal :=
  s.alu1 (.iabs f x) f (xr x) magnitude

/-- notR (R237, Table 9.5). -/
def execNotR (f : FmtA) (x : Option XR) (s : State) : Host.Outcome State Fault Refusal :=
  s.alu1 (.notR f x) f (xr x) (fun _ a => ~~~a)

/-- sext8 (R237, Table 9.5). -/
def execSext8 (f : FmtA) (x : Option XR) (s : State) : Host.Outcome State Fault Refusal :=
  s.alu1 (.sext8 f x) f (xr x) (fun n a => (a.setWidth 8).signExtend n)

/-- sext16 (R237, Table 9.5). -/
def execSext16 (f : FmtA) (x : Option XR) (s : State) : Host.Outcome State Fault Refusal :=
  s.alu1 (.sext16 f x) f (xr x) (fun n a => (a.setWidth 16).signExtend n)

/-- zext8 (R237, Table 9.5). -/
def execZext8 (f : FmtA) (x : Option XR) (s : State) : Host.Outcome State Fault Refusal :=
  s.alu1 (.zext8 f x) f (xr x) (fun n a => (a.setWidth 8).zeroExtend n)

/-- zext16 (R237, Table 9.5). -/
def execZext16 (f : FmtA) (x : Option XR) (s : State) : Host.Outcome State Fault Refusal :=
  s.alu1 (.zext16 f x) f (xr x) (fun n a => (a.setWidth 16).zeroExtend n)

end Sys2Proof.Machine
end

