-- ==== Sys2Proof/Machine/Num.lean ====
section
/-! DEFINITION. Numbers (chapter 4): the floating-point formats (R90 to R92), MXINT8 and integers (R94, R95), exact
values, rounding (R101, R102, R105), conversions (R106 to R109) and requantisation (R116). Values are exact:
(-1)^neg · m · 2^e with a natural m, so rounding happens only where a rule rounds (R5). -/

namespace Sys2Proof.Machine

/-- The five flags of Table R110, as the bits of `fflags` (R87). -/
abbrev FFlags := BitVec 5

/-- Invalid (R110). -/
def fInvalid : FFlags := 1
/-- Division by zero (R110). -/
def fDivZero : FFlags := 2
/-- Overflow (R110). -/
def fOverflow : FFlags := 4
/-- Underflow (R110). -/
def fUnderflow : FFlags := 8
/-- Inexact (R110). -/
def fInexact : FFlags := 16

/-- How a format encodes NaN (Table 4.2). -/
inductive NanKind where
  | ieee | e4m3 | none
  deriving DecidableEq, Repr

/-- A floating-point format (Table 4.1). -/
structure Fmt where
  ebits : Nat
  mbits : Nat
  bias : Nat
  nan : NanKind
  maxCode : Nat
  deriving DecidableEq, Repr

def fp32 : Fmt := ⟨8, 23, 127, .ieee, 0x7F7FFFFF⟩
def bf16 : Fmt := ⟨8, 7, 127, .ieee, 0x7F7F⟩
def fp16 : Fmt := ⟨5, 10, 15, .ieee, 0x7BFF⟩
def e5m2 : Fmt := ⟨5, 2, 15, .ieee, 0x7B⟩
def e4m3 : Fmt := ⟨4, 3, 7, .e4m3, 0x7E⟩
def e3m2 : Fmt := ⟨3, 2, 3, .none, 0x1F⟩
def e2m3 : Fmt := ⟨2, 3, 1, .none, 0x1F⟩
def e2m1 : Fmt := ⟨2, 1, 1, .none, 0x7⟩

/-- The width of a format. -/
def Fmt.width (f : Fmt) : Nat := 1 + f.ebits + f.mbits

/-- The sign bit of a format. -/
def Fmt.signBit (f : Fmt) : Nat := 2 ^ (f.ebits + f.mbits)

/-- The code of +∞ in the formats that have one. -/
def Fmt.infCode (f : Fmt) : Nat := (2 ^ f.ebits - 1) * 2 ^ f.mbits

/-- The canonical NaN (Table 4.2); a format without one gives code 0 (Table 4.11). -/
def Fmt.nanCode (f : Fmt) : Nat :=
  match f.nan with
  | .ieee => f.infCode + 2 ^ (f.mbits - 1)
  | .e4m3 => 0x7F
  | .none => 0

/-- The exponent of the least spacing of a format. -/
def Fmt.minExp (f : Fmt) : Int := 1 - f.bias - f.mbits

/-- An exact value: (-1)^neg · m · 2^e, an infinity or a NaN. -/
inductive FVal where
  | nan (signalling : Bool)
  | inf (neg : Bool)
  | fin (neg : Bool) (m : Nat) (e : Int)
  deriving DecidableEq, Repr

/-- R90 to R92: the value of a code. `e` is the exponent of the least significant bit of its significand (R105). -/
def Fmt.decode (f : Fmt) (code : Nat) : FVal :=
  let neg := code / f.signBit % 2 = 1
  let mag := code % f.signBit
  let ef := mag / 2 ^ f.mbits
  let mf := mag % 2 ^ f.mbits
  if f.nan = .ieee ∧ ef = 2 ^ f.ebits - 1 then
    (if mf = 0 then .inf neg else .nan (mf / 2 ^ (f.mbits - 1) = 0))
  else if f.nan = .e4m3 ∧ mag = 0x7F then .nan false
  else if ef = 0 then .fin neg mf f.minExp
  else .fin neg (2 ^ f.mbits + mf) (f.minExp + (ef - 1 : Nat))

/-! ### Rounding -/

/-- Whether a magnitude of `n` units and a dropped part `rem` of `2^d` rounds up (R101, R102, R105); `sticky` says
that the exact value lies above by less than one unit of `rem`. -/
def roundsUp (mode : Nat) (word : Word) (neg : Bool) (n rem d : Nat) (sticky : Bool) : Bool :=
  match mode with
  | 0 => decide (2 * rem > 2 ^ d) || (2 * rem == 2 ^ d && (sticky || n % 2 == 1))
  | 1 => false
  | 2 => neg && (rem != 0 || sticky)
  | 3 => !neg && (rem != 0 || sticky)
  | _ =>
    if d ≤ 32 then decide (2 ^ d ≤ rem + word.toNat % 2 ^ d) else decide (2 ^ 32 ≤ rem / 2 ^ (d - 32) + word.toNat)

/-- A magnitude rounded to a spacing of `2^a`: the units, and whether it is inexact. -/
def roundUnits (mode : Nat) (word : Word) (neg : Bool) (m : Nat) (e a : Int) (sticky : Bool) : Nat × Bool :=
  if a ≤ e then (m * 2 ^ (e - a).toNat, sticky)
  else
    let d := (a - e).toNat
    let n := m / 2 ^ d
    let rem := m % 2 ^ d
    (n + (if roundsUp mode word neg n rem d sticky then 1 else 0), rem != 0 || sticky)

/-- R102: a nonzero magnitude rounded to a format as if its exponent range had no upper end: the code of the magnitude
and whether it is inexact. -/
def Fmt.round (f : Fmt) (mode : Nat) (word : Word) (neg : Bool) (m : Nat) (e : Int) (sticky : Bool) : Nat × Bool :=
  let top := e + (Nat.log2 m : Int)
  let a := max (top - f.mbits) f.minExp
  let r := roundUnits mode word neg m e a sticky
  ((a - f.minExp).toNat * 2 ^ f.mbits + r.1, r.2)

/-- R107: an IEEE overflow gives an infinity in a mode for a sign. -/
def overflowsToInf (mode : Nat) (neg : Bool) : Bool :=
  match mode with
  | 0 => true
  | 1 => false
  | 2 => neg
  | 3 => !neg
  | _ => true

/-- A code with its sign. -/
def Fmt.signed (f : Fmt) (neg : Bool) (code : Nat) : Nat := (if neg then f.signBit else 0) + code

/-- Table 4.11, first two columns: the result of an overflow. -/
def Fmt.overflow (f : Fmt) (mode : Nat) (sat neg : Bool) : Nat :=
  match f.nan with
  | .ieee => if !sat && overflowsToInf mode neg then f.signed neg f.infCode else f.signed neg f.maxCode
  | .e4m3 => if !sat && overflowsToInf mode neg then 0x7F else f.signed neg f.maxCode
  | .none => f.signed neg f.maxCode

/-- R102, R106, R107, R110: a finite value delivered to a format: its code and flags. -/
def Fmt.deliver (f : Fmt) (mode : Nat) (word : Word) (sat neg : Bool) (m : Nat) (e : Int) (sticky : Bool) : Nat × FFlags :=
  if m = 0 then (f.signed neg 0, 0)
  else
    let r := f.round mode word neg m e sticky
    if r.1 > f.maxCode then (f.overflow mode sat neg, fOverflow ||| fInexact)
    else
      (f.signed neg r.1,
        (if r.2 then fInexact else 0) ||| (if r.2 && r.1 != 0 && r.1 < 2 ^ f.mbits then fUnderflow else 0))

/-- R106, R107, Table 4.11: a value converted to a floating-point format. -/
def Fmt.convert (f : Fmt) (mode : Nat) (word : Word) (sat : Bool) : FVal → Nat × FFlags
  | .nan sig => (f.nanCode, if f.nan = .none ∨ sig then fInvalid else 0)
  | .inf neg =>
    match f.nan with
    | .ieee => (f.signed neg (if sat then f.maxCode else f.infCode), 0)
    | .e4m3 => if sat then (f.signed neg f.maxCode, 0) else (0x7F, fInvalid)
    | .none => (f.signed neg f.maxCode, fInvalid)
  | .fin neg m e => f.deliver mode word sat neg m e false

/-! ### Exact arithmetic -/

/-- The signed integer of a finite value in units of `2^a`, `a ≤ e`. -/
def scaled (neg : Bool) (m : Nat) (e a : Int) : Int :=
  let n : Int := (m * 2 ^ (e - a).toNat : Nat)
  if neg then -n else n

/-- R5, R238: an exact sum of finite values; the sign of an exact zero depends on the mode. -/
def addExact (mode : Nat) (n1 : Bool) (m1 : Nat) (e1 : Int) (n2 : Bool) (m2 : Nat) (e2 : Int) : Bool × Nat × Int :=
  let a := min e1 e2
  let s := scaled n1 m1 e1 a + scaled n2 m2 e2 a
  if s = 0 then (if n1 == n2 then n1 else mode == 2, 0, a) else (decide (s < 0), s.natAbs, a)

/-- The result of an arithmetic operation before rounding. -/
inductive FRes where
  | nan (flags : FFlags)
  | inf (neg : Bool) (flags : FFlags)
  | fin (neg : Bool) (m : Nat) (e : Int) (sticky : Bool)
  deriving DecidableEq, Repr

/-- Whether a value is a NaN. -/
def FVal.isNan : FVal → Bool
  | .nan _ => true
  | _ => false

/-- Whether a value is a signalling NaN. -/
def FVal.isSnan : FVal → Bool
  | .nan s => s
  | _ => false

/-- The invalid flag of NaN operands (R110). -/
def nanFlags (l : List FVal) : FFlags := if l.any FVal.isSnan then fInvalid else 0

/-- Whether a value is zero. -/
def FVal.isZero : FVal → Bool
  | .fin _ m _ => m == 0
  | _ => false

/-- The sign of a value. -/
def FVal.neg : FVal → Bool
  | .nan _ => false
  | .inf n => n
  | .fin n _ _ => n

/-- R238: A + B. -/
def fAdd (mode : Nat) (a b : FVal) : FRes :=
  if a.isNan || b.isNan then .nan (nanFlags [a, b])
  else match a, b with
    | .inf n1, .inf n2 => if n1 == n2 then .inf n1 0 else .nan fInvalid
    | .inf n, _ => .inf n 0
    | _, .inf n => .inf n 0
    | .fin n1 m1 e1, .fin n2 m2 e2 => let r := addExact mode n1 m1 e1 n2 m2 e2; .fin r.1 r.2.1 r.2.2 false
    | _, _ => .nan 0

/-- The negative of a value. -/
def FVal.negate : FVal → FVal
  | .nan s => .nan s
  | .inf n => .inf (!n)
  | .fin n m e => .fin (!n) m e

/-- R238: A · B. -/
def fMul (a b : FVal) : FRes :=
  if a.isNan || b.isNan then .nan (nanFlags [a, b])
  else match a, b with
    | .fin n1 m1 e1, .fin n2 m2 e2 => .fin (n1 != n2) (m1 * m2) (e1 + e2) false
    | _, _ => if a.isZero || b.isZero then .nan fInvalid else .inf (a.neg != b.neg) 0

/-- R238: A / B. -/
def fDiv (a b : FVal) : FRes :=
  if a.isNan || b.isNan then .nan (nanFlags [a, b])
  else match a, b with
    | .inf _, .inf _ => .nan fInvalid
    | .inf n1, _ => .inf (n1 != b.neg) 0
    | _, .inf n2 => .fin (a.neg != n2) 0 0 false
    | .fin n1 m1 e1, .fin n2 m2 e2 =>
      if m2 = 0 then (if m1 = 0 then .nan fInvalid else .inf (n1 != n2) fDivZero)
      else .fin (n1 != n2) (m1 * 2 ^ 64 / m2) (e1 - e2 - 64) (m1 * 2 ^ 64 % m2 != 0)
    | _, _ => .nan 0

/-- R238: A · B + C with one rounding. -/
def fFma (mode : Nat) (a b c : FVal) : FRes :=
  let bad := (a.isZero && (match b with | .inf _ => true | _ => false))
    || (b.isZero && (match a with | .inf _ => true | _ => false))
  if bad then .nan fInvalid
  else if a.isNan || b.isNan || c.isNan then .nan (nanFlags [a, b, c])
  else match fMul a b with
    | .nan f => .nan f
    | .inf n _ => fAdd mode (.inf n) c
    | .fin n m e _ => fAdd mode (.fin n m e) c

/-- R238, R110: a result delivered to a format in a mode, with its flags. -/
def Fmt.result (f : Fmt) (mode : Nat) : FRes → Nat × FFlags
  | .nan fl => (f.nanCode, fl)
  | .inf neg fl => (f.signed neg f.infCode, fl)
  | .fin neg m e st => f.deliver mode 0 false neg m e st

/-! ### Roots, exponentials and logarithms (R240, log 15) -/

/-- The integer square root, one bit of the root for each unit of fuel. -/
def isqrtGo (n : Nat) : Nat → Nat → Nat
  | 0, r => r
  | k + 1, r => isqrtGo n k (if (r + 2 ^ k) * (r + 2 ^ k) ≤ n then r + 2 ^ k else r)

/-- The integer square root of a number below `2^(2k)`. -/
def isqrt (k n : Nat) : Nat := isqrtGo n k 0

/-- R240: √A. -/
def fSqrt : FVal → FRes
  | .nan s => .nan (if s then fInvalid else 0)
  | .inf neg => if neg then .nan fInvalid else .inf false 0
  | .fin neg m e =>
    if m = 0 then .fin neg 0 0 false
    else if neg then .nan fInvalid
    else
      let m1 := if e % 2 = 0 then m else 2 * m
      let e1 := if e % 2 = 0 then e else e - 1
      let z := m1 * 2 ^ 64
      let r := isqrt 48 z
      .fin false r (e1 / 2 - 32) (r * r != z)

/-- R240: 1/√A. -/
def fRsqrt : FVal → FRes
  | .nan s => .nan (if s then fInvalid else 0)
  | .inf neg => if neg then .nan fInvalid else .fin false 0 0 false
  | .fin neg m e =>
    if m = 0 then .inf neg fDivZero
    else if neg then .nan fInvalid
    else
      let m1 := if e % 2 = 0 then m else 2 * m
      let e1 := if e % 2 = 0 then e else e - 1
      let r := isqrt 66 (2 ^ 128 / m1)
      .fin false r (-(e1 / 2) - 64) (r * r * m1 != 2 ^ 128)

/-- The bits of the fixed-point values below. -/
def fixBits : Nat := 320

/-- ln 2 in fixed point: the sum of 1/(k 2^k). -/
def ln2Fix : Nat := ((List.range 330).map fun k => 2 ^ fixBits / ((k + 1) * 2 ^ (k + 1))).sum

/-- Terms of the exponential series in fixed point. -/
def expGo (y : Nat) : Nat → Nat → Nat → Nat → Nat
  | 0, _, _, acc => acc
  | k + 1, n, t, acc => expGo y k (n + 1) (t * y / 2 ^ fixBits / (n + 1)) (acc + t * y / 2 ^ fixBits / (n + 1))

/-- e^y in fixed point, for y below 1. -/
def expFix (y : Nat) : Nat := expGo y 90 0 (2 ^ fixBits) (2 ^ fixBits)

/-- Terms of the inverse hyperbolic tangent series in fixed point. -/
def atanhGo (z2 : Nat) : Nat → Nat → Nat → Nat → Nat
  | 0, _, _, acc => acc
  | k + 1, n, t, acc => atanhGo z2 k (n + 2) (t * z2 / 2 ^ fixBits) (acc + t / n)

/-- log2 of p/q in fixed point, 1 ≤ p/q < 2: twice the inverse hyperbolic tangent of (p-q)/(p+q), over ln 2. -/
def log2Fix (p q : Nat) : Nat :=
  let z := (p - q) * 2 ^ fixBits / (p + q)
  2 * atanhGo (z * z / 2 ^ fixBits) 110 1 z 0 * 2 ^ fixBits / ln2Fix

/-- R240: 2^A, from a lower bound of 280 bits with the exact value just above it (log 15). -/
def fExp2 : FVal → FRes
  | .nan s => .nan (if s then fInvalid else 0)
  | .inf neg => if neg then .fin false 0 0 false else .inf false 0
  | .fin neg m e =>
    if m = 0 then .fin false 1 0 false
    else if e + (Nat.log2 m : Int) ≥ 9 then
      (if neg then .fin false 1 (-1000) true else .fin false 1 1000 true)
    else
      -- the value in units of 2^-160
      let a := scaled neg m (e + 0) (-160)
      let i := a / 2 ^ 160
      let fr := (a % 2 ^ 160).toNat
      if fr = 0 then .fin false 1 i false
      else .fin false (expFix (fr * 2 ^ (fixBits - 160) * ln2Fix / 2 ^ fixBits) / 2 ^ 40) (i - 280) true

/-- R240: log2 A, from a bound of 280 bits (log 15). -/
def fLog2 : FVal → FRes
  | .nan s => .nan (if s then fInvalid else 0)
  | .inf neg => if neg then .nan fInvalid else .inf false 0
  | .fin neg m e =>
    if m = 0 then .inf true fDivZero
    else if neg then .nan fInvalid
    else
      let k := Nat.log2 m
      let i : Int := e + k
      if m = 2 ^ k then .fin (i < 0) i.natAbs 0 false
      else
        let v : Int := i * 2 ^ fixBits + log2Fix m (2 ^ k)
        if v < 0 then .fin true ((v.natAbs - 2 ^ 20) / 2 ^ 40) (-280) true
        else .fin false (v.natAbs / 2 ^ 40) (-280) true

/-- R240: a value rounded to an integral value in a mode, keeping its sign, with the inexact flag where it changes. -/
def fIntegral (mode : Nat) (code : Word) : Word × FFlags :=
  match fp32.decode code.toNat with
  | .nan s => (0x7FC00000, if s then fInvalid else 0)
  | .inf _ => (code, 0)
  | .fin neg m e =>
    if m = 0 then (code, 0)
    else
      let r := roundUnits mode 0 neg m e 0 false
      if e ≥ 0 then (code, 0)
      else (BitVec.ofNat 32 (fp32.deliver 1 0 false neg r.1 0 false).1, if r.2 then fInexact else 0)

/-! ### Minimum, maximum and comparison (R239, R246) -/

/-- Whether a code orders below another, with −0 below +0 (R239). -/
def fBelow (a b : Word) : Bool :=
  match a.msb, b.msb with
  | true, false => true
  | false, true => false
  | false, false => a.ult b
  | true, true => b.ult a

/-- R239: the smaller (or larger) operand's bit pattern. -/
def fMinMax (isMax : Bool) (a b : Word) : Word × FFlags :=
  let x := fp32.decode a.toNat
  let y := fp32.decode b.toNat
  let fl := nanFlags [x, y]
  if x.isNan && y.isNan then (0x7FC00000, fl)
  else if x.isNan then (b, fl)
  else if y.isNan then (a, fl)
  else (if fBelow a b != isMax then a else b, fl)

/-- The order of two values that are not NaN; +0 equals −0 (R246). -/
def fCompare (a b : FVal) : Ordering :=
  match a, b with
  | .inf n1, .inf n2 => if n1 == n2 then .eq else if n1 then .lt else .gt
  | .inf n, _ => if n then .lt else .gt
  | _, .inf n => if n then .gt else .lt
  | .fin n1 m1 e1, .fin n2 m2 e2 =>
    let a := min e1 e2
    compare (scaled n1 m1 e1 a) (scaled n2 m2 e2 a)
  | _, _ => .eq

/-! ### Integers and type codes (R94, R95, R97) -/

/-- The format of a floating-point type code (Table 4.6). -/
def fmtOf (t : Nat) : Fmt :=
  match t with
  | 2 => fp32
  | 3 => bf16
  | 4 => fp16
  | 5 => e4m3
  | 6 => e5m2
  | 7 => e2m3
  | 8 => e3m2
  | _ => e2m1

/-- Whether a type code names a floating-point type. -/
def isFloatType (t : Nat) : Bool := 2 ≤ t && t ≤ 9

/-- The width of an integer type code. -/
def intWidth (t : Nat) : Nat :=
  match t with
  | 10 | 11 => 8
  | 12 | 13 => 16
  | 14 => 64
  | _ => 32

/-- Whether an integer type is signed. -/
def intSigned (t : Nat) : Bool := t == 0 || t == 10 || t == 12 || t == 14

/-- The value of an integer type in the low bits of a word (R97). -/
def intValue (t : Nat) (x : DWord) : Int :=
  let w := intWidth t
  let n := x.toNat % 2 ^ w
  if intSigned t && n ≥ 2 ^ (w - 1) then (n : Int) - 2 ^ w else n

/-- The least value of an integer type. -/
def intMin (t : Nat) : Int := if intSigned t then -(2 ^ (intWidth t - 1)) else 0

/-- The greatest value of an integer type. -/
def intMax (t : Nat) : Int := if intSigned t then 2 ^ (intWidth t - 1) - 1 else 2 ^ intWidth t - 1

/-- R97: a converted integer, extended through a 64-bit register. -/
def intBits (t : Nat) (i : Int) : DWord :=
  if intSigned t then BitVec.ofInt 64 i else BitVec.ofNat 64 (i.toNat % 2 ^ intWidth t)

/-- R107, R108, Table 4.11: a value converted to an integer type. -/
def toInteger (t mode : Nat) (word : Word) : FVal → Int × FFlags
  | .nan _ => (0, fInvalid)
  | .inf neg => (if neg then intMin t else intMax t, fInvalid)
  | .fin neg m e =>
    let r := roundUnits mode word neg m e 0 false
    let i : Int := if neg then -(r.1 : Int) else r.1
    if i < intMin t then (intMin t, fInvalid)
    else if i > intMax t then (intMax t, fInvalid)
    else (i, if r.2 then fInexact else 0)

/-- R108: an integer between integer types. -/
def intToInt (t : Nat) (sat : Bool) (i : Int) : Int :=
  if intMin t ≤ i ∧ i ≤ intMax t then i
  else if sat then (if i < intMin t then intMin t else intMax t)
  else intValue t (BitVec.ofInt 64 i)

/-- R106 to R108: a value of type `t1` in the low bits of a word converted to type `t2`, extended as R97 gives. -/
def convertType (t1 t2 mode : Nat) (sat : Bool) (word : Word) (x : DWord) : DWord × FFlags :=
  if isFloatType t1 then
    let v := (fmtOf t1).decode (x.toNat % 2 ^ (fmtOf t1).width)
    if isFloatType t2 then
      let r := (fmtOf t2).convert mode word sat v
      (BitVec.ofNat 64 r.1, r.2)
    else
      let r := toInteger t2 mode word v
      (intBits t2 r.1, r.2)
  else
    let i := intValue t1 x
    if isFloatType t2 then
      let r := (fmtOf t2).deliver mode word sat (i < 0) i.natAbs 0 false
      (BitVec.ofNat 64 r.1, r.2)
    else (intBits t2 (intToInt t2 sat i), 0)

/-! ### MX elements (R94, R98, R109, R116) -/

/-- The width of an MX element type code (5 to 10). -/
def mxWidth (t : Nat) : Nat := if t = 10 then 8 else (fmtOf t).width

/-- Elements of a v register per thread (Table 4.7). -/
def mxEpl (t : Nat) : Nat := match mxWidth t with | 8 => 4 | 6 => 5 | _ => 8

/-- Elements of a line (Table 4.8). -/
def mxLine (t : Nat) : Nat := match mxWidth t with | 8 => 128 | 6 => 160 | _ => 256

/-- The unscaled value of an MX element. -/
def mxValue (t code : Nat) : FVal :=
  if t = 10 then
    let i := intValue 10 (BitVec.ofNat 64 code)
    .fin (i < 0) i.natAbs (-6)
  else (fmtOf t).decode code

/-- A value times a power of two, exactly. -/
def FVal.scale (k : Int) : FVal → FVal
  | .fin n m e => .fin n m (e + k)
  | v => v

/-- R109: an MX element widened with its scale. -/
def widen (t code scale : Nat) : Word × FFlags :=
  if scale = 0xFF then (0x7FC00000, 0)
  else match (mxValue t code).scale ((scale : Int) - 127) with
    | .nan _ => (0x7FC00000, 0)
    | .inf neg => (BitVec.ofNat 32 (fp32.signed neg fp32.infCode), 0)
    | .fin neg m e =>
      let r := fp32.deliver 0 0 false neg m e false
      (BitVec.ofNat 32 r.1, if r.2 &&& fOverflow = 0 then 0 else fOverflow)

/-- R107, R116: the MXINT8 code of a finite value: the integer nearest to 64·y, clamped; whether the clamp acted and
whether it is inexact. -/
def mxInt8 (mode : Nat) (word : Word) (neg : Bool) (m : Nat) (e : Int) : Nat × Bool × Bool :=
  let r := roundUnits mode word neg m (e + 6) 0 false
  let i : Int := if neg then -(r.1 : Int) else r.1
  let c := max (-128) (min 127 i)
  ((BitVec.ofInt 8 c).toNat, c != i, r.2)

/-- R106, R107: a value converted to an MX element under an existing scale. -/
def mxConvert (t mode : Nat) (word : Word) (sat : Bool) (v : FVal) : Nat × FFlags :=
  if t = 10 then
    match v with
    | .nan _ => (0, fInvalid)
    | .inf neg => (if neg then 0x80 else 127, fInvalid)
    | .fin neg m e =>
      let r := mxInt8 mode word neg m e
      (r.1, if r.2.1 then (if sat then fInexact else fOverflow ||| fInexact) else if r.2.2 then fInexact else 0)
  else (fmtOf t).convert mode word sat v

/-- The exponent of the largest finite magnitude of an MX element type (R116). -/
def mxEmax (t : Nat) : Int :=
  match t with
  | 5 => 8
  | 6 => 15
  | 7 => 2
  | 8 => 4
  | 9 => 2
  | _ => 0

/-- R116: an element rounded and clamped; the clamp raises only inexact. -/
def mxRound (t mode : Nat) (word : Word) (neg : Bool) (m : Nat) (e : Int) : Nat × FFlags :=
  if t = 10 then
    let r := mxInt8 mode word neg m e
    (r.1, if r.2.1 || r.2.2 then fInexact else 0)
  else if m = 0 then ((fmtOf t).signed neg 0, 0)
  else
    let f := fmtOf t
    let r := f.round mode word neg m e false
    if r.1 > f.maxCode then (f.signed neg f.maxCode, fInexact)
    else (f.signed neg r.1,
      (if r.2 then fInexact else 0) ||| (if r.2 && r.1 != 0 && r.1 < 2 ^ f.mbits then fUnderflow else 0))

/-- R116: 32 values folded into a block: the scale, the codes and the flags; `word i` is the word of element i. A value
keeps its source's least significant bit (R105). -/
def requantise (t mode : Nat) (word : Nat → Word) (vs : List FVal) : Nat × List Nat × FFlags :=
  if vs.any fun v => match v with | .fin _ _ _ => false | _ => true then (0xFF, vs.map fun _ => 0, fInvalid)
  else
    let tops : List Int := vs.filterMap fun v => match v with
      | .fin _ m e => if m = 0 then none else some (e + (Nat.log2 m : Int))
      | _ => none
    match tops with
    | [] => (0, vs.map fun _ => 0, 0)
    | h :: r =>
      let top := r.foldl max h
      let scale := max 0 (min 254 (top - mxEmax t + 127))
      let rs := (List.range vs.length).map fun i => match (vs.getD i (.nan false)).scale (127 - scale) with
        | .fin neg m e => mxRound t mode (word i) neg m e
        | _ => (0, 0)
      (scale.toNat, rs.map (·.1), rs.foldl (fun fl r => fl ||| r.2) 0)

/-! ### The generator (R103) -/

/-- One step of the generator. -/
def srStep (s : Word) : Word :=
  let a := s ^^^ (s <<< 13)
  let b := a ^^^ (a >>> 17)
  b ^^^ (b <<< 5)

/-- The generator after `n` steps. -/
def srSteps : Nat → Word → Word
  | 0, s => s
  | n + 1, s => srSteps n (srStep s)

/-- The word of a lane (R103). -/
def srWord (s : Word) (lane : Nat) : Word := s.rotateLeft (2 * lane % 32)

end Sys2Proof.Machine
end

