-- ==== Sys2Proof/Machine/Flags.lean ====
section
/-! DEFINITION. The sticky flags (R88, R110, R111): raised by every executing thread, and the shapes of ALU
instructions that raise them. -/

namespace Sys2Proof.Machine

/-- R88, R111: flags set in the warp's `fflags`. -/
def Warp.raise (w : Warp) (fl : FFlags) : Warp := { w with fflags := w.fflags ||| fl }

/-- The flags of the positions of a mask. -/
def flagsOver (m : Mask) (f : Nat → FFlags) : FFlags := (positions m).foldl (fun fl t => fl ||| f t) 0

/-- A set of flags as the low bits of a word (Table 3.6). -/
def flagWord (fl : FFlags) : Word := fl.zeroExtend 32

/-- An ALU instruction that raises flags, its one destination a v register, or a k register under U (R111, R231). -/
def State.aluF (s : State) (i : Instr) (refs : List Ref) (u nw : Bool) (d : BitVec 7) (g : Option Guard)
    (vec : Warp → Nat → Word × FFlags) (uni : Warp → Word × FFlags) : Host.Outcome State Fault Refusal :=
  s.issue i (fun _ => refs ++ refD u nw d) fun s w =>
    let m := w.exec g
    .done (if u then
        (if m = 0 then s
         else s.putWarp s.cur ((w.setK d.toNat ((uni w).1.zeroExtend 64)).raise (uni w).2))
      else s.putWarp s.cur ((w.result nw d.toNat m fun t => (vec w t).1).raise (flagsOver m fun t => (vec w t).2)))

end Sys2Proof.Machine
end

