-- ==== Sys2Proof/Machine/Float.lean ====
section
/-! DEFINITION. FP32 arithmetic, single-operand operations, BF16 and FP16 pairs and conversions (R238 to R242). -/

namespace Sys2Proof.Machine

/-- The value of an FP32 pattern. -/
def fval (x : Word) : FVal := fp32.decode x.toNat

/-- An FP32 result as a word with its flags. -/
def fOut (mode : Nat) (r : FRes) : Word × FFlags :=
  let x := fp32.result mode r
  (BitVec.ofNat 32 x.1, x.2)

/-- Two FP32 sources (R238, R239). -/
def State.fp2 (s : State) (i : Instr) (f : FmtA) (x : XR) (op : Nat → Word → Word → Word × FFlags) :
    Host.Outcome State Fault Refusal :=
  s.aluF i [refA f, refB f x] f.u f.nw f.d (some x.g)
    (fun w t => op x.m2.toNat (w.srcA f x t) (w.srcB f x t))
    (fun w => op x.m2.toNat (w.kw f.a.toNat) (w.kw f.b.toNat))

/-- One FP32 source (R240). -/
def State.fp1 (s : State) (i : Instr) (f : FmtA) (x : XR) (op : Nat → Word → Word × FFlags) :
    Host.Outcome State Fault Refusal :=
  s.aluF i [refA f] f.u f.nw f.d (some x.g)
    (fun w t => op x.m2.toNat (w.srcA f x t)) (fun w => op x.m2.toNat (w.kw f.a.toNat))

/-! ### FP32 arithmetic (R238, R239) -/

/-- fadd (R238). -/
def execFadd (f : FmtA) (x : Option XR) (s : State) : Host.Outcome State Fault Refusal :=
  s.fp2 (.fadd f x) f (xr x) (fun m a b => fOut m (fAdd m (fval a) (fval b)))

/-- fsub (R238). -/
def execFsub (f : FmtA) (x : Option XR) (s : State) : Host.Outcome State Fault Refusal :=
  s.fp2 (.fsub f x) f (xr x) (fun m a b => fOut m (fAdd m (fval a) (fval b).negate))

/-- fmul (R238). -/
def execFmul (f : FmtA) (x : Option XR) (s : State) : Host.Outcome State Fault Refusal :=
  s.fp2 (.fmul f x) f (xr x) (fun m a b => fOut m (fMul (fval a) (fval b)))

/-- fdiv (R238). -/
def execFdiv (f : FmtA) (x : Option XR) (s : State) : Host.Outcome State Fault Refusal :=
  s.fp2 (.fdiv f x) f (xr x) (fun m a b => fOut m (fDiv (fval a) (fval b)))

/-- fmin (R239). -/
def execFmin (f : FmtA) (x : Option XR) (s : State) : Host.Outcome State Fault Refusal :=
  s.fp2 (.fmin f x) f (xr x) (fun _ => fMinMax false)

/-- fmax (R239). -/
def execFmax (f : FmtA) (x : Option XR) (s : State) : Host.Outcome State Fault Refusal :=
  s.fp2 (.fmax f x) f (xr x) (fun _ => fMinMax true)

/-- ffma (R238): one rounding. -/
def execFfma (f : FmtA) (x : XR) (s : State) : Host.Outcome State Fault Refusal :=
  s.aluF (.ffma f x) [refA f, refB f x, refC f x] f.u f.nw f.d (some x.g)
    (fun w t => fOut x.m2.toNat (fFma x.m2.toNat (fval (w.srcA f x t)) (fval (w.srcB f x t)) (fval (w.srcC x t))))
    (fun w => fOut x.m2.toNat
      (fFma x.m2.toNat (fval (w.kw f.a.toNat)) (fval (w.kw f.b.toNat)) (fval (w.kw x.c.toNat))))

/-! ### Single-operand operations (R240) -/

/-- fneg (R240, Table 9.6). -/
def execFneg (f : FmtA) (x : Option XR) (s : State) : Host.Outcome State Fault Refusal :=
  s.fp1 (.fneg f x) f (xr x) (fun _ a => (a ^^^ 0x80000000, 0))

/-- fabs (R240, Table 9.6). -/
def execFabs (f : FmtA) (x : Option XR) (s : State) : Host.Outcome State Fault Refusal :=
  s.fp1 (.fabs f x) f (xr x) (fun _ a => (a &&& 0x7FFFFFFF, 0))

/-- frcp (R240, Table 9.6). -/
def execFrcp (f : FmtA) (x : Option XR) (s : State) : Host.Outcome State Fault Refusal :=
  s.fp1 (.frcp f x) f (xr x) (fun m a => fOut m (fDiv (.fin false 1 0) (fval a)))

/-- frsqrt (R240, Table 9.6). -/
def execFrsqrt (f : FmtA) (x : Option XR) (s : State) : Host.Outcome State Fault Refusal :=
  s.fp1 (.frsqrt f x) f (xr x) (fun m a => fOut m (fRsqrt (fval a)))

/-- fsqrt (R240, Table 9.6). -/
def execFsqrt (f : FmtA) (x : Option XR) (s : State) : Host.Outcome State Fault Refusal :=
  s.fp1 (.fsqrt f x) f (xr x) (fun m a => fOut m (fSqrt (fval a)))

/-- fexp2 (R240, Table 9.6). -/
def execFexp2 (f : FmtA) (x : Option XR) (s : State) : Host.Outcome State Fault Refusal :=
  s.fp1 (.fexp2 f x) f (xr x) (fun m a => fOut m (fExp2 (fval a)))

/-- flog2 (R240, Table 9.6). -/
def execFlog2 (f : FmtA) (x : Option XR) (s : State) : Host.Outcome State Fault Refusal :=
  s.fp1 (.flog2 f x) f (xr x) (fun m a => fOut m (fLog2 (fval a)))

/-- ffloor (R240, Table 9.6). -/
def execFfloor (f : FmtA) (x : Option XR) (s : State) : Host.Outcome State Fault Refusal :=
  s.fp1 (.ffloor f x) f (xr x) (fun _ a => let r := fIntegral 2 a; (r.1, r.2 &&& fInvalid))

/-- fceil (R240, Table 9.6). -/
def execFceil (f : FmtA) (x : Option XR) (s : State) : Host.Outcome State Fault Refusal :=
  s.fp1 (.fceil f x) f (xr x) (fun _ a => let r := fIntegral 3 a; (r.1, r.2 &&& fInvalid))

/-- ftrunc (R240, Table 9.6). -/
def execFtrunc (f : FmtA) (x : Option XR) (s : State) : Host.Outcome State Fault Refusal :=
  s.fp1 (.ftrunc f x) f (xr x) (fun _ a => let r := fIntegral 1 a; (r.1, r.2 &&& fInvalid))

/-- frint (R240, Table 9.6). -/
def execFrint (f : FmtA) (x : Option XR) (s : State) : Host.Outcome State Fault Refusal :=
  s.fp1 (.frint f x) f (xr x) (fun m a => fIntegral m a)

/-! ### BF16 and FP16 pairs (R241) -/

/-- The format that m2 names (R241). -/
def pairFmt (x : XR) : Fmt := if x.m2.getLsbD 0 then fp16 else bf16

/-- Half `h` of a packed pair (R97). -/
def half (f : Fmt) (x : Word) (h : Nat) : FVal := f.decode (x.toNat / 2 ^ (16 * h) % 65536)

/-- Two half results packed, with their flags (R241). -/
def packHalves (f : Fmt) (r : Nat → FRes) : Word × FFlags :=
  let a := f.result 0 (r 0)
  let b := f.result 0 (r 1)
  (BitVec.ofNat 32 (a.1 + 65536 * b.1), a.2 ||| b.2)

/-- hadd2 (R241). -/
def execHadd2 (f : FmtA) (x : XR) (s : State) : Host.Outcome State Fault Refusal :=
  s.aluF (.hadd2 f x) [refA f, refB f x] false f.nw f.d (some x.g)
    (fun w t => let p := pairFmt x; packHalves p fun h => fAdd 0 (half p (w.srcA f x t) h) (half p (w.srcB f x t) h)) (fun _ => (0, 0))

/-- hmul2 (R241). -/
def execHmul2 (f : FmtA) (x : XR) (s : State) : Host.Outcome State Fault Refusal :=
  s.aluF (.hmul2 f x) [refA f, refB f x] false f.nw f.d (some x.g)
    (fun w t => let p := pairFmt x; packHalves p fun h => fMul (half p (w.srcA f x t) h) (half p (w.srcB f x t) h)) (fun _ => (0, 0))

/-- hfma2 (R241). -/
def execHfma2 (f : FmtA) (x : XR) (s : State) : Host.Outcome State Fault Refusal :=
  s.aluF (.hfma2 f x) [refA f, refB f x, refC f x] false f.nw f.d (some x.g)
    (fun w t => let p := pairFmt x; packHalves p fun h =>
      fFma 0 (half p (w.srcA f x t) h) (half p (w.srcB f x t) h) (half p (w.srcC x t) h)) (fun _ => (0, 0))

/-! ### Conversions (R242) -/

/-- The generator of a quarter (R103). -/
def State.srState (s : State) (q : Nat) : Word := Store.get 1 s.sr q

/-- The generator of a quarter stepped (R103). -/
def State.srAdvance (s : State) (q n : Nat) : State := { s with sr := Store.set 1 s.sr q (srSteps n (s.srState q)) }

/-- R31: the beats of a mask that pass. -/
def beats (m : Mask) : List Nat := (List.range 8).filter fun b => m.extractLsb' (16 * b) 16 != 0

/-- R31, R103: the word that position `t` draws from the states that the beats of its instruction left, one for each beat
that passed. -/
def beatWord (words : List Word) (m : Mask) (t : Nat) : Word :=
  srWord (words.getD ((beats m).filter (· < t / 16)).length 0) (t % 16)

/-- R103: the states that `n` steps leave, one after another. -/
def srRun (n : Nat) (s0 : Word) : List Word := (List.range n).map fun i => srSteps (i + 1) s0

/-- R103: the steps that a unit takes in one clock of the generator of its quarter. -/
def Draw.take (g : Store Word) (d : Draw) : Store Word × Draw :=
  let s0 := Store.get 1 g d.quarter
  (Store.set 1 g d.quarter (srSteps d.per s0), { d with left := d.left - 1, words := d.words ++ srRun d.per s0 })

/-- R104: the steps that one unit of every quarter takes in one clock. -/
def drawUnit (unit : Nat) (g : Store Word) : List Draw → Store Word × List Draw
  | [] => (g, [])
  | d :: r =>
    if d.unit = unit ∧ d.left ≠ 0 then
      let a := d.take g
      let b := drawUnit unit a.1 r
      (b.1, a.2 :: b.2)
    else
      let b := drawUnit unit g r
      (b.1, d :: b.2)

/-- R104, R256: the steps of one clock: VA, then VB, then the matrix engine; at its end the states that a `wrs` has given. -/
def State.drawClock (s : State) : State :=
  let a := drawUnit 0 s.sr s.draws
  let b := drawUnit 1 a.1 a.2
  let c := drawUnit 2 b.1 b.2
  { s with sr := s.seeds.all.foldl (fun m p => Store.set 1 m p.1 p.2) c.1, draws := c.2, seeds := [] }

/-- The steps of `n` clocks. -/
def State.drawClocks : Nat → State → State
  | 0, s => s
  | n + 1, s => State.drawClocks n s.drawClock

/-- R10, R104: the unit on which a warp's vector instruction runs: the pipe it was chosen on, VA where the schedule names
none. -/
def State.unitOf (s : State) (id : Nat) : Nat :=
  match s.chosen.find? fun p => p.2.1 == id with
  | some p => if p.2.2 = 1 then 1 else 0
  | none => 0

/-- R103: the beats of the instruction at which a warp stands. -/
def Draw.isFor (d : Draw) (id : Nat) (w : Warp) : Bool := d.unit != 2 && d.warp == id && d.point == w.point

/-- R31, R103, R104: an instruction of a warp with the words that its beats draw: one step for each beat that passes, in the
clocks that it holds its pipe, after which it has its effect (log 47). One that does not round stochastically draws none. -/
def State.drawn (s : State) (w : Warp) (sr : Bool) (eff : State → List Word → Res) : Res :=
  if !sr then eff s []
  else match s.draws.find? fun d => d.isFor s.cur w with
    | none => .stay (({ s with
        draws := s.draws ++ [⟨w.quarterNo, s.unitOf s.cur, s.cur, w.point, (beats w.mask).length, 1, []⟩] } : State).block
          s.cur .beats)
    | some d =>
      if d.left ≠ 0 then .stay (s.block s.cur .beats)
      else eff { s with draws := s.draws.filter fun d => !d.isFor s.cur w } d.words

/-- cvt (R242): types t1 and t2, rounding, saturation; SR steps the generator once for each beat that passes (R103), and
once with the word of lane 0 under U. -/
def execCvt (f : FmtA) (x : XT) (s : State) : Host.Outcome State Fault Refusal :=
  let wide1 := x.t1 == 14
  let wide2 := x.t2 == 14
  let src : Ref := if f.u then .k f.a.toNat else if wide1 then .srcPair f.a else .src f.a
  s.issue (.cvt f x) (fun _ => src :: (if wide2 then refPairD f.u f.nw f.d else refD f.u f.nw f.d)) fun s w =>
    let m := w.exec (some x.g)
    let sr := x.rnd == 4
    let conv (word : Word) (a : DWord) := convertType x.t1.toNat x.t2.toNat x.rnd.toNat x.sat word a
    if f.u then
      if m = 0 then .done s
      else
        let r := conv (srWord (srStep (s.srState w.quarterNo)) 0) (w.kr f.a.toNat)
        .done ((if sr then s.srAdvance w.quarterNo 1 else s).putWarp s.cur ((w.setK f.d.toNat r.1).raise r.2))
    else s.drawn w sr fun s words =>
      let val (t : Nat) := conv (beatWord words w.mask t)
        (if wide1 then w.srcPair f.a.toNat t else (w.src f.a.toNat t).zeroExtend 64)
      let w1 := if wide2 then w.resultPair f.nw f.d.toNat m fun t => (val t).1
        else w.result f.nw f.d.toNat m fun t => (val t).1.extractLsb' 0 32
      .done (s.putWarp s.cur (w1.raise (flagsOver m fun t => (val t).2)))

end Sys2Proof.Machine
end

