-- ==== Sys2Proof/Machine/Scale.lean ====
section
/-! DEFINITION. Block-scaled registers (R98): packing, widening and the scale registers (R243 to R245). -/

namespace Sys2Proof.Machine

/-- R98: the slot codes of one thread as a word; the bits beyond the slots are zero. -/
def slotsWord (width : Nat) (codes : List Nat) : Word :=
  BitVec.ofNat 32 (codes.foldr (fun c n => c + n * 2 ^ width) 0)

/-- R98: slot `i` of a word. -/
def slotOf (width : Nat) (x : Word) (i : Nat) : Nat := x.toNat / 2 ^ (width * i) % 2 ^ width

/-- R243: a block converted at the scale it has (`.keep`). -/
def keepBlock (t mode : Nat) (sat : Bool) (scale : Nat) (word : Nat → Word) (vs : List FVal) : List Nat × FFlags :=
  if scale = 0xFF then (vs.map fun _ => 0, fInvalid)
  else
    let rs := (List.range vs.length).map fun i =>
      mxConvert t mode (word i) sat ((vs.getD i (.nan false)).scale (127 - (scale : Int)))
    (rs.map (·.1), rs.foldl (fun fl r => fl ||| r.2) 0)

/-- R61: the effect of an instruction that needs every position active and unguarded. -/
def convergent (i : Instr) (s : State) (w : Warp) (g : Option Guard) (eff : Res) : Res :=
  if w.exec g = BitVec.allOnes 128 then eff else .trap (Trap.of 0x08 (firstWord i)) s

/-- mxpack (R243): SR steps the generator once for each of its eight beats (R103). -/
def execMxpack (f : FmtA) (x : XT) (s : State) : Host.Outcome State Fault Refusal :=
  let ty := x.t2.toNat
  let epl := mxEpl ty
  let keep := x.sel.getLsbD 0
  s.issue (.mxpack f x)
    (fun _ => [.group f.a.toNat epl, .dst f.d, .eDst f.d.toNat] ++ if keep then [.e f.d.toNat] else []) fun s w =>
    convergent (.mxpack f x) s w (some x.g) (s.drawn w (x.rnd == 4) fun s words =>
      let blocks := (List.range (4 * epl)).map fun b =>
        let at_ (i : Nat) : Nat := 32 * b + i
        let xs := (List.range 32).map fun i => fval (w.vr (f.a.toNat + at_ i % epl) (at_ i / epl))
        let word (i : Nat) : Word := beatWord words (BitVec.allOnes 128) (at_ i / epl)
        if keep then
          let c := (w.er f.d.toNat b).toNat
          (c, keepBlock ty x.rnd.toNat x.sat c word xs)
        else requantise ty x.rnd.toNat word xs
      let codes := blocks.flatMap fun b => b.2.1
      let w1 := w.setV f.d.toNat (BitVec.allOnes 128) fun t => slotsWord (mxWidth ty) ((codes.drop (t * epl)).take epl)
      let w2 := w1.setE f.d.toNat fun b => match blocks[b]? with | some r => BitVec.ofNat 8 r.1 | none => 0
      .done (s.putWarp s.cur (w2.raise (blocks.foldl (fun fl b => fl ||| b.2.2) 0))))

/-- mxunpack (R244): every source is read before the group is written (R74). -/
def execMxunpack (f : FmtA) (x : XT) (s : State) : Host.Outcome State Fault Refusal :=
  let ty := x.t1.toNat
  let epl := mxEpl ty
  s.issue (.mxunpack f x) (fun _ => [.src f.a, .dst f.a, .e f.a.toNat, .groupDst f.d.toNat epl]) fun s w =>
    convergent (.mxunpack f x) s w (some x.g) (
      let val (i t : Nat) : Word × FFlags :=
        widen ty (slotOf (mxWidth ty) (w.vr f.a.toNat t) i) (w.er f.a.toNat ((t * epl + i) / 32)).toNat
      let w1 := (List.range epl).foldl (fun w1 i => w1.setV (f.d.toNat + i) (BitVec.allOnes 128) fun t => (val i t).1) w
      .done (s.putWarp s.cur
        (w1.raise ((List.range epl).foldl (fun fl i => fl ||| flagsOver (BitVec.allOnes 128) fun t => (val i t).2) 0))))

/-! ### Scale registers (R245, Table 9.7) -/

/-- An operation on scale registers, once for the warp (R245). -/
def State.scl (s : State) (i : Instr) (x : XT) (refs : List Ref) (eff : Warp → Warp) : Host.Outcome State Fault Refusal :=
  s.issue i (fun _ => refs) fun s w => .done (if w.once (some x.g) then s.putWarp s.cur (eff w) else s)

/-- sget (R245): scale bytes 8i to 8i+7 into a k register. -/
def execSget (f : FmtA) (x : XT) (s : State) : Host.Outcome State Fault Refusal :=
  s.scl (.sget f x) x [.e f.a.toNat, .kDst f.d.toNat] fun w =>
    w.setK f.d.toNat (BitVec.ofNat 64 (natOfBytes ((List.range 8).map fun j => w.er f.a.toNat (8 * x.c.toNat + j))))

/-- sput (R245): scale bytes 8i to 8i+7 from a k register; the other bytes of the e register stay. -/
def execSput (f : FmtA) (x : XT) (s : State) : Host.Outcome State Fault Refusal :=
  s.scl (.sput f x) x [.k f.a.toNat, .eDst f.d.toNat] fun w =>
    w.setE f.d.toNat fun j =>
      if j / 8 = x.c.toNat then BitVec.ofNat 8 ((w.kr f.a.toNat).toNat >>> (8 * (j % 8))) else w.er f.d.toNat j

/-- smov (R245). -/
def execSmov (f : FmtA) (x : XT) (s : State) : Host.Outcome State Fault Refusal :=
  s.scl (.smov f x) x [.e f.a.toNat, .eDst f.d.toNat] fun w => w.setE f.d.toNat (w.er f.a.toNat)

/-- sadd (R245): 0xFF stays; otherwise the sum clamped to 0 to 254. -/
def execSadd (f : FmtA) (x : XT) (s : State) : Host.Outcome State Fault Refusal :=
  s.scl (.sadd f x) x [.e f.a.toNat, .k f.b.toNat, .eDst f.d.toNat] fun w =>
    w.setE f.d.toNat fun j =>
      let c := w.er f.a.toNat j
      if c = 0xFF then c else BitVec.ofInt 8 (max 0 (min 254 ((c.toNat : Int) + (w.kw f.b.toNat).toInt)))

/-- smax (R245): bytewise; 0xFF wins. -/
def execSmax (f : FmtA) (x : XT) (s : State) : Host.Outcome State Fault Refusal :=
  s.scl (.smax f x) x [.e f.a.toNat, .e f.b.toNat, .eDst f.d.toNat] fun w =>
    w.setE f.d.toNat fun j => BitVec.ofNat 8 (max (w.er f.a.toNat j).toNat (w.er f.b.toNat j).toNat)

/-- sfill (R245): every byte from the low byte of a k register. -/
def execSfill (f : FmtA) (x : XT) (s : State) : Host.Outcome State Fault Refusal :=
  s.scl (.sfill f x) x [.k f.a.toNat, .eDst f.d.toNat] fun w => w.setE f.d.toNat fun _ => (w.kr f.a.toNat).extractLsb' 0 8

end Sys2Proof.Machine
end

