-- ==== Sys2Proof/Machine/Access.lean ====
section
/-! DEFINITION. What the MEM instructions share: admission (R359, R363), data groups (R261), the checks before any
access (R263), reads and stores of every space (R117 to R125, R134, R266, R267), releases (R137) and failed stores
(R398). -/

namespace Sys2Proof.Machine

/-! ### Admission -/

/-- The throttle table of a core (R363, Table 16.3). -/
def State.throttleOf (s : State) (core : Nat) : List Nat := Store.get defaultThrottle s.throttle core

/-- R363: a MEM instruction of a warp is admitted: boosted, or among the oldest that are not blocked, in `acquire` too (R34). -/
def State.admits (s : State) (id : Nat) (w : Warp) : Bool :=
  let mine := s.warps.all.filter fun p => p.2.quarterNo == w.quarterNo && p.2.phase != .ended && !p.2.swapped
  let sum := (mine.map fun p => p.2.score).sum
  let l := (s.throttleOf w.core).getD (min 15 (sum / 128)) 32
  let older := mine.filter fun p => p.1 != id && !s.blockedNow p.2 && p.2.phase != .acquiring
    && (p.2.age < w.age || (p.2.age == w.age && p.2.slotNo < w.slotNo))
  w.boosted || older.length < l

/-- A MEM instruction: admitted (R363), with room in its counter (R77), after the writes of an earlier `mrq` (R300). -/
def State.memOp (s : State) (i : Instr) (dc : Nat) (refs : Warp → List Ref) (eff : State → Warp → Res) :
    Host.Outcome State Fault Refusal :=
  s.issue i refs fun s w => if w.dn dc > 62 || !s.admits s.cur w || s.mrqBusy s.cur w then .stay s else eff s w

/-! ### Data groups (R261) -/

/-- A reference that no allotment holds: a misplaced group is an illegal operand (R261). -/
def Ref.never : Ref := .k 1024

/-- The bytes that a size code names. -/
def mBytes (f : FmtM) : Nat := 2 ^ f.size.toNat

/-- The data group of an instruction, read. -/
def dataRefs (f : FmtM) : List Ref :=
  let d := f.data.toNat
  if f.u then (if (mBytes f) = 16 then (if d % 2 = 0 then [.kGroup d 2] else [.never]) else [.k d])
  else if (mBytes f) ≤ 4 then [.src f.data]
  else if (mBytes f) = 8 then [.srcPair f.data]
  else if d % 4 = 0 then [.group d 4] else [.never]

/-- The data group of an instruction, written. -/
def destRefs (f : FmtM) : List Ref :=
  let d := f.data.toNat
  if f.u then (if (mBytes f) = 16 then (if d % 2 = 0 then [.kGroupDst d 2] else [.never]) else [.kDst d])
  else if (mBytes f) ≤ 4 then [.dst f.data]
  else if (mBytes f) = 8 then [.dstPair f.data]
  else if d % 4 = 0 then [.groupDst d 4] else [.never]

/-- The address operand: a k register, a v pair, or one v register. -/
def addrRef (f : FmtM) (wide : Bool) : Ref :=
  if f.u then .k f.addr.toNat else if wide then .srcPair f.addr else .src f.addr

/-- The data group of position `t` as a number, the lowest byte in bits [7:0] of the first register. -/
def Warp.dataNum (w : Warp) (f : FmtM) (t : Nat) : Nat :=
  let d := f.data.toNat
  if f.u then (w.kr d).toNat + (if (mBytes f) = 16 then (w.kr (d + 1)).toNat * 2 ^ 64 else 0)
  else if (mBytes f) ≤ 4 then (w.src d t).toNat
  else if (mBytes f) = 8 then (w.srcPair d t).toNat
  else (w.vp d t).toNat + (w.vp (d + 2) t).toNat * 2 ^ 64

/-- R261: the low bytes of the data group of position `t`. -/
def Warp.dataBytes (w : Warp) (f : FmtM) (t : Nat) : List Byte := bytesOfNat (mBytes f) (w.dataNum f t)

/-- R261: a fetched value extended to `width` bits: by its sign when `sx` is set. -/
def extendTo (width n : Nat) (sx : Bool) (x : Nat) : Nat :=
  if sx && x / 2 ^ (8 * n - 1) % 2 = 1 then x + (2 ^ width - 2 ^ (8 * n)) else x

/-- R261: the writes of fetched values into the data group. A 4-byte value that an atomic fetches fills a k register as a
load without `.sx` does (log 43). -/
def landing (f : FmtM) (vals : List (Nat × List Byte)) : List RegWrite :=
  let d := f.data.toNat
  let word (j : Nat) (l : List Byte) : Word :=
    BitVec.ofNat 32 (extendTo 32 (min 4 (mBytes f)) f.sx (natOfBytes ((l.drop (4 * j)).take 4)))
  if f.u then
    match vals with
    | [] => []
    | p :: _ =>
      .k d (BitVec.ofNat 64 (extendTo 64 (min 8 (mBytes f)) f.sx (natOfBytes (p.2.take 8))))
        :: (if (mBytes f) = 16 then [.k (d + 1) (BitVec.ofNat 64 (natOfBytes (p.2.drop 8)))] else [])
  else (List.range (((mBytes f) + 3) / 4)).map fun j =>
    .v (d + j) (vals.map fun (p : Nat × List Byte) => (p.1, word j p.2))

/-- The registers of the data group with their files, for marks (R264). -/
def dataGroup (f : FmtM) : List (Nat × Nat) :=
  if f.u then (List.range (((mBytes f) + 7) / 8)).map fun j => (2, f.data.toNat + j)
  else (List.range (((mBytes f) + 3) / 4)).map fun j => (0, f.data.toNat + j)

/-- The positions that a MEM instruction accesses for; position 0 stands for the warp in U mode (R260). -/
def Warp.lanesOf (w : Warp) (u : Bool) (g : Option Guard) : List Nat :=
  if u then (if w.once g then [0] else []) else positions (w.exec g)

/-! ### Addresses and their checks (R263) -/

/-- The space of an instruction's addresses (Table 10.2, R271). -/
inductive Space where
  | glob | pad | priv | either
  deriving DecidableEq, Repr

/-- Bytes that lie together: where, how many, their virtual address, and the offset from the private area for private
bytes. -/
structure Piece where
  t : Trans
  n : Nat
  va : DWord
  priv : Option Nat
  deriving DecidableEq, Repr

/-- An access of one position that passed its checks. -/
structure Acc where
  pos : Nat
  addr : DWord
  pieces : List Piece
  deriving DecidableEq, Repr

/-- R121: the offset from the private area of private byte `o` of a thread. -/
def privOffset (b : Block) (i o : Nat) : Nat :=
  let t := if b.paired then 2 * b.threads else b.threads
  o / 4 * (4 * t) + 4 * i + o % 4

/-- R121, R123: the words of a private access. -/
def privWords (size o : Nat) : List (Nat × Nat) :=
  if size ≤ 4 then [(o, size)] else (List.range (size / 4)).map fun j => (o + 4 * j, 4)

/-- R263, 2 and 3: the address form and the translation of one access; the failing address with its cause. For a private
access of a bad form that is the private offset, for one that does not translate the virtual address of R121 (log 42). -/
def State.place (s : State) (w : Warp) (sp : Space) (size pos : Nat) (a : DWord) (need : Need) :
    Except (DWord × Fail) (List Piece) :=
  let ag := s.agentOf w
  let one (r : Except Fail Trans) : Except (DWord × Fail) (List Piece) :=
    match r with
    | .error f => .error (a, f)
    | .ok t => .ok [⟨t, size, a, none⟩]
  match sp with
  | .glob => one (s.xlate ag a need)
  | .either => one (s.xany ag a need)
  | .pad =>
    if a.extractLsb' 32 32 ≠ 0 then .error (a, ⟨7, none⟩)
    else one (match s.padAt ag.cluster a.toNat with | .error f => .error f | .ok k => .ok (padTrans k))
  | .priv =>
    match s.blocks.find w.block with
    | none => .error (a, ⟨7, none⟩)
    | some b =>
      if b.privBytes < a.toNat + size then .error (a, ⟨7, none⟩)
      else (privWords size a.toNat).foldl (fun acc p => match acc with
        | .error e => .error e
        | .ok l =>
          let off := privOffset b (privIndex b.paired (w.blkt b pos) w.twin) p.1
          let va := b.privBase + BitVec.ofNat 64 off
          match s.xlate ag va need with
          | .error f => .error (va, f)
          | .ok t => .ok (l ++ [⟨t, p.2, va, some off⟩])) (.ok [])

/-- R263: the accesses of an instruction, or the trap of the lowest failing position. -/
def State.placeAll (s : State) (w : Warp) (sp : Space) (size align : Nat) (u : Bool) (need : Need) (mx : Bool) :
    List (Nat × DWord) → Except Trap (List Acc)
  | [] => .ok []
  | (t, a) :: r =>
    let pos := if u then none else some t
    let wr := decide (need = .write)
    if a.toNat % align ≠ 0 then .error { Trap.of 0x05 a with pos := pos, write := wr }
    else match s.place w sp size t a need with
      | .error e => .error (e.2.trap e.1 wr pos)
      | .ok ps =>
        if mx && ps.any fun p => !p.t.mx then .error { Trap.of 0x11 a with pos := pos, write := wr }
        else match s.placeAll w sp size align u need mx r with
          | .error e => .error e
          | .ok l => .ok (⟨t, a, ps⟩ :: l)

/-- The pieces of accesses. -/
def piecesOf (l : List Acc) : List Piece := l.flatMap Acc.pieces

/-- R138, R368, R396, R397: an access to another module, or one whose leaf has a bit to be set there, waits. -/
def State.heldUp (s : State) (write : Bool) (l : List Acc) : Bool :=
  (piecesOf l).any fun p => s.planeHeld p.t.key || s.leafHeld p.t write

/-- R368: the leaves of accesses used. -/
def State.touchPieces (s : State) (l : List Acc) (write : Bool) : State :=
  (piecesOf l).foldl (fun s p => if p.t.key < 2 ^ 80 then s.touch p.t write else s) s

/-! ### Private bytes of a warp by their global address (R121, log 6) -/

/-- R121: a dirty private byte of a thread of a warp whose home is a key: its offset from the private area, and its value. -/
def State.ownPriv (s : State) (w : Warp) (key : Nat) : Option (Nat × Byte) :=
  match s.blocks.find w.block with
  | none => none
  | some b => b.priv.all.find? fun q =>
      ((positions w.mask).any fun t => privIndex b.paired (w.blkt b t) w.twin == q.1 / 4 % b.slots)
        && match s.xlate (s.agentOf w) (b.privBase + BitVec.ofNat 64 q.1) .read with
          | .ok t => t.key == key
          | .error _ => false

/-- Dirty private bytes of a block dropped, by their offsets. -/
def State.dropOffsets (s : State) (block : Nat) (offs : List Nat) : State :=
  if offs = [] then s else s.mapBlock block fun b => { b with priv := b.priv.filter fun q => !offs.contains q.1 }

/-- The dirty private bytes of a warp's threads that a piece of a global access covers: offset, key, value. -/
def State.privUnder (s : State) (w : Warp) (p : Piece) : List (Nat × Nat × Byte) :=
  (List.range p.n).filterMap fun i => (s.ownPriv w (p.t.key + i)).map fun q => (q.1, p.t.key + i, q.2)

/-- R121: the private bytes of a warp's threads that a piece covers go home before an access of the warp that is performed
there. -/
def State.privHome (s : State) (w : Warp) (p : Piece) : State :=
  let l := (s.privUnder w p).filter fun q => !s.broken w.core q.2.1
  (l.foldl (fun s q => s.wrBytes q.2.1 [q.2.2]) s).dropOffsets w.block (l.map (·.1))

/-- R121, R127, R129, R134: an access that is not plain finds its line at its home, with the loose bytes that the core's L1
held in it, which go home with the rest of their line, and with the private bytes of its own that it covers. -/
def State.homeward (s : State) (w : Warp) (plain : Bool) (l : List Acc) : State :=
  if plain then s
  else (piecesOf l).foldl (fun s p =>
    let line := p.t.key / 128 * 128
    (if p.t.kind = 2 then s.sendHome (ofCore w.core) line (line + 128) else s).privHome w p) s

/-- R393: an access that another module serves. -/
def farAway (l : List Acc) : Bool :=
  (piecesOf l).any fun p => !isLocal p.t.key

/-- R398: an access over a failed link. -/
def State.accBroken (s : State) (core : Nat) (a : Acc) : Bool := a.pieces.any fun p => s.broken core p.t.key

/-- The virtual address of the first piece of an access that needs a failed link (R398). -/
def State.cutVa (s : State) (core : Nat) (a : Acc) : DWord :=
  match a.pieces.find? fun p => s.broken core p.t.key with
  | some p => p.va
  | none => a.addr

/-- R368, R398: the leaves of the accesses that are performed used for a write; one over a failed link is not performed. -/
def State.touchStores (s : State) (core : Nat) (l : List Acc) : State :=
  s.touchPieces (l.filter fun a => !s.accBroken core a) true

/-! ### The L1 of a core (R362) -/

/-- R121, R277: a line that an address lies in holds private bytes of a block on the warp's core, in the warp's context. -/
def State.privLine (s : State) (w : Warp) (va : DWord) : Bool :=
  let lo := va.toNat / 128 * 128
  s.blocks.all.any fun p =>
    let size := p.2.slots * p.2.privBytes
    p.2.cores.contains w.core && !p.2.swapped && 0 < size && p.2.privBase.toNat < lo + 128 && lo < p.2.privBase.toNat + size
      && match s.clusters.find p.2.cluster with
        | some c => c.cmp == w.cmp && c.ctx == w.ctx
        | none => false

/-- The lines that reads of accesses bring into the L1, each with whether it is loose or private. -/
def State.linesOf (s : State) (w : Warp) (l : List Acc) : List (Nat × Bool) :=
  ((piecesOf l).filterMap fun p => if isPad p.t.key || p.t.ms then none
    else some (p.t.key / 128, p.t.kind == 2 || p.priv.isSome || s.privLine w p.va)).eraseDups

/-- R362: the core whose L1 holds a line. -/
def Fill.core (f : Fill) : Nat := f.quarter / 4

/-- R362: a line is present in a core's L1. -/
def State.filled (s : State) (core line : Nat) : Bool := s.fills.any fun f => f.line == line && f.core == core

/-- A line no longer present in a core's L1. -/
def State.unfill (s : State) (core line : Nat) : State :=
  { s with fills := s.fills.filter fun f => !(f.line == line && f.core == core) }

/-- R362: a read of a line: present in the L1, or filled for the quarter with the tags examined. The rule raises the score by 16
for an instruction; one that reads several lines raises it by 16 for each that hits a tag (DESIGN CHOICE, log 61). -/
def State.fillLine (s : State) (id core quarter : Nat) (l : Nat × Bool) : State :=
  if s.filled core l.1 then s
  else
    let hit := s.tags.contains (quarter, l.1)
    let s1 := { s with fills := ⟨quarter, l.1, true, l.2⟩ :: s.fills, tags := s.tags.filter (· ≠ (quarter, l.1)) }
    if hit then s1.mapWarp id fun w => { w with score := min 255 (w.score + 16) } else s1

/-- R362: the reads of accesses. -/
def State.fillLines (s : State) (id : Nat) (w : Warp) (lines : List (Nat × Bool)) : State :=
  lines.foldl (fun s l => s.fillLine id w.core w.quarterNo l) s

/-! ### Reads -/

/-- A byte of a piece that the L1 holds for its reader newer than its home (R121, R134). -/
def State.pieceByte (s : State) (w : Warp) (plain : Bool) (p : Piece) (i : Nat) : Option Byte :=
  match p.priv with
  | none => ((s.ownPriv w (p.t.key + i)).map fun q => q.2).orElse fun _ => s.heldByte w.slotNo p.t plain i
  | some off => ((s.blocks.find w.block).bind fun b => b.priv.find (off + i)).orElse fun _ => s.heldByte w.slotNo p.t plain i

/-- The bytes of one piece (R121, R134). -/
def State.readPiece (s : State) (w : Warp) (plain : Bool) (p : Piece) : List Byte :=
  (List.range p.n).map fun i => (s.pieceByte w plain p i).getD (s.byte (p.t.key + i))

/-- R264, R385, R398: a piece of which a byte that the reader's L1 does not hold returns an uncorrectable error. -/
def State.pieceFails (s : State) (w : Warp) (plain : Bool) (p : Piece) : Bool :=
  (List.range p.n).any fun i =>
    (s.pieceByte w plain p i).isNone && (s.broken w.core p.t.key || s.byteFailed (p.t.key + i))

/-- R264: a read that returns an uncorrectable error. -/
def State.readFails (s : State) (w : Warp) (plain : Bool) (a : Acc) : Bool := a.pieces.any (s.pieceFails w plain)

/-- The virtual address of an access's first failing piece (R264). -/
def State.failVa (s : State) (w : Warp) (plain : Bool) (a : Acc) : DWord :=
  match a.pieces.find? (s.pieceFails w plain) with
  | some p => p.va
  | none => a.addr

/-- The bytes that an access reads; zeros where it fails (R264). -/
def State.readAcc (s : State) (w : Warp) (plain : Bool) (a : Acc) : List Byte :=
  if s.readFails w plain a then (a.pieces.flatMap fun p => List.replicate p.n 0)
  else a.pieces.flatMap (s.readPiece w plain)

/-- R264: the marks of a load's failed accesses: each register of its group, with the virtual address of the lowest
failing position. -/
def State.marksFor (s : State) (w : Warp) (plain : Bool) (group : List (Nat × Nat)) (l : List Acc) :
    List (Nat × Nat × DWord) :=
  match l.filter (s.readFails w plain) with
  | [] => []
  | a :: _ => group.map fun g => (g.1, g.2, s.failVa w plain a)

/-- The mask of a list of positions. -/
def maskOfList (l : List Nat) : Mask := maskOf fun t => l.contains t

/-- R376: the record of an instruction in flight. -/
def replayOf (i : Instr) (kind counter : Nat) (w : Warp) (mask : Mask) (addrs : List (Nat × DWord)) : Replay :=
  let e := (encode i).getD ⟨.mem, 0, none⟩
  ⟨kind, counter, w.ix, e.w0, e.w1.getD 0, mask, addrs⟩

/-- A load performed: its values read now and landing later (R75, R261, R264, R266). -/
def State.performLoad (s : State) (id : Nat) (w : Warp) (i : Instr) (f : FmtM) (kind : Nat) (plain : Bool) (l : List Acc) :
    State :=
  if l = [] then s.putWarp id w
  else
    let s1 := (s.touchPieces l false).homeward w plain l
    let w1 := (s1.warp id).getD w
    let vals := l.map fun a => (a.pos, s1.readAcc w plain a)
    let rep := replayOf i kind f.dc.toNat w (if f.u then 1 else maskOfList (l.map (·.pos))) (l.map fun a => (a.pos, a.addr))
    (s1.sendLoad id w1 (some f.dc.toNat) (landing f vals) (s1.marksFor w plain (dataGroup f) l) (some rep) (farAway l)).fillLines
      id w (s.linesOf w l)

/-! ### Stores -/

/-- The bytes of one piece written (R121, R134); a global one replaces private bytes of its warp's own that it covers. -/
def State.writePiece (s : State) (w : Warp) (plain : Bool) (p : Piece) (l : List Byte) : State :=
  match p.priv with
  | none => (s.dropOffsets w.block ((s.privUnder w p).map (·.1))).writeAt w.slotNo p.t p.va plain l
  | some off =>
    if p.t.ms then s.wrRaw p.t.key l
    else s.mapBlock w.block fun b => { b with priv := Store.setBlock none b.priv off p.n fun i => l[i]? }

/-- The bytes of an access written into its pieces. -/
def State.writePieces (s : State) (w : Warp) (plain : Bool) : List Piece → List Byte → State
  | [], _ => s
  | p :: r, l => State.writePieces (s.writePiece w plain p (l.take p.n)) w plain r (l.drop p.n)

/-- R267: stores in ascending position, so that the highest wins; those over a failed link are not performed (R398). -/
def State.storeAll (s : State) (id : Nat) (w : Warp) (u plain : Bool) (val : Nat → List Byte) (l : List Acc) : State :=
  l.foldl (fun s a => if s.accBroken w.core a then s.storeFail id w (if u then none else some a.pos) (s.cutVa w.core a)
    else s.writePieces w plain a.pieces (val a.pos)) s

/-- Acknowledgements of `n` stores under a counter, for the warp as it stands now (R137). -/
def State.acksFor (s : State) (id : Nat) (dc : Option Nat) (n : Nat) (far : Bool) : State :=
  match s.warp id with
  | none => s
  | some w => s.sendAcks id w dc n far

/-- R137: the outstanding-store counter has room for `n` stores. -/
def Warp.outRoom (w : Warp) (n : Nat) : Bool := w.out + n ≤ 65535

/-- R137: a releasing access at a scope: held until its release retires, then its effect. -/
def State.release (s : State) (w : Warp) (rel : Bool) (scope : Nat) (eff : State → Warp → Res) : Res :=
  if !rel then eff s w
  else match s.retire s.cur w scope with
    | .waits => .stay s
    | .fails t s1 => .trap t s1
    | .retires s1 w1 => eff s1 w1

/-- Whether an order code releases (Table 0.4). -/
def releases (order : BitVec 3) : Bool := order == 3 || order == 4 || order == 5

end Sys2Proof.Machine
end

