-- ==== Sys2Proof/Machine/LoadStore.lean ====
section
/-! DEFINITION. Loads and stores (R266, R267), gather and scatter (R268) and MX lines (R269, R270). -/

namespace Sys2Proof.Machine

/-- The order of an optional X-M word: plain without it (R129). -/
def orderOf (x : Option XM) : BitVec 3 := match x with | some x => x.order | none => 0

/-- The scope of an optional X-M word. -/
def scopeOf (x : Option XM) : Nat := match x with | some x => x.scope.toNat | none => 0

/-- The offset of an optional X-M word (R266). -/
def offOf (x : Option XM) : DWord := match x with | some x => x.off.signExtend 64 | none => 0

/-- The guard of an optional X-M word (R210). -/
def guardOfX (x : Option XM) : Option Guard := x.map (·.g)

/-- Table 10.2: the address of position `t`. -/
def Warp.memAddr (w : Warp) (f : FmtM) (wide : Bool) (off : DWord) (t : Nat) : DWord :=
  (if f.u then w.kr f.addr.toNat else if wide then w.srcPair f.addr.toNat t else (w.src f.addr.toNat t).zeroExtend 64) + off

/-- A load of a space (R260 to R267): checks, then the reads. -/
def State.load (s : State) (i : Instr) (f : FmtM) (g : Option Guard) (order : BitVec 3) (sp : Space) (kind : Nat)
    (refs : List Ref) (addr : Warp → Nat → DWord) : Host.Outcome State Fault Refusal :=
  s.memOp i f.dc.toNat (fun _ => refs ++ destRefs f) fun s w =>
    match s.placeAll w sp (mBytes f) (mBytes f) f.u .read false ((w.lanesOf f.u g).map fun t => (t, addr w t)) with
    | .error t => .trap t s
    | .ok l =>
      if s.heldUp false l || (l ≠ [] && !s.recordRoom s.cur (loadRecord l.length)) then .stay s
      else .done (s.performLoad s.cur w i f kind (order == 0) l)

/-- A store to a space (R260 to R267): checks, the release, then the writes. -/
def State.store (s : State) (i : Instr) (f : FmtM) (g : Option Guard) (order : BitVec 3) (scope : Nat) (sp : Space)
    (refs : List Ref) (addr : Warp → Nat → DWord) : Host.Outcome State Fault Refusal :=
  s.memOp i f.dc.toNat (fun _ => refs ++ dataRefs f) fun s w =>
    match s.placeAll w sp (mBytes f) (mBytes f) f.u .write false ((w.lanesOf f.u g).map fun t => (t, addr w t)) with
    | .error t => .trap t s
    | .ok l =>
      if s.heldUp true l || !(w.outRoom (if sp = .glob then l.length else 0)) then .stay s
      else s.release w (releases order) scope fun s w =>
        let s1 := (s.touchStores w.core l).homeward w (order == 0) l
        let s2 := s1.storeAll s.cur w f.u (order == 0) (w.dataBytes f) l
        .done (if sp = .glob then s2.acksFor s.cur (some f.dc.toNat) l.length (farAway l) else s2)

/-- ld (R266). -/
def execLd (f : FmtM) (x : Option XM) (s : State) : Host.Outcome State Fault Refusal :=
  s.load (.ld f x) f (guardOfX x) (orderOf x) .glob 1 [addrRef f true] fun w => w.memAddr f true (offOf x)

/-- st (R266). -/
def execSt (f : FmtM) (x : Option XM) (s : State) : Host.Outcome State Fault Refusal :=
  s.store (.st f x) f (guardOfX x) (orderOf x) (scopeOf x) .glob [addrRef f true] fun w => w.memAddr f true (offOf x)

/-- lds (R266). -/
def execLds (f : FmtM) (x : Option XM) (s : State) : Host.Outcome State Fault Refusal :=
  s.load (.lds f x) f (guardOfX x) (orderOf x) .pad 1 [addrRef f true] fun w => w.memAddr f true (offOf x)

/-- sts (R266). -/
def execSts (f : FmtM) (x : Option XM) (s : State) : Host.Outcome State Fault Refusal :=
  s.store (.sts f x) f (guardOfX x) (orderOf x) (scopeOf x) .pad [addrRef f true] fun w => w.memAddr f true (offOf x)

/-- ldp (R266): the thread's own private offset (R121). -/
def execLdp (f : FmtM) (x : Option XM) (s : State) : Host.Outcome State Fault Refusal :=
  s.load (.ldp f x) f (guardOfX x) 0 .priv 1 [addrRef f false] fun w => w.memAddr f false (offOf x)

/-- stp (R266): the thread's own private offset (R121). -/
def execStp (f : FmtM) (x : Option XM) (s : State) : Host.Outcome State Fault Refusal :=
  s.store (.stp f x) f (guardOfX x) 0 0 .priv [addrRef f false] fun w => w.memAddr f false (offOf x)

/-- R149, R268: the address of position `t` of a gather or scatter. -/
def Warp.gatherAddr (w : Warp) (f : FmtM) (x : XG) (t : Nat) : DWord :=
  w.kr x.base.toNat + (((w.src f.addr.toNat t).signExtend 64 : DWord) <<< x.shift.toNat) + x.off.signExtend 64

/-- ldx (R268). -/
def execLdx (f : FmtM) (x : XG) (s : State) : Host.Outcome State Fault Refusal :=
  s.load (.ldx f x) f (some x.g) x.order .glob 2 [addrRef f false, .k x.base.toNat] fun w => w.gatherAddr f x

/-- stx (R268). -/
def execStx (f : FmtM) (x : XG) (s : State) : Host.Outcome State Fault Refusal :=
  s.store (.stx f x) f (some x.g) x.order x.scope.toNat .glob [addrRef f false, .k x.base.toNat] fun w => w.gatherAddr f x

/-! ### MX lines (R98 to R100, R269, R270) -/

/-- The element type that stands for a family: its width gives the packing (Tables 4.7 and 4.8). -/
def familyType (sub : Nat) : Nat := match sub with | 0 => 5 | 1 => 7 | _ => 9

/-- The accesses of an MX move: the four lines of the address (R269). -/
def State.placeMx (s : State) (w : Warp) (a : DWord) (need : Need) : Except Trap (List Acc) :=
  s.placeAll w .glob 128 128 true need true ((List.range 4).map fun n => (n, a + BitVec.ofNat 64 (128 * n)))

/-- The codes of a line's payload (R99). -/
def lineCodes (ty : Nat) (l : List Byte) : List Nat :=
  let x := natOfBytes l
  (List.range (mxLine ty)).map fun i => x / 2 ^ (mxWidth ty * i) % 2 ^ mxWidth ty

/-- The payload that holds codes; the bytes beyond those in use are zero (R99). -/
def codesLine (ty : Nat) (codes : List Nat) : List Byte :=
  bytesOfNat 128 (codes.foldr (fun c n => c + n * 2 ^ mxWidth ty) 0)

/-- R264, R385: an MX line of which a byte, payload or sideband, returns an uncorrectable error. -/
def State.mxFails (s : State) (w : Warp) (plain : Bool) (a : Acc) : Bool :=
  s.readFails w plain a || a.pieces.any fun p => (List.range 8).any (s.sideFailed p.t.key)

/-- The codes and scales of a line; zeros where it fails (R264). -/
def State.mxLineAt (s : State) (w : Warp) (ty : Nat) (plain : Bool) (a : Acc) : List Nat × List Byte :=
  let blocks := mxLine ty / 32
  match a.pieces with
  | p :: _ =>
    if s.mxFails w plain a then (List.replicate (mxLine ty) 0, List.replicate blocks 0)
    else (lineCodes ty (s.readPiece w plain p), (List.range blocks).map (s.sideByte p.t.key))
  | [] => (List.replicate (mxLine ty) 0, List.replicate blocks 0)

/-- The writes of four lines' codes and scales into vd and ed (R98, R269). -/
def mxLanding (d ty : Nat) (lines : List (List Nat × List Byte)) : List RegWrite :=
  let epl := mxEpl ty
  let codes := lines.flatMap (·.1)
  let scales := lines.flatMap (·.2)
  [.v d ((List.range 128).map fun t => (t, slotsWord (mxWidth ty) ((codes.drop (t * epl)).take epl))),
   .e d ((List.range 32).map fun i => (i, scales.getD i 0))]

/-- R264: the marks of an `ldmx` of which a line fails, with the address of the first. -/
def State.mxMarks (s : State) (w : Warp) (plain : Bool) (d : Nat) (l : List Acc) : List (Nat × Nat × DWord) :=
  match l.filter (s.mxFails w plain) with
  | [] => []
  | a :: _ => [(0, d, a.addr), (1, d, a.addr)]

/-- The reads of an `ldmx`, landing later. -/
def State.performMx (s : State) (id : Nat) (w : Warp) (i : Instr) (f : FmtM) (plain : Bool) (addr : DWord) (l : List Acc) :
    State :=
  let ty := familyType f.sub.toNat
  let d := f.data.toNat
  let s1 := (s.touchPieces l false).homeward w plain l
  let w1 := (s1.warp id).getD w
  let rep := replayOf i 3 f.dc.toNat w 1 [(0, addr)]
  (s1.sendLoad id w1 (some f.dc.toNat) (mxLanding d ty (l.map (s1.mxLineAt w ty plain)))
    (s1.mxMarks w plain d l) (some rep) (farAway l)).fillLines id w (s.linesOf w l)

/-- ldmx (R269). -/
def execLdmx (f : FmtM) (x : Option XM) (s : State) : Host.Outcome State Fault Refusal :=
  let d := f.data.toNat
  s.memOp (.ldmx f x) f.dc.toNat (fun _ => [addrRef f true, .dst f.data, .eDst d]) fun s w =>
    if !w.once (guardOfX x) then .done s
    else
      let addr := w.memAddr f true (offOf x) 0
      if addr.toNat % 512 ≠ 0 then .trap (Trap.of 0x05 addr) s
      else match s.placeMx w addr .read with
        | .error t => .trap t s
        | .ok l =>
          if s.heldUp false l || !s.recordRoom s.cur (loadRecord 1) then .stay s
          else .done (s.performMx s.cur w (.ldmx f x) f (orderOf x == 0) addr l)

/-- The line and scales that `stmx` writes for line `n` (R100). -/
def Warp.mxLineOut (w : Warp) (d ty n : Nat) : List Byte × List (Nat × Byte) :=
  let epl := mxEpl ty
  let blocks := mxLine ty / 32
  let code (i : Nat) : Nat := slotOf (mxWidth ty) (w.vr d (i / epl)) (i % epl)
  (codesLine ty ((List.range (mxLine ty)).map fun i => code (n * mxLine ty + i)),
   (List.range 8).map fun b => (b, if b < blocks then w.er d (n * blocks + b) else 0))

/-- One line of an `stmx`: payload and sideband together (R270); a whole-line store clears a failure (R385). -/
def State.writeMxLine (s : State) (t : Trans) (payload : List Byte) (side : List (Nat × Byte)) : State :=
  let s1 := ((s.wrAt t payload).wrSide t.key side).clearFailed t.key
  if t.ms then { s1 with staleSide := s.staleSide } else s1

/-- stmx (R269): four stores (R262), performed at the home of their lines. -/
def execStmx (f : FmtM) (x : Option XM) (s : State) : Host.Outcome State Fault Refusal :=
  let d := f.data.toNat
  let ty := familyType f.sub.toNat
  s.memOp (.stmx f x) f.dc.toNat (fun _ => [addrRef f true, .dst f.data, .src f.data, .e d]) fun s w =>
    if !w.once (guardOfX x) then .done s
    else
      let addr := w.memAddr f true (offOf x) 0
      if addr.toNat % 512 ≠ 0 then .trap { Trap.of 0x05 addr with write := true } s
      else match s.placeMx w addr .write with
        | .error t => .trap t s
        | .ok l =>
          if s.heldUp true l || !w.outRoom 4 then .stay s
          else s.release w (releases (orderOf x)) (scopeOf x) fun s w =>
            let s1 := (s.touchStores w.core l).homeward w false l
            let s2 := l.foldl (fun s a => if s.accBroken w.core a then s.storeFail s.cur w none a.addr
              else match a.pieces with
                | p :: _ =>
                  let r := w.mxLineOut d ty a.pos
                  s.writeMxLine p.t r.1 r.2
                | [] => s) s1
            .done (s2.acksFor s.cur (some f.dc.toNat) 4 (farAway l))

end Sys2Proof.Machine
end

