-- ==== Sys2Proof/Machine/Atomic.lean ====
section
/-! DEFINITION. Atomics (R145 to R148, R271, R272). -/

namespace Sys2Proof.Machine

/-- Table 5.5: the combination of two values of `n` bytes; an FP32 sum rounds to nearest even (R147). -/
def atomCombine (sub n : Nat) (a b : Nat) : Nat :=
  let sg (x : Nat) : Int := if 2 ^ (8 * n - 1) ≤ x then (x : Int) - 2 ^ (8 * n) else x
  match sub with
  | 0 => (a + b) % 2 ^ (8 * n)
  | 1 => (fOut 0 (fAdd 0 (fval (BitVec.ofNat 32 a)) (fval (BitVec.ofNat 32 b)))).1.toNat
  | 2 => if sg b < sg a then b else a
  | 3 => if sg a < sg b then b else a
  | 4 => min a b
  | 5 => max a b
  | 6 => a &&& b
  | 7 => a ||| b
  | 8 => a ^^^ b
  | _ => b

/-- R146, R147: a group at one address, in ascending thread index: each thread's fetched value and the value that
memory receives. The fetched value of a thread is `old` combined with the fold of the lanes before it. -/
def atomGroup (sub n old : Nat) : Option Nat → List (Nat × Nat) → List (Nat × Nat) × Nat
  | total, [] => ([], match total with | none => old | some x => atomCombine sub n old x)
  | total, (t, v) :: r =>
    let fetched := match total with | none => old | some x => atomCombine sub n old x
    let rest := atomGroup sub n old (some (match total with | none => v | some x => atomCombine sub n x v)) r
    ((t, fetched) :: rest.1, rest.2)

/-- R148: a group of `cas` at one address: each thread's fetched value and the final value. -/
def casGroup (cur : Nat) : List (Nat × Nat × Nat) → List (Nat × Nat) × Nat
  | [] => ([], cur)
  | (t, e, x) :: r =>
    let rest := casGroup (if cur = e then x else cur) r
    ((t, cur) :: rest.1, rest.2)

/-- The accesses of one instruction gathered by address, each group in ascending position (R146). -/
def groupsOf (l : List Acc) : List (List Acc) :=
  ((l.map (·.addr)).eraseDups).map fun a => l.filter fun x => x.addr == a

/-- What a group does at its home: from the value there, each thread's fetched value and the value written. -/
abbrev GroupOp := Nat → List Nat → List (Nat × Nat) × Option Nat

/-- One group performed at its home (R145): an error or a failed link gives zeros with a mark and no write (R264,
R385, R398). -/
def State.atomOne (s : State) (id : Nat) (w : Warp) (u : Bool) (n : Nat) (op : GroupOp) (g : List Acc) :
    State × List (Nat × Nat) :=
  match g with
  | [] => (s, [])
  | a :: _ =>
    match a.pieces with
    | [] => (s, [])
    | p :: _ =>
      let zeros := g.map fun a => (a.pos, 0)
      if s.accBroken w.core a then (g.foldl (fun s a => s.storeFail id w (if u then none else some a.pos) a.addr) s, zeros)
      else if s.runFailed p.t.key n then (s, zeros)
      else
        let r := op (s.num p.t.key n) (g.map (·.pos))
        (match r.2 with | none => s | some x => s.wrAt p.t (bytesOfNat n x), r.1)

/-- The groups of an instruction, one after another; they have no order among themselves (R146). -/
def State.atomAll (s : State) (id : Nat) (w : Warp) (u : Bool) (n : Nat) (op : GroupOp) :
    List (List Acc) → State × List (Nat × Nat)
  | [] => (s, [])
  | g :: r =>
    let x := s.atomOne id w u n op g
    let y := State.atomAll x.1 id w u n op r
    (y.1, x.2 ++ y.2)

/-- The address space of an access by bit 63 (R271): the stores that count in the outstanding-store counter. -/
def globalCount (l : List Acc) : Nat := (l.filter fun a => !a.addr.getLsbD 63).length

/-- atom and cas (R145, R271, R272): checks, the release, the operation at the home, and the fetched values landing
later. -/
def State.atomic (s : State) (i : Instr) (f : FmtM) (g : Option Guard) (order : BitVec 3) (scope : Nat) (refs : List Ref)
    (addr : Warp → Nat → DWord) (op : Warp → GroupOp) : Host.Outcome State Fault Refusal :=
  s.memOp i f.dc.toNat (fun _ => refs) fun s w =>
    let n := mBytes f
    match s.placeAll w .either n n f.u .write false ((w.lanesOf f.u g).map fun t => (t, addr w t)) with
    | .error t => .trap t s
    | .ok l =>
      if s.heldUp true l || !w.outRoom (globalCount l) then .stay s
      else if l = [] then .done s
      else s.release w (releases order) scope fun s w =>
        let s1 := (s.touchStores w.core l).homeward w false l
        let r := s1.atomAll s.cur w f.u n (op w) (groupsOf l)
        let vals := r.2.map fun p => (p.1, bytesOfNat n p.2)
        let s2 := r.1.acksFor s.cur none (globalCount l) (farAway l)
        .done (match s2.warp s.cur with
          | none => s2
          | some w2 => s2.sendLoad s.cur w2 (some f.dc.toNat) (landing f vals) (s1.marksFor w false (dataGroup f) l) none (farAway l))

/-- The scope of an atomic: module without an X-M word (R129, R271). -/
def atomScope (x : Option XM) : Nat := match x with | some x => x.scope.toNat | none => 4

/-- atom (R271). -/
def execAtom (f : FmtM) (x : Option XM) (s : State) : Host.Outcome State Fault Refusal :=
  s.atomic (.atom f x) f (guardOfX x) (orderOf x) (atomScope x) ([addrRef f true] ++ dataRefs f ++ destRefs f)
    (fun w => w.memAddr f true (offOf x))
    fun w old ts =>
      let r := atomGroup f.sub.toNat (mBytes f) old none (ts.map fun t => (t, w.dataNum f t % 2 ^ (8 * mBytes f)))
      (r.1, some r.2)

/-- The register that holds the new value of a `cas` (R272). -/
def casNew (f : FmtM) : FmtM :=
  { f with data := f.data + (if f.u then 1 else if f.size = 3 then 2 else 1) }

/-- The new-value register of a `cas`: beyond the register codes it is an illegal operand (R272). -/
def casRefs (f : FmtM) : List Ref :=
  let k := if f.u then 1 else if f.size = 3 then 2 else 1
  if f.data.toNat + k < (if f.u then 128 else 112) then dataRefs (casNew f) else [.never]

/-- cas (R272): bit patterns compared, one write where the value changed (R148). -/
def execCas (f : FmtM) (x : XM) (s : State) : Host.Outcome State Fault Refusal :=
  s.atomic (.cas f x) f (some x.g) x.order x.scope.toNat ([addrRef f true] ++ dataRefs f ++ casRefs f ++ destRefs f)
    (fun w => w.memAddr f true (offOf (some x)))
    fun w old ts =>
      let m := 2 ^ (8 * mBytes f)
      let r := casGroup old (ts.map fun t => (t, w.dataNum f t % m, w.dataNum (casNew f) t % m))
      (r.1, if r.2 = old then none else some r.2)

end Sys2Proof.Machine
end

