-- ==== Sys2Proof/Machine/Chase.lean ====
section
/-! DEFINITION. The chase: its issue (R273), one step at an owner (R194 to R197) and the end of a walk (R198 to
R200). -/

namespace Sys2Proof.Machine

/-! ### Step words (Table 7.6) -/

/-- The offset that a step adds to the pointer. -/
def stepOffset (w : DWord) : DWord := (w.extractLsb' 0 32).signExtend 64

/-- The next pointer from a loaded word: the high and low clear fields of the step. -/
def stepMask (w x : DWord) : DWord :=
  let h := (w.extractLsb' 38 6).toNat
  let l := (w.extractLsb' 32 6).toNat
  ((((x <<< h) >>> h) >>> l) <<< l)

/-- R273: a chase issued: one packet for each thread whose pointer is not 0. -/
def State.sendChase (s : State) (id : Nat) (w : Warp) (i : Instr) (f : FmtM) (steps : List DWord) (lanes : List Nat) :
    State :=
  let d := f.data.toNat
  let packets : List Packet := lanes.map fun t =>
    let p := w.srcPair f.addr.toNat t
    ⟨t, p, 0, 0, none, false, if p = 0 then .done 0 else .flying⟩
  let root := match s.ctxOf w.cmp w.ctx with | some c => c.ptroot | none => 0
  let sent := (packets.filter fun p => p.ptr != 0).map fun p => (p.pos, p.ptr)
  let c : Chase :=
    { warp := id, pc := w.pc, super := w.super, trapped := false, held := false, slot := w.slotNo, gen := s.gen w.slotNo, dc := f.dc.toNat,
      dst := d, steps := steps, cmp := w.cmp, ctx := w.ctx, root := root, packets := packets
      rep := replayOf i 4 f.dc.toNat w (maskOfList lanes) sent }
  { (s.putWarp id ((w.pend [.v d [], .v (d + 1) []]).incD f.dc.toNat)).tick1 with chases := s.chases.put s.nextId c }

/-- chase (R273): the pointers and the step words are read at issue; the warp goes on (R34). -/
def execChase (f : FmtM) (x : XH) (s : State) : Host.Outcome State Fault Refusal :=
  let n := f.sub.toNat % 8 + 1
  let k := x.ks.toNat
  s.memOp (.chase f x) f.dc.toNat (fun _ => [.srcPair f.addr, .dstPair f.data, .kGroup k n]) fun s w =>
    let steps := (List.range n).map fun i => w.kr (k + i)
    let lanes := positions (w.exec (some x.g))
    if steps.any fun d => d.extractLsb' 44 20 ≠ 0 then .trap (Trap.of 0x02 (firstWord (.chase f x))) s
    else if lanes = [] then .done s
    else if !s.recordRoom s.cur (chaseRecord lanes.length) then .stay s
    else .done (s.sendChase s.cur w (.chase f x) f steps lanes)

/-! ### One step (R195 to R197) -/

/-- The unit that owns a line: the tag of its module, and its base die (R196, R197). -/
def ownerOf (k : Nat) : Nat × Nat := (keyTag k, stackDie (keyStack k))

/-- R197: the hops that a move between owners counts; the first leg counts none. -/
def hopsTo (a : Option (Nat × Nat)) (b : Nat × Nat) : Nat :=
  match a with
  | none => 0
  | some a => if a = b then 0 else 1

/-- R398: the way of a packet to the next owner needs a failed link. -/
def State.pathBroken (s : State) (core : Nat) (a : Option (Nat × Nat)) (b : Nat × Nat) : Bool :=
  let src := a.getD (0, s.dieOf core)
  b.1 == 0 && src.1 == 0 && s.linkFailed src.2 b.2

/-- R196: a step address translated by the owner in the issuing context, from the root that the packet carries, for a
core's compartment; the owner finds the table entries that the core has written (R126, R370). -/
def State.chaseXlate (s : State) (c : Chase) (a : DWord) : Except Fail Trans :=
  s.xlateFrom (c.slot / 128) c.root (s.owns c.cmp) a .read

/-- R196, R395: the translations that an owner makes for a packet: those that lead to a line that the packet may read, and those
that lead to a line that another module refuses. -/
structure Ways where
  xl : DWord → Except Fail Trans
  away : DWord → Option Trans

/-- The ways of a packet of the part. -/
def State.chaseWays (s : State) (c : Chase) : Ways :=
  ⟨s.chaseXlate c, s.refusedAt (c.slot / 128) c.root (s.owns c.cmp)⟩

/-- The ways of a packet of another module. -/
def State.foreignWays (s : State) (group : Nat) (root : DWord) : Ways :=
  ⟨fun a => s.xlateVia (root, group) a .read, s.refusedAt 4096 root (s.groupOwns group)⟩

/-- The line to which a step address leads a packet, that of another module which refuses it too. -/
def Ways.line (x : Ways) (a : DWord) : Option Trans :=
  match x.xl a with
  | .ok t => some t
  | .error _ => x.away a

/-- The address of a packet's next step (R195). -/
def Packet.next (steps : List DWord) (p : Packet) : DWord := p.ptr + stepOffset (steps.getD p.step 0)

/-- R397: a line whose home, or the home of a bit that a read has to set in its leaf, cannot be reached now. -/
def State.lineHeld (s : State) (t : Trans) : Bool := s.planeHeld t.key || s.leafHeld t false

/-- What one step does, with the way an owner translates and whether its way is cut: the packet after it and the page it
used. A packet that must wait for a plane (R397) stays as it is. An address that is misaligned and beyond the address space
is misaligned: the spec does not say which kind is recorded, and alignment is found before translation (DESIGN CHOICE,
log 51). A step that another module refuses is refused there (R395): the packet has travelled to it. -/
def State.stepOf (s : State) (x : Ways) (cut : Option (Nat × Nat) → Nat × Nat → Bool)
    (steps : List DWord) (p : Packet) : Packet × Option Trans :=
  if p.ptr = 0 then ({ p with st := .done 0 }, none)
  else
    let step := steps.getD p.step 0
    let a := p.next steps
    if a.toNat % 8 ≠ 0 then ({ p with st := .fault 5 a }, none)
    else match x.xl a with
      | .error f => match x.away a with
        | some t =>
          let hops := p.hops + hopsTo p.owner (ownerOf t.key)
          (if hops > 16 then { p with st := .hop } else if s.planeHeld t.key then p
            else { p with st := .fault 7 a, hops := hops, owner := some (ownerOf t.key) }, none)
        | none =>
          (if f.cause = heldCause then p else if f.cause = 0x15 then { p with st := .bad a } else { p with st := .fault f.cause a },
            none)
      | .ok t =>
        let owner := ownerOf t.key
        let hops := p.hops + hopsTo p.owner owner
        if hops > 16 then ({ p with st := .hop }, none)
        else if s.lineHeld t then (p, none)
        else if cut p.owner owner then ({ p with st := .bad a }, some t)
        else if s.runFailed t.key 8 then ({ p with st := .bad a, hops := hops, owner := some owner }, some t)
        else
          let x : DWord := BitVec.ofNat 64 (s.num t.key 8)
          let q := { p with hops := hops, owner := some owner }
          (if p.step + 1 = steps.length then { q with st := .done x }
            else { q with ptr := stepMask step x, step := p.step + 1 }, some t)

/-- One step of a packet of the part. -/
def State.packetStep (s : State) (c : Chase) (p : Packet) : Packet × Option Trans :=
  s.stepOf (s.chaseWays c) (s.pathBroken (c.slot / 128)) c.steps p

/-! ### Packets between modules (Table 7.7) -/

/-- The route of a thread's packet: where its reply goes (Table 7.7). -/
def State.routeOf (s : State) (c : Chase) (p : Packet) : DWord :=
  (0#18 ++ BitVec.ofNat 7 p.pos ++ BitVec.ofNat 7 c.dst ++ BitVec.ofNat 6 c.gen ++ BitVec.ofNat 5 c.slot
    ++ BitVec.ofNat 2 (c.slot / 32) ++ BitVec.ofNat 8 (c.slot / 128) ++ BitVec.ofNat 11 s.ownModule :
    BitVec (18 + 7 + 7 + 6 + 5 + 2 + 8 + 11))

/-- Table 7.7: the 96 bytes of a packet. -/
def packetBytes (c : Carried) (p : Packet) : List Byte :=
  bytesOfNat 8 p.ptr.toNat ++ ((List.range 8).flatMap fun i => bytesOfNat 8 (c.steps.getD i 0).toNat)
    ++ bytesOfNat 8 c.route.toNat ++ bytesOfNat 1 p.step ++ bytesOfNat 1 c.steps.length ++ bytesOfNat 1 p.hops
    ++ bytesOfNat 1 (if p.replay then 1 else 0) ++ bytesOfNat 4 c.ctxid ++ bytesOfNat 8 c.root.toNat

/-- Table 7.7, read: what a packet carries and where it stands. -/
def packetParse (l : List Byte) : Carried × Packet :=
  let at_ (i n : Nat) : Nat := natOfBytes ((l.drop i).take n)
  let route : DWord := BitVec.ofNat 64 (at_ 72 8)
  (⟨(List.range (at_ 81 1)).map fun i => BitVec.ofNat 64 (at_ (8 + 8 * i) 8), route, at_ 84 4, BitVec.ofNat 64 (at_ 88 8)⟩,
    ⟨(route.extractLsb' 39 7).toNat, BitVec.ofNat 64 (at_ 0 8), at_ 80 1, at_ 82 1, none, at_ 83 1 % 2 == 1, .flying⟩)

/-- What a packet of the part carries. -/
def State.carried (s : State) (c : Chase) (p : Packet) : Carried := ⟨c.steps, s.routeOf c p, ctxid c.cmp c.ctx, c.root⟩

/-- R196: a packet of the part that a step has taken to an owner in another module travels there as a message. -/
def State.sendPacket (s : State) (c : Chase) (p q : Packet) : State :=
  match q.owner with
  | none => s
  | some o =>
    let here := match p.owner with | some x => x.1 | none => 0
    if o.1 = here || o.1 = 0 then s
    else { s with hostOut := s.hostOut ++ [.packet (s.moduleOf o.1) (packetBytes (s.carried c p) { p with hops := q.hops })] }

/-- CHASE_STEP (R195 to R197): one step of the packet of position `t`; nothing where no such packet flies (log 23). -/
def execChaseStep (id t : Nat) (s : State) : Host.Outcome State Fault Refusal :=
  .next (match s.chases.find id with
    | none => s
    | some c => match c.packets.find? fun p => p.pos == t && p.st == .flying with
      | none => s
      | some p =>
        let r := s.packetStep c p
        let s1 := (match r.2 with | some t => s.touch t false | none => s).sendPacket c p r.1
        { s1 with chases := s1.chases.put id { c with packets := c.packets.map fun q => if q.pos = t then r.1 else q } })

/-- R397: the next step of a packet must wait for a plane. -/
def State.stepWaits (s : State) (x : Ways) (steps : List DWord) (p : Packet) : Bool :=
  let a := p.next steps
  let near (t : Trans) : Bool := p.hops + hopsTo p.owner (ownerOf t.key) ≤ 16
  p.ptr != 0 && a.toNat % 8 == 0 && match x.xl a with
    | .error f => f.cause == heldCause || match x.away a with
      | some t => near t && s.planeHeld t.key
      | none => false
    | .ok t => near t && s.lineHeld t

/-- R196: the owner in another module to which a packet goes next. -/
def Packet.away (x : Ways) (steps : List DWord) (p : Packet) : Option (Nat × Nat) :=
  let a := p.next steps
  if p.ptr = 0 || a.toNat % 8 ≠ 0 then none
  else match x.line a with
    | some t => if isLocal t.key || p.hops + hopsTo p.owner (ownerOf t.key) > 16 then none else some (ownerOf t.key)
    | none => none

/-- A packet of another module at this one, by fuel: it walks while the part owns its lines (log 12), and waits for a plane
that carries nothing (R397). -/
def State.walkForeign (s : State) (group : Nat) (c : Carried) : Nat → Packet → State
  | 0, _ => s
  | n + 1, p =>
    let ways := s.foreignWays group c.root
    if p.st != .flying then { s with hostOut := s.hostOut ++ [.chaseReply c.route p] }
    else if s.stepWaits ways c.steps p then { s with delayed := s.delayed ++ [.packet group c p] }
    else match p.away ways c.steps with
      | some o =>
        { s with hostOut := s.hostOut ++ [.packet (s.moduleOf o.1) (packetBytes c { p with hops := p.hops + hopsTo p.owner o })] }
      | none =>
        let r := s.stepOf ways (fun a b => match a with | some a => s.linkFailed a.2 b.2 | none => false) c.steps p
        State.walkForeign (match r.2 with | some t => s.touch t false | none => s) group c n r.1

/-- R395: the module that a packet comes from. -/
def Carried.source (c : Carried) : Nat := (c.route.extractLsb' 0 11).toNat

/-- R196, R395: a packet of another module arrives: its steps here, and then its reply or its way to the next module; one of
a module that is no member is refused. -/
def State.packetIn (s : State) (group : Nat) (bytes : List Byte) : State :=
  let r := packetParse bytes
  if s.isMember r.1.source then s.walkForeign group r.1 (r.1.steps.length + 2) r.2
  else { s with hostOut := s.hostOut ++ [.chaseReply r.1.route { r.2 with st := .fault 7 (r.2.next r.1.steps) }] }

/-! ### The end of a walk (R198 to R200) -/

/-- The result that a packet returned. -/
def Packet.result (p : Packet) : DWord := match p.st with | .done x => x | _ => 0

/-- R199: the trap of a walk in which a packet faulted or stopped. -/
def Chase.trapOf (c : Chase) : Option Trap :=
  let faulted := c.packets.filterMap fun p => match p.st with | .fault k a => some (p.pos, k, a) | _ => none
  let hop := c.packets.filterMap fun p => match p.st with | .hop => some (p.pos, p.ptr) | _ => none
  match faulted, hop with
  | (pos, k, a) :: _, _ => some { Trap.of 0x0F a with pos := some pos, value := some (BitVec.ofNat 64 k) }
  | [], (pos, a) :: _ => some { Trap.of 0x10 a with pos := some pos }
  | [], [] => none

/-- R198: the destination pair written, with the marks of packets that met an uncorrectable error (R385); the replay flag
clears with the last of the warp's trapped chases (R199, Table 15.3). -/
def State.landChase (s : State) (id : Nat) (c : Chase) (w : Warp) : State :=
  let lo : RegWrite := .v c.dst (c.packets.map fun p => (p.pos, p.result.extractLsb' 0 32))
  let hi : RegWrite := .v (c.dst + 1) (c.packets.map fun p => (p.pos, p.result.extractLsb' 32 32))
  let w1 := ((((w.land lo).land hi).unpend [lo, hi]).decD c.dc)
  let bad := c.packets.filterMap fun p => match p.st with | .bad a => some a | _ => none
  let w2 := match bad with
    | [] => w1
    | a :: _ => (w1.mark 0 c.dst a).mark 0 (c.dst + 1) a
  let s1 := { s with chases := s.chases.erase id }
  s1.putWarp c.warp (if c.trapped && s1.trappedChases c.warp = [] then { w2 with xstat := w2.xstat &&& 0xFFFFFFFFFFFFFFEF }
    else w2)

/-- R83, R198: a chase whose warp is gone: each packet that was sent comes back and is dropped. -/
def State.dropChaseReplies (s : State) (id : Nat) (c : Chase) : State :=
  c.rep.addrs.foldl (fun s _ => s.countDrop c.slot) { s with chases := s.chases.erase id }

/-- R199: a warp that the trap of its chase can reach: it stands between two instructions, in the mode of the issue or, for
a chase of a handler that has returned, in any (log 11). -/
def Warp.takesChase (w : Warp) (super : Bool) : Bool :=
  !w.swapped && (super || !w.super) && (w.phase == .prologue || w.phase == .running)
    && match w.wait with | none => true | some x => x.reissues && x != .beats

/-- R199: the trap of a chase, at the chase; the warp keeps where it stood, and the chase its records. -/
def State.trapChase (s : State) (id : Nat) (c : Chase) (w : Warp) (t : Trap) : State :=
  ({ s with chases := s.chases.put id { c with trapped := true, held := true } }.putWarp c.warp
    { w with pc := c.pc, ix := c.rep.ix, fetched := false, words := [], super := c.super, wait := none, xback := some w.point }).takeAside
    c.warp w t

/-- CHASE_REPLY (R198, R199): every packet has ended: the results land, or the chase traps with its records kept; a
reply under an old generation is dropped and counted (R83). A warp that has ended takes no trap: its records are discarded
(log 11). -/
def execChaseReply (id : Nat) (s : State) : Host.Outcome State Fault Refusal :=
  .next (match s.chases.find id with
    | none => s
    | some c =>
      if c.held || c.packets.any fun p => p.st == .flying then s
      else match s.owner c.warp c.slot c.gen with
        | none => s.dropChaseReplies id c
        | some w => match c.trapOf with
          | none => s.landChase id c w
          | some t =>
            if w.phase == .ended then s.discardChases c.warp [(id, c)]
            else if w.takesChase c.super then s.trapChase id c w t
            else s)

end Sys2Proof.Machine
end

