-- ==== Sys2Proof/Machine/Fence.lean ====
section
/-! DEFINITION. Fences (R274), prefetches (R275, R276) and write-backs of loose and private lines (R277). -/

namespace Sys2Proof.Machine

/-- fence (R136, R274): once for the warp; a fence of any order waits as R137 gives (log 44). -/
def execFence (f : FmtM) (s : State) : Host.Outcome State Fault Refusal :=
  s.memOp (.fence f) f.dc.toNat (fun _ => []) fun s w =>
    if !w.once none then .done s
    else match s.retire s.cur w f.size.toNat with
      | .waits => .stay (s.block s.cur .fence)
      | .fails t s1 => .trap t s1
      | .retires s1 _ => .done s1

/-- R275: the lines of the addresses that pass R263, each with whether it is loose or private. -/
def State.prefetchLines (s : State) (w : Warp) (addrs : List DWord) : List (Nat × Bool) :=
  (addrs.filterMap fun a => match s.xlate (s.agentOf w) a .read with
    | .ok t => if t.ms then none else some (t.key / 128, t.kind == 2 || s.privLine w a)
    | .error _ => none).eraseDups

/-- pf (R275): lines brought into the L1; no value changes, and a failing address is dropped. R362 does not say whether such a
line is one filled for a read: it is, of the warp's quarter (DESIGN CHOICE, log 61). -/
def execPf (f : FmtM) (x : Option XM) (s : State) : Host.Outcome State Fault Refusal :=
  s.memOp (.pf f x) f.dc.toNat (fun _ => [addrRef f true]) fun s w =>
    .done ((s.prefetchLines w ((w.lanesOf f.u (guardOfX x)).map (w.memAddr f true (offOf x)))).foldl
      (fun s l => if s.filled w.core l.1 then s else { s with fills := ⟨w.quarterNo, l.1, true, l.2⟩ :: s.fills }) s)

/-- ipf (R276): a fetch reads memory as it stands (R347), so a line in the instruction cache changes no value; a
failing address is dropped. -/
def execIpf (f : FmtM) (x : Option XM) (s : State) : Host.Outcome State Fault Refusal :=
  s.memOp (.ipf f x) f.dc.toNat (fun _ => [addrRef f true]) fun s _ => .done s

/-! ### cwb (R277) -/

/-- The warp of a core in which the thread of a private byte stands: the core's L1 holds the byte (log 6). -/
def State.privWarp (s : State) (core : Nat) (block : Nat) (b : Block) (off : Nat) : Option (Nat × Warp) :=
  s.warps.all.find? fun p => p.2.block == block && p.2.core == core && p.2.phase != .ended && !p.2.swapped
    && (positions p.2.mask).any fun t => privIndex b.paired (p.2.blkt b t) p.2.twin == off / 4 % b.slots

/-- A dirty private byte of an L1: its block, its offset, the key of its home, its value, its virtual address and the warp of its
thread. -/
structure PrivByte where
  block : Nat
  off : Nat
  key : Nat
  val : Byte
  va : DWord
  warp : Nat
  deriving DecidableEq, Repr

/-- The dirty private bytes that a core's L1 holds, each with where its home is or why that is not known (R121). -/
def State.privHeld (s : State) (core : Nat) : List (Except Fail PrivByte) :=
  s.blocks.all.flatMap fun (p : Nat × Block) => match s.clusters.find p.2.cluster with
    | none => []
    | some c => p.2.priv.all.filterMap fun (q : Nat × Byte) => (s.privWarp core p.1 p.2 q.1).map fun w =>
        let va := p.2.privBase + BitVec.ofNat 64 q.1
        match s.xlate ⟨c.cmp, c.ctx, core, p.2.cluster⟩ va .read with
        | .ok t => .ok ⟨p.1, q.1, t.key, q.2, va, w.1⟩
        | .error f => .error f

/-- The dirty private bytes that a core's L1 holds; an address that does not translate has no line (R121, R277). -/
def State.privDirty (s : State) (core : Nat) : List PrivByte :=
  (s.privHeld core).filterMap fun x => match x with | .ok p => some p | .error _ => none

/-- R397: the home of a private byte is not known now: its walk waits for a plane. -/
def State.privStuck (s : State) (core : Nat) : Bool :=
  (s.privHeld core).any fun x => match x with | .ok _ => false | .error f => f.cause == heldCause

/-- Private bytes dropped from the L1. -/
def State.dropPrivBytes (s : State) (l : List PrivByte) : State :=
  l.foldl (fun s x => s.mapBlock x.block fun b => { b with priv := b.priv.erase x.off }) s

/-- The first byte of each line among private bytes. -/
def firstPriv : List PrivByte → List PrivByte
  | [] => []
  | p :: r => p :: (firstPriv r).filter fun x => x.key / 128 != p.key / 128

/-- Dirty private bytes written back; those that need a failed link are failed stores of the warps of their threads (R398). -/
def State.writePrivBytes (s : State) (core : Nat) (l : List PrivByte) : State :=
  let s1 := (firstPriv (l.filter fun x => s.broken core x.key)).foldl (fun s x => match s.warp x.warp with
    | some w => s.storeFail x.warp w none x.va
    | none => s) s
  ((l.filter fun x => !s.broken core x.key).foldl (fun s x => s.wrBytes x.key [x.val]) s1).dropPrivBytes l

/-- The L1 line of an address: its virtual address and its page; none on a page that bypasses the L1 (R124, R277). -/
def State.l1Line (s : State) (w : Warp) (a : DWord) : Option (DWord × Trans) :=
  match s.xlate (s.agentOf w) a .read with
  | .ok t => if t.ms then none else some (a, t)
  | .error _ => none

/-- R397: the line of an address is not known now: its walk waits for a plane. -/
def State.lineUnknown (s : State) (w : Warp) (a : DWord) : Bool :=
  match s.xlate (s.agentOf w) a .read with
  | .ok _ => false
  | .error f => f.cause == heldCause

/-- The address of the word at a private offset of position `t` (R121), if it lies within the private bytes. -/
def State.privVa (s : State) (w : Warp) (t : Nat) (o : DWord) : Option DWord :=
  match s.blocks.find w.block with
  | none => none
  | some b =>
    if b.privBytes ≤ o.toNat then none
    else some (b.privBase + BitVec.ofNat 64 (privOffset b (privIndex b.paired (w.blkt b t) w.twin) o.toNat))

/-- R277: the lines of a core's L1 that are kept: a written-back line that stores alone brought in stays. -/
def State.keepLine (s : State) (w : Warp) (line : Nat) : State :=
  if s.filled w.core line then s else { s with fills := ⟨w.quarterNo, line, false, true⟩ :: s.fills }

/-- One line of the L1 of a warp's core, of a loose page or private (also where it is named by its global address): its loose
bytes and the private bytes of every thread of the core in it, written back or discarded, and the write-backs made. A
write-back over a failed link fails (R398). -/
def State.cwbLine (s : State) (id : Nat) (w : Warp) (priv : Bool) (kind : Nat) (l : DWord × Trans) : State × Nat :=
  let line := l.2.key / 128
  let lo := line * 128
  let loose := if l.2.kind = 2 then s.loose (ofCore w.core) lo (lo + 128) else []
  let own := (s.privDirty w.core).filter fun x => x.key / 128 == line
  if l.2.kind ≠ 2 && !priv && own = [] && !s.privLine w l.1 then (s, 0)
  else
    let dirty := loose != [] || own != []
    let s1 := if kind ≠ 0 then s.unfill w.core line
      else if dirty then s.keepLine w line else s
    let s2 := (if loose = [] then s1 else s1.dropLoose (ofCore w.core) lo (lo + 128)).dropPrivBytes own
    if !dirty || kind = 1 then (s2, 0)
    else if s.broken w.core lo then (s2.storeFail id w none l.1, 1)
    else (((loose.map fun x => (x.key, x.val)) ++ own.map fun x => (x.key, x.val)).foldl (fun s p => s.wrBytes p.1 [p.2]) s2, 1)

/-- Lines one after another, with the write-backs that they made. -/
def State.cwbAll (s : State) (id : Nat) (w : Warp) (priv : Bool) (kind : Nat) : List (DWord × Trans) → State × Nat
  | [] => (s, 0)
  | l :: r =>
    let a := s.cwbLine id w priv kind l
    let b := State.cwbAll a.1 id w priv kind r
    (b.1, a.2 + b.2)

/-- Lines without repeats. -/
def distinctLines : List (DWord × Trans) → List (DWord × Trans)
  | [] => []
  | l :: r => l :: (distinctLines r).filter fun x => x.2.key / 128 != l.2.key / 128

/-- cwb (R277): `wb` 0, `inv` 1, `wbinv` 2; each write-back is a store acknowledged singly (R137). It waits where it cannot tell
a line, or reach the home of one, for a plane (R397). -/
def execCwb (f : FmtM) (x : Option XM) (s : State) : Host.Outcome State Fault Refusal :=
  let priv := f.sub.getLsbD 2
  let kind := f.sub.toNat % 4
  s.memOp (.cwb f x) f.dc.toNat (fun _ => [addrRef f (!priv)]) fun s w =>
    let addr := w.memAddr f (!priv) (offOf x)
    let vas := (w.lanesOf f.u (guardOfX x)).filterMap fun t => if priv then s.privVa w t (addr t) else some (addr t)
    let lines := distinctLines (vas.filterMap (s.l1Line w))
    if !w.outRoom lines.length || vas.any (s.lineUnknown w) || (kind ≠ 1 && lines.any fun l => s.planeHeld l.2.key) then .stay s
    else
      let r := s.cwbAll s.cur w priv kind lines
      .done (r.1.acksFor s.cur (some f.dc.toNat) r.2 (lines.any fun l => !isLocal l.2.key))

end Sys2Proof.Machine
end

