-- ==== Sys2Proof/Machine/Command.lean ====
section
/-! DEFINITION. The command window, `go`, and futures (R168 to R173, R282 to R284). -/

namespace Sys2Proof.Machine

/-- An ENG instruction (R279): with room in its counter (R77), after the writes of an earlier `mrq` (R300), once for
the warp under the clause guard. -/
def State.eng (s : State) (i : Instr) (dc : Nat) (refs : Warp → List Ref) (eff : State → Warp → Res) :
    Host.Outcome State Fault Refusal :=
  s.issue i refs fun s w => if w.dn dc > 62 || s.mrqBusy s.cur w then .stay s else if !w.once none then .done s else eff s w

/-- cmdw (R172, R282). -/
def execCmdw (f : FmtE) (s : State) : Host.Outcome State Fault Refusal :=
  s.eng (.cmdw f) f.dc.toNat (fun _ => [.k f.x.toNat]) fun s w =>
    .done (s.putWarp s.cur { w with win := Store.set 0 w.win f.sub.toNat (w.kr f.x.toNat) })

/-! ### go (R173, R283) -/

/-- The key under which a context counts the commands of an engine of a core. -/
def engineKey (core engine : Nat) : Nat := core * 2 + engine

/-- Table 6.5: the handle of a command. -/
def handleOf (ctx : Nat) (token : BitVec 16) (seq : BitVec 32) : DWord :=
  Config.handleCheck ctx token seq ++ token ++ seq

/-- R173: the engine that takes the next command: the choice is not visible (log 17). -/
def State.nextEngine (s : State) (core : Nat) : Nat :=
  let l := s.coreCmds core
  if (l.filter fun c => c.engine == 0).length ≤ (l.filter fun c => c.engine == 1).length then 0 else 1

/-- R283: a command started: its handle, its pending bit and its counter share. -/
def State.startCmd (s : State) (id : Nat) (w : Warp) (f : FmtE) : State :=
  let engine := s.nextEngine w.core
  let key := engineKey w.core engine
  let seqs := match s.ctxOf w.cmp w.ctx with | some c => c.seqs | none => []
  let n := Store.get 0 seqs key
  let cid := ctxid w.cmp w.ctx
  let token := Config.engineToken cid w.core engine
  let seq : BitVec 32 := BitVec.ofNat 32 n
  let handle := handleOf cid token seq
  let b := s.blocks.find w.block
  let cmd : Cmd :=
    { warp := id, slot := w.slotNo, gen := s.gen w.slotNo, cmp := w.cmp, ctx := w.ctx, block := w.block
      cluster := match b with | some b => b.cluster | none => 0
      launch := match b with | some b => b.launch | none => 0
      core := w.core, engine := engine, token := token, seq := seq, handle := handle
      w := (List.range 4).map fun i => Store.get 0 w.win i
      dc := f.dc.toNat, kreg := f.x.toNat
      barrier := if f.sub.getLsbD 0 then some (w.kr f.y.toNat) else none
      status := 0, taken := false, started := false, table := [], gstate := s.srState w.quarterNo }
  let w1 := if f.sub.getLsbD 1 then w.setK f.z.toNat handle else w
  let w2 := ((w1.setK f.x.toNat handle).pend [.k f.x.toNat 0]).incD f.dc.toNat
  let s1 := s.mapCtx w.cmp w.ctx fun c =>
    { c with
      seqs := Store.set 0 c.seqs key (n + 1)
      engines := if c.engines.contains (w.core, engine) then c.engines else c.engines ++ [(w.core, engine)] }
  { (s1.putWarp id w2).tick1 with cmds := s1.cmds.put s1.nextId cmd }

/-- go (R173, R283): a release at module scope; it waits while its core holds 128 commands. -/
def execGo (f : FmtE) (s : State) : Host.Outcome State Fault Refusal :=
  let copy := f.sub.getLsbD 1
  let bar := f.sub.getLsbD 0
  s.eng (.go f) f.dc.toNat
    (fun _ => [.kDst f.x.toNat] ++ (if bar then [.k f.y.toNat] else []) ++ if copy then [.kDst f.z.toNat] else [])
    fun s w =>
      if 128 ≤ (s.coreCmds w.core).length then .stay (s.block s.cur .goFull)
      else s.release w true 4 fun s w => .done (s.startCmd s.cur w f)

/-! ### Futures (R169, R170, R284) -/

/-- R169: the command that a handle names in a context, if the handle is accepted. -/
def State.handleCmd (s : State) (cmp ctx : Nat) (h : DWord) : Option (Nat × Cmd) :=
  let token := h.extractLsb' 32 16
  let seq := h.extractLsb' 0 32
  let cid := ctxid cmp ctx
  match s.ctxOf cmp ctx with
  | none => none
  | some c =>
    let recent (k : Nat) : Bool :=
      let n := Store.get 0 c.seqs k
      (n + 2 ^ 32 - 1 - seq.toNat) % 2 ^ 32 < min 65536 n
    if h.extractLsb' 48 16 == Config.handleCheck cid token seq
        && c.engines.any fun p => Config.engineToken cid p.1 p.2 == token && recent (engineKey p.1 p.2) then
      s.cmds.all.reverse.find? fun p => p.2.cmp == cmp && p.2.ctx == ctx && p.2.token == token && p.2.seq == seq
    else none

/-- An instruction on a future (R284): the handle accepted, or the engine command fault (0x14). -/
def State.future (s : State) (i : Instr) (f : FmtE) (eff : State → Warp → Nat → Cmd → Res) :
    Host.Outcome State Fault Refusal :=
  s.eng i f.dc.toNat (fun _ => [.k f.y.toNat, .kDst f.x.toNat]) fun s w =>
    match s.handleCmd w.cmp w.ctx (w.kr f.y.toNat) with
    | none => .trap (Trap.of 0x14 (w.kr f.y.toNat)) s
    | some (n, c) => eff s w n c

/-- A k register of a warp written. -/
def State.writeK (s : State) (id n : Nat) (x : DWord) : State := s.mapWarp id fun w => w.setK n x

/-- f.test (R284). -/
def execFTest (f : FmtE) (s : State) : Host.Outcome State Fault Refusal :=
  s.future (.fTest f) f fun s _ _ c => .done (s.writeK s.cur f.x.toNat (BitVec.ofNat 64 c.status))

/-- The clock at which a bound expires; none for 0xFFFF_FFFF (R165). -/
def State.deadline (s : State) (bound : BitVec 32) : Option Nat :=
  if bound = 0xFFFFFFFF then none else some (s.clock + bound.toNat)

/-- f.wait (R284): blocks while the status is 0 and the bound has not expired. -/
def execFWait (f : FmtE) (x : BitVec 32) (s : State) : Host.Outcome State Fault Refusal :=
  s.future (.fWait f x) f fun s w _ c =>
    if c.status ≠ 0 || x = 0 then .done (s.writeK s.cur f.x.toNat (BitVec.ofNat 64 c.status))
    else if !s.recordRoom s.cur 48 then .stay s
    else .stay (s.block s.cur (.future (w.kr f.y.toNat) (s.deadline x) f.x.toNat))

/-- f.cancel (R170, R284): a command that its engine has not taken is cancelled. -/
def execFCancel (f : FmtE) (s : State) : Host.Outcome State Fault Refusal :=
  s.future (.fCancel f) f fun s _ n c =>
    if c.status = 0 && !c.taken then .done ((s.endCmd n 2).writeK s.cur f.x.toNat 2)
    else .done (s.writeK s.cur f.x.toNat (BitVec.ofNat 64 c.status))

/-- F_WAIT_TIMEOUT (R284): a bound has expired: the wait returns the status that the engine reports now. -/
def execFWaitTimeout (id : Nat) (s : State) : Host.Outcome State Fault Refusal :=
  .next (match s.warp id with
    | none => s
    | some w => match w.wait with
      | some (.future h (some d) dst) =>
        if d ≤ s.clock then
          let st := match s.handleCmd w.cmp w.ctx h with | some p => p.2.status | none => 0
          (s.writeK id dst (BitVec.ofNat 64 st)).advance id
        else s
      | _ => s)

end Sys2Proof.Machine
end

