-- ==== Sys2Proof/Machine/Queue.lean ====
section
/-! DEFINITION. Queue instructions (R285 to R288) and what their homes do later: publication (R155), delivery (R156),
`q.init` after a wait (R159). -/

namespace Sys2Proof.Machine

/-- The address of an object checked at issue: alignment (R150, R162), form and translation (R279, R281). -/
def State.object (s : State) (w : Warp) (a : DWord) (align : Nat) (need : Need) : Except Trap Trans :=
  let wr := decide (need = .write)
  if a.toNat % align ≠ 0 then .error { Trap.of 0x05 a with write := wr }
  else match s.xany (s.agentOf w) a need with
    | .error f => .error (f.trap a wr none)
    | .ok t => .ok t

/-- An instruction on an object in memory, whose bytes the issuing core no longer holds newer than their home (R134); `held` is
what it does where the home, or a bit to be set in the leaf, cannot be reached (R138, R397). -/
def State.reachObject (s : State) (w : Warp) (a : DWord) (align : Nat) (need : Need) (held : Res) (eff : State → Trans → Res) :
    Res :=
  match s.object w a align need with
  | .error t => if t.cause = heldCause then held else .trap t s
  | .ok t =>
    let lo := t.key / 128 * 128
    if s.planeHeld t.key || s.leafHeld t (need = .write) then held
    else eff (s.sendHome (ofCore w.core) lo (lo + 128)) t

/-- An instruction on an object in memory: it waits where the object cannot be reached. -/
def State.withObject (s : State) (w : Warp) (a : DWord) (align : Nat) (need : Need) (eff : State → Trans → Res) : Res :=
  s.reachObject w a align need (.stay s) eff

/-! ### q.init (R159, R285) -/

/-- The words of bytes 0 to 15 that `q.init` forms: broken clear. -/
def initWords (pad : Bool) (base shape : DWord) : List DWord :=
  [if pad then base &&& 0xFFFFFFFF else base, shape &&& 0xFFEFFFFFFFFFFFFF]

/-- A queue operation of a warp. -/
def Warp.qop (w : Warp) (s : State) (id : Nat) (f : FmtE) (i : Instr) (enq thr : Bool) (threads : List Nat) (span : Nat)
    (data : List (List Byte)) : QOp :=
  { status := none, via := none, agent := .warp id w.slotNo (s.gen w.slotNo), enq := enq, threads := threads, thr := thr, span := span, cmp := w.cmp
    ctx := w.ctx, cluster := (s.agentOf w).cluster, addr := w.kr f.x.toNat, data := data, dst := f.y.toNat
    dc := some f.dc.toNat, counters := [], slots := [], word := (firstWord i).extractLsb' 0 32, init := [], drain := none }

/-- q.init (R285): the operands are checked first (log 34); a home beyond a failed link is not written (R398). -/
def execQInit (f : FmtE) (s : State) : Host.Outcome State Fault Refusal :=
  s.eng (.qInit f) f.dc.toNat (fun _ => [.k f.x.toNat, .k f.y.toNat, .k f.z.toNat]) fun s w =>
    let a := w.kr f.x.toNat
    let pad := a.getLsbD 63
    let base := w.kr f.y.toNat
    let shape := w.kr f.z.toNat &&& 0xFFEFFFFFFFFFFFFF
    if !qinitOk pad base shape then .trap (Trap.of 0x02 (firstWord (.qInit f))) s
    else s.withObject w a 64 .write fun s t =>
      if s.broken w.core t.key then .done (s.storeFail s.cur w none a)
      else
        let s1 := s.touch t true
        if s1.homeIdle t.key && (s1.home t.key).busy == [] then .done (s1.qinit t.key (initWords pad base shape))
        else
          let op := { w.qop s s.cur f (.qInit f) true false [] 0 [] with init := initWords pad base shape }
          .stay ((s1.tick1.qline t.key s1.nextId op).block s.cur (.queue s1.nextId))

/-! ### q.enq and q.deq (R286, R287) -/

/-- R286: the registers of the data span that begins at `y`. -/
def Warp.spanLen (w : Warp) (thr : Bool) (y : Nat) : Nat :=
  if thr then min 64 (w.va - y) else min 32 (w.ka - y)

/-- R286: the bytes of the span of position `t`. -/
def Warp.spanBytes (w : Warp) (thr : Bool) (y t : Nat) : List Byte :=
  (List.range (w.spanLen thr y)).flatMap fun i =>
    if thr then bytesOfNat 4 (w.vr (y + i) t).toNat else bytesOfNat 8 (w.kr (y + i)).toNat

/-- R287: the references of an operation. -/
def spanRefs (f : FmtE) (enq : Bool) (w : Warp) : List Ref :=
  let thr := f.sub.getLsbD 0
  let y := f.y.toNat
  let n := w.spanLen thr y
  let data : Ref :=
    if n = 0 || (thr && 112 ≤ y) then .never
    else if thr then (if enq then .group y n else .groupDst y n)
    else if enq then .kGroup y n else .kGroupDst y n
  [.k f.x.toNat, data] ++ if f.sub.getLsbD 1 then [.kDst f.z.toNat] else []

/-- The pending bits of a dequeue's whole span (R286). -/
def spanPend (thr : Bool) (y n : Nat) : List RegWrite :=
  (List.range n).map fun i => if thr then .v (y + i) [] else .k (y + i) 0

/-- The pending bit of the status register of a try form (R280). -/
def statusPend (status : Option Nat) : List RegWrite := match status with | some z => [.k z 0] | none => []

/-- R77, R280, R286: what a warp holds once its operation is reserved or taken: the pending bits of a dequeue's span and of
a try form's status, and the counter share. -/
def Warp.served (w : Warp) (op : QOp) : Warp :=
  let w1 := w.pend ((if op.enq then [] else spanPend op.thr op.dst (op.span / if op.thr then 4 else 8)) ++ statusPend op.status)
  match op.dc with
  | some d => w1.incD d
  | none => w1

/-- What the home of a queue answers to a warp's request: reserved or taken; refused with a trap; status 1 in the try form,
or a place in the list of the direction (R157, R158, R287). -/
def State.atHome (s : State) (t : Trans) (op : QOp) (try_ : Option Nat) : Res :=
  let id := s.nextId
  match s.tick1.qserve t.key id op (s.qempty t.key op.enq) with
  | .refuse why v s1 => .trap (why.trap v op.enq none) s1
  | .held => .stay s
  | .wait => match try_ with
    | some z => .done (s.writeK s.cur z 1)
    | none => .stay (((s.tick1.touch t true).qjoin t.key id op).block s.cur (.queue id))
  | .served s1 => .done ((s1.touch t true).mapWarp s.cur fun w => w.served op)

/-- q.enq and q.deq (R287): the request reaches its home when no earlier one is to be performed first (R152, R158). -/
def State.transfer (s : State) (i : Instr) (f : FmtE) (enq : Bool) : Host.Outcome State Fault Refusal :=
  let thr := f.sub.getLsbD 0
  let try_ := if f.sub.getLsbD 1 then some f.z.toNat else none
  s.issue i (spanRefs f enq) fun s w =>
    let lanes := if thr then positions (w.exec none) else if w.once none then [0] else []
    let y := f.y.toNat
    let op := { w.qop s s.cur f i enq thr lanes (w.spanLen thr y * if thr then 4 else 8)
        (if enq then lanes.map (w.spanBytes thr y) else []) with status := try_ }
    if w.dn f.dc.toNat > 62 || s.mrqBusy s.cur w || !s.recordRoom s.cur op.recordSize then .stay s
    else if lanes = [] then .done (match try_ with | some z => if thr then s.writeK s.cur z 0 else s | none => s)
    else s.withObject w (w.kr f.x.toNat) 64 .write fun s t =>
      if s.broken w.core t.key then .trap { Trap.of 0x0B (w.kr f.x.toNat) with write := enq } s
      else if !s.homeIdle t.key then .stay s
      else s.release w enq (s.num (t.key + 14) 2 % 8) fun s _ => s.atHome t op try_

/-- q.enq (R287). -/
def execQEnq (f : FmtE) (s : State) : Host.Outcome State Fault Refusal := s.transfer (.qEnq f) f true

/-- q.deq (R287). -/
def execQDeq (f : FmtE) (s : State) : Host.Outcome State Fault Refusal := s.transfer (.qDeq f) f false

/-- q.info (R159, R288): bytes 14 to 31 as they stand, without a check; a read over a failed link gives zeros with marks
(R385, R398). Where the block has an uncorrectable error the spec does not say what `q.info` returns: its bytes as the home holds
them, unmarked (DESIGN CHOICE, log 61). -/
def execQInfo (f : FmtE) (s : State) : Host.Outcome State Fault Refusal :=
  s.eng (.qInfo f) f.dc.toNat (fun _ => [.k f.y.toNat, .kGroupDst f.x.toNat 3]) fun s w =>
    s.withObject w (w.kr f.y.toNat) 64 .read fun s t =>
      let x := f.x.toNat
      let cut := s.broken w.core t.key
      let field (off n : Nat) : DWord := if cut then 0 else BitVec.ofNat 64 (s.num (t.key + off) n)
      .done ((s.touch t false).mapWarp s.cur fun w =>
        let w1 := ((w.setK x (field 16 8)).setK (x + 1) (field 24 8)).setK (x + 2) (field 14 2)
        if cut then (List.range 3).foldl (fun w i => w.mark 2 (x + i) (w.kr f.y.toNat)) w1 else w1)

/-! ### Publication (R155) -/

/-- The warp of an operation, while its slot keeps the generation of the issue (R83). -/
def State.qwarp (s : State) (op : QOp) : Option (Nat × Warp) :=
  match op.agent with
  | .warp id slot gen => (s.owner id slot gen).map fun w => (id, w)
  | _ => none

/-- The window write of a connection is over (R160, R388): its later operations may go on. -/
def State.windowOver (s : State) (conn : Nat) (msg : HostMsg) : State :=
  { s with
    hostOut := s.hostOut ++ [msg]
    conns := match s.conns.find conn with
      | some c => s.conns.put conn { c with waiting := false }
      | none => s.conns }

/-- R83: a return for a warp that is gone, an element or the end of an enqueue, is dropped and counted. -/
def State.qdrop (s : State) (op : QOp) : State :=
  match op.agent with
  | .warp _ slot _ => s.countDrop slot
  | _ => s

/-- An operation whose last element is done leaves the home: its pending bits clear, a try form's status is written 0 and
its counter completes (R77, R280); another module is answered (R395), and a window write is acknowledged (R160). For a warp
that is gone the elements of a dequeue have been counted one by one (R83). -/
def State.qfinish (s : State) (k id : Nat) (op : QOp) (writes : List RegWrite) : State :=
  let h := s.home k
  let s1 := { s with qops := s.qops.erase id, homes := s.homes.put k { h with busy := h.busy.filter (· ≠ id) } }
  match op.agent with
  | .module src ident => s1.answerModule src ident (some (if op.enq then [] else op.data.flatten))
  | .window conn rkey => s1.windowOver conn (.writeDone conn rkey)
  | _ => match s1.qwarp op with
    | none => if op.enq then s1.qdrop op else s1
    | some (wid, w) =>
      let w1 := (statusPend op.status).foldl Warp.land (w.unpend (writes ++ statusPend op.status))
      s1.putWarp wid (match op.dc with | some n => w1.decD n | none => w1)

/-- The earliest operation of a direction that has elements left (R155, R156). -/
def State.qfirst (s : State) (k : Nat) (enq : Bool) : Option (Nat × QOp) :=
  (s.home k).busy.findSome? fun id => match s.qops.find id with
    | some op => if op.enq == enq then some (id, op) else none
    | none => none

/-- An operation with its first slot done. -/
def QOp.next (op : QOp) : QOp := { op with counters := op.counters.drop 1, slots := op.slots.drop 1 }

/-- R397: a slot on a plane that carries nothing now: its transfer waits. -/
def State.slotHeld (s : State) (op : QOp) : Bool := (op.slots.headD []).any fun p => s.planeHeld p.1

/-- R398: the bytes of a warp's element that a failed link keeps from their slot are a failed store of the warp, at the address of
the first of them. The spec gives no such record for an element of the part, of a host or of another module (log 5). -/
def State.slotLost (s : State) (k : Nat) (op : QOp) (q : QBlk) : State :=
  match (op.slots.headD []).findIdx? fun p => s.slotCut k p.1, s.qwarp op with
  | some i, some (id, w) => s.storeFail id w none (q.slot (isPad k) (op.counters.headD 0) + BitVec.ofNat 64 (8 * i))
  | _, _ => s

/-- QUEUE_PUBLISH (R155): the next element of the earliest reserved enqueue is written into its slot, and the tail moves
past it. -/
def execQueuePublish (home id : Nat) (s : State) : Host.Outcome State Fault Refusal :=
  .next (match s.qfirst home true with
    | none => s
    | some (n, op) =>
      if n ≠ id || s.slotHeld op then s
      else
        let q := s.qblk home
        let elem := op.data.getD (op.data.length - op.counters.length) []
        let s1 := s.wrSlot home (op.slots.headD []) (elem.take q.size)
        let s2 := (s1.qput home 20 4 ((q.tail + 1) % 2 ^ 32)).qput home 28 4 (q.resv - 1)
        let op1 := op.next
        (if op1.counters = [] then s2.qfinish home id op1 [] else { s2 with qops := s2.qops.put id op1 }).slotLost home op q)

/-! ### Delivery (R156, R287) -/

/-- The register writes of an element delivered to position `t` (R286). -/
def elemWrites (op : QOp) (t : Nat) (elem : List Byte) : List RegWrite :=
  if op.thr then (List.range (elem.length / 4)).map fun i =>
    .v (op.dst + i) [(t, BitVec.ofNat 32 (natOfBytes ((elem.drop (4 * i)).take 4)))]
  else (List.range (elem.length / 8)).map fun i =>
    .k (op.dst + i) (BitVec.ofNat 64 (natOfBytes ((elem.drop (8 * i)).take 8)))

/-- The marks of an element whose slot returned an uncorrectable error (R264, log 40): the registers it lands in, with the
address of the slot. -/
def State.slotMarks (s : State) (k : Nat) (op : QOp) (q : QBlk) (writes : List RegWrite) (w : Warp) : Warp :=
  if s.slotFails k (op.slots.headD []) then
    (List.range writes.length).foldl
      (fun w i => w.mark (if op.thr then 0 else 2) (op.dst + i) (q.slot (isPad k) (op.counters.headD 0))) w
  else w

/-- The element at the head of an operation delivered, or dropped and counted (R83), and its slot freed. -/
def State.deliverOne (s : State) (k id : Nat) (op : QOp) : State :=
  let q := s.qblk k
  let elem := s.slotBytes k (op.slots.headD []) q.size
  let t := op.threads.getD (op.threads.length - op.counters.length) 0
  let writes := elemWrites op t elem
  let s1 := match s.qwarp op with
    | none => s.qdrop op
    | some (wid, w) => s.putWarp wid (s.slotMarks k op q writes (writes.foldl Warp.land w))
  let s2 := (s1.qput k 24 4 (q.free + 1)).qput k 28 4 (q.resv - 1)
  let op1 : QOp := { op.next with data := op.data ++ [elem] }
  if op1.counters = [] then
    s2.qfinish k id op1 (spanPend op.thr op.dst (op.span / if op.thr then 4 else 8))
  else { s2 with qops := s2.qops.put id op1 }

/-- QUEUE_DELIVER (R156): the next element of the earliest taken dequeue is delivered to its destination; the
distributor takes its own at LAUNCH_DEQUEUE (R350). -/
def execQueueDeliver (home id : Nat) (s : State) : Host.Outcome State Fault Refusal :=
  .next (match s.qfirst home false with
    | none => s
    | some (n, op) => match op.agent with
      | .distributor _ => s
      | _ => if n ≠ id || s.slotHeld op then s else s.deliverOne home id op)

end Sys2Proof.Machine
end

