-- ==== Sys2Proof/Machine/Barrier.lean ====
section
/-! DEFINITION. Barrier instructions (R289 to R291), the expiry of a barrier wait (R165) and the block barrier (R292). -/

namespace Sys2Proof.Machine

/-- bar.init (R289): the object written whole, without a check of the old contents. The operands are checked first (log 34);
a home beyond a failed link is not written (R398). -/
def execBarInit (f : FmtE) (s : State) : Host.Outcome State Fault Refusal :=
  s.eng (.barInit f) f.dc.toNat (fun _ => [.k f.x.toNat, .k f.y.toNat]) fun s w =>
    let a := w.kr f.x.toNat
    let cfg := w.kr f.y.toNat
    if cfg.extractLsb' 23 41 ≠ 0 || cfg.extractLsb' 0 20 == 0 || cfg.extractLsb' 20 3 == 7 then
      .trap (Trap.of 0x02 (firstWord (.barInit f))) s
    else s.withObject w a 16 .write fun s t =>
      if s.broken w.core t.key then .done (s.storeFail s.cur w none a)
      else .done ((s.touch t true).wrAt t (bytesOfNat 16 (barFresh cfg).toNat))

/-- The scope of a barrier object (Table 6.3). -/
def barScope (x : BitVec 128) : Nat := (x.extractLsb' 45 3).toNat

/-- bar.arv, bar.exp and bar.cmp (R290): a release at the barrier's scope, then one operation at the home; an overrun
traps after its effect (R164). -/
def State.barOp (s : State) (i : Instr) (f : FmtE) (op : Warp → BarOp) : Host.Outcome State Fault Refusal :=
  s.eng i f.dc.toNat (fun _ => [.k f.x.toNat, .k f.y.toNat]) fun s w =>
    let a := w.kr f.x.toNat
    s.withObject w a 16 .write fun s t =>
      if s.broken w.core t.key then .trap { Trap.of 0x0D a with write := true } s
      else s.release w true (barScope (s.barObj t.key)) fun s w =>
        match s.barDo t (op w) with
        | .corrupt s1 => .trap { Trap.of 0x0D a with write := true } s1
        | .done true s1 => .trap (Trap.of 0x0C a) s1
        | .done false s1 => .done s1

/-- bar.arv (R290): a count read as unsigned 64 bits. -/
def execBarArv (f : FmtE) (s : State) : Host.Outcome State Fault Refusal :=
  s.barOp (.barArv f) f fun w => .arrive (w.kr f.y.toNat).toNat

/-- bar.exp (R290): expected bytes added. -/
def execBarExp (f : FmtE) (s : State) : Host.Outcome State Fault Refusal :=
  s.barOp (.barExp f) f fun w => .bytes (w.kw f.y.toNat).toInt

/-- bar.cmp (R290): completed bytes subtracted. -/
def execBarCmp (f : FmtE) (s : State) : Host.Outcome State Fault Refusal :=
  s.barOp (.barCmp f) f fun w => .bytes (-(w.kw f.y.toNat).toInt)

/-- The checks that a reading operation makes at the home (R162, R385). -/
def State.barReads (s : State) (w : Warp) (a : DWord) (eff : State → Trans → BitVec 128 → Res) : Res :=
  s.withObject w a 16 .read fun s t =>
    let x := s.barObj t.key
    if s.broken w.core t.key then .trap (Trap.of 0x0D a) s
    else if s.runFailed t.key 16 || !barOk x then .trap (Trap.of 0x0D a) (s.barSpoil t.key) else eff (s.touch t false) t x

/-- bar.wait (R165, R291): changed at once, timed out at once with a bound of 0, or a place in the waiter list. -/
def execBarWait (f : FmtE) (x : BitVec 32) (s : State) : Host.Outcome State Fault Refusal :=
  s.eng (.barWait f x) f.dc.toNat (fun _ => [.k f.y.toNat, .k f.z.toNat, .kDst f.x.toNat]) fun s w =>
    s.barReads w (w.kr f.y.toNat) fun s t o =>
      let v := (w.kr f.z.toNat).toNat % 16
      let dst := f.x.toNat
      if barPhase o ≠ v then .done (s.writeK s.cur dst (BitVec.ofNat 64 (barPhase o + 16)))
      else if x = 0 then .done (s.writeK s.cur dst (BitVec.ofNat 64 (barPhase o)))
      else if !s.recordRoom s.cur 48 then .stay s
      else
        let b : BWait := ⟨.warp s.cur, t.key, v, s.deadline x, dst, none⟩
        let s1 := { s.tick1 with barWaits := s.barWaits.put s.nextId b }
        .stay (s1.block s.cur (.barrier s.nextId))

/-- bar.test (R291): the object as it stands at one moment. -/
def execBarTest (f : FmtE) (s : State) : Host.Outcome State Fault Refusal :=
  let x := f.x.toNat
  s.eng (.barTest f) f.dc.toNat
    (fun _ => [.k f.y.toNat, if x % 2 = 0 then .kGroupDst x 2 else .never]) fun s w =>
    s.barReads w (w.kr f.y.toNat) fun s _ o =>
      .done (s.mapWarp s.cur fun w => (w.setK x (o.extractLsb' 0 64)).setK (x + 1) (o.extractLsb' 64 64))

/-- bar.blk (R167, R292): each active unguarded thread arrives, a release at block scope; the warp blocks until the
phase completes. -/
def execBarBlk (f : FmtE) (s : State) : Host.Outcome State Fault Refusal :=
  s.eng (.barBlk f) f.dc.toNat (fun _ => []) fun s w =>
    let n := count (w.exec none)
    match s.retire s.cur w 2 with
    | .waits => .stay s
    | .fails t s1 => .trap t s1
    | .retires s1 _ =>
      .stay (((s1.mapBlock w.block fun b => { b with arrived := b.arrived + n }).block s.cur .blockBar).blockBarTest w.block)

/-- BAR_WAIT_TIMEOUT (R165): the bound has expired and no phase has completed since: timed out, with the phase read at
return. -/
def execBarWaitTimeout (id : Nat) (s : State) : Host.Outcome State Fault Refusal :=
  .next (match s.warp id with
    | none => s
    | some w => match w.wait with
      | some (.barrier n) => match s.barWaits.find n with
        | none => s
        | some b => match b.deadline with
          | none => s
          | some d =>
            if d ≤ s.clock then
              (({ s with barWaits := s.barWaits.erase n } : State).writeK id b.dst
                (BitVec.ofNat 64 (barPhase (s.barObj b.key)))).advance id
            else s
      | _ => s)

end Sys2Proof.Machine
end

