-- ==== Sys2Proof/Machine/Returns.lean ====
section
/-! DEFINITION. What comes back to warps: read returns and acknowledgements (R75, R83, R137, R264) and page walks (R370,
R371). -/

namespace Sys2Proof.Machine

/-- R75, R264: a warp with a read landed: its registers written and marked, its pending bits and counter share
released. -/
def Warp.receive (w : Warp) (l : Load) : Warp :=
  let w1 := (l.writes.foldl Warp.land w).unpend l.writes
  let w2 := l.bad.foldl (fun w (p : Nat × Nat × DWord) => w.mark p.1 p.2.1 p.2.2) w1
  match l.dc with
  | some n => w2.decD n
  | none => w2

/-- LOAD_RETURN (R75, R83, R264). The returns of one instruction come back as one, and one drop counts it (DESIGN CHOICE,
log 55). What another module returns is held while the module is quiesced (R397). -/
def execLoadReturn (id : Nat) (s : State) : Host.Outcome State Fault Refusal :=
  .next (match s.loads.find id with
    | none => s
    | some l => if l.far && s.quiesced then s else
      let s1 := { s with loads := s.loads.erase id }
      match s.owner l.warp l.slot l.gen with
      | none => s1.countDrop l.slot
      | some w => s1.putWarp l.warp (w.receive l))

/-- A warp with one store acknowledged; its counter share is released with the last of the group (R77, R137). -/
def Warp.acked (w : Warp) (a : Ack) : Warp :=
  let w1 := { w with out := w.out - 1 }
  if a.left ≤ 1 then (match a.dc with | some n => w1.decD n | none => w1) else w1

/-- STORE_ACK (R83, R137); that of another module is held while the module is quiesced (R397). -/
def execStoreAck (id : Nat) (s : State) : Host.Outcome State Fault Refusal :=
  .next (match s.acks.find id with
    | none => s
    | some a => if a.far && s.quiesced then s else
      let s1 := if a.left ≤ 1 then { s with acks := s.acks.erase id }
        else { s with acks := s.acks.put id { a with left := a.left - 1 } }
      match s.owner a.warp a.slot a.gen with
      | none => s1.countDrop a.slot
      | some w => s1.putWarp a.warp (w.acked a))

/-! ### Page walks (R369 to R371) -/

/-- The compartment that owns a core (R340). -/
def State.compOf (s : State) (core : Nat) : Option Nat :=
  (s.comps.all.find? fun p => p.2.coreGroups.getLsbD (core / 4)).map (·.1)

/-- PAGE_WALK (R370, R371): a translation enters a core's TLB; a walk that fails leaves nothing. -/
def execPageWalk (core ctx : Nat) (va : DWord) (s : State) : Host.Outcome State Fault Refusal :=
  .next (match s.compOf core with
    | none => s
    | some cmp => match s.ctxOf cmp ctx with
      | none => s
      | some c => if va.getLsbD 63 then s else match s.walk core va 4 c.ptroot with
        | .error _ => s
        | .ok (level, at_, e) =>
          let page := va.toNat / 2 ^ pageBits level
          let rest := s.tlb.filter fun t => !(t.core == core && t.cmp == cmp && t.ctx == ctx && t.level == level && t.page == page)
          { s with tlb := rest ++ [⟨core, cmp, ctx, level, page, BitVec.ofNat 64 at_, e⟩] })

end Sys2Proof.Machine
end

