-- ==== Sys2Proof/Machine/Diverge.lean ====
section
/-! DEFINITION. Divergence: spawn records and snapshots (R47 to R52), the return of records into waiting twins (R66),
the groups of the warp former (R55) and the elements of the resume queue (R375). -/

namespace Sys2Proof.Machine

/-! ### Runs of bytes at any address -/

/-- Bytes written along translated runs, with A and D set (R368). -/
def State.writeSpan (s : State) : List (Trans × Nat) → List Byte → State
  | [], _ => s
  | p :: r, l => State.writeSpan ((s.touch p.1 true).wrAt p.1 (l.take p.2)) r (l.drop p.2)

/-- A read of bytes at any virtual address, with A set (R368); an uncorrectable byte or a failed link is cause 0x15
(R385, R398). -/
def State.fetchSpan (s : State) (a : Agent) (va : DWord) (n : Nat) : Except (DWord × Fail) (List Byte × State) :=
  match s.xspan a va n .read with
  | .error e => .error e
  | .ok l =>
    if l.any fun p => s.planeHeld p.1.key || s.leafHeld p.1 false then .error (va, ⟨heldCause, none⟩)
    else if l.any fun p => s.runFailed p.1.key p.2 || s.broken a.core p.1.key then .error (va, ⟨0x15, none⟩)
    else .ok (s.readSpan l, l.foldl (fun s p => s.touch p.1 false) s)

/-! ### The spawn region (R49, Table 2.3) -/

/-- The address of record slot `i`. -/
def Block.recAddr (b : Block) (i : Nat) : DWord := b.spawnBase + BitVec.ofNat 64 (i * b.recSize)

/-- The record slot of position `t` of a warp (R49). -/
def Warp.recSlot (w : Warp) (b : Block) (t : Nat) : Nat := privIndex b.paired (w.blkt b t) w.twin

/-- Table 2.3: the record of position `t`. -/
def Warp.recBytes (w : Warp) (b : Block) (t : Nat) (pc : DWord) (snap l : Nat) (link : Bool) : List Byte :=
  let preds := (List.range 7).foldr (fun i n => n * 2 + if (w.pr (i + 1)).getLsbD t then 1 else 0) 0
  let flags := (if w.super then 8 else 0) + (if link then 4 else 0) + (if w.twin = 1 then 2 else 0) + if b.paired then 1 else 0
  bytesOfNat 8 pc.toNat ++ bytesOfNat 8 (Store.get 0 w.wids t).toNat ++ bytesOfNat 4 snap ++ bytesOfNat 1 preds
    ++ bytesOfNat 1 l ++ bytesOfNat 2 flags ++ ((List.range l).flatMap fun i => bytesOfNat 4 (w.vr i t).toNat)
    ++ (if link then bytesOfNat 8 (w.vp 110 t).toNat else [])

/-! ### The snapshot pool (R51, R52) -/

/-- The entry that a record names. -/
def Snap.entry : Snap → Option Nat
  | .share j | .write j => some j
  | .none | .full => Option.none

/-! ### Shedding threads (R47, R58, R59) -/

/-- Threads that leave a warp: their destination, whether they called, and their positions. -/
structure Shed where
  dest : DWord
  link : Bool
  mask : Mask
  deriving DecidableEq, Repr

/-- The runs of memory that the records and the snapshot take, or the trap of the lowest that fails (R353). -/
def State.shedRuns (s : State) (ag : Agent) : List (Option Nat × DWord × List Byte) →
    Except Trap (List (List (Trans × Nat) × List Byte))
  | [] => .ok []
  | (pos, va, bytes) :: r =>
    match s.xspan ag va bytes.length .write with
    | .error e => .error (e.2.trap e.1 true pos)
    | .ok l =>
      if l.any fun p => s.broken ag.core p.1.key then .error { Trap.of 0x15 va with pos := pos, write := true }
      else match s.shedRuns ag r with
      | .error t => .error t
      | .ok rest => .ok ((l, bytes) :: rest)

/-- What comes of writing records. -/
inductive ShedRes where
  /-- A trap of the lowest that fails: its address does not translate (R353), or lies beyond a failed link (log 45). -/
  | trap (t : Trap)
  /-- No pool entry: the instruction blocks (R52). -/
  | pool
  /-- A failed plane holds the writes back (R397). -/
  | held
  | done (s : State)

/-- R47, R50, R51: the records and the snapshot written, and the positions cleared; the warp's loose bytes go home before a
thread of it moves to another warp (R126, R134). -/
def State.shed (s : State) (id : Nat) (w : Warp) (b : Block) (l m : Nat) (groups : List Shed) : ShedRes :=
  let ag := s.agentOf w
  let bytes := w.snapBytes m
  match s.snapFor ag b m bytes with
  | .full => .pool
  | snap =>
    let off := match snap.entry with | some j => b.poolOffset j | none => 0
    let who := (positions (groups.foldl (fun x g => x ||| g.mask) 0)).filterMap fun t =>
      (groups.find? fun g => g.mask.getLsbD t).map fun g => (t, g)
    let recs := who.map fun (p : Nat × Shed) =>
      (some p.1, b.recAddr (w.recSlot b p.1), w.recBytes b p.1 p.2.dest off l p.2.link)
    let pool := match snap with
      | .write j => [(none, b.spawnBase + BitVec.ofNat 64 (b.poolOffset j), bytes)]
      | _ => []
    match s.shedRuns ag (recs ++ pool) with
    | .error t => .trap t
    | .ok runs =>
      if s.backHeld (ofWarp w) || runs.any fun r => r.1.any fun p => s.planeHeld p.1.key || s.leafHeld p.1 true then .held
      else
        let s1 := runs.foldl (fun s r => s.writeSpan r.1 r.2) (s.sendOwn w)
        let new := who.map fun (p : Nat × Shed) =>
          (⟨w.recSlot b p.1, m, snap.entry, p.2.dest, w.twin == 1, w.super, s.nextId, Store.get 0 w.wids p.1, s.clock, none⟩ :
            Rec)
        let gone := groups.foldl (fun x g => x ||| g.mask) 0
        let s2 := s1.tick1.mapBlock w.block fun b =>
          { b with
            recs := b.recs ++ new
            arrivals := if w.formed then b.arrivals
              else b.arrivals.filter fun p => !(new.any fun r => r.slot == p.1) }
        .done (s2.mapWarp id fun w => { w with mask := w.mask &&& ~~~ gone })

/-! ### Groups (R55) -/

/-- R55: two records that may share a warp. -/
def Rec.mergeable (a b : Rec) : Bool :=
  a.pc == b.pc && a.follower == b.follower && a.super == b.super && a.m == b.m && a.pool == b.pool

/-- R56: age order: the instruction that wrote them, then the lower wid. -/
def Rec.older (a b : Rec) : Bool := a.seq < b.seq || (a.seq == b.seq && a.wid.toNat < b.wid.toNat)

/-- Insertion into an ordered list. -/
def insertBy {α : Type} (lt : α → α → Bool) (x : α) : List α → List α
  | [] => [x]
  | y :: r => if lt x y then x :: y :: r else y :: insertBy lt x r

/-- A list sorted by insertion. -/
def sortBy {α : Type} (lt : α → α → Bool) (l : List α) : List α := l.foldr (insertBy lt) []

/-- R66: the snapshot of a record is a warp's own k0 to k(m-1), or why its pool entry cannot be read. -/
def State.sameSnap (s : State) (b : Block) (r : Rec) (w : Warp) (m : Nat) : Except (DWord × Fail) Bool :=
  if m = 0 then .ok true
  else match r.pool with
    | none => .ok false
    | some j => match s.poolBytes (s.agentOf w) b j m with
      | .error e => .error e
      | .ok l => .ok (l == w.snapBytes m)

/-- The twin that waits at a `join` for a record (R66), by the record's slot: its name and the position. A record whose
snapshot cannot be read waits for its twin (R374). -/
def State.joinTwin (s : State) (block : Nat) (b : Block) (r : Rec) : Option (Nat × Nat) :=
  if !b.paired then none
  else s.warps.all.findSome? fun p =>
    match p.2.wait with
    | some (.join after _ m) =>
      if p.2.block == block && !p.2.formed && (p.2.twin == 1) == r.follower && r.pc == after && r.m == m
          && (match s.sameSnap b r p.2 m with | .ok x => x | .error _ => true) then
        match (positions (~~~ p.2.mask)).find? fun t => p.2.recSlot b t == r.slot with
        | some t => some (p.1, t)
        | none => none
      else none
    | _ => none

/-- The records of the group of a record: those that no waiting twin takes (R55, R66), oldest first. -/
def State.groupOf (s : State) (block : Nat) (b : Block) (r : Rec) : List Rec :=
  sortBy Rec.older (b.recs.filter fun x => x.mergeable r && (s.joinTwin block b x).isNone)

/-! ### Records restored (R54, R57, R66) -/

/-- What the warp former restores of a record: `live` holds the v registers, `link` the link pair where the record has one
that is restored (R54). -/
structure RecImage where
  pc : DWord
  wid : DWord
  snap : Nat
  preds : Nat
  flags : Nat
  live : List Byte
  link : List Byte
  deriving DecidableEq, Repr

/-- The bytes of a record that lie beyond its block's region, line by line (R54): those that can be read as they stand, and a free
value for every other (log 2). -/
def State.strayRuns (s : State) (ag : Agent) : List (DWord × Nat) → Except (DWord × Fail) (List Byte × State)
  | [] => .ok ([], s)
  | r :: rest =>
    let first : Except (DWord × Fail) (List Byte × State) := match s.fetchSpan ag r.1 r.2 with
      | .ok x => .ok x
      | .error e => if e.2.cause = heldCause then .error e
        else .ok ((List.range r.2).map (Config.strayByte s.fresh), { s with fresh := s.fresh + 1 })
    match first with
    | .error e => .error e
    | .ok (l, s1) => match s1.strayRuns ag rest with
      | .error e => .error e
      | .ok (m, s2) => .ok (l ++ m, s2)

/-- A read for the warp former: the bytes within the region, and after them those beyond it (R54). -/
def State.fetchRegion (s : State) (ag : Agent) (b : Block) (va : DWord) (n : Nat) :
    Except (DWord × Fail) (List Byte × State) :=
  let k := min n (b.poolOffset b.poolSize - (va - b.spawnBase).toNat)
  match s.fetchSpan ag va k with
  | .error e => .error e
  | .ok (l, s1) => match s1.strayRuns ag (lineRuns (va + BitVec.ofNat 64 k) (n - k)) with
    | .error e => .error e
    | .ok (m, s2) => .ok (l ++ m, s2)

/-- The bytes of a record slot, as the warp former finds them; only those that an allotment of `va` registers takes are
read (R54). -/
def State.readRec (s : State) (ag : Agent) (b : Block) (va slot : Nat) : Except (DWord × Fail) (RecImage × State) :=
  let a := b.recAddr slot
  match s.fetchSpan ag a 24 with
  | .error e => .error e
  | .ok (h, s1) =>
    let at_ (i n : Nat) : Nat := natOfBytes ((h.drop i).take n)
    let flags := at_ 22 2
    match s1.fetchRegion ag b (a + 24) (4 * min (at_ 21 1) va) with
    | .error e => .error e
    | .ok (live, s2) =>
      match s2.fetchRegion ag b (a + BitVec.ofNat 64 (24 + 4 * at_ 21 1)) (if flags / 4 % 2 = 1 && 112 ≤ va then 8 else 0) with
      | .error e => .error e
      | .ok (link, s3) => .ok (⟨BitVec.ofNat 64 (at_ 0 8), BitVec.ofNat 64 (at_ 8 8), at_ 16 4, at_ 20 1, flags, live, link⟩, s3)

/-- The words that bytes hold. -/
def wordsOf (l : List Byte) : List Word :=
  (List.range (l.length / 4)).map fun i => BitVec.ofNat 32 (natOfBytes ((l.drop (4 * i)).take 4))

/-- R54, R57, R66: the record's v registers, link pair and predicates at a position. -/
def Warp.restore (w : Warp) (t : Nat) (r : RecImage) : Warp :=
  let put (w : Warp) (p : Word × Nat) : Warp := { w with v := Store.set 0 w.v (p.2 * 128 + t) p.1 }
  let w1 := ((wordsOf r.link).zipIdx 110).foldl put (((wordsOf r.live).zipIdx 0).foldl put w)
  let w2 := (List.range 7).foldl (fun w i =>
    w.setP (i + 1) (1#128 <<< t) (if r.preds / 2 ^ i % 2 = 1 then BitVec.allOnes 128 else 0)) w1
  { w2 with mask := w2.mask ||| (1#128 <<< t) }

/-- R374: the warp former's fault: a record with source 1 and a token, which the group's records keep. Where the walk must
wait for a plane (R397) it is tried again. The spec does not say what becomes of a fault that finds 4,096 tokens outstanding, or
whose record is discarded: the group keeps no token and is tried again (DESIGN CHOICE, log 61). -/
def State.formerFault (s : State) (block slot : Nat) (c : Cluster) (g : List Rec) (e : DWord × Fail) : State :=
  let st := s.newToken c.cmp c.ctx (.former block)
  let r : FaultRec :=
    { cause := e.2.cause, source := 1, pos := none, flags := if e.2.entry.isSome then 2 else 0
      location := slot % 32 * 1024 + slot / 32 % 4 * 256 + slot / 128, cmp := c.cmp, ctx := c.ctx, cluster := c.token
      addr := e.1, point := 0, token := st.2, value := e.2.entry.getD e.1 }
  if e.2.cause = heldCause || 4096 ≤ (s.comp c.cmp).tokens.length then s
  else
    let p := st.1.postFault r (.record none none)
    if p.2 then p.1.mapBlock block fun b => { b with recs := b.recs.map fun x =>
      if (g.any fun y => y.slot == x.slot) then { x with token := some st.2 } else x }
    else p.1.mapComp c.cmp fun k => { k with tokens := k.tokens.filter (·.token ≠ st.2) }

/-- Records taken: their slots are empty again, and pool entries that none names are free (R51, R68). -/
def Block.take (b : Block) (slots : List Nat) : Block := { b with recs := b.recs.filter fun r => !(slots.contains r.slot) }

/-! ### The twin's join (R66) -/

/-- A record of a block read for its waiting twin: first its snapshot, then its bytes (R66). -/
def State.readReturn (s : State) (b : Block) (w : Warp) (r : Rec) : Except (DWord × Fail) (RecImage × State) :=
  match s.sameSnap b r w r.m with
  | .error e => .error e
  | .ok _ => s.readRec (s.agentOf w) b w.va r.slot

/-- A record returned into its waiting twin; a fault of the warp former where it cannot be read, with which the record stays
for its twin (R374). -/
def State.returnRec (s : State) (block : Nat) (r : Rec) (twin t : Nat) : State :=
  match s.warp twin, s.blocks.find block with
  | some w, some b =>
    match s.readReturn b w r with
    | .error e => match s.clusters.find b.cluster with
      | some c => s.formerFault block w.slotNo c [r] e
      | none => s
    | .ok (img, s1) =>
      (s1.putWarp twin (w.restore t img)).mapBlock block fun b =>
        { b.take [r.slot] with arrivals := b.arrivals.filter fun p => p.1 != r.slot }
  | _, _ => s

/-- R66: a cleared position of a waiting twin is settled: its thread has exited, or arrived at the clause. -/
def State.settled (s : State) (block : Nat) (b : Block) (w : Warp) (after : DWord) (t : Nat) : Bool :=
  let slot := w.recSlot b t
  let pending := b.recs.any fun r => r.slot == slot
  let flying := s.warps.all.any fun p => p.2.block == block && p.2.formed && p.2.phase != .ended
    && (positions p.2.mask).any fun q => p.2.recSlot b q == slot
  (b.arrivals.contains (slot, after)) || (!pending && !flying)
    || (b.recs.any fun r => r.slot == slot && r.pc == after && (s.joinTwin block b r).isNone)

/-- R66: the records that waiting twins of a block take are returned, and each twin whose positions are all settled goes
on; the records of a block that is swapped out stay with it (R68). -/
def State.settleTwins (s : State) (block : Nat) : State :=
  match s.blocks.find block with
  | none => s
  | some b =>
    if !b.paired || b.swapped then s
    else
      let s1 := b.recs.foldl (fun s r => match s.joinTwin block b r with
        | some p => if r.token.isSome then s else s.returnRec block r p.1 p.2
        | none => s) s
      let b1 := (s1.blocks.find block).getD b
      (s1.warps.all.filterMap fun p => match p.2.wait with
        | some (.join after _ _) =>
          if p.2.block == block && (positions (~~~ p.2.mask)).all (s1.settled block b1 p.2 after) then some p.1 else none
        | _ => none).foldl (fun s id => s.advance id) s1

/-! ### The resume queue (R375) -/

/-- The answer to a token: retry, trap or fence. Every record that the warp former's fault left with the token may form
again (R374). The spec gives the action trap no effect on the warp former, which has no handler to enter: it is a retry
(DESIGN CHOICE, log 58). -/
def State.answer (s : State) (cmp : Nat) (t : Token) (action : Nat) : State :=
  match t.who with
  | .warp id =>
    if action = 0 then s.retrySuspended id
    else if action = 1 then s.trapSuspended id
    else match s.warp id with
      | none => s
      | some w => s.fence cmp w.ctx
  | .former block =>
    if action = 2 then match s.blocks.find block with
      | none => s
      | some b => match s.clusters.find b.cluster with
        | none => s
        | some c => s.fence cmp c.ctx
    else
      let free (r : Rec) : Rec := if r.token = some t.token then { r with token := none } else r
      (s.mapBlock block fun b => { b with recs := b.recs.map free }).settleTwins block

/-- Whether who waits on a token is swapped out (R375). -/
def State.outNow (s : State) (who : Waiter) : Bool :=
  match who with
  | .warp id => match s.warp id with | some w => w.swapped | none => false
  | .former block => match s.blocks.find block with | some b => b.swapped | none => false

/-- Whether a token still names who waits on it: a killed warp answers nothing. -/
def State.tokenLive (s : State) (t : Token) : Bool :=
  match t.who with
  | .warp id => match s.warp id with | some w => w.token == some t.token | none => false
  | .former block => match s.blocks.find block with
    | some b => b.recs.any fun r => r.token == some t.token
    | none => false

/-- One element of the resume queue acted on (R375). -/
def State.resumeElement (s : State) (cmp : Nat) (token : DWord) (action : Nat) : State :=
  match (s.comp cmp).tokens.find? fun t => t.token == token && t.noted.isNone && s.tokenLive t with
  | none => s.postEvent cmp 4 1 0 token
  | some t =>
    if action > 2 then s.postEvent cmp 4 1 0 token
    else if s.outNow t.who then
      s.mapComp cmp fun c =>
        { c with tokens := c.tokens.map fun x => if x.token == token then { x with noted := some action } else x }
    else (s.mapComp cmp fun c => { c with tokens := c.tokens.filter fun x => x.token != token }).answer cmp t action

/-- RESUME_ELEMENT (R375): the part, the queue's only dequeuer, takes an element and acts on it; nothing where none can
be taken. -/
def execResumeElement (cmp : Nat) (s : State) : Host.Outcome State Fault Refusal :=
  .next (match (s.comp cmp).qfault with
    | none => s
    | some (block, ctx) =>
      let addr := block + 64
      match s.xany ⟨cmp, ctx, 4096, 0⟩ addr .write with
      | .error _ => s
      | .ok t =>
        if s.num (t.key + 12) 2 ≠ 16 || s.qfirst t.key false != none || s.planeHeld t.key || s.leafHeld t true || !s.homeIdle t.key then s
        else
          let id := s.nextId
          let op := { partEnqueue (.record none none) cmp ctx addr [] with enq := false, span := 16 }
          match s.tick1.qserve t.key id op (s.qempty t.key false) with
          | .refuse _ _ s1 => { s1 with nextId := s.nextId }
          | .wait | .held => s
          | .served s1 => match s1.qops.find id with
            | none => s1
            | some op1 =>
              let elem := s1.slotBytes t.key (op1.slots.headD []) 16
              (((s1.touch t true).deliverOne t.key id op1)).resumeElement cmp
                (BitVec.ofNat 64 (natOfBytes (elem.take 8))) (natOfBytes (elem.drop 8)))

end Sys2Proof.Machine
end

