-- ==== Sys2Proof/Machine/Room.lean ====
section
/-! DEFINITION. What a quarter has left: warp slots, v registers and accumulator tiles (R11, R36 to R40, R53), and the
grant of `acquire` (R38, R39). -/

namespace Sys2Proof.Machine

/-- The warps that hold a slot of a quarter (R67: an ended warp holds its slot and allotment until they return). -/
def State.inQuarter (s : State) (core quarter : Nat) : List (Nat × Warp) :=
  s.warps.all.filter fun p => p.2.core == core && p.2.quarter == quarter && !p.2.swapped

/-- The blocks whose warp-former slot is in reserve on a quarter (R53). -/
def State.reserves (s : State) (core quarter : Nat) : List (Nat × Block) :=
  s.blocks.all.filter fun p => p.2.resCore == core && p.2.resQuarter == quarter && p.2.resWarp.isNone && !p.2.swapped
    && p.2.live != 0

/-- The v registers of a quarter that are not granted; a slot in reserve counts with its full allotment (R40, R53). -/
def State.freeV (s : State) (core quarter : Nat) : Nat :=
  Config.quarterRegs - ((s.inQuarter core quarter).map fun p => p.2.va).sum
    - ((s.reserves core quarter).map fun p => p.2.fv).sum

/-- The accumulator tiles of a quarter that are not granted. -/
def State.freeT (s : State) (core quarter : Nat) : Nat :=
  Config.quarterTiles - ((s.inQuarter core quarter).map fun p => p.2.ta).sum
    - ((s.reserves core quarter).map fun p => p.2.acc).sum

/-- A slot that no warp holds and no block has in reserve. -/
def State.slotFree (s : State) (core quarter slot : Nat) : Bool :=
  slot < Config.quarterSlots && s.genFree (slotKey core quarter slot)
    && !((s.inQuarter core quarter).any fun p => p.2.slot == slot)
    && !((s.reserves core quarter).any fun p => p.2.resSlot == slot)

/-- The full allotment of a warp's block: v registers and tiles (R36). -/
def State.fullOf (s : State) (w : Warp) : Nat × Nat :=
  match s.blocks.find w.block with
  | some b => (b.fv, b.acc)
  | none => (w.va, w.ta)

/-- R39: one `acquire` request is older than another: age, then slot. -/
def Warp.elder (a b : Warp) : Bool := a.age < b.age || (a.age == b.age && a.slotNo < b.slotNo)

/-- R39: the growth of a warp fits what its quarter has not granted. -/
def State.growthFits (s : State) (w : Warp) : Bool :=
  let f := s.fullOf w
  f.1 - w.va ≤ s.freeV w.core w.quarter && f.2 - w.ta ≤ s.freeT w.core w.quarter

/-- R38: a warp granted its full allotment; the new contents are zero. -/
def Warp.grow (w : Warp) (v t : Nat) : Warp := { w with va := v, ta := t, full := true, phase := .running, acqAt := none }

/-- R39: a grant. -/
def State.grant (s : State) (id : Nat) : State :=
  match s.warp id with
  | none => s
  | some w =>
    let f := s.fullOf w
    (s.putWarp id (w.grow f.1 f.2)).advance id

/-- R39: the requests that wait on a quarter, oldest first. -/
def State.acquirers (s : State) (core quarter : Nat) : List (Nat × Warp) :=
  sortBy (fun a b => a.2.elder b.2) ((s.inQuarter core quarter).filter fun p => p.2.phase == .acquiring)

end Sys2Proof.Machine
end

