-- ==== Sys2Proof/Machine/Control.lean ====
section
/-! DEFINITION. The CTL class (R305 to R314). -/

namespace Sys2Proof.Machine

/-! ### Conditions and targets (R306) -/

/-- The target of a CTL instruction: this clause's header plus four times the offset (R305). -/
def Warp.target (w : Warp) (f : FmtC) : DWord := w.pc + (f.off.signExtend 64 <<< 2)

/-- R46, R306: the active threads whose condition is true: the predicate, negated as encoded, and the clause guard. -/
def Warp.taken (w : Warp) (f : FmtC) : Mask :=
  let p := if f.p then (if f.n then ~~~ w.pr f.pred.toNat else w.pr f.pred.toNat) else BitVec.allOnes 128
  w.mask &&& p &&& w.clauseGuard

/-- R209: a transfer to a clause header; a misaligned target is an illegal clause. -/
def State.transferTo (s : State) (pc : DWord) : Res :=
  if pc.extractLsb' 0 2 ≠ 0 then .trap (Trap.of 0x03 pc) s else .moved (s.jump s.cur pc)

/-- R306, uniform: the guard true in every active thread transfers, false in every one falls through. -/
def uniform (i : Instr) (s : State) (w : Warp) (eff : Res) : Res :=
  if w.exec none = w.mask then eff
  else if w.exec none = 0 then .done s
  else .trap (Trap.of 0x09 (firstWord i)) s

/-! ### bra, jmp, call, ret (R46, R307) -/

/-- bra (R46, R307). -/
def execBra (f : FmtC) (s : State) : Host.Outcome State Fault Refusal :=
  s.issue (.bra f) (fun _ => []) fun s w =>
    if w.taken f = w.mask then s.transferTo (w.target f)
    else if w.taken f = 0 then .done s
    else .trap (Trap.of 0x09 (firstWord (.bra f))) s

/-- jmp (R307). -/
def execJmp (f : FmtC) (s : State) : Host.Outcome State Fault Refusal :=
  s.issue (.jmp f) (fun _ => []) fun s w => uniform (.jmp f) s w (s.transferTo (w.target f))

/-- call (R307): the next clause into K(127). -/
def execCall (f : FmtC) (s : State) : Host.Outcome State Fault Refusal :=
  s.issue (.call f) (fun _ => [.kDst 127]) fun s w =>
    uniform (.call f) s w ((s.putWarp s.cur (w.setK 127 w.nextClause)).transferTo (w.target f))

/-- ret (R307). -/
def execRet (f : FmtC) (s : State) : Host.Outcome State Fault Refusal :=
  let r := f.off.toNat % 128
  s.issue (.ret f) (fun _ => [.k r]) fun s w => uniform (.ret f) s w (s.transferTo (w.kr r))

/-! ### Divergence (R47, R59, R308 to R310) -/

/-- R48: the limits of L and M. -/
def Warp.limits (w : Warp) (b : Block) (l m : Nat) : Bool := l ≤ b.lmax && m ≤ b.mmax && l ≤ w.va && m ≤ w.ka

/-- The registers whose values records and snapshot take (R76): v0 to v(L-1) and k0 to k(M-1). -/
def shedRefs (l m : Nat) : List Ref := [.group 0 l, .kGroup 0 m]

/-- Records written by a warp that `set` changes first, once nothing they hold is pending or marked (R76, R264) and the
writes of its `mrq` are done (R300); then what follows. -/
def State.shedThen (s : State) (i : Instr) (w : Warp) (set : Warp → Warp) (b : Block) (l m : Nat) (groups : List Shed)
    (go : State → Res) : Res :=
  s.gate s.cur w i (shedRefs l m) fun s w =>
    if s.mrqBusy s.cur w then .stay s
    else match (s.putWarp s.cur (set w)).shed s.cur (set w) b l m groups with
    | .trap t => .trap t s
    | .pool => .stay (s.block s.cur (.pool m))
    | .held => .stay s
    | .done s1 => go s1

/-- Records written, after which the warp's remaining threads go to `pc`; the twins that wait for what was written are
served (R66). -/
def State.shedTo (s : State) (i : Instr) (w : Warp) (set : Warp → Warp) (b : Block) (l m : Nat) (groups : List Shed)
    (pc : DWord) : Res :=
  s.shedThen i w set b l m groups fun s1 => .moved ((s1.jump s1.cur pc).settleTwins w.block)

/-- An instruction that acts on the warp's block. -/
def State.withBlock (s : State) (w : Warp) (eff : Block → Res) : Res :=
  match s.blocks.find w.block with
  | some b => eff b
  | none => .done s

/-- brd (R47, R48, R308). -/
def execBrd (f : FmtC) (x : XD) (s : State) : Host.Outcome State Fault Refusal :=
  s.issue (.brd f x) (fun _ => []) fun s w => s.withBlock w fun b =>
    let l := x.l.toNat
    let m := x.m.toNat
    let t := w.taken f
    let n := w.mask &&& ~~~t
    if !w.limits b l m then .trap (Trap.of 0x02 (firstWord (.brd f x))) s
    else if n = 0 then s.transferTo (w.target f)
    else if t = 0 then .done s
    else if count t ≤ count n then s.shedTo (.brd f x) w id b l m [⟨w.target f, false, t⟩] w.nextClause
    else s.shedTo (.brd f x) w id b l m [⟨w.nextClause, false, n⟩] (w.target f)

/-- The active threads divided by destination, in order of their lowest positions; the threads that the guard shuts out
are a group of their own (R306). -/
def Warp.divide (w : Warp) (dest : Nat → DWord) : List Shed :=
  let yes := w.exec none
  let no := w.mask &&& ~~~yes
  let called := ((positions yes).map dest).eraseDups.map fun d =>
    (⟨d, true, maskOf fun t => yes.getLsbD t && dest t == d⟩ : Shed)
  let all := called ++ if no = 0 then [] else [⟨w.nextClause, false, no⟩]
  sortBy (fun a b => (positions a.mask).headD 128 < (positions b.mask).headD 128) all

/-- R59: the group that continues: the largest, and among equals the one with the lowest position. -/
def largest : List Shed → Option Shed
  | [] => none
  | g :: r => match largest r with
    | none => some g
    | some h => if count h.mask ≤ count g.mask then some g else some h

/-- The lowest misaligned target of threads that transfer (R209, R309). -/
def firstMisaligned (l : List Shed) : Option DWord := (l.find? fun g => g.dest.extractLsb' 0 2 ≠ 0).map (·.dest)

/-- A v pair named by a CTL field: two registers, the first even (R305, R72). -/
def pairField (r : Nat) : Ref := if r % 2 = 0 then .group r 2 else .never

/-- calli (R59, R309). -/
def execCalli (f : FmtC) (x : XD) (s : State) : Host.Outcome State Fault Refusal :=
  let r := f.off.toNat % 128
  s.issue (.calli f x) (fun _ => [pairField r, .groupDst 110 2]) fun s w => s.withBlock w fun b =>
    let l := x.l.toNat
    let m := x.m.toNat
    let groups := w.divide (w.vp r)
    if l > 110 || l + 2 > b.lmax || !w.limits b l m then .trap (Trap.of 0x02 (firstWord (.calli f x))) s
    else match firstMisaligned groups with
      | some d => .trap (Trap.of 0x03 d) s
      | none =>
        let set (w : Warp) : Warp := w.setVP 110 (w.exec none) fun _ => w.nextClause
        match largest groups with
        | none => .done s
        | some g =>
          let rest := groups.filter (· ≠ g)
          if rest = [] then .moved ((s.putWarp s.cur (set w)).jump s.cur g.dest)
          else s.shedTo (.calli f x) w set b l m rest g.dest

/-- reti (R310): as `calli` divides, with L and M of the launch and no link. Where a target is misaligned and the checks of R48
fail, the spec does not say which trap is taken: the target's (DESIGN CHOICE, log 51). -/
def execReti (f : FmtC) (s : State) : Host.Outcome State Fault Refusal :=
  s.issue (.reti f) (fun _ => [.group 110 2]) fun s w => s.withBlock w fun b =>
    let groups := (w.divide (w.vp 110)).map fun g => { g with link := false }
    match firstMisaligned groups with
    | some d => .trap (Trap.of 0x03 d) s
    | none => match largest groups with
      | none => .done s
      | some g =>
        let rest := groups.filter (· ≠ g)
        if rest = [] then .moved (s.jump s.cur g.dest)
        else if !w.limits b b.lmax b.mmax then .trap (Trap.of 0x02 (firstWord (.reti f))) s
        else s.shedTo (.reti f) w id b b.lmax b.mmax rest g.dest

/-! ### join and exit (R58, R66, R311, R312) -/

/-- A warp whose last position has cleared ends (R67); its block's twins see it (R66, R303). -/
def State.lastGone (s : State) (id : Nat) (w : Warp) : State :=
  ((s.endWarp id true).twinGone id w).settleTwins w.block

/-- join (R58, R66, R311). A twin blocks once nothing that a record may restore, or that its snapshot is compared with, is
pending (R76). -/
def execJoin (f : FmtC) (x : XD) (s : State) : Host.Outcome State Fault Refusal :=
  s.issue (.join f x) (fun _ => []) fun s w => s.withBlock w fun b =>
    let l := x.l.toNat
    let m := x.m.toNat
    if !w.once none then .done s
    else if !w.limits b l m then .trap (Trap.of 0x02 (firstWord (.join f x))) s
    else if w.mask = BitVec.allOnes 128 then .done s
    else if w.twin ≠ 2 && !w.formed then s.gate s.cur w (.join f x) [.kGroup 0 m, .groupDst 0 w.va] fun s w =>
      .stay ((s.block s.cur (.join w.nextClause l m)).settleTwins w.block)
    else s.shedThen (.join f x) w id b l m [⟨w.nextClause, false, w.mask⟩] fun s1 => .moved (s1.lastGone s.cur w)

/-- exit (R312): a warp that ends publishes once the writes of its `mrq` are done (R300) and its loose bytes can go home
(R397). -/
def execExit (f : FmtC) (s : State) : Host.Outcome State Fault Refusal :=
  s.issue (.exit f) (fun _ => []) fun s w =>
    let gone := w.exec none
    if gone = 0 then .done s
    else if gone = w.mask then
      if s.mrqBusy s.cur w then .stay s
      else match s.retire s.cur w 2 with
        | .waits => .stay s
        | .fails t s1 => .trap t s1
        | .retires s1 w1 => .moved ((s1.endThreads s.cur gone).lastGone s.cur w1)
    else .moved (((s.endThreads s.cur gone).advance s.cur).settleTwins w.block)

/-! ### yield, acquire, trap, brk, nop (R313, R314) -/

/-- yield (R207, R313). -/
def execYield (f : FmtC) (s : State) : Host.Outcome State Fault Refusal :=
  s.issue (.yield f) (fun _ => []) fun s w =>
    if w.once none then .moved ((s.advance s.cur).yieldWarp s.cur) else .done s

/-- acquire (R38, R39, R313): granted at once when no older request waits and the growth fits; it blocks once there is room
for its record (R376). -/
def execAcquire (f : FmtC) (s : State) : Host.Outcome State Fault Refusal :=
  s.issue (.acquire f) (fun _ => []) fun s w =>
    if !w.once none || w.full then .done s
    else if s.growthFits w && !((s.acquirers w.core w.quarter).any fun p => p.2.elder w) then .moved (s.grant s.cur)
    else if !s.recordRoom s.cur 40 then .stay s
    else .stay (s.putWarp s.cur { w with phase := .acquiring, acqAt := some s.clock })

/-- R207: the yield of a clause with Y set that ends in another way than by a jump. -/
def State.yieldIf (s : State) (id : Nat) (y : Bool) : State := if y then s.yieldWarp id else s

/-- trap (R314): the software trap with its 12-bit code. -/
def execTrap (f : FmtC) (s : State) : Host.Outcome State Fault Refusal :=
  s.issue (.trap f) (fun _ => []) fun s w =>
    if w.once none then .moved ((s.takeTrap s.cur (Trap.of 0x12 (BitVec.ofNat 64 (f.off.toNat % 4096)))).yieldIf s.cur w.hdr.y)
    else .done s

/-- brk (R314). -/
def execBrk (f : FmtC) (s : State) : Host.Outcome State Fault Refusal :=
  s.issue (.brk f) (fun _ => []) fun s w => if w.once none then .trap (Trap.of 0x13 0) s else .done s

/-- nop (R313). -/
def execNop (f : FmtC) (s : State) : Host.Outcome State Fault Refusal :=
  s.issue (.nop f) (fun _ => []) fun s _ => .done s

end Sys2Proof.Machine
end

