-- ==== Sys2Proof/Machine/Clause.lean ====
section
/-! DEFINITION. The fetch and decode of a clause (R202 to R209, R346, R347). -/

namespace Sys2Proof.Machine

/-- The trap of a word that cannot be fetched (R346): the instruction-fetch fault, or an uncorrectable error (R385); a
walk that must wait for a plane is none (R397). -/
def fetchTrap (a : DWord) (f : Fail) : Trap :=
  { Trap.of (if f.cause = 0x15 ∨ f.cause = heldCause then f.cause else 0x16) a with fetch := true, entry := f.entry }

/-- What the decode of a clause finds. -/
inductive Decoded where
  /-- A trap at an instruction of the clause. -/
  | trap (t : Trap) (at_ : Nat)
  /-- A code word that cannot be reached now (R397). -/
  | held
  | ok (h : Header) (ws : List Word) (used : List Trans)

/-- R346, R385: a fetch fault of the header or of a word of the clause is taken at index 0. -/
def Decoded.ofFetch (t : Trap) : Decoded := if t.cause = heldCause then .held else .trap t 0

/-- R346: where a code word lies, or the fetch fault. -/
def State.fetchAt (s : State) (w : Warp) (a : DWord) : Except Trap Trans :=
  if a.extractLsb' 60 3 ≠ 0 then .error (fetchTrap a ⟨7, none⟩)
  else match s.xlate (s.agentOf w) a .fetch with
    | .error f => .error (fetchTrap a f)
    | .ok t => if s.runFailed t.key 4 || s.broken w.core t.key then .error (fetchTrap a ⟨0x15, none⟩) else .ok t

/-- The word at a translated address (R347: as its home holds it). -/
def State.codeWord (s : State) (t : Trans) : Word := BitVec.ofNat 32 (s.num t.key 4)

/-- The words of a clause after its header, or the fault of the first that cannot be fetched. -/
def State.fetchBody (s : State) (w : Warp) (a : DWord) : Nat → Except Trap (List Trans)
  | 0 => .ok []
  | n + 1 => match s.fetchAt w a with
    | .error t => .error t
    | .ok x => match s.fetchBody w (a + 4) n with
      | .error t => .error t
      | .ok l => .ok (x :: l)

/-- R208: the first control transfer that is not the last instruction, from an index on. -/
def misplacedFrom (h : Header) (ws : List Word) (ix : Nat) : Option Nat :=
  (List.range (h.n.toNat - 1)).find? fun i => ix ≤ i && isTransfer h.cls (h.instrWords ws i).1

/-- R204, 5: the lowest-numbered illegal instruction, from an index on. -/
def illegalFrom (h : Header) (ws : List Word) (ix : Nat) : Option Nat :=
  (List.range h.n.toNat).find? fun i =>
    ix ≤ i && (match decode h.cls (h.instrWords ws i).1 (h.instrWords ws i).2 with
      | .ok _ => false
      | .error _ => true)

/-- R204: the checks of a clause, in their order of priority; instructions before the resume index are not checked
again. A MAT clause with a guard is an illegal clause (R212, R204; log 46). -/
def State.decodeClause (s : State) (w : Warp) : Decoded :=
  if w.pc.extractLsb' 0 2 ≠ 0 then .trap (Trap.of 0x03 w.pc) 0
  else match s.fetchAt w w.pc with
    | .error t => .ofFetch t
    | .ok t0 =>
      if s.planeHeld t0.key || s.leafHeld t0 false then .held
      else
        let hw := s.codeWord t0
        match Header.parse hw with
        | none => .trap (Trap.of 0x03 (hw.zeroExtend 64)) 0
        | some h =>
          if h.cls = .sys && !w.super then .trap (Trap.of 0x04 (hw.zeroExtend 64)) 0
          else match s.fetchBody w (w.pc + 4) h.body with
            | .error t => .ofFetch t
            | .ok l =>
              if l.any fun t => s.planeHeld t.key || s.leafHeld t false then .held
              else
                let ws := l.map s.codeWord
                match misplacedFrom h ws w.ix with
                | some i => .trap (Trap.of 0x03 (hw.zeroExtend 64)) i
                | none => match illegalFrom h ws w.ix with
                  | some i => .trap (Trap.of 0x01 ((h.instrWords ws i).1.zeroExtend 64)) i
                  | none => .ok h ws (t0 :: l)

/-- R66: the threads of a formed warp of a paired launch arrive at the clause it starts. -/
def State.arrive (s : State) (w : Warp) : State :=
  match s.blocks.find w.block with
  | none => s
  | some b =>
    if w.formed && b.paired then
      let here := ((positions w.mask).map fun t => (w.recSlot b t, w.pc)).filter fun p => !b.arrivals.contains p
      (s.mapBlock w.block fun b => { b with arrivals := b.arrivals ++ here }).settleTwins w.block
    else s

/-- CLAUSE_DECODE (R204): the warp that moves fetches and decodes its clause whole; a trap is taken before any
instruction of it issues. A yield that held the warp has ended (R207). A warp that resumes after the last instruction goes on at
the next clause. -/
def execClauseDecode (s : State) : Host.Outcome State Fault Refusal :=
  match s.warp s.cur with
  | none => .fault .noIssuingWarp
  | some w =>
    if !s.mayIssue w || w.fetched then .next s
    else .next (match s.decodeClause w with
      | .held => s
      | .trap t i => (s.putWarp s.cur { w with ix := i }).takeAside s.cur w t
      | .ok h ws used =>
        let w1 := { w with fetched := true, hdr := h, words := ws, yieldAt := none, yieldFor := [] }
        let s1 := ((used.foldl (fun s t => s.touch t false) s).putWarp s.cur w1).arrive w
        if h.n.toNat ≤ w.ix then s1.jump s.cur w1.nextClause else s1)

end Sys2Proof.Machine
end

