-- ==== Sys2Proof/Machine/System.lean ====
section
/-! DEFINITION. The SYS class (R315 to R322): privileged registers (R330 to R333), `eret`, invalidation, cache control,
`qdrain` and `halt`. -/

namespace Sys2Proof.Machine

/-- A SYS instruction (R315): once for the warp under the clause guard. -/
def State.sys (s : State) (i : Instr) (refs : List Ref) (eff : State → Warp → Res) : Host.Outcome State Fault Refusal :=
  s.issue i (fun _ => refs) fun s w => if w.once none then eff s w else .done s

/-! ### Privileged registers (Table 15.1) -/

/-- Table 15.1: a privileged register as a warp reads it; a number that is not assigned reads as zero. -/
def State.priv (s : State) (w : Warp) (n : Nat) : DWord :=
  let c := s.ctxOf w.cmp w.ctx
  let p := s.comp w.cmp
  match n with
  | 0x000 => match c with | some c => c.xvec | none => 0
  | 0x001 => w.xpc
  | 0x002 => w.xcause
  | 0x003 => w.xval
  | 0x004 => w.xstat
  | 0x005 => w.xscr0
  | 0x006 => w.xscr1
  | 0x007 => match c with | some c => c.xdeleg | none => 0
  | 0x008 => BitVec.ofNat 64 (ctxid w.cmp w.ctx)
  | 0x009 => match c with | some c => c.ptroot | none => 0
  | 0x00A => p.drc
  | 0x00B => match p.qfault with | some q => q.1 | none => 0
  | 0x00C => match p.qevent with | some q => q.1 | none => 0
  | 0x00D => p.coreGroups.zeroExtend 64
  | 0x00E => p.stackGroups.zeroExtend 64
  | 0x010 => BitVec.ofNat 64 w.xcore
  | _ => 0

/-- rdsp (R316). -/
def execRdsp (f : FmtS) (s : State) : Host.Outcome State Fault Refusal :=
  s.sys (.rdsp f) [.kDst f.x.toNat] fun s w => .done (s.putWarp s.cur (w.setK f.x.toNat (s.priv w f.imm.toNat)))

/-- R332: a per-context register written: for the other warps the old values hold in the clock of the write. -/
def State.writeCtx (s : State) (w : Warp) (f : Ctx → Ctx) : State :=
  s.mapCtx w.cmp w.ctx fun c =>
    let same := match c.wrote with | some p => p.2 == s.clock | none => false
    { f c with old := if same then c.old else (c.xvec, c.xdeleg), wrote := some (s.cur, s.clock) }

/-- wrsp (R316, R332): a read-only or unassigned number ignores the write. -/
def execWrsp (f : FmtS) (s : State) : Host.Outcome State Fault Refusal :=
  s.sys (.wrsp f) [.k f.y.toNat] fun s w =>
    let x := w.kr f.y.toNat
    .done (match f.imm.toNat with
      | 0x000 => s.writeCtx w fun c => { c with xvec := x }
      | 0x005 => s.putWarp s.cur { w with xscr0 := x }
      | 0x006 => s.putWarp s.cur { w with xscr1 := x }
      | 0x00A => s.mapComp w.cmp fun c => { c with drc := x }
      | _ => s)

/-- R331: the replay records of all chases of a warp discarded (R376). -/
def State.dropChase (s : State) (id : Nat) : State := s.discardChases id (s.chasesOf id)

/-- wrsp of `xpc` (R331): index 0 only; bits [1:0] that are not zero make it ignored (Table 15.2). -/
def execWrspXpc (f : FmtS) (s : State) : Host.Outcome State Fault Refusal :=
  s.sys (.wrspXpc f) [.k f.y.toNat] fun s w =>
    let x := w.kr f.y.toNat
    if x.extractLsb' 60 4 ≠ 0 then .trap (Trap.of 0x02 (firstWord (.wrspXpc f))) s
    else if x.extractLsb' 0 2 ≠ 0 then .done s
    else .done ((s.dropChase s.cur).mapWarp s.cur fun w =>
      { w with xpc := x, slat := [], xstat := w.xstat &&& 0xFFFFFFFFFFFFF0EF, xarm := false, xback := none })

/-- The writable bits of `xdeleg` (R337). -/
def xdelegMask : DWord := 0x6180C0

/-- wrsp of `xdeleg` (R337): only the delegable bits. -/
def execWrspXdeleg (f : FmtS) (s : State) : Host.Outcome State Fault Refusal :=
  s.sys (.wrspXdeleg f) [.k f.y.toNat] fun s w =>
    .done (s.writeCtx w fun c => { c with xdeleg := w.kr f.y.toNat &&& xdelegMask })

/-- eret (R207, R317, R338): with no interrupted state, an illegal instruction. -/
def execEret (f : FmtS) (s : State) : Host.Outcome State Fault Refusal :=
  s.sys (.eret f) [] fun s w =>
    if w.xstat.getLsbD 0 then .moved ((s.returnTrap s.cur).yieldIf s.cur w.hdr.y) else .trap (Trap.of 0x01 (firstWord (.eret f))) s

/-! ### Contexts named by a register (R318, R322) -/

/-- The context that a register names in the issuing compartment. -/
def ctxOperand (w : Warp) (x : DWord) : Option Nat :=
  if x.toNat / 65536 = w.cmp then some (x.toNat % 65536) else none

/-- tlbi (R318, R371): a leaf with G set stays under modes 0 and 1. Mode 2 names a k register and does not read it: the
register is held to the allotment as an operand, whatever the guard is (R315, log 30). -/
def execTlbi (f : FmtS) (s : State) : Host.Outcome State Fault Refusal :=
  let mode := f.imm.toNat
  s.issue (.tlbi f) (fun w => if mode = 2 then (if (Ref.k f.x.toNat).ok w then [] else [.never])
      else .k f.x.toNat :: if mode = 0 then [.k f.y.toNat] else []) fun s w =>
    if !w.once none then .done s
    else if mode = 2 then .done { s with tlb := s.tlb.filter fun e => e.cmp ≠ w.cmp }
    else match ctxOperand w (w.kr f.x.toNat) with
      | none => .trap (Trap.of 0x02 (firstWord (.tlbi f))) s
      | some ctx =>
        let va := (w.kr f.y.toNat).toNat
        let hit (e : TlbEntry) : Bool := e.cmp == w.cmp && e.ctx == ctx && !e.leaf.getLsbD 10
          && (mode == 1 || e.page == va / 2 ^ pageBits e.level)
        .done { s with tlb := s.tlb.filter fun e => !hit e }

/-! ### cfl (R319) -/

/-- R277, R319: the lines of a core's L1 that hold dirty bytes, loose or private. -/
def State.dirtyL1 (s : State) (core : Nat) : List Nat :=
  ((s.loose (ofCore core) 0 (2 ^ 96)).map (fun (p : LooseByte) => p.key / 128)
    ++ (s.privDirty core).map (fun (p : PrivByte) => p.key / 128)).eraseDups

/-- R277, R319: the loose and private lines of a core removed from its L1. -/
def State.unfillWeak (s : State) (core : Nat) : State :=
  { s with fills := s.fills.filter fun f => !(f.core == core && f.weak) }

/-- The private bytes that a core's L1 holds dropped, those whose address does not translate with them. -/
def State.dropPrivOf (s : State) (core : Nat) : State :=
  { s with blocks := s.blocks.map fun p => (p.1, p.2.map fun b =>
      { b with priv := b.priv.filter fun q => (s.privWarp core p.1 b q.1).isNone }) }

/-- R319, level 0: the loose and private lines of the issuing core's L1, as `cwb` acts on them (R277): written back, which keeps
the lines, or discarded, or both; a write-back over a failed link fails (R398). -/
def State.cflL1 (s : State) (w : Warp) (kind : Nat) : State :=
  if kind = 1 then ((s.dropLoose (ofCore w.core) 0 (2 ^ 96)).dropPrivOf w.core).unfillWeak w.core
  else
    let s1 := (s.sendHome (ofCore w.core) 0 (2 ^ 96)).writePrivBytes w.core (s.privDirty w.core)
    if kind = 0 then (s.dirtyL1 w.core).foldl (fun t l => t.keepLine w l) s1 else s1.unfillWeak w.core

/-- The fabric physical addresses of a stack key: its plain form and its interleaved form (R118, R119). -/
def State.fpaOf (s : State) (k : Nat) : Nat × Nat :=
  let base := s.moduleOf (keyTag k) * 2 ^ 52
  let off := keyOffset k
  let y := off / 2 ^ 10 * 2 ^ 15 + keyStack k * 2 ^ 10 + off % 2 ^ 10
  (base + keyStack k * 2 ^ 46 + off, base + 2 ^ 51 + y / 2 ^ 37 * 2 ^ 46 + y % 2 ^ 37)

/-- R319: a line of this part, of a stack that the compartment owns, with a byte in a fabric physical range. The rule says every
line within the range, and not what becomes of a line that is partly inside: it counts (DESIGN CHOICE, log 61). -/
def State.inRange (s : State) (cmp lo n line : Nat) : Bool :=
  let k := line * 128
  let hit (a : Nat) : Bool := 0 < n && lo < a + 128 && a < lo + n
  let f := s.fpaOf k
  isLocal k && s.owns cmp k && (hit f.1 || hit f.2)

/-- R152, R319: the line of a queue's control block is pinned. -/
def State.pinned (s : State) (line : Nat) : Bool := s.homes.all.any fun p => p.2.pin && p.1 / 128 == line

/-- The lines of the L2 that hold what their stacks do not. -/
def State.dirtyL2 (s : State) : List Nat :=
  ((s.stale.all.map fun (p : Nat × Byte) => p.1 / 128) ++ s.staleSide.all.map fun (p : Nat × Byte) => p.1 / 8).eraseDups

/-- R319, level 1. -/
def State.cflL2 (s : State) (cmp lo n kind : Nat) : State :=
  (s.dirtyL2.filter (s.inRange cmp lo n)).foldl (fun s l =>
    if kind = 1 && !s.pinned l then s.l2Drop (l * 128) (l * 128 + 128) else s.l2Clean (l * 128) (l * 128 + 128)) s

/-- cfl (R319): the write-backs are acknowledged when it completes; it blocks where a home cannot be told or reached for a plane
(R315, R397). -/
def execCfl (f : FmtS) (s : State) : Host.Outcome State Fault Refusal :=
  let kind := f.imm.toNat % 4
  let level := f.imm.getLsbD 2
  s.sys (.cfl f) (if level then [.k f.x.toNat, .k f.y.toNat] else []) fun s w =>
    if level then .done (s.cflL2 w.cmp (w.kr f.x.toNat).toNat (w.kr f.y.toNat).toNat kind)
    else if kind ≠ 1 && (s.backHeld (ofCore w.core) || s.privStuck w.core || (s.privDirty w.core).any fun x => s.planeHeld x.key) then
      .stay (s.block s.cur .plane)
    else .done (s.cflL1 w kind)

/-! ### qdrain (R320) -/

/-- The operation of a `qdrain` that waits at its home. -/
def Warp.drainOp (w : Warp) (s : State) (id : Nat) (addr : DWord) (mode : Nat) : QOp :=
  { partEnqueue (.warp id w.slotNo (s.gen w.slotNo)) w.cmp w.ctx addr [] with
    enq := false, threads := [], cluster := (s.agentOf w).cluster, drain := some mode }

/-- qdrain (R320): it acts at the home in its turn (R152, R158), once no slot is reserved or taken; the waiters are then served
by QUEUE_WAITER_SERVE, each with the queue-corrupt trap after mode 1. A home beyond a failed link is not written (R398); one on a
plane that carries nothing blocks the warp (R315, R397). -/
def execQdrain (f : FmtS) (s : State) : Host.Outcome State Fault Refusal :=
  s.sys (.qdrain f) [.k f.x.toNat] fun s w =>
    let a := w.kr f.x.toNat
    s.reachObject w a 64 .write (.stay (s.block s.cur .plane)) fun s t =>
      if s.broken w.core t.key then .done (s.storeFail s.cur w none a)
      else
        let s1 := s.touch t true
        if s1.homeIdle t.key && (s1.home t.key).busy == [] then .done (s1.drainAt t.key f.imm.toNat)
        else .stay ((s1.tick1.qline t.key s1.nextId (w.drainOp s s.cur a f.imm.toNat)).block s.cur (.queue s1.nextId))

/-! ### halt (R322) -/

/-- halt (R322): the issuing warp killed, or a context fenced (R386). -/
def execHalt (f : FmtS) (s : State) : Host.Outcome State Fault Refusal :=
  s.sys (.halt f) (if f.imm = 1 then [.k f.x.toNat] else []) fun s w =>
    if f.imm = 0 then .moved (((s.killOnly s.cur).twinGone s.cur w).settleTwins w.block)
    else match ctxOperand w (w.kr f.x.toNat) with
      | none => .trap (Trap.of 0x02 (firstWord (.halt f))) s
      | some ctx => if ctx = w.ctx then .moved (s.fence w.cmp ctx) else .done (s.fence w.cmp ctx)

end Sys2Proof.Machine
end

