-- ==== Sys2Proof/Machine/Tile.lean ====
section
/-! DEFINITION. Plane tiles (R187, R190) and the arithmetic of the matrix engine (R113, R114, R297 to R304). -/

namespace Sys2Proof.Machine

/-! ### Types (R96) -/

/-- R96: the scalar type code of a matrix type code. -/
def matType (c : Nat) : Nat :=
  match c with
  | 0 => 9
  | 1 => 7
  | 2 => 8
  | 3 => 5
  | 4 => 6
  | 5 => 10
  | 6 => 3
  | _ => 4

/-- R96: the width of a matrix type. -/
def matWidth (c : Nat) : Nat := if c ≥ 6 then 16 else mxWidth (matType c)

/-- R96: whether the type carries scales. -/
def matScaled (c : Nat) : Bool := c < 6

/-- R97, R98: the elements that a v register holds of a thread. -/
def matEpl (c : Nat) : Nat := if c ≥ 6 then 2 else mxEpl (matType c)

/-- The registers of a group of 2,048 elements (Table 7.5). -/
def groupRegs (c : Nat) : Nat := if c = 0 then 2 else if c ≥ 6 then 8 else 4

/-- The value of an element code. -/
def matValue (c code : Nat) : FVal := if c ≥ 6 then (fmtOf (matType c)).decode code else mxValue (matType c) code

/-! ### Plane tiles (R187) -/

/-- The lines of a plane tile. -/
def tileLines (c : Nat) : Nat := 2 * matWidth c

/-- A byte of a tile as the engine reads it; of a line with an uncorrectable error no rule gives it (a free value,
log 2). -/
def State.tileByte (s : State) (a : Nat) : Byte := if s.byteFailed a then Config.failedByte s.fresh a else s.byte a

/-- Element (m, k) of the tile at a key, at index 64m + k. -/
def State.planeCodes (s : State) (key c : Nat) : List Nat :=
  (List.range 2048).map fun i =>
    let m := i / 64
    let k := i % 64
    (List.range (matWidth c)).foldr (fun j n => n * 2 + (s.tileByte (key + 256 * j + 8 * m + k / 8)).toNat / 2 ^ (k % 8) % 2) 0

/-- The scale of row m, K block q, at index 2m + q. -/
def State.planeScales (s : State) (key : Nat) : List Nat :=
  (List.range 64).map fun i =>
    let a := key + 128 * (i / 8)
    (if s.sideFailed a (i % 8) then Config.failedByte (s.fresh + 1) (a + i % 8) else s.sideByte a (i % 8)).toNat

/-- The bytes of the tile that holds element codes. -/
def planeBytes (c : Nat) (codes : List Nat) : List Byte :=
  (List.range (256 * matWidth c)).map fun b =>
    let j := b / 256
    let m := b % 256 / 8
    let k := b % 8 * 8
    BitVec.ofNat 8 ((List.range 8).foldr (fun i n => n * 2 + codes.getD (64 * m + k + i) 0 / 2 ^ j % 2) 0)

/-- The sideband bytes of a tile's lines: one of the 64 scales each (R187); those of the lines beyond them are written
as zero (R99, log 33). -/
def planeSide (scales : List Nat) (line : Nat) : List (Nat × Byte) :=
  (List.range 8).map fun b => (b, BitVec.ofNat 8 (scales.getD (8 * line + b) 0))

/-! ### Register groups (R190, Table 7.5) -/

/-- Group element i of the group at register r. -/
def Warp.groupCode (w : Warp) (c r i : Nat) : Nat :=
  let per := 128 * matEpl c
  let j := i % per
  slotOf (matWidth c) (w.vr (r + i / per) (j / matEpl c)) (j % matEpl c)

/-- The codes of a group. -/
def Warp.groupCodes (w : Warp) (c r : Nat) : List Nat := (List.range 2048).map (w.groupCode c r)

/-- R190: the scales of a group: block 2m + q. -/
def Warp.groupScales (w : Warp) (c r : Nat) : List Nat :=
  let per := 128 * matEpl c
  (List.range 64).map fun i => (w.er (r + i * 32 / per) (i % (per / 32))).toNat

/-! ### Sums (R113, R114) -/

/-- The exact sum of finite values: a signed integer and its exponent. -/
def exactSum (l : List (Bool × Nat × Int)) : Int × Int :=
  let e := l.foldl (fun x p => min x p.2.2) 0
  (l.foldl (fun acc p => acc + (if p.1 then -1 else 1) * (p.2.1 * 2 ^ (p.2.2 - e).toNat : Nat)) 0, e)

/-- What a block of 32 products comes to. -/
inductive BlockSum where
  | nan (flags : FFlags)
  | inf (neg : Bool)
  | fin (v : Int) (e : Int)
  deriving DecidableEq, Repr

/-- R113, R114: the products of a block summed exactly and scaled. -/
def blockSum (a b : List FVal) (sa sb : Nat) : BlockSum :=
  if sa = 0xFF || sb = 0xFF || (a ++ b).any FVal.isNan then .nan 0
  else
    let ps := (List.range a.length).map fun i => fMul (a.getD i (.fin false 0 0)) (b.getD i (.fin false 0 0))
    let infs := ps.filterMap fun p => match p with | .inf n _ => some n | _ => none
    if ps.any fun p => match p with | .nan _ => true | _ => false then .nan fInvalid
    else match infs with
      | n :: r => if r.all (· == n) then .inf n else .nan fInvalid
      | [] =>
        let x := exactSum (ps.filterMap fun p => match p with | .fin n m e _ => some (n, m, e) | _ => none)
        .fin x.1 (x.2 + ((sa : Int) + sb - 254))

/-- R113, R114: a block added into an accumulator element. -/
def accumulate (acc : Word) (s : BlockSum) : Word × FFlags :=
  match s with
  | .nan fl => (0x7FC00000, fl)
  | .inf n => fOut 0 (fAdd 0 (fval acc) (.inf n))
  | .fin v e => if v = 0 then (acc, 0) else fOut 0 (fAdd 0 (fval acc) (.fin (v < 0) v.natAbs e))

/-- R297: one output element: its two blocks in order. -/
def mmaElement (ca cb : Nat) (a sa b sb : List Nat) (acc : Word) (m n : Nat) : Word × FFlags :=
  let blk (c : Nat) (codes : List Nat) (row q : Nat) : List FVal :=
    ((codes.drop (64 * row + 32 * q)).take 32).map (matValue c)
  let scale (c : Nat) (l : List Nat) (row q : Nat) : Nat := if matScaled c then l.getD (2 * row + q) 0 else 127
  (List.range 2).foldl (fun r q =>
    let x := accumulate r.1 (blockSum (blk ca a m q) (blk cb b n q) (scale ca sa m q) (scale cb sb n q))
    (x.1, r.2 ||| x.2)) (acc, 0)

/-- A tile with every element replaced, and the flags of all (R111). -/
def Warp.mapTile (w : Warp) (t : Nat) (f : Nat → Word × FFlags) : Warp :=
  (w.setAcc t fun i => (f i).1).raise ((List.range 1024).foldl (fun fl i => fl ||| (f i).2) 0)

/-- R302: the guided value of one element. -/
def guided (c u g : Word) : Word × FFlags :=
  let fc := fval c
  let fu := fval u
  let fg := fval g
  if fc.isNan || fu.isNan || fg.isNan then (0x7FC00000, nanFlags [fc, fu, fg])
  else match fAdd 0 fc fu.negate with
    | .nan fl => (0x7FC00000, fl)
    | .inf n _ => fOut 0 (fFma 0 fg (.inf n) fu)
    | .fin n m e _ => fOut 0 (fFma 0 fg (.fin n m e) fu)

/-- A product rounded in a mode, with the word of SR (R105, R304). -/
def tileScaled (rnd : Nat) (word : Word) (x g : Word) : Word × FFlags :=
  match fMul (fval x) (fval g) with
  | .fin n m e st =>
    let r := fp32.deliver rnd word false n m e st
    (BitVec.ofNat 32 r.1, r.2)
  | r => fOut 0 r

/-- R103: the word of value `i` in order, from a private copy of a generator: one step for each 16 values. -/
def rowWord (s0 : Word) (i : Nat) : Word := srWord (srSteps (i / 16 + 1) s0) (i % 16)

/-- R103: the word of value `i` in row-major order, from the states that the steps of its instruction left, one for each 16
values. -/
def groupWord (words : List Word) (i : Nat) : Word := srWord (words.getD (i / 16) 0) (i % 16)

/-- R299: the 32 blocks of a tile requantised: scale, codes and flags of each row. -/
def Warp.requant (w : Warp) (t ty rnd : Nat) (words : List Word) : List (Nat × List Nat × FFlags) :=
  (List.range 32).map fun m =>
    requantise (matType ty) rnd (fun i => groupWord words (32 * m + i)) ((List.range 32).map fun n => fval (w.ar t (32 * m + n)))

end Sys2Proof.Machine
end

