-- ==== Sys2Proof/Machine/Matrix.lean ====
section
/-! DEFINITION. The MAT class (R293 to R304): issue with its traps (R296), the engine's queue (R188), the end of each
instruction and the rendezvous of twins (R193, R302). -/

namespace Sys2Proof.Machine

/-! ### Issue -/

/-- The engine of a quarter. -/
def State.engine (s : State) (q : Nat) : Engine := (s.engines.find q).getD ⟨[], none, [], []⟩

/-- The instructions that an engine holds (R188); an `mgd` at its rendezvous is not among them (R193). -/
def Engine.held (e : Engine) : Nat := e.queue.length + e.run.toList.length

/-- A tile or line address at a k register, and what it needs: its space, lines and MX demand. -/
structure Place where
  sp : Space
  a : DWord
  lines : Nat
  need : Need
  deriving DecidableEq, Repr

/-- R296, 4: the lines of an address in order. -/
def State.placeLines (s : State) (w : Warp) (p : Place) : Except Trap (List Acc) :=
  s.placeAll w p.sp 128 128 true p.need (p.sp == .either)
    ((List.range p.lines).map fun i => (i, p.a + BitVec.ofNat 64 (128 * i)))

/-- R296, 3 and 4: every alignment, then every address, in the order of the operands. -/
def State.placeTiles (s : State) (w : Warp) (ps : List Place) : Except Trap (List (List Acc)) :=
  match ps.find? fun p => p.a.toNat % 128 ≠ 0 with
  | some p => .error { Trap.of 0x05 p.a with write := decide (p.need = .write) }
  | none => ps.foldr (fun p acc => match s.placeLines w p, acc with
      | .error t, _ => .error t
      | .ok _, .error t => .error t
      | .ok l, .ok r => .ok (l :: r)) (.ok [])

/-- The key of the first line of a placed tile. -/
def tileKey (l : List Acc) : Nat := match piecesOf l with | p :: _ => p.t.key | [] => 0

/-- A MAT instruction (R293, R296): every position active, its addresses checked, a place in the engine, and the writes
of an earlier `mrq` done where it accesses memory (R191, R300). -/
def State.mat (s : State) (i : Instr) (refs : Warp → List Ref) (places : Warp → List Place)
    (eff : State → Warp → List (List Acc) → Res) : Host.Outcome State Fault Refusal :=
  s.issue i refs fun s w =>
    if w.mask ≠ BitVec.allOnes 128 then .trap (Trap.of 0x08 (firstWord i)) s
    else match s.placeTiles w (places w) with
      | .error t => .trap t s
      | .ok l =>
        if 8 ≤ (s.engine w.quarterNo).held || s.heldUp (((places w).zip l).any fun p => p.1.need = .write) l.flatten || (l ≠ [] && s.mrqBusy s.cur w) then .stay s
        else eff s w l

/-- An instruction handed to the engine of its warp's quarter. -/
def State.hand (s : State) (id : Nat) (w : Warp) (k : MatKind) : State :=
  let e := s.engine w.quarterNo
  { s with engines := s.engines.put w.quarterNo { e with queue := e.queue ++ [⟨id, w.slotNo, s.gen w.slotNo, k⟩] } }

/-- The references of a register group with its scale registers (R190). -/
def groupRefs (r n : Nat) (scaled : Bool) : List Ref :=
  .group r n :: if scaled then (List.range n).map fun i => .e (r + i) else []

/-- The references of a register group written with its scale registers. -/
def groupDstRefs (r n : Nat) : List Ref := .groupDst r n :: (List.range n).map fun i => .eDst (r + i)

/-- A scratchpad tile at a k register. -/
def padPlace (a : DWord) (c : Nat) (need : Need) : Place := ⟨.pad, a, tileLines c, need⟩

/-- R63, R193: an `mma` uses the B that an earlier one of its pair has fetched: that of the other twin, within 64 clocks, with
the same address and type. -/
def Shared.serves (x : Shared) (mine : Shared) : Bool :=
  x.block == mine.block && x.widx == mine.widx && x.twin != mine.twin && x.baddr == mine.baddr && x.ty == mine.ty
    && mine.at_ ≤ x.at_ + 64

/-- R63, R193: the B tiles that an engine keeps, for 64 clocks each: the second `mma` of a pair uses the oldest that serves
it; every other one fetches its own, which is kept for its twin. -/
def State.shareB (s : State) (w : Warp) (b : DWord) (c : Nat) : State :=
  if w.twin = 2 || w.formed then s
  else
    let e := s.engine w.quarterNo
    let mine : Shared := ⟨w.block, w.widx, w.twin, b.toNat, c, s.clock⟩
    let kept := e.shared.filter fun x => s.clock ≤ x.at_ + 64
    let next := match kept.find? fun x => x.serves mine with
      | some x => kept.erase x
      | none => kept ++ [mine]
    { s with engines := s.engines.put w.quarterNo { e with shared := next } }

/-- mma (R189, R297): the operands are read at issue (R191). -/
def execMma (f : FmtQ) (x : Option XQ) (s : State) : Host.Outcome State Fault Refusal :=
  let ta := f.type.toNat
  let tb := match x with | some x => x.btype.toNat | none => f.type.toNat
  let share := match x with | some x => x.share | none => false
  let a := f.a.toNat
  s.mat (.mma f x)
    (fun _ => (if f.ar then groupRefs a (groupRegs ta) (matScaled ta) else [.k a])
      ++ [.k f.b.toNat, if f.z then .tileDst f.t.toNat else .tile f.t.toNat])
    (fun w => (if f.ar then [] else [padPlace (w.kr a) ta .read]) ++ [padPlace (w.kr f.b.toNat) tb .read])
    fun s w l =>
      let ka := tileKey (l.headD [])
      let kb := tileKey (l.getLastD [])
      let codes := if f.ar then w.groupCodes ta a else s.planeCodes ka ta
      let scales := if f.ar then w.groupScales ta a else s.planeScales ka
      let s1 := if share then s.shareB w (w.kr f.b.toNat) tb else s
      .done { s1.hand s.cur w (.mma f.t.toNat f.z share ta tb (w.kr f.b.toNat).toNat codes scales
        (s.planeCodes kb tb) (s.planeScales kb)) with fresh := s.fresh + 2 }

/-- accz (R298). -/
def execAccz (f : FmtQ) (s : State) : Host.Outcome State Fault Refusal :=
  s.mat (.accz f) (fun _ => [.tileDst f.t.toNat]) (fun _ => []) fun s w _ => .done (s.hand s.cur w (.accz f.t.toNat))

/-- accld (R298): the eight registers are read at issue. -/
def execAccld (f : FmtQ) (s : State) : Host.Outcome State Fault Refusal :=
  s.mat (.accld f) (fun _ => [.group f.a.toNat 8, .tileDst f.t.toNat]) (fun _ => []) fun s w _ =>
    .done (s.hand s.cur w (.accld f.t.toNat ((List.range 1024).map fun i => w.vr (f.a.toNat + i / 128) (i % 128))))

/-- The pending bits of `n` v registers from `r`. -/
def groupPend (r n : Nat) (scales : Bool) : List RegWrite :=
  ((List.range n).map fun i => .v (r + i) []) ++ if scales then (List.range n).map fun i => .e (r + i) [] else []

/-- accst (R298). -/
def execAccst (f : FmtQ) (s : State) : Host.Outcome State Fault Refusal :=
  s.mat (.accst f) (fun _ => [.groupDst f.a.toNat 8, .tile f.t.toNat]) (fun _ => []) fun s w _ =>
    .done ((s.putWarp s.cur (w.pend (groupPend f.a.toNat 8 false))).hand s.cur w (.accst f.t.toNat f.a.toNat))

/-- The registers of the group that `mrq` writes (R299). -/
def mrqRegs (c : Nat) : Nat := if c = 0 then 1 else 2

/-- The lines that `mrq` writes (R299). -/
def mrqLines (c : Nat) : Nat := (1024 + mxLine (matType c) - 1) / mxLine (matType c)

/-- Accesses in global memory. -/
def globalAcc (l : List Acc) : List Acc := l.filter fun a => a.pieces.any fun p => !isPad p.t.key

/-- mrq (R299, R300). -/
def execMrq (f : FmtQ) (x : Option XQ) (s : State) : Host.Outcome State Fault Refusal :=
  let c := f.type.toNat
  let rnd := match x with | some x => x.rnd.toNat | none => 0
  let r := f.a.toNat
  s.mat (.mrq f x)
    (fun _ => (if f.ar then groupDstRefs r (mrqRegs c) else [.k f.b.toNat]) ++ [.tile f.t.toNat])
    (fun w => if f.ar then [] else [⟨.either, w.kr f.b.toNat, mrqLines c, .write⟩])
    fun s w l =>
      if f.ar then
        .done ((s.putWarp s.cur (w.pend (groupPend r (mrqRegs c) true))).hand s.cur w (.mrqReg f.t.toNat r c rnd))
      else
        let acc := l.flatten
        let out := (globalAcc acc).length
        if !w.outRoom out then .stay s
        else
          let s1 := (s.touchStores w.core acc).homeward w false acc
          let keys := acc.flatMap fun a => a.pieces.map fun p => (p.t.key, p.t.ms, a.addr)
          .done ((s1.mapWarp s.cur fun w => { w with out := w.out + out }).hand s.cur w (.mrqMem f.t.toNat c rnd keys))

/-- mgd (R302): a rendezvous of twins; the warp blocks until the pair completes. -/
def execMgd (f : FmtQ) (x : XQ) (s : State) : Host.Outcome State Fault Refusal :=
  let k := x.k.toNat
  s.mat (.mgd f x) (fun w => [.tile f.t.toNat, if w.twin = 1 then .kDst k else .k k]) (fun _ => []) fun s w _ =>
    match s.twinOf s.cur w with
    | none => .trap (Trap.of 0x0E 0) s
    | some p =>
      if p.2.phase == .ended then .trap (Trap.of 0x0E 0) s
      else .stay (({ w with mgdN := w.mgdN + 1, wait := some .mgd } |> s.putWarp s.cur).hand s.cur w
        (.mgd f.t.toNat (w.kw k)))

/-- macc (R304). -/
def execMacc (f : FmtQ) (x : XQ) (s : State) : Host.Outcome State Fault Refusal :=
  s.mat (.macc f x) (fun _ => [.tile f.t.toNat, .tile x.t2.toNat]) (fun _ => []) fun s w _ =>
    .done (s.hand s.cur w (.macc f.t.toNat x.t2.toNat))

/-- mscl (R304): the factor is read at issue. -/
def execMscl (f : FmtQ) (x : XQ) (s : State) : Host.Outcome State Fault Refusal :=
  s.mat (.mscl f x) (fun _ => [.tile f.t.toNat, .k x.k.toNat]) (fun _ => []) fun s w _ =>
    .done (s.hand s.cur w (.mscl f.t.toNat (w.kw x.k.toNat) x.rnd.toNat))

/-- A tile's lines written whole at a scratchpad key, each with its scales (R187, R301): a failure of a line clears
(R385). -/
def State.writeTile (s : State) (key c : Nat) (codes scales : List Nat) : State :=
  let s1 := s.wrRaw key (planeBytes c codes)
  (List.range (tileLines c)).foldl (fun s i => (s.wrSide (key + 128 * i) (planeSide scales i)).clearFailed (key + 128 * i)) s1

/-- mplane (R301): its writes take their place at issue (R300). -/
def execMplane (f : FmtQ) (s : State) : Host.Outcome State Fault Refusal :=
  let c := f.type.toNat
  let r := f.a.toNat
  s.mat (.mplane f) (fun _ => groupRefs r (groupRegs c) (matScaled c) ++ [.k f.b.toNat])
    (fun w => [padPlace (w.kr f.b.toNat) c .write]) fun s w l =>
      .done (s.writeTile (tileKey (l.headD [])) c (w.groupCodes c r) (if matScaled c then w.groupScales c r else []))

/-! ### The engine -/

/-- The engine runs an instruction of a warp. -/
def Engine.runs (e : Engine) (id : Nat) : Bool := match e.run with | some o => o.warp == id | none => false

/-- Table 11.2, R103: the clocks in which the engine takes its 64 steps of the generator, for an instruction that rounds
stochastically. -/
def MatKind.stepClocks : MatKind → Nat
  | .mrqReg _ _ _ rnd => if rnd = 4 then 16 else 0
  | .mrqMem _ _ rnd _ => if rnd = 4 then 16 else 0
  | .mscl _ _ rnd => if rnd = 4 then 8 else 0
  | _ => 0

/-- R103, R104: the steps that the running instruction takes of the quarter's generator begin. -/
def State.startSteps (s : State) (q : Nat) (k : MatKind) : State :=
  let n := k.stepClocks
  if n = 0 then s else { s with draws := s.draws ++ [⟨q, 2, 0, 0, n, 64 / n, []⟩] }

/-- R103: a step record of the engine of a quarter. -/
def Draw.ofEngine (d : Draw) (q : Nat) : Bool := d.unit == 2 && d.quarter == q

/-- R103: the states that the steps of the running instruction have left, once it has taken them all; none before. -/
def State.stepsTaken (s : State) (q : Nat) (k : MatKind) : Option (List Word) :=
  if k.stepClocks = 0 then some []
  else match s.draws.find? fun d => d.ofEngine q with
    | none => none
    | some d => if d.left = 0 then some d.words else none

/-- MATRIX_ENGINE_START (R188, R193, R295): the engine takes the oldest instruction it holds; an `mgd` goes to its
pair's rendezvous once the warp's earlier instructions have ended. -/
def execMatrixEngineStart (q : Nat) (s : State) : Host.Outcome State Fault Refusal :=
  .next (
    let e := s.engine q
    match e.queue with
    | [] => s
    | o :: rest =>
      match o.kind with
      | .mgd _ _ =>
        if e.runs o.warp then s
        else { s with engines := s.engines.put q { e with queue := rest, rendezvous := e.rendezvous ++ [o] } }
      | _ =>
        if e.run.isSome then s
        else ({ s with engines := s.engines.put q { e with queue := rest, run := some o } } : State).startSteps q o.kind)

/-- Registers that an engine writes, landing: dropped where the warp has been killed or its generation has moved on (R83). -/
def State.matLand (s : State) (o : MatOp) (w : Warp) (writes : List RegWrite) : State :=
  if (s.owner o.warp o.slot o.gen).isSome then s.putWarp o.warp ((writes.foldl Warp.land w).unpend writes) else s.countDrop o.slot

/-- Elements by group register: the register writes that pack codes (R98, R190). -/
def packRegs (c r n : Nat) (codes : List Nat) : List RegWrite :=
  let epl := matEpl c
  (List.range n).map fun j => .v (r + j) ((List.range 128).map fun t =>
    (t, slotsWord (matWidth c) ((codes.drop ((128 * j + t) * epl)).take epl)))

/-- The e writes of a group's block scales (R190). -/
def packScales (c r n : Nat) (scales : List Nat) : List RegWrite :=
  let per := 4 * matEpl c
  (List.range n).map fun j => .e (r + j) ((List.range 32).map fun i =>
    (i, BitVec.ofNat 8 (if i < per then scales.getD (per * j + i) 0 else 0)))

/-- One line of `mrq`: `n` is its number from the address (R299). -/
def mrqLine (c : Nat) (blocks : List (Nat × List Nat × FFlags)) (n : Nat) : List Byte × List (Nat × Byte) :=
  let per := mxLine (matType c) / 32
  let mine := (blocks.drop (per * n)).take per
  let codes := mine.flatMap fun b => b.2.1
  (bytesOfNat 128 (codes.foldr (fun x acc => x + acc * 2 ^ matWidth c) 0),
   (List.range 8).map fun b => (b, BitVec.ofNat 8 (match mine[b]? with | some x => x.1 | none => 0)))

/-- A line written with its sideband at a key (R300, R385). -/
def State.writeLine (s : State) (key : Nat) (ms : Bool) (l : List Byte × List (Nat × Byte)) : State :=
  let s1 := if ms then s.wrRaw key l.1 else s.wrBytes key l.1
  let s2 := (s1.wrSide key l.2).clearFailed key
  if ms then { s2 with staleSide := s.staleSide } else s2

/-- The lines of an `mrq` written, those over a failed link failing (R398), and their acknowledgements sent one for
each global line. -/
def State.mrqStore (s : State) (o : MatOp) (w : Warp) (c : Nat) (blocks : List (Nat × List Nat × FFlags))
    (lines : List (Nat × Bool × DWord)) : State :=
  let s1 := ((List.range lines.length).zip lines).foldl (fun (s : State) (p : Nat × Nat × Bool × DWord) =>
    if s.broken w.core p.2.1 then s.storeFail o.warp w none p.2.2.2
    else s.writeLine p.2.1 p.2.2.1 (mrqLine c blocks p.1)) s
  let n := (lines.filter fun p => !isPad p.1).length
  if n = 0 then s1
  else { s1.tick1 with acks := s1.acks.put s1.nextId ⟨o.warp, o.slot, o.gen, none, n, lines.any fun p => !isLocal p.1⟩ }

/-- What an instruction does when the engine completes it (R297 to R304), with the states that its steps of the generator
left (R103). -/
def State.matDone (s : State) (words : List Word) (o : MatOp) (w : Warp) : State :=
  let put (w : Warp) : State := s.putWarp o.warp w
  match o.kind with
  | .mma t z _ ta tb _ a sa b sb =>
    put (w.mapTile t fun i => mmaElement ta tb a sa b sb (if z then 0 else w.ar t i) (i / 32) (i % 32))
  | .accz t => put (w.setAcc t fun _ => 0)
  | .accld t vals => put (w.setAcc t fun i => vals.getD i 0)
  | .accst t r => s.matLand o w ((List.range 8).map fun j => .v (r + j) ((List.range 128).map fun p => (p, w.ar t (128 * j + p))))
  | .mrqReg t r c rnd =>
    let blocks := w.requant t c rnd words
    let w1 := w.raise (blocks.foldl (fun fl b => fl ||| b.2.2) 0)
    s.matLand o w1 (packRegs c r (mrqRegs c) (blocks.flatMap fun b => b.2.1)
      ++ packScales c r (mrqRegs c) (blocks.map fun b => b.1))
  | .mrqMem t c rnd lines =>
    let blocks := w.requant t c rnd words
    (s.putWarp o.warp (w.raise (blocks.foldl (fun fl b => fl ||| b.2.2) 0))).mrqStore o w c blocks lines
  | .macc t u => put (w.mapTile t fun i => fOut 0 (fAdd 0 (fval (w.ar t i)) (fval (w.ar u i))))
  | .mscl t g rnd => put (w.mapTile t fun i => tileScaled rnd (groupWord words i) (w.ar t i) g)
  | .mgd _ _ => s

/-- R397: an instruction with a line on a plane that carries nothing now: it waits. -/
def State.matHeld (s : State) (o : MatOp) : Bool :=
  match o.kind with
  | .mrqMem _ _ _ lines => lines.any fun p => s.planeHeld p.1
  | _ => false

/-- R83: an instruction whose completion writes registers of its warp. -/
def MatKind.lands : MatKind → Bool
  | .accst _ _ | .mrqReg _ _ _ _ => true
  | _ => false

/-- MATRIX_ENGINE_COMPLETE (R103, R188, R297 to R304): the running instruction, once it has taken its steps of the quarter's
generator, has its effect; a result of a warp that is gone is dropped and counted (R83). -/
def execMatrixEngineComplete (q : Nat) (s : State) : Host.Outcome State Fault Refusal :=
  .next (
    let e := s.engine q
    match e.run with
    | none => s
    | some o =>
      if s.matHeld o then s
      else match s.stepsTaken q o.kind with
        | none => s
        | some words =>
          let s1 := { s with
            engines := s.engines.put q { e with run := none }
            draws := s.draws.filter fun d => !d.ofEngine q }
          match s1.warp o.warp with
          | none => if o.kind.lands then s1.countDrop o.slot else s1
          | some w => s1.matDone words o w)

/-- The tile and factor of an `mgd` at its rendezvous. -/
def Engine.waiting (e : Engine) (id : Nat) : Option (Nat × Word) :=
  e.rendezvous.findSome? fun o => match o.kind with
    | .mgd t g => if o.warp = id then some (t, g) else none
    | _ => none

/-- MGD_RENDEZVOUS (R193, R302): both twins' instructions have reached the engine, and none of theirs still runs: the
leader's tile is guided, and both go on. -/
def execMgdRendezvous (leader : Nat) (s : State) : Host.Outcome State Fault Refusal :=
  .next (match s.warp leader with
    | none => s
    | some w =>
      if w.twin ≠ 0 then s
      else match s.twinOf leader w with
        | none => s
        | some (fid, fw) =>
          let e := s.engine w.quarterNo
          if e.runs leader || e.runs fid then s
          else match e.waiting leader, e.waiting fid with
          | some (tl, g), some (tf, _) =>
            let w1 := w.mapTile tl fun i => guided (w.ar tl i) (fw.ar tf i) g
            let s1 := { s with engines := s.engines.put w.quarterNo { e with
              rendezvous := e.rendezvous.filter fun o => o.warp ≠ leader && o.warp ≠ fid } }
            ((s1.putWarp leader w1).advance leader).advance fid
          | _, _ => s)

end Sys2Proof.Machine
end

