-- ==== Sys2Proof/Machine/Copy.lean ====
section
/-! DEFINITION. The copy engines (R174 to R185): a command taken and its table checked, the iteration formulas, the
modes, and the end of a command. -/

namespace Sys2Proof.Machine

/-! ### The table (R175, R176) -/

/-- A dimension entry (Table 7.4); a kernel size or dilation of 0 is read as 1. -/
structure Dim where
  x : Nat
  pl : Nat
  ph : Nat
  k : Nat
  dil : Nat
  sh : Nat
  ss : Int
  ds : Int
  deriving DecidableEq, Repr

/-- A command whose words and table hold allowed values. -/
structure Copy where
  mode : Nat
  pad : Nat
  rnd : Nat
  sat : Bool
  dty : Nat
  sty : Nat
  scale : Nat
  value : Nat
  eb : Nat
  serial : Bool
  computed : Bool
  ms : List Int
  dims : List Dim
  deriving DecidableEq, Repr

/-- `n` bytes of a list at an offset, as a number. -/
def bytesAt (l : List Byte) (o n : Nat) : Nat := natOfBytes ((l.drop o).take n)

/-- `n` bytes of a list at an offset, as a signed number. -/
def intAt (l : List Byte) (o n : Nat) : Int := (BitVec.ofNat (8 * n) (bytesAt l o n)).toInt

/-- R179: the source extent X_d. -/
def Dim.src (d : Dim) : Int := d.x + (d.k - 1) * d.dil - d.pl - d.ph

/-- Dimension entry `d` of a table (Table 7.4). -/
def dimAt (l : List Byte) (d : Nat) : Dim :=
  let e := (l.drop (32 + 32 * d)).take 32
  ⟨bytesAt e 0 4, bytesAt e 4 2, bytesAt e 6 2, max 1 (bytesAt e 8 2), max 1 (bytesAt e 10 2), bytesAt e 12 4,
    intAt e 16 8, intAt e 24 8⟩

/-- Table 7.4: the raw fields of an entry that a mode demands to be 0. -/
def dimRawOk (l : List Byte) (d mode : Nat) : Bool :=
  let e := (l.drop (32 + 32 * d)).take 32
  (mode == 3 || bytesAt e 8 4 == 0) && (mode == 5 || mode == 6 || bytesAt e 12 4 == 0)
    && (!(mode == 1 || mode == 2 || mode == 7) || bytesAt e 4 4 == 0) && bytesAt e 0 4 != 0

/-- Table 7.1, R179: the values of W3 that its mode allows. -/
def w3Ok (w : DWord) : Bool :=
  let mode := (w.extractLsb' 0 8).toNat
  let sty := (w.extractLsb' 8 4).toNat
  let dty := (w.extractLsb' 12 4).toNat
  let rnd := (w.extractLsb' 16 3).toNat
  let pad := (w.extractLsb' 20 4).toNat
  let value := (w.extractLsb' 32 32).toNat
  mode ≤ 7 && pad ≤ 2
    && (if mode = 4 then pad != 1 && rnd ≤ 4 && 5 ≤ dty && dty ≤ 10 && 2 ≤ sty && sty ≤ 4
      else w.extractLsb' 24 8 == 0 && !w.getLsbD 19 && rnd == 0
        && if mode = 1 ∨ mode = 2 then 3 ≤ sty && sty ≤ 10 && dty == sty && value == 0 && pad != 1 else sty == 0 && dty == 0)

/-- Table 7.3: the element bytes that a mode allows. -/
def ebOk (mode sty eb : Nat) : Bool :=
  match mode with
  | 1 | 2 => eb == 0
  | 4 => eb == if sty = 2 then 4 else 2
  | _ => [1, 2, 4, 8, 16].contains eb

/-- The command that words and a table state, before the checks of its mode. -/
def copyOf (w3 : DWord) (l : List Byte) : Copy :=
  let rank := min 6 (bytesAt l 0 1)
  { mode := (w3.extractLsb' 0 8).toNat, pad := (w3.extractLsb' 20 4).toNat, rnd := (w3.extractLsb' 16 3).toNat
    sat := w3.getLsbD 19, dty := (w3.extractLsb' 12 4).toNat, sty := (w3.extractLsb' 8 4).toNat
    scale := (w3.extractLsb' 24 8).toNat, value := (w3.extractLsb' 32 32).toNat, eb := bytesAt l 1 1
    serial := bytesAt l 2 2 % 2 = 1, computed := bytesAt l 2 2 / 2 % 2 = 1
    ms := (List.range 6).map fun i => intAt l (8 + 2 * i) 2, dims := (List.range rank).map (dimAt l) }

/-- The dimension `d` of a command. -/
def Copy.dim (c : Copy) (d : Nat) : Dim := c.dims.getD d ⟨1, 0, 0, 1, 1, 0, 0, 0⟩

/-- R176, R179, R182, R184: what the table of a mode must hold. -/
def Copy.ok (c : Copy) (l : List Byte) : Bool :=
  let d0 := c.dim 0
  let d1 := c.dim 1
  1 ≤ bytesAt l 0 1 && bytesAt l 0 1 ≤ 6 && ebOk c.mode c.sty c.eb && bytesAt l 2 2 < 4 && bytesAt l 4 4 == 0
    && bytesAt l 20 12 == 0 && (c.mode == 4 || !c.computed)
    && (c.mode == 5 || c.mode == 6 || bytesAt l 8 12 == 0)
    && ((List.range c.dims.length).all fun d => dimRawOk l d c.mode)
    && (c.dims.all fun d => decide ((if c.pad = 2 then 1 else 0) ≤ d.src))
    && match c.mode with
      | 1 => 2 ≤ c.dims.length && d0.x % 64 == 0 && d1.x % 32 == 0 && d0.ss == 0 && d0.ds % 128 == 0 && d1.ds % 128 == 0
      | 2 => 2 ≤ c.dims.length && d0.x % 64 == 0 && d1.x % 32 == 0 && d0.ds == 0 && d0.ss % 128 == 0 && d1.ss % 128 == 0
      | 4 => d0.x % 32 == 0 && d0.ds == 0 && (!c.computed || c.scale == 0)
      | _ => true

/-! ### Accesses -/

/-- Why a command stops. -/
inductive CopyStop where
  /-- The home of an access cannot be reached now (R397). -/
  | held
  /-- A cause of R174, the address, whether it is a write, and the entry of a malformed walk. -/
  | fault (cause : Nat) (addr : DWord) (write : Bool) (entry : Option DWord)
  deriving DecidableEq, Repr

/-- Who a command is to translation: the issuing warp's context and cluster. -/
def Cmd.agent (c : Cmd) : Agent := ⟨c.cmp, c.ctx, c.core, c.cluster⟩

/-- Word `i` of a command. -/
def Cmd.word (c : Cmd) (i : Nat) : DWord := c.w.getD i 0

/-- R174, R178: an access of a command: alignment, translation, the MX demand and links; `shift` moves it to another module
(R183). -/
def State.copyAt (s : State) (c : Cmd) (a : DWord) (align : Nat) (write mx : Bool) (shift : Int) : Except CopyStop Trans :=
  if a.toNat % align ≠ 0 then .error (.fault 5 a write none)
  else match s.xany c.agent a (if write then .write else .read) with
    | .error f => .error (if f.cause = heldCause then .held else .fault f.cause a write f.entry)
    | .ok t =>
      let m := (((s.moduleOf (keyTag t.key) : Int) + shift) % 2048).toNat
      let k := if isPad t.key then t.key else s.tagOf m * 2 ^ 52 + t.key % 2 ^ 52
      if !isPad k && shift != 0 && !(s.isMember m && s.owns c.cmp k) then .error (.fault 7 a write none)
      else if mx && !t.mx then .error (.fault 0x11 a write none)
      else if s.planeHeld k || s.leafHeld t write then .error .held
      else if s.broken c.core k then .error (.fault 0x15 a write none)
      else .ok { t with key := k }

/-- The page of an access of a command used (R368). -/
def State.copyTouch (s : State) (t : Trans) (write : Bool) : State := if isPad t.key then s else s.touch t write

/-- Bytes read by a command, with A set (R368); a byte with an uncorrectable error stops it (R385). -/
def State.copyRead (s : State) (c : Cmd) (a : DWord) (n align : Nat) (mx : Bool) (shift : Int) :
    Except CopyStop (List Byte × Trans × State) :=
  match s.copyAt c a align false mx shift with
  | .error e => .error e
  | .ok t =>
    if s.runFailed t.key n then .error (.fault 0x15 a false none)
    else .ok (s.bytes t.key n, t, s.copyTouch t false)

/-- Bytes written by a command at their home (R125), with D set (R368). -/
def State.copyWrite (s : State) (c : Cmd) (a : DWord) (l : List Byte) (align : Nat) (mx : Bool) (shift : Int) :
    Except CopyStop (Trans × State) :=
  match s.copyAt c a align true mx shift with
  | .error e => .error e
  | .ok t => .ok (t, (s.copyTouch t true).wrAt t l)

/-- One scale byte of a line written. -/
def State.copySide (s : State) (t : Trans) (i : Nat) (b : Byte) : State :=
  let s1 := s.wrSide t.key [(i, b)]
  if t.ms then { s1 with staleSide := s.staleSide } else s1

/-- R99: the payload and sideband bytes of a line beyond those that `blocks` blocks of `w`-bit elements use, written as
zero. -/
def State.copyTail (s : State) (t : Trans) (blocks w : Nat) : State :=
  let used := 4 * w * blocks
  let s1 := if used < 128 then s.wrAt { t with key := t.key + used } (List.replicate (128 - used) 0) else s
  (List.range (8 - blocks)).foldl (fun s i => s.copySide t (blocks + i) 0) s1

/-! ### Iteration (R177, R179) -/

/-- The mixed-radix digits of a number, the lowest first. -/
def digits : List Nat → Nat → List Nat
  | [], _ => []
  | r :: rest, n => n % r :: digits rest (n / r)

/-- The number of taps. -/
def Copy.taps (c : Copy) : Nat := (c.dims.map fun d => d.k).foldl (· * ·) 1

/-- The number of elements that a command visits. -/
def Copy.total (c : Copy) : Nat := (c.dims.map fun d => d.x).foldl (· * ·) c.taps

/-- The destination index of visit `n`: taps innermost, then o_0 (R177). -/
def Copy.index (c : Copy) (n : Nat) : List Nat := digits (c.dims.map fun d => d.x) (n / c.taps)

/-- The tap index of visit `n`. -/
def Copy.tap (c : Copy) (n : Nat) : List Nat := digits (c.dims.map fun d => d.k) (n % c.taps)

/-- A dimension with the index and tap of a visit. -/
def Copy.visit (c : Copy) (n : Nat) : List (Dim × Nat × Nat) := c.dims.zip ((c.index n).zip (c.tap n))

/-- R179: the source index in a dimension. -/
def srcIndex (p : Dim × Nat × Nat) : Int := p.2.1 + p.2.2 * p.1.dil - p.1.pl

/-- R179: the source indexes of a visit; `none` where it is a pad element that nothing is read for. -/
def Copy.source (c : Copy) (n : Nat) : Option (List (Dim × Int)) :=
  let js := (c.visit n).map fun p => (p.1, srcIndex p)
  if js.all fun p => decide (0 ≤ p.2 ∧ p.2 < p.1.src) then some js
  else if c.pad = 2 then some (js.map fun p => (p.1, max 0 (min p.2 (p.1.src - 1))))
  else none

/-- R179: a pad element, and the fill of mode 7. -/
def padBytes (value eb : Nat) : List Byte :=
  if eb ≤ 4 then bytesOfNat eb value else (List.range (eb / 4)).flatMap fun _ => bytesOfNat 4 value

/-- A 64-bit address moved by a signed offset. -/
def offsetBy (a : DWord) (x : Int) : DWord := a + BitVec.ofInt 64 x

/-- R183: the address offset and the module shift of the sharded side. -/
def sharded (ms : List Int) (l : List (Dim × Int × Int)) : Int × Int :=
  ((List.range l.length).zip l).foldl (fun acc p =>
    let d := p.2.1
    let i := p.2.2.1
    let sh : Int := d.sh
    if d.sh = 0 then (acc.1 + i * p.2.2.2, acc.2)
    else (acc.1 + i % sh * p.2.2.2, acc.2 + i / sh * ms.getD p.1 0)) (0, 0)

/-! ### Elements (modes 0, 3, 5, 6, 7) -/

/-- The bytes of the source element of a visit. -/
def State.copyElem (s : State) (c : Cmd) (p : Copy) (n : Nat) : Except CopyStop (List Byte × State) :=
  if p.mode = 7 then .ok (padBytes p.value p.eb, s)
  else match p.source n with
    | none => .ok (if p.pad = 1 then padBytes p.value p.eb else List.replicate p.eb 0, s)
    | some js =>
      let r := if p.mode = 5 then sharded p.ms (js.map fun q => (q.1, q.2, q.1.ss))
        else ((js.map fun q => q.2 * q.1.ss).sum, 0)
      match s.copyRead c (offsetBy (c.word 0) r.1) p.eb p.eb false r.2 with
      | .error e => .error e
      | .ok (l, _, s1) => .ok (l, s1)

/-- R181: q_lin of a visit. -/
def Copy.tapLinear (c : Copy) (n : Nat) : Nat := n % c.taps

/-- One element moved (R180, R181, R183). -/
def State.copyMove (s : State) (c : Cmd) (p : Copy) (n : Nat) : Except CopyStop State :=
  match s.copyElem c p n with
  | .error e => .error e
  | .ok (l, s1) =>
    let os := (p.visit n).map fun q => (q.1, (q.2.1 : Int))
    let r := if p.mode = 6 then sharded p.ms (os.map fun q => (q.1, q.2, q.1.ds))
      else ((os.map fun q => q.2 * q.1.ds).sum, 0)
    let off := r.1 + if p.mode = 3 then (p.tapLinear n * p.eb : Nat) else 0
    match s1.copyWrite c (offsetBy (c.word 1) off) l p.eb false r.2 with
    | .error e => .error e
    | .ok (_, s2) => .ok s2

/-! ### Tiles and lines (modes 1 and 2) -/

/-- R96: the matrix code of a scalar type code of modes 1 and 2. -/
def matCode (t : Nat) : Nat :=
  match t with
  | 9 => 0
  | 7 => 1
  | 8 => 2
  | 5 => 3
  | 6 => 4
  | 10 => 5
  | 3 => 6
  | _ => 7

/-- The offset of the dimensions from 2 on. -/
def outerOffset (l : List (Dim × Nat)) (stride : Dim → Int) : Int := ((l.drop 2).map fun p => p.2 * stride p.1).sum

/-- A row side of modes 1 and 2: the row's base, checked (R184), and where element k lies: the offset of its line or
bytes, and the bit in it. -/
def rowPlace (t k : Nat) : Nat × Nat :=
  if t = 3 ∨ t = 4 then (2 * k, 0) else (128 * (k / mxLine t), k % mxLine t * mxWidth t)

/-- Bits `b` to `b+w-1` of a line. -/
def bitsAt (l : List Byte) (b w : Nat) : Nat := natOfBytes l / 2 ^ b % 2 ^ w

/-- The bytes that bits of a line lie in, replaced: the first byte and the new bytes. -/
def patchBits (l : List Byte) (b w x : Nat) : Nat × List Byte :=
  let lo := b / 8
  let n := (b + w + 7) / 8 - lo
  let old := bytesAt l lo n
  let sh := b - 8 * lo
  (lo, bytesOfNat n (old - old / 2 ^ sh % 2 ^ w * 2 ^ sh + x * 2 ^ sh))

/-- An element of a row read: its code and scale (R184). -/
def State.rowRead (s : State) (c : Cmd) (t : Nat) (base : DWord) (k : Nat) : Except CopyStop (Nat × Byte × State) :=
  let at_ := rowPlace t k
  if base.toNat % 128 ≠ 0 then .error (.fault 5 base false none)
  else if t = 3 ∨ t = 4 then
    match s.copyRead c (base + BitVec.ofNat 64 at_.1) 2 2 false 0 with
    | .error e => .error e
    | .ok (l, _, s1) => .ok (natOfBytes l, 0, s1)
  else match s.copyAt c (base + BitVec.ofNat 64 at_.1) 128 false true 0 with
    | .error e => .error e
    | .ok tr =>
      let block := k % mxLine t / 32
      if s.runFailed (tr.key + at_.2 / 8) ((at_.2 % 8 + mxWidth t + 7) / 8) || s.sideFailed tr.key block then
        .error (.fault 0x15 (base + BitVec.ofNat 64 at_.1) false none)
      else .ok (bitsAt (s.bytes tr.key 128) at_.2 (mxWidth t), s.sideByte tr.key block, s.copyTouch tr false)

/-- An element of a row written with its block's scale (R184). -/
def State.rowWrite (s : State) (c : Cmd) (t : Nat) (base : DWord) (k code : Nat) (scale : Byte) : Except CopyStop State :=
  let at_ := rowPlace t k
  if base.toNat % 128 ≠ 0 then .error (.fault 5 base true none)
  else if t = 3 ∨ t = 4 then
    match s.copyWrite c (base + BitVec.ofNat 64 at_.1) (bytesOfNat 2 code) 2 false 0 with
    | .error e => .error e
    | .ok (_, s1) => .ok s1
  else match s.copyAt c (base + BitVec.ofNat 64 at_.1) 128 true true 0 with
    | .error e => .error e
    | .ok tr =>
      let p := patchBits (s.bytes tr.key 128) at_.2 (mxWidth t) code
      let s1 := (s.copyTouch tr true).wrAt { tr with key := tr.key + p.1 } p.2
      .ok ((s1.copySide tr (k % mxLine t / 32) scale).copyTail tr (mxLine t / 32) (mxWidth t))

/-- R187: the byte of bit `j` of element (m, k) in a tile. -/
def tileBit (j m k : Nat) : Nat := 256 * j + 8 * m + k / 8

/-- An element of a tile read with its scale (R187). -/
def State.tileRead (s : State) (c : Cmd) (t : Nat) (base : DWord) (m k : Nat) : Except CopyStop (Nat × Byte × State) :=
  let w := matWidth (matCode t)
  if base.toNat % 128 ≠ 0 then .error (.fault 5 base false none)
  else
    let bits := (List.range w).foldl (fun acc j => match acc with
      | .error e => .error e
      | .ok (x, s) => match s.copyRead c (base + BitVec.ofNat 64 (tileBit j m k)) 1 1 true 0 with
        | .error e => .error e
        | .ok (l, _, s1) => .ok (x + natOfBytes l / 2 ^ (k % 8) % 2 * 2 ^ j, s1)) (.ok ((0 : Nat), s) : Except CopyStop (Nat × State))
    match bits with
    | .error e => .error e
    | .ok (x, s1) =>
      if t = 3 ∨ t = 4 then .ok (x, 0, s1)
      else
        let q := 2 * m + k / 32
        match s1.copyAt c (base + BitVec.ofNat 64 (128 * (q / 8))) 1 false true 0 with
        | .error e => .error e
        | .ok tr =>
          if s1.sideFailed tr.key (q % 8) then .error (.fault 0x15 (base + BitVec.ofNat 64 (128 * (q / 8))) false none)
          else .ok (x, s1.sideByte tr.key (q % 8), s1.copyTouch tr false)

/-- A byte of a tile written; a line that holds no scale position has its sideband written as zero (R99, R187). -/
def State.tileByteWrite (s : State) (t : Trans) (line : Nat) (b : Byte) : State :=
  let s1 := (s.copyTouch t true).wrAt t [b]
  if line < 8 then s1 else (List.range 8).foldl (fun s i => s.copySide t i 0) s1

/-- An element of a tile written with its scale; the scale positions of BF16 and F16 are written as zero (R187). -/
def State.tileWrite (s : State) (c : Cmd) (t : Nat) (base : DWord) (m k code : Nat) (scale : Byte) : Except CopyStop State :=
  let w := matWidth (matCode t)
  if base.toNat % 128 ≠ 0 then .error (.fault 5 base true none)
  else
    let bits := (List.range w).foldl (fun acc j => match acc with
      | .error e => .error e
      | .ok s => match s.copyAt c (base + BitVec.ofNat 64 (tileBit j m k)) 1 true true 0 with
        | .error e => .error e
        | .ok tr =>
          let old := (s.byte tr.key).toNat
          let bit := 2 ^ (k % 8)
          let new := old - old / bit % 2 * bit + code / 2 ^ j % 2 * bit
          .ok (s.tileByteWrite tr (tileBit j m k / 128) (BitVec.ofNat 8 new))) (.ok s : Except CopyStop State)
    match bits with
    | .error e => .error e
    | .ok s1 =>
      let q := 2 * m + k / 32
      match s1.copyAt c (base + BitVec.ofNat 64 (128 * (q / 8))) 1 true true 0 with
      | .error e => .error e
      | .ok tr => .ok (s1.copySide tr (q % 8) scale)

/-- One element between rows and tiles (R184): mode 1 fills tiles from rows, mode 2 the reverse. -/
def State.copyTile (s : State) (c : Cmd) (p : Copy) (n : Nat) : Except CopyStop State :=
  let l := p.dims.zip (p.index n)
  let k := (p.index n).getD 0 0
  let row := (p.index n).getD 1 0
  let ss (d : Dim) : Int := d.ss
  let ds (d : Dim) : Int := d.ds
  let rowBase (w : DWord) (f : Dim → Int) : DWord := offsetBy w (row * f (p.dim 1) + outerOffset l f)
  let tileBase (w : DWord) (f : Dim → Int) : DWord :=
    offsetBy w ((k / 64 : Nat) * f (p.dim 0) + (row / 32 : Nat) * f (p.dim 1) + outerOffset l f)
  if p.mode = 1 then
    match s.rowRead c p.sty (rowBase (c.word 0) ss) k with
    | .error e => .error e
    | .ok (x, sc, s1) => s1.tileWrite c p.sty (tileBase (c.word 1) ds) (row % 32) (k % 64) x sc
  else
    match s.tileRead c p.sty (tileBase (c.word 0) ss) (row % 32) (k % 64) with
    | .error e => .error e
    | .ok (x, sc, s1) => s1.rowWrite c p.sty (rowBase (c.word 1) ds) k x sc

/-! ### Quantisation (mode 4) -/

/-- A source element as an FP32 word (R182). -/
def toFp32 (t : Nat) (l : List Byte) : Word :=
  let x := natOfBytes l
  match t with
  | 2 => BitVec.ofNat 32 x
  | 3 => BitVec.ofNat 32 (x * 65536)
  | _ => (convertType 4 2 0 false 0 (BitVec.ofNat 64 x)).1.extractLsb' 0 32

/-- A source element in its own format (R105, R182). -/
def sourceVal (t : Nat) (l : List Byte) : FVal :=
  (match t with | 2 => fp32 | 3 => bf16 | _ => fp16).decode (natOfBytes l)

/-- The 32 source elements of a block: each value, and its FP32 word. -/
def State.copyBlock (s : State) (c : Cmd) (p : Copy) (n : Nat) : Except CopyStop (List (FVal × Word) × State) :=
  (List.range 32).foldl (fun acc i => match acc with
    | .error e => .error e
    | .ok (l, s) => match s.copyElem c p (32 * n + i) with
      | .error e => .error e
      | .ok (b, s1) => .ok (l ++ [(sourceVal p.sty b, toFp32 p.sty b)], s1)) (.ok ([], s))

/-- Block `n` of a command quantised and written (R182); the largest magnitude so far beside the state. -/
def State.copyQuant (s : State) (c : Cmd) (p : Copy) (n amax : Nat) : Except CopyStop (State × Nat) :=
  match s.copyBlock c p n with
  | .error e => .error e
  | .ok (xs, s1) =>
    let ix := p.index (32 * n)
    let o := ix.getD 0 0
    let base := offsetBy (c.word 1) ((((p.dims.zip ix).drop 1).map fun q => (q.2 : Int) * q.1.ds).sum)
    let word (i : Nat) : Word := rowWord c.gstate (32 * n + i)
    let r := if p.computed then requantise p.dty p.rnd word (xs.map (·.1))
      else (p.scale, keepBlock p.dty p.rnd p.sat p.scale word (xs.map (·.1)))
    let e := mxLine p.dty
    let line := base + BitVec.ofNat 64 (128 * (o / e))
    let bytes := bytesOfNat (4 * mxWidth p.dty) (r.2.1.foldr (fun x acc => x + acc * 2 ^ mxWidth p.dty) 0)
    match s1.copyAt c line 128 true true 0 with
    | .error e => .error e
    | .ok tr =>
      let s2 := (s1.copyTouch tr true).wrAt
        { tr with key := tr.key + o % e * mxWidth p.dty / 8 } bytes
      .ok ((s2.copySide tr (o % e / 32) (BitVec.ofNat 8 r.1)).copyTail tr (e / 32) (mxWidth p.dty),
        xs.foldl (fun m x => max m (x.2 &&& 0x7FFFFFFF).toNat) amax)

/-- R182: the amax fold: one unsigned atomic max. -/
def State.copyFold (s : State) (c : Cmd) (p : Copy) (amax : Nat) : Except CopyStop State :=
  if p.value = 0xFFFFFFFF then .ok s
  else match s.copyAt c (c.word 2 + BitVec.ofNat 64 p.value) 4 true false 0 with
    | .error e => .error e
    | .ok t =>
      if s.runFailed t.key 4 then .error (.fault 0x15 (c.word 2 + BitVec.ofNat 64 p.value) false none)
      else .ok ((s.copyTouch t true).wrAt t (bytesOfNat 4 (max amax (s.num t.key 4))))

/-! ### A command performed -/

/-- The states of a run of accesses: each from the last, until one stops. The state of the stop keeps what was
performed (R174). -/
def copyRun {α : Type} (f : State → α → Nat → Except CopyStop (State × α)) : Nat → State → α → Nat →
    Except (CopyStop × State) (State × α)
  | 0, s, x, _ => .ok (s, x)
  | k + 1, s, x, n => match f s x n with
    | .error e => .error (e, s)
    | .ok (s1, y) => copyRun f k s1 y (n + 1)

/-- The accesses of a command (R177 to R184): the state after them. -/
def State.copyAll (s : State) (c : Cmd) (p : Copy) : Except (CopyStop × State) State :=
  if p.mode = 4 then
    match copyRun (fun s a n => s.copyQuant c p n a) (p.total / 32) s 0 0 with
    | .error e => .error e
    | .ok (s1, amax) => match s1.copyFold c p amax with
      | .error e => .error (e, s1)
      | .ok s2 => .ok s2
  else
    match copyRun (fun s (_ : Unit) n =>
        match if p.mode = 1 ∨ p.mode = 2 then s.copyTile c p n else s.copyMove c p n with
        | .error e => .error e
        | .ok s1 => .ok (s1, ())) p.total s () 0 with
    | .error e => .error e
    | .ok (s1, _) => .ok s1

/-- R185: the byte total. -/
def Copy.bytes (p : Copy) : Nat :=
  match p.mode with
  | 1 | 2 => p.total * matWidth (matCode p.sty) / 8
  | 4 => p.total * mxWidth p.dty / 8
  | _ => p.total * p.eb

/-! ### The end of a command -/

/-- A fault record that a command waits on has its turn to come, at its home or for a plane (R373, R397). -/
def State.recordWaits (s : State) (id : Nat) : Bool :=
  (s.qops.all.any fun p => p.2.agent == .record none (some id) && p.2.counters == [])
    || s.delayed.any fun d => match d with | .post _ op => op.agent == .record none (some id) | .packet _ _ _ => false

/-- R174: a command ends with status 3 once its fault record is posted. -/
def State.copyFault (s : State) (id : Nat) (c : Cmd) (cause : Nat) (addr : DWord) (write : Bool) (entry : Option DWord) :
    State :=
  let token := match s.clusters.find c.cluster with | some k => k.token | none => 0
  let rec_ : FaultRec :=
    { cause := cause, source := 2, pos := none, flags := (if write then 4 else 0) + if entry.isSome then 2 else 0
      location := c.slot % 32 * 1024 + c.slot / 32 % 4 * 256 + c.core, cmp := c.cmp, ctx := c.ctx, cluster := token
      addr := if hasAddress cause then addr else 0, point := 0, token := 0
      value := if cause = 0x14 then c.handle else entry.getD addr }
  let s1 := (s.postFault rec_ (.record none (some id))).1
  if s1.recordWaits id then s1 else s1.endCmd id 3

/-- The commands of the same warp that came earlier and have not ended. -/
def State.earlierCmds (s : State) (id : Nat) (c : Cmd) : List Cmd :=
  (s.cmds.all.filter fun p => p.1 < id && p.2.warp == c.warp && p.2.status == 0).map (·.2)

/-- R175: a scratchpad form whose bits [62:32] are not zero. -/
def badForm (w : DWord) : Bool := w.getLsbD 63 && w.extractLsb' 32 31 != 0

/-- R174, R175: what the command words W0 to W3 break, in their order. -/
def wordsBad (c : Cmd) : Option (Nat × DWord) :=
  let mode := (c.word 3).extractLsb' 0 8
  if mode ≠ 7 && badForm (c.word 0) then some (7, c.word 0)
  else if badForm (c.word 1) then some (7, c.word 1)
  else if badForm (c.word 2) then some (7, c.word 2)
  else if (c.word 2).toNat % 8 ≠ 0 then some (5, c.word 2)
  else if !w3Ok (c.word 3) then some (0x14, 0)
  else none

/-- `n` units of 8 bytes of a table read. -/
def State.copyTable (s : State) (c : Cmd) : Nat → DWord → Except CopyStop (List Byte × State)
  | 0, _ => .ok ([], s)
  | n + 1, a => match s.copyRead c a 8 8 false 0 with
    | .error e => .error e
    | .ok (l, _, s1) => match s1.copyTable c n (a + 8) with
      | .error e => .error e
      | .ok (r, s2) => .ok (l ++ r, s2)

/-- The table of a command: its header, then as many entries as its rank states (R176). -/
def State.readTable (s : State) (c : Cmd) : Except CopyStop (List Byte × State) :=
  match s.copyTable c 4 (c.word 2) with
  | .error e => .error e
  | .ok (h, s1) => match s1.copyTable c (4 * min 6 (bytesAt h 0 1)) (c.word 2 + 32) with
    | .error e => .error e
    | .ok (r, s2) => .ok (h ++ r, s2)

/-- COPY_TAKE (R170, R173, R174): the engine takes the command: it reads the table and checks it before any access.
Commands of a warp start in issue order (R139). The spec does not give the write flag of a record whose words W0 to W3 are bad:
it is clear; the record of a corrupt barrier has it set (DESIGN CHOICE, log 61). -/
def execCopyTake (id : Nat) (s : State) : Host.Outcome State Fault Refusal :=
  .next (match s.cmds.find id with
    | none => s
    | some c =>
      if c.status ≠ 0 || c.taken || (s.earlierCmds id c).any fun e => !e.started then s
      else
        let put (s : State) (c : Cmd) : State := { s with cmds := s.cmds.put id c }
        let c1 := { c with taken := true }
        match wordsBad c with
        | some (cause, a) => (put s c1).copyFault id c1 cause a false none
        | none => match s.readTable c with
          | .error .held => s
          | .error (.fault cause a w e) => (put s c1).copyFault id c1 cause a w e
          | .ok (table, s1) =>
            let p := copyOf (c.word 3) table
            if p.ok table then put s1 { c1 with table := table, started := !p.serial }
            else (put s1 c1).copyFault id c1 0x14 0 false none)

/-- SERIAL_COMMAND_START (R173): a serial command may make its accesses once every earlier command of its warp has
ended. -/
def execSerialCommandStart (id : Nat) (s : State) : Host.Outcome State Fault Refusal :=
  .next (match s.cmds.find id with
    | none => s
    | some c =>
      if c.status ≠ 0 || !c.taken || s.recordWaits id || s.earlierCmds id c ≠ [] then s
      else { s with cmds := s.cmds.put id { c with started := true } })

/-- R140, R163, R174: a byte total counted into the barrier that `go` named. -/
def State.copyCount (s : State) (id : Nat) (c : Cmd) (a : DWord) (bytes : Nat) : Option State :=
  match s.copyAt c a 16 true false 0 with
  | .error .held => none
  | .error (.fault cause x w e) => some (s.copyFault id c cause x w e)
  | .ok t => match s.barDo t (.bytes (-(bytes : Int))) with
    | .corrupt s1 => some (s1.copyFault id c 0x0D a true none)
    | .done _ s1 => some (s1.endCmd id 1)

/-- COPY_COMPLETE (R140, R174, R177 to R185): the accesses of a started command are performed, its bytes are counted,
and it ends. -/
def execCopyComplete (id : Nat) (s : State) : Host.Outcome State Fault Refusal :=
  .next (match s.cmds.find id with
    | none => s
    | some c =>
      if c.status ≠ 0 || !c.started || s.recordWaits id then s
      else
        let p := copyOf (c.word 3) c.table
        match s.copyAll c p with
        | .error (.held, _) => s
        | .error (.fault cause a w e, s1) => s1.copyFault id c cause a w e
        | .ok s1 => match c.barrier with
          | none => s1.endCmd id 1
          | some b => (s1.copyCount id c b p.bytes).getD s)

end Sys2Proof.Machine
end

