-- ==== Sys2Proof/Machine/Special.lean ====
section
/-! DEFINITION. Special registers, k registers, work-identifier fields and block-uniform registers (R87, R88, R43,
R44, R255 to R259). -/

namespace Sys2Proof.Machine

/-- R87, Table 3.6: whether a special register is 64 bits wide. -/
def specialWide (n : Nat) : Bool := [0, 4, 5, 8, 9, 15].contains n

/-- Table 3.6: a special register as position `t` of a warp reads it. -/
def State.special (s : State) (w : Warp) (n t : Nat) : DWord :=
  let b := s.blocks.find w.block
  match n with
  | 0x0 => Store.get 0 w.wids t
  | 0x1 => BitVec.ofNat 64 t
  | 0x2 => BitVec.ofNat 64 (t % 16)
  | 0x3 => BitVec.ofNat 64 (t / 16)
  | 0x4 => w.mask.extractLsb' 0 64
  | 0x5 => w.mask.extractLsb' 64 64
  | 0x6 => BitVec.ofNat 64 (match b with | some b => w.blkt b t | none => 0)
  | 0x7 => BitVec.ofNat 64 w.twin
  | 0x8 => BitVec.ofNat 64 (s.clock + Store.get 0 s.cycOff w.core)
  | 0x9 => BitVec.ofNat 64 s.gtime
  | 0xA => w.fflags.zeroExtend 64
  | 0xB => (s.srState w.quarterNo).zeroExtend 64
  | 0xC => BitVec.ofNat 64 w.va
  | 0xD => BitVec.ofNat 64 w.slot
  | 0xE => if w.formed then 1 else 0
  | 0xF => match b with | some b => b.blkno | none => 0
  | _ => 0

/-- R111: a MAT instruction of the warp that may still set its flags. -/
def State.matPending (s : State) (id : Nat) (w : Warp) : Bool :=
  match s.engines.find w.quarterNo with
  | none => false
  | some e => e.queue.any (fun o => o.warp == id) || (match e.run with | some o => o.warp == id | none => false)
    || e.rendezvous.any fun o => o.warp == id

/-- The lowest-numbered active position (R87). -/
def Warp.lowest (w : Warp) : Nat := (positions w.mask).headD 0

/-- rds (R255): a number outside Table 3.6, or a mask read with U clear, is an illegal operand (R87). -/
def execRds (f : FmtI) (s : State) : Host.Outcome State Fault Refusal :=
  let n := f.imm.toNat
  let wide := specialWide n
  s.issue (.rds f) (fun _ => if !f.u && wide then refPairD f.u f.nw f.d else refD f.u f.nw f.d) fun s w =>
    if n > 15 || (!f.u && (n == 4 || n == 5)) then .trap (Trap.of 0x02 (firstWord (.rds f))) s
    else if n = 0xA && s.matPending s.cur w then .stay s
    else
      let m := w.exec none
      .done (if f.u then (if m = 0 then s else s.putWarp s.cur (w.setK f.d.toNat (s.special w n w.lowest)))
        else if wide then s.putWarp s.cur (w.resultPair f.nw f.d.toNat m (s.special w n))
        else s.putWarp s.cur (w.result f.nw f.d.toNat m fun t => (s.special w n t).extractLsb' 0 32))

/-- wrs of `fflags` (R256): after every earlier flag-setting instruction of the warp. -/
def execWrsFflags (f : FmtI) (s : State) : Host.Outcome State Fault Refusal :=
  s.issue (.wrsFflags f) (fun _ => [.k f.a.toNat]) fun s w =>
    if s.matPending s.cur w then .stay s
    else .done (if w.once none then s.putWarp s.cur { w with fflags := (w.kr f.a.toNat).extractLsb' 0 5 } else s)

/-- wrs of `srseed` (R256), a zero written as 1, which the generator takes at the end of the clock (`State.drawClock`); every
other number is read-only or reserved: illegal operand (R87). -/
def execWrsSrseed (f : FmtI) (s : State) : Host.Outcome State Fault Refusal :=
  s.issue (.wrsSrseed f) (fun _ => [.k f.a.toNat]) fun s w =>
    if f.imm ≠ 0x00B then .trap (Trap.of 0x02 (firstWord (.wrsSrseed f))) s
    else
      let x := w.kw f.a.toNat
      .done (if w.once none then { s with seeds := s.seeds.put w.quarterNo (if x = 0 then 1 else x) } else s)

/-- kget (R257): a whole k register into a v pair. -/
def execKget (f : FmtI) (s : State) : Host.Outcome State Fault Refusal :=
  let n := f.imm.toNat
  s.aluPair (.kget f) [.k n] false f.nw f.d none (fun w _ => w.kr n) (fun _ => 0)

/-- The launch header under which a warp runs. -/
def State.hdrOf (s : State) (w : Warp) : Option LaunchHdr :=
  match s.blocks.find w.block with
  | none => none
  | some b => match s.launches.find b.launch with
    | none => none
    | some l => some l.hdr

/-- R20, R258: field `i` of a work identifier. -/
def LaunchHdr.field (h : LaunchHdr) (i : Nat) (wid : DWord) : DWord :=
  BitVec.ofNat 64 (wid.toNat / 2 ^ (h.widths.take i).sum % 2 ^ (h.widths.getD i 0))

/-- wfield (R258): a field of the work identifier in pair a, or in k register a under U. -/
def execWfield (f : FmtI) (s : State) : Host.Outcome State Fault Refusal :=
  let i := f.imm.toNat % 8
  s.issue (.wfield f)
    (fun _ => (if f.u then Ref.k f.a.toNat else .srcPair f.a) :: refD f.u f.nw f.d) fun s w =>
    let m := w.exec none
    let cut (x : DWord) : DWord := match s.hdrOf w with | some h => h.field i x | none => 0
    .done (if f.u then (if m = 0 then s else s.putWarp s.cur (w.setK f.d.toNat (cut (w.kr f.a.toNat))))
      else s.putWarp s.cur (w.result f.nw f.d.toNat m fun t => (cut (w.srcPair f.a.toNat t)).extractLsb' 0 32))

/-- wfield.ext (R258): the extent of a field, 1 for an absent one. -/
def execWfieldExt (f : FmtI) (s : State) : Host.Outcome State Fault Refusal :=
  let i := f.imm.toNat % 8
  s.issue (.wfieldExt f) (fun _ => refD f.u f.nw f.d) fun s w =>
    let m := w.exec none
    let ext : DWord := BitVec.ofNat 64 (match s.hdrOf w with | some h => h.extents.getD i 1 | none => 1)
    .done (if f.u then (if m = 0 then s else s.putWarp s.cur (w.setK f.d.toNat ext))
      else s.putWarp s.cur (w.result f.nw f.d.toNat m fun _ => ext.extractLsb' 0 32))

/-! ### Block-uniform registers (R43, R44, R259) -/

/-- A `gop` instruction: the g number checked, then once for the warp (R259). -/
def State.gop (s : State) (i : Instr) (gd : Guard) (g : Nat) (refs : List Ref) (eff : State → Warp → Block → Res) :
    Host.Outcome State Fault Refusal :=
  s.issue i (fun _ => refs) fun s w =>
    if g > 31 then .trap (Trap.of 0x02 (firstWord i)) s
    else if !w.once (some gd) then .done s
    else match s.blocks.find w.block with
      | none => .done s
      | some b => eff s w b

/-- gget (R259, Table 2.2): the owner reads its own copy, every other warp the last publication; written on
completion with a pending bit (R75). -/
def execGget (f : FmtA) (x : XT) (s : State) : Host.Outcome State Fault Refusal :=
  s.gop (.gget f x) x.g f.a.toNat [.kDst f.d.toNat] fun s w b =>
    let g := f.a.toNat
    let v := if b.gowner.find g == some s.cur then Store.get 0 b.gown g else Store.get 0 b.gpub g
    if !s.recordRoom s.cur 40 then .stay s
    else .done (s.sendLoad s.cur w none [.k f.d.toNat v] []
      (some ⟨9, 0, w.ix, f.pack 0x3C, x.pack, 1, [(0, BitVec.ofNat 64 g)]⟩) false)

/-- gput (R259, Table 2.2): the owner's copy; any other warp takes the single-writer trap (0x0A). -/
def execGput (f : FmtA) (x : XT) (s : State) : Host.Outcome State Fault Refusal :=
  s.gop (.gput f x) x.g f.d.toNat [.k f.a.toNat] fun s w b =>
    let g := f.d.toNat
    if b.gowner.find g == some s.cur then
      .done (s.mapBlock w.block fun b => { b with gown := Store.set 0 b.gown g (w.kr f.a.toNat) })
    else .trap (Trap.of 0x0A (BitVec.ofNat 64 g)) s

/-- R43: a register taken by a warp; what its copy holds before the first `gput` no rule states (a free value, log 2). -/
def State.claimG (s : State) (id blk g : Nat) : State :=
  { s.mapBlock blk fun b => { b with gowner := b.gowner.put g id, gown := Store.set 0 b.gown g (Config.unputCopy s.fresh) }
    with fresh := s.fresh + 1 }

/-- gclaim (R43, R44, R259): ownership, or a place in the queue of claims. -/
def execGclaim (f : FmtA) (x : XT) (s : State) : Host.Outcome State Fault Refusal :=
  s.gop (.gclaim f x) x.g f.d.toNat [] fun s w b =>
    let g := f.d.toNat
    if b.gowner.find g == some s.cur then .done s
    else if (b.gowner.find g).isNone && !(b.claims.any fun p => p.1 == g) then .done (s.claimG s.cur w.block g)
    else .stay ((s.mapBlock w.block fun b => { b with claims := b.claims ++ [(g, s.cur)] }).block s.cur .gclaim)

/-- grel (R43, R259): the owner's copy published with release at block scope, after the writes of the warp's `mrq`
(R137, R300); no owner. -/
def execGrel (f : FmtA) (x : XT) (s : State) : Host.Outcome State Fault Refusal :=
  s.gop (.grel f x) x.g f.d.toNat [] fun s w b =>
    let g := f.d.toNat
    if b.gowner.find g == some s.cur then
      if s.mrqBusy s.cur w then .stay s
      else match s.retire s.cur w 2 with
        | .waits => .stay s
        | .fails t s1 => .trap t s1
        | .retires s1 _ => .done (s1.mapBlock w.block fun b => b.leaveG g true)
    else .trap (Trap.of 0x0A (BitVec.ofNat 64 g)) s

end Sys2Proof.Machine
end

