-- ==== Sys2Proof/Machine/Former.lean ====
section
/-! DEFINITION. The warp former (R53 to R57, R374), the return of allotments (R67, R84), grants (R39, R44) and the
events of a core's schedulers (R41, R207, R361, R362). -/

namespace Sys2Proof.Machine

/-! ### Slots -/

/-- R364: a slot of a block's cores that is free and whose quarter covers the full allotment. -/
def State.slotFits (s : State) (b : Block) (core q i : Nat) : Bool :=
  b.cores.contains core && s.slotFree core q i && b.fv ≤ s.freeV core q && b.acc ≤ s.freeT core q

/-- R53, R57, R364: a slot that the warp former may take: a free one, and the reserve only where no other is free. -/
def State.formerSlot (s : State) (b : Block) (slot : Nat) : Bool :=
  let core := slot / 128
  let q := slot / 32 % 4
  let i := slot % 32
  if core == b.resCore && q == b.resQuarter && i == b.resSlot then
    b.resWarp.isNone && s.genFree slot
      && !(b.cores.any fun c => (List.range 4).any fun q => (List.range 32).any fun i => s.slotFits b c q i)
  else s.slotFits b core q i

/-! ### Groups ready to form (R56) -/

/-- R56: no warp of the block is in state prologue, acquiring or running. -/
def State.quiet (s : State) (block : Nat) : Bool :=
  !(s.warps.all.any fun p => p.2.block == block && !s.blockedNow p.2 && p.2.phase != .ended)

/-- R52: an instruction of the block waits for a pool entry. -/
def State.poolWaits (s : State) (block : Nat) : Bool :=
  s.warps.all.any fun p => p.2.block == block && (match p.2.wait with | some (.pool _) => s.blockedNow p.2 | _ => false)

/-- R52: the group holds the oldest pending record of its block. -/
def Block.holdsOldest (b : Block) (g : List Rec) : Bool :=
  match sortBy Rec.older b.recs with
  | [] => false
  | r :: _ => g.any fun x => x.slot == r.slot

/-- R56: a group is formed for its size, for a quiet block or for a pool wait. -/
def State.groupReady (s : State) (block : Nat) (b : Block) (g : List Rec) : Bool :=
  128 ≤ g.length || s.quiet block || (s.poolWaits block && b.holdsOldest g)

/-- R56: the group's oldest record has waited 2,048 clocks. -/
def State.groupExpired (s : State) (g : List Rec) : Bool :=
  match g with
  | [] => false
  | r :: _ => r.waited + 2048 ≤ s.clock

/-! ### Formation (R57) -/

/-- Records read one after another, each with its image; the address and failure of the first that fails. -/
def State.readRecs (s : State) (ag : Agent) (b : Block) : List Rec → Except (DWord × Fail) (List (Rec × RecImage) × State)
  | [] => .ok ([], s)
  | r :: rest => match s.readRec ag b b.fv r.slot with
    | .error e => .error e
    | .ok (i, s1) => match s1.readRecs ag b rest with
      | .error e => .error e
      | .ok (l, s2) => .ok ((r, i) :: l, s2)

/-- The snapshot that a record names (R54): M k registers. -/
def State.readSnap (s : State) (ag : Agent) (b : Block) (snap m : Nat) : Except (DWord × Fail) (List DWord × State) :=
  if m = 0 then .ok ([], s)
  else match s.fetchRegion ag b (b.spawnBase + BitVec.ofNat 64 snap) (8 * m) with
    | .error e => .error e
    | .ok (l, s1) => .ok ((List.range m).map fun i => BitVec.ofNat 64 (bytesAt l (8 * i) 8), s1)

/-- The formed warp before its threads (R57): at a slot, with the full allotment and the snapshot's k registers. -/
def formedBlank (c : Cluster) (block : Nat) (b : Block) (slot prio age clock : Nat) (i : RecImage) (ks : List DWord) : Warp :=
  { Warp.blank with
    core := slot / 128, quarter := slot / 32 % 4, slot := slot % 32, block := block
    twin := if b.paired then (if i.flags / 2 % 2 = 1 then 1 else 0) else 2
    formed := true, cmp := c.cmp, ctx := c.ctx, super := i.flags / 8 % 2 = 1, phase := .running, pc := i.pc
    full := true, va := b.fv, ka := b.ka, ta := b.acc
    k := (List.range ks.length).foldl (fun m n => Store.set 0 m n (ks.getD n 0)) []
    prio := prio, age := age, idleSince := clock }

/-- A formed warp with its threads: position `n` holds the `n`th record in wid order. -/
def Warp.withThreads (w : Warp) (l : List (Nat × RecImage)) : Warp :=
  l.foldl (fun w p => { w.restore p.1 p.2 with wids := Store.set 0 w.wids p.1 p.2.wid }) w

/-- R53 to R57, R83: a warp formed in a slot from the 128 oldest records of a group; in a paired block their threads have
arrived at their clause (R66). Where a program has overwritten records, and those of the group hold different PCs, flags or
snapshot offsets, the spec does not say whose the warp takes: those of the lowest wid as it was read (DESIGN CHOICE,
log 61). -/
def State.form (s : State) (block slot : Nat) (b : Block) (c : Cluster) (group : List Rec) : State :=
  let g := group.take 128
  let ag : Agent := ⟨c.cmp, c.ctx, slot / 128, b.cluster⟩
  match s.readRecs ag b g with
  | .error e => s.formerFault block slot c g e
  | .ok (l, s1) => match sortBy (fun x y => x.2.wid.toNat < y.2.wid.toNat) l with
    | [] => s
    | h :: rest => match s1.readSnap ag b h.2.snap h.1.m with
      | .error e => s.formerFault block slot c g e
      | .ok (ks, s2) =>
        let id := s2.nextId
        let prio := match s2.launches.find b.launch with | some l => l.hdr.prio | none => 0
        let ordered := (h :: rest).map fun p => p.2
        let w := (formedBlank c block b slot prio s2.gtime s2.clock h.2 ks).withThreads
          ((List.range ordered.length).zip ordered)
        let here := if b.paired then g.map fun r => (r.slot, r.pc) else []
        let s3 := ((s2.tick1.bumpGen slot).putWarp id w).mapBlock block fun b =>
          { b.take (g.map (·.slot)) with
            arrivals := b.arrivals ++ here
            resWarp := if slot == slotKey b.resCore b.resQuarter b.resSlot then some id else b.resWarp }
        s3.settleTwins block

/-- The group of a record slot formed where it may be, under a condition of R56. -/
def State.tryForm (s : State) (block rec_ slot : Nat) (may : Block → List Rec → Bool) : State :=
  match s.blocks.find block with
  | none => s
  | some b => match b.recs.find? (fun r => r.slot == rec_), s.clusters.find b.cluster with
    | some r, some c =>
      let g := s.groupOf block b r
      if b.swapped || g == [] || (g.any fun x => x.token.isSome) || !may b g || !s.formerSlot b slot then s
      else s.form block slot b c g
    | _, _ => s

/-- WARP_FORMATION (R55 to R57). -/
def execWarpFormation (block rec_ slot : Nat) (s : State) : Host.Outcome State Fault Refusal :=
  .next (s.tryForm block rec_ slot (s.groupReady block))

/-- GROUP_WAIT_EXPIRY (R56): the group's oldest record has waited 2,048 clocks: a partial warp. -/
def execGroupWaitExpiry (block rec_ slot : Nat) (s : State) : Host.Outcome State Fault Refusal :=
  .next (s.tryForm block rec_ slot fun _ g => s.groupExpired g)

/-! ### Grants and returns -/

/-- ACQUIRE_GRANT (R39): the oldest request of a quarter, where its growth fits. -/
def execAcquireGrant (q : Nat) (s : State) : Host.Outcome State Fault Refusal :=
  .next (match s.acquirers (q / 4) (q % 4) with
    | [] => s
    | (id, w) :: _ => if s.growthFits w then s.grant id else s)

/-- GCLAIM_GRANT (R44): the oldest claim of an unowned register. -/
def execGclaimGrant (block g : Nat) (s : State) : Host.Outcome State Fault Refusal :=
  .next (match s.blocks.find block with
    | none => s
    | some b =>
      if (b.gowner.find g).isSome then s
      else match b.claims.find? fun p => p.1 == g with
        | none => s
        | some (_, id) =>
          let s1 := s.mapBlock block fun b => { b with claims := b.claims.filter fun p => !(p.1 == g && p.2 == id) }
          (s1.claimG id block g).advance id)

/-- R84: returns that are to land in a warp are still in flight, or its MAT instructions have not ended. -/
def State.returnsDue (s : State) (id : Nat) : Bool :=
  s.loads.all.any (fun p => p.2.warp == id) || s.acks.all.any (fun p => p.2.warp == id)
    || s.chases.all.any (fun p => p.2.warp == id)
    || s.engines.all.any (fun p => p.2.ops.any fun o => o.warp == id)
    || s.qops.all.any fun p => match p.2.agent with | .warp n _ _ => n == id | _ => false

/-- R84, R312: the same, or its commands run. -/
def State.inFlight (s : State) (id : Nat) : Bool :=
  s.returnsDue id || s.cmds.all.any fun p => p.2.warp == id && p.2.status == 0

/-- ALLOTMENT_RETURN (R67, R83, R84): an ended warp's slot and allotment return once its returns have settled, its next
generation is free and the loose bytes that the L1 still holds for it can go home (R134); the generation of the slot
increments. -/
def execAllotmentReturn (id : Nat) (s : State) : Host.Outcome State Fault Refusal :=
  .next (match s.warp id with
    | none => s
    | some w =>
      if w.phase != .ended || s.inFlight id || !s.genFree w.slotNo || s.backHeld (ofWarp w) then s
      else
        let s1 := s.sendOwn w
        ({ s1 with warps := s1.warps.erase id }.bumpGen w.slotNo).mapBlock w.block fun b =>
        if b.resWarp = some id then { b with resWarp := none } else b)

/-! ### Schedulers of a core -/

/-- R41: an `acquire` on a quarter of the core has waited more than 4,096 clocks. -/
def State.longWait (s : State) (core : Nat) : Bool :=
  s.warps.all.any fun p => p.2.core == core && !p.2.swapped && p.2.phase == .acquiring
    && match p.2.acqAt with | some t => t + 4096 < s.clock | none => false

/-- ADMISSION_THROTTLE (R41): a core with a long wait is under the throttle; a clock that begins without one lifts it
(`State.liftThrottle`). -/
def execAdmissionThrottle (core : Nat) (s : State) : Host.Outcome State Fault Refusal :=
  .next (if s.longWait core && !s.throttled.contains core then { s with throttled := core :: s.throttled } else s)

/-- R41: a clock begins: a core is under the throttle while an `acquire` on it has waited too long. -/
def State.liftThrottle (s : State) : State :=
  { s with throttled := ((s.warps.all.map fun p => p.2.core).eraseDups).filter s.longWait }

/-- YIELD_EXPIRY (R207): 64 clocks have passed, or every ready warp it yielded to has started a clause. -/
def execYieldExpiry (id : Nat) (s : State) : Host.Outcome State Fault Refusal :=
  .next (match s.warp id with
    | none => s
    | some w => match w.yieldAt with
      | none => s
      | some t => if t + 64 ≤ s.clock || w.yieldFor = [] then s.putWarp id { w with yieldAt := none, yieldFor := [] } else s)

/-- PRIORITY_BOOST (R361): 768 clocks without a start, while ready or kept from it by the throttle alone: the clocks of a warp
that is neither do not count (`State.countIdle`). -/
def execPriorityBoost (id : Nat) (s : State) : Host.Outcome State Fault Refusal :=
  .next (match s.warp id with
    | none => s
    | some w => if s.mayIssue w && !s.blockedNow w && w.idleSince + 768 ≤ s.clock then s.putWarp id { w with boosted := true } else s)

/-- R362: the halvings of a quarter's scores that are due: one for every 1,024 clocks since the last. -/
def State.decayDue (s : State) (q : Nat) : Nat := s.clock / 1024 - Store.get 0 s.decayAt q / 1024

/-- SCORE_DECAY (R362): each score of a quarter halved, once for every 1,024 clocks that have passed. -/
def execScoreDecay (q : Nat) (s : State) : Host.Outcome State Fault Refusal :=
  let n := s.decayDue q
  .next (if n = 0 then s
    else { s with
      decayAt := Store.set 0 s.decayAt q s.clock
      warps := s.warps.map fun p => (p.1, p.2.map fun w =>
        if w.quarterNo = q then { w with score := w.score / 2 ^ n } else w) })

end Sys2Proof.Machine
end

