-- ==== Sys2Proof/Machine/Launch.lean ====
section
/-! DEFINITION. Launch headers and their checks (R20 to R28, R348, R352, R356), the distributor's queues (R350, R351,
R408) and the end of a launch (R358). -/

namespace Sys2Proof.Machine

/-! ### Geometry (R20 to R30) -/

/-- The bit at which field `i` begins (R20). -/
def LaunchHdr.offset (h : LaunchHdr) (i : Nat) : Nat := (h.widths.take i).sum

/-- T: the threads of a block (R22). -/
def LaunchHdr.threads (h : LaunchHdr) : Nat := h.extents.getD (h.b - 1) 1 * 2 ^ h.offset (h.b - 1)

/-- T' (R49). -/
def LaunchHdr.slots (h : LaunchHdr) : Nat := if h.paired then 2 * h.threads else h.threads

/-- n: the cores of a block (R28). -/
def LaunchHdr.coresPer (h : LaunchHdr) : Nat := (h.slots + 16383) / 16384

/-- The product of the extents of fields `i` to `j - 1`. -/
def LaunchHdr.span (h : LaunchHdr) (i j : Nat) : Nat := ((h.extents.take j).drop i).foldl (· * ·) 1

/-- P: the blocks of a cluster (R25). -/
def LaunchHdr.perCluster (h : LaunchHdr) : Nat := h.span h.b h.c

/-- The clusters of a launch. -/
def LaunchHdr.clusters (h : LaunchHdr) : Nat := h.span h.c 6

/-- The placement units of a block: warps, or pairs (R29). -/
def LaunchHdr.units (h : LaunchHdr) : Nat := h.threads / 128

/-- The units that a core of a block takes. -/
def LaunchHdr.unitsPerCore (h : LaunchHdr) : Nat := if h.paired then 64 else 128

/-- The units on core `j` of a block (R29). -/
def LaunchHdr.unitsOn (h : LaunchHdr) (j : Nat) : Nat := min h.unitsPerCore (h.units - j * h.unitsPerCore)

/-- Z: the stride of block regions (R353). -/
def LaunchHdr.stride (h : LaunchHdr) : Nat :=
  (h.spawn + 127) / 128 * 128 + (h.slots * h.privBytes + 127) / 128 * 128

/-- The region count; 0 is read as 1. -/
def LaunchHdr.regionCount (h : LaunchHdr) : Nat := max 1 h.regions

/-- The wid bits of the fields that number a block (R20, R24). -/
def LaunchHdr.blockWid (h : LaunchHdr) (blkno : Nat) : Nat :=
  ((List.range (6 - h.b)).zip (digits (h.extents.drop h.b) blkno)).foldl
    (fun acc p => acc + p.2 * 2 ^ h.offset (h.b + p.1)) 0

/-! ### The header (Table 16.1) -/

/-- The fields of a header. -/
def headerOf (l : List Byte) : LaunchHdr :=
  let flags := bytesAt l 6 2
  let dep := bytesAt l 0x50 8
  let comp := bytesAt l 0x58 8
  { prio := flags / 4 % 8, coop := flags / 2 % 2 = 1, paired := flags % 2 = 1, entry := BitVec.ofNat 64 (bytesAt l 8 8)
    widths := (List.range 6).map fun i => bytesAt l (0x10 + i) 1
    extents := (List.range 6).map fun i => bytesAt l (0x18 + 4 * i) 4
    b := bytesAt l 0x16 1, c := bytesAt l 0x17 1, pv := bytesAt l 0x30 1, fv := bytesAt l 0x31 1, ka := bytesAt l 0x32 1
    acc := bytesAt l 0x33 1, scratch := bytesAt l 0x34 2, privBytes := bytesAt l 0x36 2
    arg := BitVec.ofNat 64 (bytesAt l 0x38 8), regionBase := BitVec.ofNat 64 (bytesAt l 0x40 8)
    spawn := bytesAt l 0x48 4, lmax := bytesAt l 0x4C 1, mmax := bytesAt l 0x4D 1, regions := bytesAt l 0x4E 2
    dep := if dep = 0 then none else some (BitVec.ofNat 64 (dep / 16 * 16), dep % 16)
    comp := if comp = 0 then none else some (BitVec.ofNat 64 comp) }

/-- Reason 1 (Table 16.2). -/
def badMagic (l : List Byte) : Bool :=
  bytesAt l 0 4 != 0x484C4A51 || bytesAt l 4 2 != 1 || bytesAt l 6 2 ≥ 32 || bytesAt l 0x60 32 != 0

/-- Reason 3: widths, extents, block and cluster boundaries, the paired limit (Table 2.1). -/
def LaunchHdr.badFields (h : LaunchHdr) : Bool :=
  let wb := h.offset h.b
  h.widths.any (fun w => 32 < w) || 64 < h.offset 6
    || ((h.widths.zip h.extents).any fun p => p.2 == 0 || 2 ^ p.1 < p.2)
    || h.b == 0 || 6 < h.b || wb < 7 || 16 < wb
    || (((h.widths.zip h.extents).take (h.b - 1)).any fun p => p.2 != 2 ^ p.1)
    || h.threads % 128 != 0 || h.c < h.b || 6 < h.c || 16 < h.perCluster || (h.paired && 65536 < 2 * h.threads)

/-- Reason 4: allotments and spawn limits. -/
def LaunchHdr.badAllotments (h : LaunchHdr) : Bool :=
  h.pv % 8 != 0 || h.pv < 16 || h.fv < h.pv || h.fv % 8 != 0 || 112 < h.fv || 64 < h.acc || h.ka % 8 != 0 || h.ka < 8
    || 128 < h.ka || 112 < h.lmax || h.fv < h.lmax || 16 < h.mmax || h.ka < h.mmax

/-- Reason 5: the spawn region (R49, R353). -/
def LaunchHdr.badRegion (h : LaunchHdr) : Bool :=
  h.spawn < h.slots * (24 + 4 * h.lmax) + 2 * (h.slots / 128) * (8 * h.mmax) || h.spawn % 8 != 0
    || h.regionBase.toNat % 128 != 0 || 2 ^ 63 < h.regionBase.toNat + h.regionCount * h.stride

/-- Reason 9: the idle-placement test (R356). -/
def LaunchHdr.tooBig (h : LaunchHdr) : Bool :=
  let m := if h.paired then 2 else 1
  let last := h.unitsOn (h.coresPer - 1)
  let r := last / 4 * m
  let other := ((List.range h.coresPer).map fun j => (h.unitsOn j + 3) / 4 * m).foldl max 0
  let g := if 1 ≤ r then h.fv - h.pv else 0
  let k := if 1 ≤ r then h.acc else 0
  32 < r + 1 || 1024 < r * h.pv + h.fv + g || 64 < h.acc + k || 32 < other || 1024 < other * h.pv + (h.fv - h.pv)

/-- The cores that a compartment owns. -/
def State.ownedCores (s : State) (cmp : Nat) : List Nat :=
  (List.range Config.cores).filter fun c => (s.comp cmp).coreGroups.getLsbD (c / 4)

/-- The greatest number of cores that a compartment owns within one die (Table 16.2). -/
def State.dieCores (s : State) (cmp : Nat) : Nat :=
  let l := (s.ownedCores cmp).map s.dieOf
  (l.eraseDups.map fun d => (l.filter (· == d)).length).foldl max 0

/-- What the distributor is to translation: a queue's context. -/
def distAgent (cmp ctx : Nat) : Agent := ⟨cmp, ctx, 4096, 0⟩

/-- Reason 10: a barrier that is misaligned, has bit 63 set, does not translate or is corrupt. -/
def State.badBarrier (s : State) (cmp ctx : Nat) (a : DWord) (need : Need) : Bool :=
  a.toNat % 16 ≠ 0 || match s.xlate (distAgent cmp ctx) a need with
    | .error e => e.cause != heldCause
    | .ok t => s.runFailed t.key 16 || !barOk (s.barObj t.key)

/-- R352: a context that is fenced or destroyed. -/
def State.ctxGone (s : State) (cmp ctx : Nat) : Bool :=
  match s.ctxOf cmp ctx with
  | none => true
  | some c => c.fenced

/-- Table 16.2: the lowest reason to reject a header; 11 before every other. -/
def State.rejectFor (s : State) (cmp ctx : Nat) (l : List Byte) : Option Nat :=
  let h := headerOf l
  if s.ctxGone cmp ctx then some 11
  else if badMagic l then some 1
  else if h.entry.extractLsb' 0 2 ≠ 0 || h.entry.getLsbD 63 then some 2
  else if h.badFields then some 3
  else if h.badAllotments then some 4
  else if h.badRegion then some 5
  else if 1024 < h.scratch || h.privBytes % 4 ≠ 0 then some 6
  else if h.coop ≠ decide (2 ≤ h.coresPer) then some 7
  else if 16 < h.perCluster * h.coresPer || s.dieCores cmp < h.perCluster * h.coresPer then some 8
  else if h.tooBig then some 9
  else if (match h.dep with | some p => s.badBarrier cmp ctx p.1 .read | none => false)
      || (match h.comp with | some a => s.badBarrier cmp ctx a .write | none => false) then some 10
  else none

/-! ### Fault records of the distributor -/

/-- A fault record with source 3 (Table 17.2): its cause, its value unless the walk met a malformed entry, and whether it
was a write. -/
def State.distFault (s : State) (cmp ctx : Nat) (f : Fail) (value : DWord) (write : Bool) : State :=
  (s.postFault { cause := f.cause, source := 3, pos := none
                 flags := (if write then 4 else 0) + if f.entry.isSome then 2 else 0
                 location := 0, cmp := cmp, ctx := ctx, cluster := 0, addr := if hasAddress f.cause then value else 0
                 point := 0, token := 0, value := f.entry.getD value } (.record none none)).1

/-- R352: a rejected launch: its records are posted and its entry is free. -/
def State.reject (s : State) (cmp ctx reason : Nat) (entry : DWord) : State :=
  (s.distFault cmp ctx ⟨0x17, none⟩ (BitVec.ofNat 64 reason) false).postEvent cmp 2 0 entry (BitVec.ofNat 64 reason)

/-! ### Activation (R351) -/

/-- The launches of a queue that are not active yet, in dequeue order. -/
def State.inactive (s : State) (cmp queue : Nat) : List (Nat × Launch) :=
  s.launches.all.filter fun p => p.2.cmp == cmp && p.2.queue == queue && (p.2.state == .queued || p.2.state == .waiting)

/-- A launch changed. -/
def State.setLaunch (s : State) (id : Nat) (st : LaunchState) : State :=
  match s.launches.find id with
  | none => s
  | some l => { s with launches := s.launches.put id { l with state := st } }

/-- A launch becomes active; its new name orders the launches by activation (R355). -/
def State.activate (s : State) (id : Nat) (l : Launch) : State :=
  let l1 := { l with state := .active }
  { s.tick1 with launches := Table.put (s.launches.erase id) s.nextId l1 }

/-- A launch rejected after its dequeue (R351). -/
def State.rejectLate (s : State) (id : Nat) (l : Launch) : State :=
  ({ s with launches := s.launches.erase id }).reject l.cmp l.ctx 10 l.entryAddr

/-- R351: the first comparison of the head launch with its dependence. -/
def State.compareHead (s : State) (id : Nat) (l : Launch) : State :=
  match l.hdr.dep with
  | none => s.activate id l
  | some (a, v) => match s.xlate (distAgent l.cmp l.ctx) a .read with
    | .error e => if e.cause = heldCause then s else s.rejectLate id l
    | .ok t =>
      if s.planeHeld t.key || s.leafHeld t false then s
      else
        let x := s.barObj t.key
        if s.runFailed t.key 16 || !barOk x then s.rejectLate id l
        else if barPhase x ≠ v then (s.touch t false).activate id l
        else
          let s1 := ((s.touch t false).setLaunch id .waiting).tick1
          { s1 with barWaits := s1.barWaits.put s.nextId ⟨.launch id, t.key, v, none, 0, none⟩ }

/-- R351: the launches at the head of a queue, as far as none waits; `fuel` counts them. -/
def State.pump (s : State) (cmp queue : Nat) : Nat → State
  | 0 => s
  | fuel + 1 => match s.inactive cmp queue with
    | (id, l) :: _ => if l.state == .queued then (s.compareHead id l).pump cmp queue fuel else s
    | [] => s

/-- Every queued launch of a queue looked at. -/
def State.pumpAll (s : State) (cmp queue : Nat) : State := s.pump cmp queue (s.inactive cmp queue).length

/-- The waiter of a launch at its dependence. -/
def State.depWait (s : State) (id : Nat) : Option (Nat × BWait) := s.barWaits.all.find? fun p => p.2.who == .launch id

/-- DEPENDENCE_RELEASE (R351): the phase has changed, or the object failed its checks; the queue goes on. -/
def execDependenceRelease (id : Nat) (s : State) : Host.Outcome State Fault Refusal :=
  .next (match s.launches.find id with
    | none => s
    | some l =>
      if l.state == .waiting then match s.depWait id with
        | none => s
        | some (n, b) => match b.woken with
          | none => s
          | some p =>
            let s1 := { s with barWaits := s.barWaits.erase n }
            (if p = 16 then s1.rejectLate id l else s1.activate id l).pumpAll l.cmp l.queue
      else if l.state == .queued then s.pumpAll l.cmp l.queue else s)

/-! ### The dequeue (R350, R408) -/

/-- The launch queue of a compartment. -/
def State.launchQueue (s : State) (cmp q : Nat) : Option LaunchQueue := (s.comp cmp).queues.find q

/-- The lowest free entry of a launch table (R350). -/
def State.freeEntry (s : State) (cmp q : Nat) (lq : LaunchQueue) : Option Nat :=
  (List.range lq.entries).find? fun i => !(s.launches.all.any fun p => p.2.cmp == cmp && p.2.queue == q && p.2.entryIx == i)

/-- R408: the distributor stops dequeuing from a queue and posts a record; a home that cannot be reached now (R397) stops
nothing. R408 gives the record's source, cause and value; its address is that of the control block and its write flag is set
(DESIGN CHOICE, log 52). -/
def State.stopQueue (s : State) (cmp q : Nat) (lq : LaunchQueue) (f : Fail) : State :=
  if lq.stopped || f.cause = heldCause then s
  else (s.mapComp cmp fun c => { c with queues := c.queues.put q { lq with stopped := true } }).distFault cmp lq.ctx f lq.block true

/-- R350, R352: a header delivered into its entry and checked. -/
def State.accept (s : State) (cmp q : Nat) (lq : LaunchQueue) (ix : Nat) (entry : List Trans) (l : List Byte) : State :=
  let s1 := s.writeUnits entry l
  let addr := lq.table + BitVec.ofNat 64 (128 * ix)
  match s1.rejectFor cmp lq.ctx l with
  | some r => s1.reject cmp lq.ctx r addr
  | none =>
    let x : Launch :=
      { cmp := cmp, queue := q, ctx := lq.ctx, super := lq.super, entryIx := ix, entryAddr := addr, hdr := headerOf l
        state := .queued, next := 0 }
    let s2 := { s1.tick1 with launches := s1.launches.put s1.nextId x }
    s2.pumpAll cmp q

/-- The distributor's operation that is taken or waits at a queue. -/
def State.distOp (s : State) (cmp q : Nat) : Option (Nat × QOp) :=
  s.qops.all.find? fun p => p.2.agent == .distributor q && p.2.cmp == cmp

/-- The home at which an operation is reserved or taken. -/
def State.busyHome (s : State) (id : Nat) : Option Nat := (s.homes.all.find? fun p => p.2.busy.contains id).map (·.1)

/-- The distributor's taken element delivered (R350). -/
def State.distDeliver (s : State) (cmp q : Nat) (lq : LaunchQueue) (id ix : Nat) (entry : List Trans) : State :=
  match s.busyHome id with
  | none => s
  | some k => match s.qfirst k false with
    | none => s
    | some (n, op) =>
      if n ≠ id || s.slotHeld op then s
      else (s.deliverOne k id op).accept cmp q lq ix entry (s.slotBytes k (op.slots.headD []) 128)

/-- An address of a launch queue translated in its context (R349), or, once the context is destroyed, from the root of the
page tables that it had (R352, log 48). -/
def State.queueXlate (s : State) (cmp : Nat) (lq : LaunchQueue) (va : DWord) (need : Need) : Except Fail Trans :=
  match s.ctxOf cmp lq.ctx with
  | some _ => s.xlate (distAgent cmp lq.ctx) va need
  | none => s.xlateVia (lq.root, (s.comp cmp).group) va need

/-- The distributor's dequeue of a header (R350). -/
def State.distRequest (s : State) (cmp q : Nat) (lq : LaunchQueue) : QOp :=
  { partEnqueue (.distributor q) cmp lq.ctx lq.block [] with
    enq := false, span := 128, data := []
    via := match s.ctxOf cmp lq.ctx with | some _ => none | none => some (lq.root, (s.comp cmp).group) }

/-- LAUNCH_DEQUEUE (R349, R350, R352, R408): the distributor asks for an element of a launch queue while its table has
a free entry, and delivers the one it has taken. R408 names the checks of Table 6.2 and the ring slots; a control block or a
free table entry that does not translate, or has no W, stops the queue in the same way, with the cause of the translation
(DESIGN CHOICE, log 52). -/
def execLaunchDequeue (cmp q : Nat) (s : State) : Host.Outcome State Fault Refusal :=
  .next (match s.launchQueue cmp q with
    | none => s
    | some lq => match s.freeEntry cmp q lq with
      | none => s
      | some ix =>
        match s.queueXlate cmp lq lq.block .write with
        | .error e => s.stopQueue cmp q lq e
        | .ok t => match units (fun x => s.queueXlate cmp lq x .write) (lq.table + BitVec.ofNat 64 (128 * ix)) 128 with
          | .error e => s.stopQueue cmp q lq e.2
          | .ok entry => match s.distOp cmp q with
            | some (id, _) => s.distDeliver cmp q lq id ix entry
            | none =>
              if lq.stopped || s.planeHeld t.key || s.leafHeld t true || !s.homeIdle t.key then s
              else
                let id := s.nextId
                let op := s.distRequest cmp q lq
                match s.tick1.qserve t.key id op (s.qempty t.key false) with
                | .refuse why _ s1 => s1.stopQueue cmp q lq why
                | .held => s
                | .wait => (s.tick1.touch t true).qjoin t.key id op
                | .served s1 => (s1.touch t true).distDeliver cmp q lq id ix entry)

/-! ### Completion (R358) -/

/-- The blocks of a launch. -/
def State.blocksOf (s : State) (launch : Nat) : List (Nat × Block) := s.blocks.all.filter fun p => p.2.launch == launch

/-- A block has ended: no thread, warp or record of it remains (R353). -/
def State.blockEnded (s : State) (block : Nat) (b : Block) : Bool :=
  b.recs == [] && !(s.warps.all.any fun p => p.2.block == block)

/-- R358: a launch has completed. -/
def State.launchDone (s : State) (id : Nat) (l : Launch) : Bool :=
  l.state == .placed && !s.ctxGone l.cmp l.ctx && ((s.blocksOf id).all fun p => s.blockEnded p.1 p.2)
    && !(s.cmds.all.any fun p => p.2.launch == id && p.2.status == 0)

/-- A launch with its blocks and clusters forgotten. -/
def State.forget (s : State) (id : Nat) : State :=
  let bs := (s.blocksOf id).map (·.1)
  { s with
    launches := s.launches.erase id
    blocks := s.blocks.filter fun p => !(bs.contains p.1)
    clusters := s.clusters.filter fun p => match p.2 with | some c => c.launch != id | none => false }

/-- The cores of a launch's blocks. -/
def State.launchCores (s : State) (id : Nat) : List Nat := ((s.blocksOf id).flatMap fun p => p.2.cores).eraseDups

/-- R134, R358: the loose bytes that the launch's accesses left in the L1 of its cores go home; `none` where they cannot
now (R397). -/
def State.publish (s : State) (id : Nat) : Option State :=
  let who (slot : Nat) : Bool := (s.launchCores id).contains (slot / 128)
  if s.backHeld who then none else some (s.sendHome who 0 (2 ^ 96))

/-- R358: the arrival at the completion barrier; `none` where its home cannot be reached now. -/
def State.arriveAt (s : State) (l : Launch) (a : DWord) : Option State :=
  match s.xlate (distAgent l.cmp l.ctx) a .write with
  | .error e => if e.cause = heldCause then none else some (s.distFault l.cmp l.ctx e a true)
  | .ok t =>
    if s.planeHeld t.key || s.leafHeld t true then none
    else match s.barDo t (.arrive 1) with
      | .corrupt s1 => some (s1.distFault l.cmp l.ctx ⟨0x0D, none⟩ a true)
      | .done true s1 => some (s1.distFault l.cmp l.ctx ⟨0x0C, none⟩ a true)
      | .done false s1 => some s1

/-- LAUNCH_COMPLETE (R358). -/
def execLaunchComplete (id : Nat) (s : State) : Host.Outcome State Fault Refusal :=
  .next (match s.launches.find id with
    | none => s
    | some l =>
      if !s.launchDone id l then s
      else match (s.publish id).bind fun s => match l.hdr.comp with | none => some s | some a => s.arriveAt l a with
        | none => s
        | some s1 => (s1.forget id).postEvent l.cmp 1 0 l.entryAddr (BitVec.ofNat 64 l.queue))

end Sys2Proof.Machine
end

