-- ==== Sys2Proof/Machine/Place.lean ====
section
/-! DEFINITION. Placement (R29, R40, R53, R62, R89, R353 to R357): reports, the placement of a cluster's blocks and
warps all at once, and the headroom test. -/

namespace Sys2Proof.Machine

/-! ### What is left (R40, R354, R357) -/

/-- R26: a cluster is resident until the exit of the last of its blocks. -/
def State.clusterLives (s : State) (cluster : Nat) : Bool :=
  s.blocks.all.any fun p => p.2.cluster == cluster && !s.blockEnded p.1 p.2

/-- The blocks that hold scratchpad of a core: those of the clusters that are resident on it (R26). -/
def State.blocksOn (s : State) (core : Nat) : List (Nat × Block) :=
  s.blocks.all.filter fun p => p.2.cores.contains core && !p.2.swapped && s.clusterLives p.2.cluster

/-- The scratchpad KiB of a core that blocks hold (R30). -/
def State.scratchUsed (s : State) (core : Nat) : Nat :=
  ((s.blocksOn core).map fun p => p.2.window / 1024 / max 1 p.2.cores.length).sum

/-- A quarter as a report would state it (R357). -/
def State.reportOf (s : State) (core q : Nat) : Report :=
  { slots := 32 - (s.inQuarter core q).length - (s.reserves core q).length
    granules := s.freeV core q / 8, tiles := s.freeT core q, scratch := 1024 - s.scratchUsed core }

/-- R357: a base die's next report is due: every 64 clocks, on the same interval for all. -/
def State.reportDue (s : State) (die : Nat) : Bool := die < 4 && Store.get 0 s.reportAt die / 64 < s.clock / 64

/-- RESOURCE_REPORT (R357): a base die reports the cores of its die. -/
def execResourceReport (die : Nat) (s : State) : Host.Outcome State Fault Refusal :=
  let mine := (List.range Config.cores).filter fun c => s.dieOf c == die
  let all : Table Report := mine.foldl (fun (m : Table Report) c =>
    (List.range 4).foldl (fun (m : Table Report) q => m.put (4 * c + q) (s.reportOf c q)) m) s.reports
  .next (if s.reportDue die then { s with reports := all, reportAt := Store.set 0 s.reportAt die s.clock } else s)

/-- The last report of a quarter. -/
def State.lastReport (s : State) (core q : Nat) : Report := (s.reports.find (4 * core + q)).getD ⟨0, 0, 0, 0⟩

/-- The v registers of a quarter that are granted or in reserve. -/
def State.grantedV (s : State) (core q : Nat) : Nat :=
  ((s.inQuarter core q).map fun p => p.2.va).sum + ((s.reserves core q).map fun p => p.2.fv).sum

/-- The accumulator tiles of a quarter that are granted or in reserve. -/
def State.grantedT (s : State) (core q : Nat) : Nat :=
  ((s.inQuarter core q).map fun p => p.2.ta).sum + ((s.reserves core q).map fun p => p.2.acc).sum

/-- R40: the growths of the warps that have not acquired. -/
def State.growths (s : State) (core q : Nat) : List (Nat × Nat) :=
  ((s.inQuarter core q).filter fun p => !p.2.full && p.2.phase != .ended).map fun p =>
    let f := s.fullOf p.2
    (f.1 - p.2.va, f.2 - p.2.ta)

/-- R40: the headroom test of a quarter, with its waiver. -/
def State.headroom (s : State) (core q : Nat) : Bool :=
  let g := s.growths core q
  let gv := (g.map fun p => p.1).foldl max 0
  let gt := (g.map fun p => p.2).foldl max 0
  s.grantedV core q ≤ Config.quarterRegs && s.grantedT core q ≤ Config.quarterTiles
    && ((gv ≤ s.freeV core q && gt ≤ s.freeT core q)
      || (s.inQuarter core q).any fun p => p.2.full && p.2.phase != .ended && gv ≤ p.2.va && gt ≤ p.2.ta)

/-! ### One block -/

/-- The lowest slot for a warp, or for a pair an even slot with the next (R62). -/
def State.findSlot (s : State) (core q : Nat) (paired : Bool) : Option Nat :=
  (List.range 32).find? fun i =>
    if paired then i % 2 == 0 && s.slotFree core q i && s.slotFree core q (i + 1) else s.slotFree core q i

/-- R89: the warp of a block as the distributor places it. Where its prologue allotment is the full one it holds the full
allotment, so that its `acquire` asks for nothing and it stays in state prologue: Table 2.4 gives no such case (DESIGN CHOICE,
log 61). -/
def placedWarp (l : Launch) (block : Nat) (b : Block) (core q slot u twin age clock : Nat) : Warp :=
  let h := l.hdr
  let base := h.blockWid b.blkno.toNat
  { Warp.blank with
    core := core, quarter := q, slot := slot, block := block, widx := u, twin := twin, cmp := l.cmp, ctx := l.ctx
    super := l.super, phase := .prologue, mask := BitVec.allOnes 128
    wids := Store.block 0 0 128 fun t => BitVec.ofNat 64 (base + 128 * u + t)
    pc := h.entry, full := h.pv == h.fv && h.acc == 0, va := h.pv, ka := h.ka, ta := 0
    k := Store.block 0 0 4 fun i => [h.arg, l.entryAddr, b.blkno, BitVec.ofNat 64 b.index].getD i 0
    prio := h.prio, age := age, idleSince := clock }

/-- A placed warp put in its slot (R83, R89). -/
def State.putPlaced (s : State) (l : Launch) (block : Nat) (b : Block) (core q slot u twin : Nat) : State :=
  let w := placedWarp l block b core q slot u twin s.gtime s.clock
  (s.tick1.bumpGen (slotKey core q slot)).putWarp s.nextId w

/-- R29, R62: unit `u` of a block placed: a warp, or a pair on one quarter. -/
def State.placeUnit (s : State) (l : Launch) (block : Nat) (b : Block) (rot u : Nat) : Option State :=
  let per := l.hdr.unitsPerCore
  let core := b.cores.getD (u / per) 0
  let q := (u % per + rot) % 4
  match s.findSlot core q b.paired with
  | none => none
  | some i =>
    if b.paired then some ((s.putPlaced l block b core q i u 0).putPlaced l block b core q (i + 1) u 1)
    else some (s.putPlaced l block b core q i u 2)

/-- A list of steps, each of which may fail. -/
def allSteps {α : Type} (f : State → α → Option State) (s : State) (l : List α) : Option State :=
  l.foldl (fun acc x => match acc with | none => none | some s => f s x) (some s)

/-- R353: the lowest free region of a launch. -/
def State.freeRegion (s : State) (launch : Nat) (h : LaunchHdr) : Option Nat :=
  (List.range h.regionCount).find? fun i =>
    !((s.blocksOf launch).any fun p => p.2.region == i && !s.blockEnded p.1 p.2)

/-- R53, R356: the slot kept for the warp former: on the block's last core, on a quarter that holds the fewest of its
warps, the highest free slot there. Quarter `j` after the rotation holds unit `j` and every fourth after it (R29). -/
def State.findReserve (s : State) (h : LaunchHdr) (cores : List Nat) (rot : Nat) : Option (Nat × Nat × Nat) :=
  let core := cores.getLastD 0
  let units := h.unitsOn (h.coresPer - 1)
  ((List.range 4).filter fun j => (units + 3 - j) / 4 == units / 4).findSome? fun j =>
    let q := (j + rot) % 4
    ((List.range 32).reverse.find? fun i => s.slotFree core q i).map fun i => (core, q, i)

/-- A block of a cluster placed with its warps (R29, R353, R354). -/
def State.placeBlock (s : State) (lid : Nat) (l : Launch) (cluster rot : Nat) (p : Nat × Nat) : Option State :=
  let h := l.hdr
  let cores := (List.range h.coresPer).map (p.2 + ·)
  match s.freeRegion lid h, s.findReserve h cores rot with
  | some region, some (rc, rq, rs) =>
    let start := h.regionBase + BitVec.ofNat 64 (region * h.stride)
    let id := s.nextId
    let b : Block :=
      { launch := lid, cluster := cluster, index := p.1, blkno := BitVec.ofNat 64 (p.1 + h.perCluster * l.next), cores := cores
        paired := h.paired, threads := h.threads, wbits := h.offset h.b, window := 1024 * h.coresPer * h.scratch, pv := h.pv, fv := h.fv
        ka := h.ka, acc := h.acc, lmax := h.lmax, mmax := h.mmax, region := region, spawnBase := start
        privBase := start + BitVec.ofNat 64 ((h.spawn + 127) / 128 * 128), privBytes := h.privBytes, gpub := [], gown := []
        gowner := [], claims := [], live := h.slots, arrived := 0, phase := 0, recs := [], arrivals := [], resCore := rc
        resQuarter := rq, resSlot := rs, resWarp := none, outAt := 0, priv := [], swapped := false }
    let s1 := { s.tick1 with blocks := s.blocks.put id b }
    let s2 := { s1 with clusters := s1.clusters.map fun (c : Nat × Option Cluster) =>
      if c.1 = cluster then (c.1, c.2.map fun x => { x with blocks := x.blocks ++ [id] }) else c }
    allSteps (fun s u => s.placeUnit l id b rot u) s2 (List.range h.units)
  | _, _ => none

/-! ### A cluster (R354, R355) -/

/-- The cores of a cluster's blocks. -/
def allCores (h : LaunchHdr) (cores : List Nat) : List Nat := cores.flatMap fun c => (List.range h.coresPer).map (c + ·)

/-- R339, R354, R41: a core from which a block may be tried: its cores of one core group, owned and not throttled. -/
def State.groupOk (s : State) (cmp : Nat) (h : LaunchHdr) (core : Nat) : Bool :=
  core / 4 == (core + h.coresPer - 1) / 4
    && (allCores h [core]).all fun c => c < Config.cores && (s.comp cmp).coreGroups.getLsbD (c / 4)
      && !s.throttled.contains c && !s.longWait c

/-- R354: cores on which a cluster may be tried: distinct and of one die. -/
def State.coresOk (s : State) (cmp : Nat) (h : LaunchHdr) (cores : List Nat) : Bool :=
  let l := allCores h cores
  cores.length == h.perCluster && decide l.Nodup && (cores.all (s.groupOk cmp h))
    && l.all fun c => s.dieOf c == s.dieOf (l.headD 0)

/-- R378: a new cluster of a launch. -/
def State.newCluster (s : State) (lid : Nat) (l : Launch) : State :=
  let seq : BitVec 32 := BitVec.ofNat 32 (s.comp l.cmp).seqCluster
  let token : DWord := Config.clusterCheck l.cmp (BitVec.ofNat 16 l.ctx) seq ++ BitVec.ofNat 16 l.ctx ++ seq
  let s1 := s.mapComp l.cmp fun c => { c with seqCluster := (c.seqCluster + 1) % 2 ^ 32 }
  { s1.tick1 with clusters := s1.clusters.put s1.nextId ⟨token, lid, l.cmp, l.ctx, [], false, none⟩ }

/-- What a placement took from a quarter stays within the distributor's last report (R354, 1). -/
def State.withinReport (s t : State) (core q : Nat) : Bool :=
  let r := s.lastReport core q
  let a := s.reportOf core q
  let b := t.reportOf core q
  a.slots - b.slots ≤ r.slots && a.granules - b.granules ≤ r.granules && a.tiles - b.tiles ≤ r.tiles
    && a.scratch - b.scratch ≤ r.scratch

/-- The distributor's view less its own reservations (R357). -/
def State.reserve (s t : State) (cores : List Nat) : State :=
  let less (c q : Nat) : Report :=
    let r := s.lastReport c q
    let a := s.reportOf c q
    let b := t.reportOf c q
    ⟨r.slots - (a.slots - b.slots), r.granules - (a.granules - b.granules), r.tiles - (a.tiles - b.tiles),
      r.scratch - (a.scratch - b.scratch)⟩
  let all : Table Report := cores.foldl (fun (m : Table Report) c =>
    (List.range 4).foldl (fun (m : Table Report) q => m.put (4 * c + q) (less c q)) m) t.reports
  { t with reports := all }

/-- What a placement put on cores is admitted there (R40, R354). -/
def State.admitted (s t : State) (on : List Nat) : Bool :=
  on.all fun c => t.scratchUsed c ≤ 1024 && (List.range 4).all fun q => t.headroom c q && s.withinReport t c q

/-- R354: the cluster's blocks placed on cores, admitted by every core, or nothing. -/
def State.tryPlace (s : State) (lid : Nat) (l : Launch) (cores : List Nat) (rot : Nat) : Option State :=
  let h := l.hdr
  if l.state != .active || s.ctxGone l.cmp l.ctx || h.clusters ≤ l.next || !s.coresOk l.cmp h cores then none
  else
    let cluster := s.nextId
    match allSteps (fun s p => s.placeBlock lid l cluster rot p) (s.newCluster lid l)
        ((List.range cores.length).zip cores) with
    | none => none
    | some t =>
      let on := allCores h cores
      if s.admitted t on then
        let st : LaunchState := if l.next + 1 = h.clusters then .placed else .active
        let l1 := { l with next := l.next + 1, state := st }
        some (s.reserve { t with launches := t.launches.put lid l1 } on)
      else none

/-- A block of a launch could be placed from a core on. -/
def State.blockFits (s : State) (lid : Nat) (l : Launch) (rot core : Nat) : Bool :=
  s.groupOk l.cmp l.hdr core && match (s.newCluster lid l).placeBlock lid l s.nextId rot (0, core) with
    | none => false
    | some t => s.admitted t (allCores l.hdr [core])

/-- The cores of a die from which blocks of a launch could be placed side by side, the lowest first. -/
def State.windows (s : State) (lid : Nat) (l : Launch) (rot die : Nat) : List Nat :=
  (List.range Config.cores).foldl (fun acc c =>
    if s.dieOf c == die && acc.all (fun x => x + l.hdr.coresPer ≤ c) && s.blockFits lid l rot c then acc ++ [c] else acc) []

/-- A launch whose next cluster could be placed on some cores now. A block takes the same from every core, so the lowest
places side by side serve if any do. -/
def State.placeable (s : State) (lid : Nat) (l : Launch) : Bool :=
  l.state == .active && (List.range 4).any fun rot => (List.range 4).any fun die =>
    (s.tryPlace lid l ((s.windows lid l rot die).take l.hdr.perCluster) rot).isSome

/-- R355: a launch that the distributor tries before another: higher priority, then earlier activation. -/
def tried (a b : Nat × Launch) : Bool := a.2.hdr.prio > b.2.hdr.prio || (a.2.hdr.prio == b.2.hdr.prio && a.1 < b.1)

/-- CLUSTER_PLACEMENT (R354, R355): the next cluster of a launch on these cores, where no launch that is tried before it
could be placed anywhere. -/
def execClusterPlacement (lid : Nat) (cores : List Nat) (rot : Nat) (s : State) : Host.Outcome State Fault Refusal :=
  .next (match s.launches.find lid with
    | none => s
    | some l =>
      if s.launches.all.any fun p => tried p (lid, l) && s.placeable p.1 p.2 then s
      else (s.tryPlace lid l cores rot).getD s)

end Sys2Proof.Machine
end

