-- ==== Sys2Proof/Machine/Serve.lean ====
section
/-! DEFINITION. What waits at a queue's home: the waiter lists (R157, R158) and what has its turn to come (R152, R159),
served in order, and what that is to who made the request. -/

namespace Sys2Proof.Machine

/-- The cause that a posted fault record holds (Table 17.2). -/
def QOp.recordCause (op : QOp) : Nat := ((op.data.headD []).getD 4 0).toNat

/-- R373: a fault record that cannot be posted: fault-lost; its warp takes the trap, which is noted against its token while its
cluster is swapped out (R375), its command its status. -/
def State.recordLost (s : State) (op : QOp) (warp cmd : Option Nat) : State :=
  let rec_ := op.data.headD []
  let s1 := s.faultLost op.cmp op.recordCause (BitVec.ofNat 64 (natOfBytes ((rec_.drop 24).take 8)))
  let s2 := match warp with
    | none => s1
    | some id => match s1.warp id with
      | none => s1
      | some w =>
        let p := w.susp.getD (op.recordCause, 0)
        if w.swapped then
          s1.mapComp op.cmp fun c =>
            { c with tokens := c.tokens.map fun t => if some t.token == w.token then { t with noted := some 1 } else t }
        else (s1.mapComp op.cmp fun c => { c with tokens := c.tokens.filter fun t => some t.token != w.token }).enterHandler id
          { w with wait := none, token := none, susp := none } (Trap.of p.1 p.2)
  match cmd with
  | some n => if s2.cmds.all.any fun p => p.1 == n && p.2.status == 0 then s2.endCmd n 3 else s2
  | none => s2

/-- R160: a window write that is discarded: an event of kind window-discard and a remote access error. -/
def State.windowDiscard (s : State) (cmp : Nat) (block : DWord) (conn rkey len : Nat) : State :=
  (s.postEvent cmp 7 4 block (BitVec.ofNat 64 len)).windowOver conn (.accessError conn rkey)

/-- What a refusal at the home is to who asked (R153, R160, R373, R390, R395, R408). -/
def State.refuseOp (s : State) (id : Nat) (op : QOp) (why : Fail) (val : DWord) : State :=
  match op.agent with
  | .warp wid _ _ => match s.warp wid with
    | none => s
    | some w => if w.wait = some (.queue id) then s.takeTrap wid (why.trap val op.enq none) else s
  | .window conn rkey => s.windowDiscard op.cmp op.addr conn rkey (op.data.headD []).length
  | .distributor q => match s.launchQueue op.cmp q with
    | none => s
    | some lq => s.stopQueue op.cmp q lq why
  | .record w c => s.recordLost op w c
  | .event source => s.eventLost op.cmp source
  | .module src ident => s.answerModule src ident none

/-- What a service is to who asked; a window write is acknowledged when its element is published (R155, R160). -/
def State.serveOp (s : State) (id : Nat) (op : QOp) : State :=
  match op.agent with
  | .warp wid _ _ => match s.warp wid with
    | none => s
    | some w => if w.wait = some (.queue id) then (s.putWarp wid (w.served op)).advance wid else s
  | .record _ (some n) => if s.cmds.all.any fun p => p.1 == n && p.2.status == 0 then s.endCmd n 3 else s
  | .window _ _ | .distributor _ | .record _ none | .event _ | .module _ _ => s

/-- A request off its list, its operation kept. -/
def State.unlist (s : State) (k id : Nat) : State :=
  let h := s.home k
  s.putHome k { h with enqW := h.enqW.filter (· ≠ id), deqW := h.deqW.filter (· ≠ id) }

/-- QUEUE_WAITER_SERVE (R157, R158, R407): the oldest waiter of a direction is served once it can be, or refused; not while the
home is beyond a plane that carries nothing (R397). -/
def execQueueWaiterServe (home : Nat) (enq : Bool) (s : State) : Host.Outcome State Fault Refusal :=
  .next (
    let h := s.home home
    if s.planeHeld home then s
    else match if enq then h.enqW else h.deqW with
    | [] => s
    | id :: _ => match s.qops.find id with
      | none => s.unlist home id
      | some op => match s.qperform home id op true true with
        | .refuse why v s1 => (s1.qleave home id).refuseOp id op why v
        | .wait | .held => s
        | .served s1 => (s1.unlist home id).serveOp id op)

/-! ### In front of a home (R152, R159) -/

/-- R152: an enqueue or a dequeue whose turn has come, as a request that has just reached its home. -/
def State.serveTurn (s : State) (k id : Nat) (op : QOp) : State :=
  let s1 := s.qleave k id
  match s1.qserve k id op (s1.qempty k op.enq) with
  | .refuse why v s2 => s2.refuseOp id op why v
  | .wait => (s1.touchBlock op).qjoin k id op
  | .held => s
  | .served s2 => (s2.touchBlock op).serveOp id op

/-- A `q.init` or a `qdrain` that has come to its turn (R159, R320): who asked goes on. -/
def State.serveInit (s : State) (k id : Nat) (op : QOp) : State :=
  let s0 := s.qleave k id
  let s1 := match op.drain with
    | some mode => s0.drainAt k mode
    | none => s0.qinit k op.init
  match op.agent with
  | .module src ident => s1.answerModule src ident (some [])
  | _ => match s1.qwarp op with
    | some (wid, w) => if w.wait = some (.queue id) then s1.advance wid else s1
    | none => s1.qdrop op

/-- The head of a home's line is performed: an event record, a `q.init` or a `qdrain`, or an enqueue or dequeue; it stays where
the home cannot reach a slot now (R397). -/
def State.serveLine (s : State) (k id : Nat) (op : QOp) : State :=
  match op.agent with
  | .event source => ((s.qleave k id).eventAt k id op source).getD s
  | _ => if op.solo then s.serveInit k id op else s.serveTurn k id op

/-! ### What waits for a plane (R397) -/

/-- One thing that waits for a plane tried again: a record goes to its queue, a packet goes on. -/
def State.resendOne (s : State) : Delayed → State
  | .post id op => match op.agent with
    | .event source => s.sendEvent id op source
    | .record w c =>
      let r := s.sendFault id op
      if r.2 then match c with
        | some n => if r.1.recordWaits n then r.1 else r.1.serveOp id op
        | none => r.1
      else r.1.recordLost op w c
    | _ => s
  | .packet group c p => s.walkForeign group c (c.steps.length + 2) p

/-- R397: what waits for a plane tried again in its order, and the records of twins that wait for one (R66). -/
def State.resend (s : State) : State :=
  let s1 := s.delayed.foldl (fun s d => s.resendOne d) { s with delayed := [] }
  s1.blocks.all.foldl (fun s p => s.settleTwins p.1) s1

/-- R161, R165, R386, R395: another module withdraws a request of its own that waits at a home here. -/
def State.remoteWithdraw (s : State) (src ident : Nat) : State :=
  let s1 := (s.qops.all.filter fun p => p.2.agent == .module src ident && p.2.counters == []).foldl
    (fun s p => match s.homeOf p.1 with | some k => s.qleave k p.1 | none => s) s
  { s1 with barWaits := s1.barWaits.filter fun p => match p.2 with | some b => b.who != .module src ident | none => false }

/-- R397: the block of an operation, or its leaf, lies beyond a plane that carries nothing now. -/
def State.blockHeld (s : State) (op : QOp) : Bool :=
  match s.xany ⟨op.cmp, op.ctx, 4096, op.cluster⟩ op.addr .write with
  | .ok t => s.leafHeld t true
  | .error f => f.cause == heldCause

/-- QUEUE_INIT_SERVE (R152, R159): what has waited longest in front of a home is performed once no waiter is to be served
first; a `q.init` or a `qdrain` once no slot is reserved or taken. -/
def execQueueInitServe (home : Nat) (s : State) : Host.Outcome State Fault Refusal :=
  .next (
    let h := s.home home
    match h.line with
    | [] => s
    | id :: _ => match s.qops.find id with
      | none => s.qleave home id
      | some op =>
        if (op.solo && h.busy != []) || s.planeHeld home || s.blockHeld op || s.qripe home h.enqW || s.qripe home h.deqW
        then s
        else s.serveLine home id op)

end Sys2Proof.Machine
end

