-- ==== Sys2Proof/Machine/Swap.lean ====
section
/-! DEFINITION. Pre-emption, its first half: `ctxs` (R321, R376, R378 to R383): the drain of a cluster's work, the replay
records and the save area. -/

namespace Sys2Proof.Machine

/-! ### The warps of a cluster -/

/-- The blocks of a cluster, by index. -/
def State.clusterBlocks (s : State) (c : Cluster) : List (Nat × Block) :=
  c.blocks.filterMap fun id => (s.blocks.find id).map fun b => (id, b)

/-- The warps of a cluster that have not ended. -/
def State.clusterWarps (s : State) (c : Cluster) : List (Nat × Warp) :=
  s.warps.all.filter fun p => c.blocks.contains p.2.block && p.2.phase != .ended

/-- R380: the order of a block's warps: by index, leader before follower, then formed warps by age. -/
def saveBefore (a b : Nat × Warp) : Bool :=
  if a.2.formed != b.2.formed then !a.2.formed
  else if a.2.formed then a.2.age < b.2.age || (a.2.age == b.2.age && a.1 < b.1)
  else a.2.widx < b.2.widx || (a.2.widx == b.2.widx && a.2.twin < b.2.twin)

/-- The warps of a block in the order of its records. -/
def State.saveOrder (s : State) (block : Nat) : List (Nat × Warp) :=
  sortBy saveBefore (s.warps.all.filter fun p => p.2.block == block && p.2.phase != .ended)

/-- The warp index that a record holds (R381, R382): twins and formed warps are numbered too (log 22). -/
def saveIndex (b : Block) (order : List (Nat × Warp)) (p : Nat × Warp) : Nat :=
  if p.2.formed then b.slots / 128 + (order.filter fun q => q.2.formed && saveBefore q p).length
  else if b.paired then 2 * p.2.widx + p.2.twin else p.2.widx

/-- The index of a warp by its name; 0xFFFF where it has none. -/
def indexOf (b : Block) (order : List (Nat × Warp)) (id : Nat) : Nat :=
  match order.find? fun p => p.1 == id with
  | some p => saveIndex b order p
  | none => 0xFFFF

/-- The warp that an index names. -/
def warpAt (b : Block) (order : List (Nat × Warp)) (n : Nat) : Option Nat :=
  (order.find? fun p => saveIndex b order p == n).map (·.1)

/-! ### Draining (R265, R379) -/

/-- A meaning's next state. -/
def nextOr (s : State) (o : Host.Outcome State Fault Refusal) : State :=
  match o with
  | .next t => t
  | _ => s

/-- `n` applications of a step. -/
def iterate (f : State → State) : Nat → State → State
  | 0, s => s
  | n + 1, s => iterate f n (f s)

/-- R193: a quarter's engine ends what it holds. -/
def State.drainEngine (s : State) (q : Nat) : State :=
  let e := s.engine q
  iterate (fun s => nextOr s (execMatrixEngineComplete q (nextOr s (execMatrixEngineStart q s)))) (2 * e.queue.length + 2) s

/-- R155, R156, R161: the earliest reserved or taken operation of a home moves one element. -/
def State.homeOnce (k : Nat) (s : State) : State :=
  match (s.home k).busy with
  | [] => s
  | id :: _ => match s.qops.find id with
    | none => s
    | some op => nextOr s (if op.enq then execQueuePublish k id s else execQueueDeliver k id s)

/-- R161: the elements that a home has reserved or taken. -/
def State.homeLoad (s : State) (k : Nat) : Nat :=
  ((s.home k).busy.map fun id => match s.qops.find id with | some op => op.counters.length + 1 | none => 1).sum

/-- R161, R379: a home completes every operation reserved or taken, and then what waits in front of it. -/
def State.drainHome (s : State) (k : Nat) : State :=
  let s1 := iterate (State.homeOnce k) (s.homeLoad k) s
  iterate (fun s => nextOr s (execQueueInitServe k s)) (s1.home k).line.length s1

/-- Whether a warp of the cluster has an operation at a home that it waits for no longer, or a `q.init` or `qdrain` there. -/
def State.homeConcerns (s : State) (ids : List Nat) (k : Nat) : Bool :=
  let h := s.home k
  (h.busy ++ h.line).any fun id => match s.qops.find id with
    | some op => match op.agent with | .warp w _ _ => ids.contains w | _ => false
    | none => false

/-- R186: a command on the scratchpad: its data or its tensor's stream (log 38). -/
def Cmd.onPad (c : Cmd) : Bool := ((c.word 3).extractLsb' 0 8 != 7 && (c.word 0).getLsbD 63) || (c.word 1).getLsbD 63

/-- R186: the commands of a cluster on the scratchpad, and those before them. -/
def State.padCmds (s : State) (cluster : Nat) : List Nat :=
  let mine := s.cmds.all.filter fun p => p.2.cluster == cluster && p.2.status == 0
  (mine.filter fun p => p.2.onPad || mine.any fun q => q.2.onPad && q.2.warp == p.2.warp && p.1 < q.1).map (·.1)

/-- R186: the scratchpad commands of a cluster end, in order. -/
def State.drainCmds (s : State) (cluster : Nat) : State :=
  (s.padCmds cluster).foldl (fun s id =>
    nextOr s (execCopyComplete id (nextOr s (execSerialCommandStart id (nextOr s (execCopyTake id s)))))) s

/-- R265: the stores and atomics of a warp complete: its acknowledgements arrive and its atomics land. -/
def State.drainWarp (s : State) (id : Nat) : State :=
  let acks := s.acks.all.filter fun p => p.2.warp == id
  let s1 := acks.foldl (fun s p => iterate (fun s => nextOr s (execStoreAck p.1 s)) p.2.left s) s
  (s1.loads.all.filter fun p => p.2.warp == id && p.2.rep.isNone).foldl (fun s p => nextOr s (execLoadReturn p.1 s)) s1

/-- R200, R379: the packets of a warp's chases end, each after at most eight steps. -/
def State.drainChases (s : State) (id : Nat) : State :=
  (s.chasesOf id).foldl (fun s p => p.2.packets.foldl (fun s k =>
    iterate (fun s => nextOr s (execChaseStep p.1 k.pos s)) 8 s) s) s

/-- R379, 2 and 3: a wait that a swap-out withdraws; a `gclaim` keeps its place (R259), and a `q.init` or a `qdrain` completes. -/
def State.withdrawn (s : State) (w : Warp) : Bool :=
  match w.wait with
  | some .gclaim => false
  | some (.queue op) => match s.qops.find op with | some q => !q.solo | none => false
  | _ => true

/-- What a warp waits for once its request is withdrawn: a queue, barrier or future request is in its record and is issued
again from there (R377). -/
def Wait.afterwards : Wait → Wait
  | .queue _ | .barrier _ | .future _ _ _ => .again
  | x => x

/-- R379, 2: the blocked requests of a cluster's warps withdrawn: nothing that ends later reaches them. -/
def State.withdrawAll (s : State) (ws : List (Nat × Warp)) : State :=
  ws.foldl (fun s p => if s.withdrawn p.2 then (s.withdraw p.1).mapWarp p.1 fun w => { w with wait := w.wait.map Wait.afterwards }
    else s) s

/-- The warps of a cluster that have ended and whose allotment has not returned. -/
def State.endedWarps (s : State) (c : Cluster) : List Nat :=
  (s.warps.all.filter fun p => c.blocks.contains p.2.block && p.2.phase == .ended).map (·.1)

/-- R84, R312: the returns of an ended warp settle, and its allotment returns. -/
def State.drainEnded (s : State) (id : Nat) : State :=
  let s1 := (s.drainWarp id).drainChases id
  let s2 := (s1.loads.all.filter fun p => p.2.warp == id).foldl (fun s p => nextOr s (execLoadReturn p.1 s)) s1
  let s3 := (s2.chases.all.filter fun p => p.2.warp == id).foldl (fun s p => nextOr s (execChaseReply p.1 s)) s2
  nextOr s3 (execAllotmentReturn id s3)

/-- R379, 3: what a cluster has handed to engines and homes ends, and what its ended warps are still to receive settles. -/
def State.drain (s : State) (cluster : Nat) (c : Cluster) : State :=
  let ids := (s.clusterWarps c).map (·.1)
  let gone := s.endedWarps c
  let quarters := (s.warps.all.filter fun p => c.blocks.contains p.2.block && !p.2.swapped).map fun p => p.2.quarterNo
  let s1 := quarters.eraseDups.foldl (fun s q => s.drainEngine q) s
  let s2 := s1.drainCmds cluster
  let s3 := ((s2.homes.all.map (·.1)).filter (s2.homeConcerns (ids ++ gone))).foldl (fun s k => s.drainHome k) s2
  gone.foldl (fun s id => s.drainEnded id) (ids.foldl (fun s id => (s.drainWarp id).drainChases id) s3)

/-- What R379 waits for has ended, beats under way too, no return of an ended warp is due (R312), and none is in flight for a
generation that a slot would take next (R84). -/
def State.drained (s : State) (cluster : Nat) (c : Cluster) : Bool :=
  let ids := (s.clusterWarps c).map (·.1)
  ((s.clusterWarps c).all fun p => p.2.wait != some .beats) &&
  (s.warps.all.all fun p => !(c.blocks.contains p.2.block) || s.genFree p.2.slotNo) &&
  ((s.endedWarps c).all fun id => !s.returnsDue id) &&
  (ids.all fun id => (s.chasesOf id).all fun p => p.2.packets.all fun k => k.st != .flying) &&
  (s.padCmds cluster == []) && (s.homes.all.all fun p => !s.homeConcerns ids p.1)
    && !(s.acks.all.any fun p => ids.contains p.2.warp)
    && s.engines.all.all fun p => (p.2.queue ++ p.2.run.toList).all fun o =>
      !(ids.contains o.warp) || match o.kind with | .mgd _ _ => true | _ => false

/-! ### Replay records (Table 17.3) -/

/-- A replay record with its payload. -/
structure SavedRec where
  kind : Nat
  counter : Nat
  ix : Nat
  w0 : Word
  w1 : Word
  mask : Mask
  payload : List Byte
  deriving DecidableEq, Repr

/-- The bytes of a record. -/
def SavedRec.bytes (r : SavedRec) : List Byte :=
  bytesOfNat 1 r.kind ++ bytesOfNat 1 r.counter ++ bytesOfNat 1 r.ix ++ bytesOfNat 1 0 ++ bytesOfNat 4 r.w0.toNat
    ++ bytesOfNat 4 r.w1.toNat ++ bytesOfNat 4 r.payload.length ++ bytesOfNat 16 r.mask.toNat ++ r.payload

/-- A list of bytes padded with zeros to a length. -/
def padTo (n : Nat) (l : List Byte) : List Byte := l ++ List.replicate (n - l.length) 0

/-- A list of bytes padded to a multiple of 8. -/
def pad8 (l : List Byte) : List Byte := padTo ((l.length + 7) / 8 * 8) l

/-- The record of a read in flight (kinds 1 to 3 and 9). -/
def Replay.saved (r : Replay) : SavedRec :=
  ⟨r.kind, r.counter, r.ix, r.w0, r.w1, r.mask, r.addrs.flatMap fun p => bytesOfNat 8 p.2.toNat⟩

/-- Kind 4: a packet: its pointer or result, step, state and fault kind. -/
def Packet.saved (p : Packet) : List Byte :=
  let st : Nat × DWord × Nat := match p.st with
    | .done x => (0, x, 0)
    | .flying => (1, p.ptr, 0)
    | .fault k _ => (2, p.ptr, k)
    | .hop => (2, p.ptr, 0x10)
    | .bad _ => (2, p.ptr, 0x15)
  padTo 16 (bytesOfNat 8 st.2.1.toNat ++ bytesOfNat 1 p.step ++ bytesOfNat 1 st.1 ++ bytesOfNat 1 st.2.2)

/-- Kind 4: a chase. -/
def Chase.saved (c : Chase) : SavedRec :=
  let r := c.rep
  ⟨4, c.dc, r.ix, r.w0, r.w1, maskOfList (c.packets.map (·.pos)), c.packets.flatMap Packet.saved⟩

/-- Kinds 5 and 6: a queue request that waits. -/
def QOp.saved (op : QOp) (ix : Nat) : SavedRec :=
  ⟨if op.enq then 5 else 6, op.dc.getD 0, ix, op.word, 0, if op.thr then maskOfList op.threads else 1,
    bytesOfNat 8 op.addr.toNat ++ if op.enq then op.data.flatMap (padTo 256) else []⟩

/-- The bound that remains of a deadline. -/
def State.remaining (s : State) (d : Option Nat) : Nat :=
  match d with
  | none => 0xFFFFFFFF
  | some t => min 0xFFFFFFFE (t - s.clock)

/-- Kind 7: a wait on a barrier object or a future: the wait at which the warp stands. -/
def Warp.waitRec (w : Warp) (obj : DWord) (phase bound : Nat) : SavedRec :=
  let x := w.hdr.instrWords w.words w.ix
  ⟨7, (FmtE.parse x.1).dc.toNat, w.ix, x.1, x.2.getD 0, 1,
    bytesOfNat 8 obj.toNat ++ bytesOfNat 4 phase ++ bytesOfNat 4 bound⟩

/-- The chases of a warp in record order. -/
def State.walksOf (s : State) (id : Nat) : List (Nat × Chase) :=
  sortBy (fun (a b : Nat × Chase) => a.1 < b.1) (s.chasesOf id)

/-- The records of a warp's reads and chases, in issue order (R376, R377). -/
def State.flightRecs (s : State) (id : Nat) : List SavedRec :=
  let reads := (s.loads.all.filter fun p => p.2.warp == id).filterMap fun p => p.2.rep.map fun r => (p.1, r.saved)
  let walks := (s.walksOf id).map fun p => (p.1, p.2.saved)
  (sortBy (fun (a b : Nat × SavedRec) => a.1 < b.1) (reads ++ walks)).map fun p => p.2

/-- The record of what a warp is blocked in, or of its `acquire` (R376): it is the last that issued. -/
def State.waitRecs (s : State) (w : Warp) : List SavedRec :=
  let x := w.hdr.instrWords w.words w.ix
  if w.phase == .acquiring then [⟨8, 0, w.ix, x.1, x.2.getD 0, 1, bytesOfNat 8 w.age⟩]
  else match w.wait with
    | some (.queue op) => match s.qops.find op with
      | some q => if q.solo then [] else [q.saved w.ix]
      | none => []
    | some (.barrier n) => match s.barWaits.find n with
      | some b => [w.waitRec (w.kr (FmtE.parse x.1).y.toNat) b.phase (s.remaining b.deadline)]
      | none => []
    | some (.future h d _) => [w.waitRec h 0 (s.remaining d)]
    | _ => []

/-! ### The save area (R380 to R383) -/

/-- R383: a v register coded. -/
def codedReg (w : Warp) (r : Nat) : List Byte :=
  let base := w.vr r 0
  let d (t : Nat) : Int := (w.vr r t - base).toInt
  let within (n : Int) : Bool := (List.range 128).all fun t => decide (-n ≤ d t ∧ d t < n)
  let out (n : Nat) : List Byte := (List.range 128).flatMap fun t => bytesOfNat n (BitVec.ofInt (8 * n) (d t)).toNat
  if (List.range 128).all fun t => d t == 0 then bytesOfNat 4 0x10 ++ bytesOfNat 4 base.toNat
  else if within 128 then bytesOfNat 4 0x20 ++ bytesOfNat 4 base.toNat ++ out 1
  else if within 32768 then bytesOfNat 4 0x30 ++ bytesOfNat 4 base.toNat ++ out 2
  else bytesOfNat 4 0 ++ (List.range 128).flatMap fun t => bytesOfNat 4 (w.vr r t).toNat

/-- The shares of a counter that records and running commands hold (R382). -/
def State.sharesHeld (s : State) (id n : Nat) (recs : List SavedRec) : Nat :=
  (recs.filter fun r => r.counter == n && r.kind ≤ 4).length
    + (s.cmds.all.filter fun p => p.2.warp == id && p.2.status == 0 && p.2.dc == n).length

/-- R382: the head of a warp record. -/
def State.warpHead (s : State) (id : Nat) (w : Warp) (index : Nat) (recs : List SavedRec) : List Byte :=
  let st := if s.blockedNow w then 4 else match w.phase with | .prologue => 1 | .acquiring => 2 | _ => 3
  let flags := (if w.sfail.isSome then 16 else 0) + w.twin * 4 + (if w.formed then 2 else 0) + if w.super then 1 else 0
  let size := (recs.map fun r => 32 + r.payload.length).sum
  padTo 256 (bytesOfNat 8 w.point.toNat ++ bytesOfNat 16 w.mask.toNat ++ bytesOfNat 8 w.age ++ bytesOfNat 1 st
    ++ bytesOfNat 1 flags ++ bytesOfNat 1 w.latN ++ bytesOfNat 1 w.fflags.toNat
    ++ ((List.range 4).flatMap fun n => bytesOfNat 1 (w.dn n - s.sharesHeld id n recs))
    ++ bytesOfNat 1 w.va ++ bytesOfNat 1 w.ka ++ bytesOfNat 1 w.ta ++ bytesOfNat 1 w.mgdN ++ bytesOfNat 4 index
    ++ ((List.range 4).flatMap fun i => bytesOfNat 8 (Store.get 0 w.win i).toNat)
    ++ bytesOfNat 8 w.xpc.toNat ++ bytesOfNat 8 w.xcause.toNat ++ bytesOfNat 8 w.xval.toNat ++ bytesOfNat 8 w.xstat.toNat
    ++ bytesOfNat 8 w.xscr0.toNat ++ bytesOfNat 8 w.xscr1.toNat ++ bytesOfNat 8 (w.token.getD 0).toNat
    ++ bytesOfNat 16 w.markV.toNat ++ bytesOfNat 16 w.markK.toNat ++ bytesOfNat 4 recs.length ++ bytesOfNat 4 size
    ++ bytesOfNat 16 w.markE.toNat ++ bytesOfNat 8 w.markL.toNat ++ bytesOfNat 8 w.markT.toNat)

/-- R382: a warp record. -/
def State.warpBytes (s : State) (recs : List SavedRec) (id : Nat) (w : Warp) (index : Nat) : List Byte :=
  s.warpHead id w index recs
    ++ ((List.range 512).flatMap fun i => bytesOfNat 8 (Store.get 0 w.lat i).toNat)
    ++ padTo 128 ((List.range 7).flatMap fun i => bytesOfNat 16 (w.pr (i + 1)).toNat)
    ++ ((List.range w.ka).flatMap fun i => bytesOfNat 8 (w.kr i).toNat)
    ++ ((List.range w.va).flatMap fun r => (List.range 32).map fun i => w.er r i)
    ++ ((List.range w.va).flatMap fun r => codedReg w r)
    ++ ((List.range (1024 * w.ta)).flatMap fun i => bytesOfNat 4 (Store.get 0 w.acc i).toNat)
    ++ recs.flatMap SavedRec.bytes

/-- R381: the oldest record of each pending group. -/
def Block.groups (b : Block) : List Rec :=
  (sortBy Rec.older b.recs).foldl (fun acc r => if acc.any (Rec.mergeable r) then acc else acc ++ [r]) []

/-- R381: a block record. -/
def State.blockBytes (s : State) (id : Nat) (b : Block) : List Byte :=
  let order := s.saveOrder id
  let g (f : Nat → List Byte) : List Byte := (List.range 32).flatMap f
  padTo 64 (bytesOfNat 4 order.length ++ bytesOfNat 4 b.groups.length ++ bytesOfNat 4 b.claims.length
      ++ bytesOfNat 4 b.arrived ++ bytesOfNat 8 b.phase ++ bytesOfNat 8 b.spawnBase.toNat)
    ++ g (fun n => bytesOfNat 8 (Store.get 0 b.gpub n).toNat) ++ g (fun n => bytesOfNat 8 (Store.get 0 b.gown n).toNat)
    ++ g (fun n => bytesOfNat 2 (match b.gowner.find n with | some w => indexOf b order w | none => 0xFFFF))
    ++ (b.groups.flatMap fun r => bytesOfNat 4 r.slot ++ bytesOfNat 4 (s.clock - r.waited))
    ++ pad8 (b.claims.flatMap fun p => bytesOfNat 2 p.1 ++ bytesOfNat 2 (indexOf b order p.2))
    ++ s.bytes (padKey id 0) b.window
    ++ ((List.range (b.window / 128)).flatMap fun l => (List.range 8).map fun i => s.sideByte (padKey id (128 * l)) i)

/-- R380: the header of the area (Table 17.4): the cluster, its warp records, and the bytes that follow. -/
def State.areaHead (s : State) (c : Cluster) (body : Nat) : List Byte :=
  bytesOfNat 4 0x58434A51 ++ bytesOfNat 2 1 ++ bytesOfNat 2 c.blocks.length ++ bytesOfNat 8 (64 + body)
    ++ bytesOfNat 8 c.token.toNat ++ bytesOfNat 4 (s.clusterWarps c).length ++ bytesOfNat 4 0 ++ bytesOfNat 8 s.gtime
    ++ bytesOfNat 24 0

/-- R380: the records of the blocks and of their warps, with the replay records that each warp has. -/
def State.areaBody (s : State) (c : Cluster) (recs : Nat → List SavedRec) : List Byte :=
  (s.clusterBlocks c).flatMap fun p => s.blockBytes p.1 p.2
    ++ let order := s.saveOrder p.1
       order.flatMap fun q => s.warpBytes (recs q.1) q.1 q.2 (saveIndex p.2 order q)

/-- R380: the whole area. -/
def State.areaBytes (s : State) (c : Cluster) (recs : Nat → List SavedRec) : List Byte :=
  let body := s.areaBody c recs
  s.areaHead c body.length ++ body

/-- R380, R405: the warps of a block, those that have ended with them: the warps of its launch and those formed. -/
def State.warpsOf (s : State) (p : Nat × Block) : Nat :=
  p.2.slots / 128 + ((s.saveOrder p.1).filter fun q => q.2.formed).length

/-- R380: the save bound of a cluster. -/
def State.saveBound (s : State) (c : Cluster) : Nat :=
  let bs := s.clusterBlocks c
  64 + (bs.map fun p => 1024 + 1088 * (p.2.window / 1024) + 8 * (s.warpsOf p + p.2.groups.length)).sum
    + (bs.map fun p => (s.saveOrder p.1).length * (4480 + 8 * p.2.ka + 548 * p.2.fv + 4096 * p.2.acc + 36864)).sum

/-! ### ctxs (R321, R379) -/

/-- The cluster that a token names in a compartment. -/
def State.clusterOf (s : State) (cmp : Nat) (token : DWord) : Option (Nat × Cluster) :=
  s.clusters.all.find? fun p => p.2.token == token && p.2.cmp == cmp

/-- What the part keeps of a recorded chase beside its record. -/
def Chase.walk (c : Chase) : Walk := ⟨c.pc, c.super, c.trapped, c.held, c.steps⟩

/-- R379, 4 and 5: a warp leaves its slot, with what it waits for (Table 2.4): its reads and chases are in its records, and
the generation of the slot increments. -/
def State.swapWarp (s : State) (id : Nat) : State :=
  let walks := (s.walksOf id).map fun p => p.2.walk
  let s1 := s.mapWarp id fun w => { w with
    swapped := true, score := 0, boosted := false, yieldAt := none, yieldFor := [], walks := walks }
  let s2 := match s1.warp id with | some w => s1.bumpGen w.slotNo | none => s1
  { s2 with
    loads := s2.loads.filter fun p => match p.2 with | some l => l.warp != id | none => false
    chases := s2.chases.filter fun p => match p.2 with | some c => c.warp != id | none => false }

/-- An ended warp of a cluster that is swapped out, whose commands may still run (R171): its slot is free, and its generation
increments (Table 2.4). -/
def State.dropEnded (s : State) (c : Cluster) : State :=
  (s.warps.all.filter fun p => c.blocks.contains p.2.block && p.2.phase == .ended).foldl
    (fun s p => ({ s with warps := s.warps.erase p.1 } : State).bumpGen p.2.slotNo) s

/-- R379, 5: a cluster swapped out: its slots, allotments, scratchpad and former slots are free. -/
def State.swapOut (s : State) (id : Nat) (c : Cluster) : State :=
  let s1 := (s.clusterWarps c).foldl (fun t p => t.swapWarp p.1) (s.dropEnded c)
  let s2 := c.blocks.foldl (fun t b => t.mapBlock b fun x => { x with swapped := true, resWarp := none, outAt := s.clock }) s1
  { s2 with clusters := s2.clusters.put id { c with swapped := true, stopping := none } }

/-- The slots whose loose bytes a save needs home: those of the cluster's warps (R265) and of the warp that saves it, whose
stores to the area are older (R134). -/
def State.saveSlots (s : State) (c : Cluster) (by_ : Warp) (slot : Nat) : Bool :=
  slot == by_.slotNo || s.warps.all.any fun p => c.blocks.contains p.2.block && !p.2.swapped && p.2.slotNo == slot

/-- R397: bytes that the save needs home, or the area itself, on a plane that carries nothing now. -/
def State.saveHeld (s : State) (c : Cluster) (by_ : Warp) (l : List (Trans × Nat)) : Bool :=
  s.backHeld (s.saveSlots c by_) || l.any fun p => s.planeHeld p.1.key || s.leafHeld p.1 true

/-- R379, 1: the cluster stops issue while the `ctxs` of a warp waits for its work to end. -/
def State.stopCluster (s : State) (id : Nat) (c : Cluster) (by_ : Nat) : State :=
  { s with clusters := s.clusters.put id { c with stopping := some by_ } }

/-- R379, 2 to 5: the cluster saved in its area and swapped out; none while something that R379 waits for has not ended. -/
def State.saveCluster (s : State) (id : Nat) (c : Cluster) (by_ : Warp) (area : DWord) : Option State :=
  let ws := s.clusterWarps c
  let waits (n : Nat) : List SavedRec := match s.warp n with | some w => s.waitRecs w | none => []
  let s1 := ((s.withdrawAll ws).drain id c).sendHome (s.saveSlots c by_) 0 (2 ^ 96)
  if !s1.drained id c then none
  else
    let bytes := s1.areaBytes c fun n => s1.flightRecs n ++ waits n
    match s1.xspan (s.agentOf by_) area bytes.length .write with
    | .error _ => none
    | .ok l => if s.saveHeld c by_ l then none else some ((s1.writeSpan l bytes).swapOut id c)

/-- ctxs (R321, R379): the area is checked, the cluster stops, its work ends, the area is written and the slots are freed.
An area beyond a failed link is refused before any effect (log 45). -/
def execCtxs (f : FmtS) (s : State) : Host.Outcome State Fault Refusal :=
  s.sys (.ctxs f) [.k f.x.toNat, .k f.y.toNat] fun s w =>
    let area := w.kr f.x.toNat
    match s.clusterOf w.cmp (w.kr f.y.toNat) with
    | none => .trap (Trap.of 0x02 (firstWord (.ctxs f))) s
    | some (id, c) =>
      if c.swapped || c.blocks.contains w.block then .trap (Trap.of 0x02 (firstWord (.ctxs f))) s
      else if area.toNat % 64 ≠ 0 then .trap { Trap.of 0x05 area with write := true } s
      else match s.xspan (s.agentOf w) area (s.saveBound c) .write with
        | .error e => .trap (e.2.trap e.1 true none) s
        | .ok l =>
          if l.any fun p => s.broken w.core p.1.key then .trap { Trap.of 0x15 area with write := true } s
          else match s.saveCluster id c w area with
            | none => .stay ((s.stopCluster id c s.cur).block s.cur .sys)
            | some t => .done t

end Sys2Proof.Machine
end

