-- ==== Sys2Proof/Machine/Resume.lean ====
section
/-! DEFINITION. Pre-emption, its second half: `ctxr` (R321, R377, R384): the area read and checked, the cluster placed
anew, its blocks and warps restored and its replay records reissued. -/

namespace Sys2Proof.Machine

/-! ### Reading the area (R380 to R384) -/

/-- A warp record as the area holds it. -/
structure SavedWarp where
  head : List Byte
  lat : List Byte
  preds : List Byte
  ks : List Byte
  es : List Byte
  vs : List (List Word)
  tiles : List Byte
  recs : List SavedRec
  deriving DecidableEq, Repr

/-- A block record as the area holds it, with its warps. -/
structure SavedBlock where
  head : List Byte
  gs : List Byte
  groups : List Byte
  claims : List Byte
  window : List Byte
  side : List Byte
  warps : List SavedWarp
  deriving DecidableEq, Repr

/-- R383: one coded register: its 128 values and the bytes after it; none for any other format byte. -/
def parseReg (l : List Byte) : Option (List Word × List Byte) :=
  let base : Word := BitVec.ofNat 32 (bytesAt l 4 4)
  let deltas (n : Nat) : List Word := (List.range 128).map fun t => base + BitVec.ofInt 32 (intAt l (8 + n * t) n)
  match bytesAt l 0 1 with
  | 0x10 => some (List.replicate 128 base, l.drop 8)
  | 0x20 => some (deltas 1, l.drop 136)
  | 0x30 => some (deltas 2, l.drop 264)
  | 0x00 => some ((List.range 128).map fun t => BitVec.ofNat 32 (bytesAt l (4 + 4 * t) 4), l.drop 516)
  | _ => none

/-- `n` coded registers. -/
def parseRegs : Nat → List Byte → Option (List (List Word) × List Byte)
  | 0, l => some ([], l)
  | n + 1, l => match parseReg l with
    | none => none
    | some (r, l1) => match parseRegs n l1 with
      | none => none
      | some (rs, l2) => some (r :: rs, l2)

/-- `n` replay records; none for a kind outside Table 17.3. The spec gives a counter byte above 3 no fate: it is read modulo 4
(DESIGN CHOICE, log 59). -/
def parseRecs : Nat → List Byte → Option (List SavedRec × List Byte)
  | 0, l => some ([], l)
  | n + 1, l =>
    let kind := bytesAt l 0 1
    let size := bytesAt l 12 4
    if kind = 0 ∨ 9 < kind ∨ l.length < 32 + size then none
    else
      let r : SavedRec :=
        ⟨kind, bytesAt l 1 1 % 4, bytesAt l 2 1, BitVec.ofNat 32 (bytesAt l 4 4), BitVec.ofNat 32 (bytesAt l 8 4),
          BitVec.ofNat 128 (bytesAt l 16 16), (l.drop 32).take size⟩
      match parseRecs n (l.drop (32 + size)) with
      | none => none
      | some (rs, l1) => some (r :: rs, l1)

/-- A warp record (R382). -/
def parseWarp (l : List Byte) : Option (SavedWarp × List Byte) :=
  let v := bytesAt l 40 1
  let k := bytesAt l 41 1
  let acc := bytesAt l 42 1
  let l1 := l.drop 256
  let l2 := l1.drop 4096
  let l3 := l2.drop 128
  let l4 := l3.drop (8 * k)
  match parseRegs v (l4.drop (32 * v)) with
  | none => none
  | some (vs, l5) =>
    if l5.length < 4096 * acc then none
    else match parseRecs (bytesAt l 168 4) (l5.drop (4096 * acc)) with
      | none => none
      | some (recs, rest) =>
        some (⟨l.take 256, l1.take 4096, l2.take 128, l3.take (8 * k), l4.take (32 * v), vs, l5.take (4096 * acc), recs⟩, rest)

/-- `n` warp records. -/
def parseWarps : Nat → List Byte → Option (List SavedWarp × List Byte)
  | 0, l => some ([], l)
  | n + 1, l => match parseWarp l with
    | none => none
    | some (w, l1) => match parseWarps n l1 with
      | none => none
      | some (ws, l2) => some (w :: ws, l2)

/-- A block record with its warps (R381): the block keeps its window and its number of warps. -/
def parseBlock (b : Block) (warps : Nat) (l : List Byte) : Option (SavedBlock × List Byte) :=
  let groups := bytesAt l 4 4
  let claims := (4 * bytesAt l 8 4 + 7) / 8 * 8
  let l1 := l.drop 64
  let l2 := l1.drop 576
  let l3 := l2.drop (8 * groups)
  let l4 := l3.drop claims
  let l5 := l4.drop b.window
  let side := b.window / 16
  if bytesAt l 0 4 ≠ warps ∨ l5.length < side then none
  else match parseWarps warps (l5.drop side) with
    | none => none
    | some (ws, rest) =>
      some (⟨l.take 64, l1.take 576, l2.take (8 * groups), (l3.take claims).take (4 * bytesAt l 8 4), l4.take b.window,
        l5.take side, ws⟩, rest)

/-- The blocks of a cluster. -/
def State.parseBlocks (s : State) : List (Nat × Block) → List Byte → Option (List SavedBlock)
  | [], _ => some []
  | p :: r, l => match parseBlock p.2 (s.saveOrder p.1).length l with
    | none => none
    | some (b, l1) => match s.parseBlocks r l1 with
      | none => none
      | some bs => some (b :: bs)

/-- R380: the header of an area. Bytes 28 to 31 are zero as bytes 40 to 63 are; the spec names the illegal operand for the latter
alone (DESIGN CHOICE, log 59). -/
def headerOk (c : Cluster) (warps : Nat) (l : List Byte) : Bool :=
  bytesAt l 0 4 == 0x58434A51 && bytesAt l 4 2 == 1 && bytesAt l 6 2 == c.blocks.length
    && bytesAt l 16 8 == c.token.toNat && bytesAt l 24 4 == warps && bytesAt l 28 4 == 0 && bytesAt l 40 24 == 0

/-! ### Placement of a saved cluster (R364, R384) -/

/-- A quarter of a core that has room for `n` warps of an allotment. -/
def State.hasRoom (s : State) (core q n va ta : Nat) : Bool :=
  n * va ≤ s.freeV core q && n * ta ≤ s.freeT core q && (s.findSlot core q (n == 2)).isSome

/-- A warp put back in a slot under a new generation (R83). -/
def State.seat (s : State) (id core q i : Nat) : State :=
  (s.bumpGen (slotKey core q i)).mapWarp id fun w => { w with core := core, quarter := q, slot := i, swapped := false }

/-- The quarters of a core on which a warp of a block may stand: a warp of the launch where the rotation puts it (R29), a
formed one on any. -/
def quartersFor (per rot : Nat) (w : Warp) : List Nat :=
  if w.formed then List.range 4 else [(w.widx % per + rot) % 4]

/-- A warp of a block, with its twin where it has one (R62), given slots with the allotments they held. -/
def State.seatUnit (s : State) (b : Block) (rot id : Nat) : Option State :=
  match s.warp id with
  | none => some s
  | some w =>
    if !w.swapped then some s
    else
      let per := if b.paired then 64 else 128
      let cores := if w.formed then b.cores else [b.cores.getD (w.widx / per) 0]
      let twin := match s.twinOf id w with
        | some p => if p.2.phase == Phase.ended then none else some p
        | none => none
      let n := if twin.isSome then 2 else 1
      let va := max w.va (match twin with | some p => p.2.va | none => 0)
      let ta := max w.ta (match twin with | some p => p.2.ta | none => 0)
      match cores.findSome? fun c =>
          ((quartersFor per rot w).find? fun q => s.hasRoom c q n va ta).map fun q => (c, q) with
      | none => none
      | some (c, q) => match s.findSlot c q (n == 2) with
        | none => none
        | some i => match twin with
          | none => some (s.seat id c q i)
          | some p =>
            let first := if w.twin = 1 then p.1 else id
            let second := if w.twin = 1 then id else p.1
            some ((s.seat first c q i).seat second c q (i + 1))

/-- The warps of a block on a quarter. -/
def State.warpsOn (s : State) (block core q : Nat) : Nat := ((s.inQuarter core q).filter fun p => p.2.block == block).length

/-- R53, R356: a slot kept for the warp former on the last core of a block whose warps have been seated: on a quarter that
holds the fewest of them, the highest free slot. -/
def State.keepSlot (s : State) (block : Nat) (b : Block) : Option State :=
  let last := b.cores.getLastD 0
  let fewest := (List.range 4).foldl (fun n q => min n (s.warpsOn block last q)) (s.warpsOn block last 0)
  let quarters := (List.range 4).filter fun q =>
    s.warpsOn block last q == fewest && b.fv ≤ s.freeV last q && b.acc ≤ s.freeT last q
  (quarters.findSome? fun q => ((List.range 32).reverse.find? fun i => s.slotFree last q i).map fun i => (q, i)).map fun p =>
    s.mapBlock block fun b => { b with resCore := last, resQuarter := p.1, resSlot := p.2 }

/-- A block of a saved cluster placed on cores from `first` on, its warps in slots and a slot kept for the warp former;
while its warps are seated it keeps none. -/
def State.seatBlock (s : State) (block first rot : Nat) (b : Block) : Option State :=
  let cores := (List.range b.cores.length).map (first + ·)
  let b1 := { b with cores := cores, resCore := Config.cores, resWarp := none, swapped := false }
  (allSteps (fun s p => s.seatUnit b1 rot p) { s with blocks := s.blocks.put block b1 }
    ((s.saveOrder block).map (·.1))).bind fun t => t.keepSlot block b1

/-- R41, R339: cores on which a block of a compartment may stand, none of them used by the cluster already. -/
def State.coreRun (s : State) (cmp n die first : Nat) (used : List Nat) : Bool :=
  let l := (List.range n).map (first + ·)
  first / 4 == (first + n - 1) / 4 && l.all fun c =>
    c < Config.cores && (s.comp cmp).coreGroups.getLsbD (c / 4) && s.dieOf c == die && !used.contains c
      && !s.throttled.contains c && !s.longWait c

/-- A saved cluster's blocks placed on a die one after another. -/
def State.seatCluster (s : State) (cmp die : Nat) : List (Nat × Block) → List Nat → Option (State × List Nat)
  | [], used => some (s, used)
  | (id, b) :: r, used =>
    match (List.range Config.cores).findSome? fun first =>
        if s.coreRun cmp b.cores.length die first used then
          ((List.range 4).findSome? fun rot => s.seatBlock id first rot b).map fun t => (first, t)
        else none with
    | none => none
    | some (first, t) => State.seatCluster t cmp die r (used ++ (List.range b.cores.length).map (first + ·))

/-- R354, R384: a saved cluster placed whole on some die, admitted by every core within its last report, or nothing. -/
def State.seatAll (s : State) (c : Cluster) : Option State :=
  let dies := ((s.ownedCores c.cmp).map s.dieOf).eraseDups
  dies.findSome? fun d => match s.seatCluster c.cmp d (s.clusterBlocks c) [] with
    | none => none
    | some (t, on) => if s.admitted t on then some (s.reserve t on) else none

/-! ### Restoring (R82, R171, R384) -/

/-- A warp with the values of its record, blocked as it was (Table 2.4): what was withdrawn is issued again (R377); clocks that
it had waited by `out` count on (R364). An `xpc` that software has changed in the area is a written one (R331, R384). The spec
gives a state byte outside 1 to 4 no fate: such a warp keeps its phase and waits for nothing (DESIGN CHOICE, log 59). -/
def Warp.fromArea (w : Warp) (clock out : Nat) (r : SavedWarp) : Warp :=
  let h := r.head
  let point : DWord := BitVec.ofNat 64 (bytesAt h 0 8)
  let pc := point &&& 0x0FFFFFFFFFFFFFFC
  let flags := bytesAt h 33 1
  let st := bytesAt h 32 1
  let d (i n : Nat) : DWord := BitVec.ofNat 64 (bytesAt h (i + 8 * n) 8)
  let token := d 128 0
  let keep : Wait := match w.wait with
    | some .mgd | none => .again
    | some x => x.afterwards
  { w with
    pc := pc, ix := (point.extractLsb' 60 4).toNat, fetched := w.fetched && w.pc == pc
    mask := BitVec.ofNat 128 (bytesAt h 8 16), age := bytesAt h 24 8
    phase := if st = 1 then .prologue else if st = 2 then .acquiring else if st = 3 then .running else w.phase
    wait := if st = 4 then (if token ≠ 0 then some .resume else some keep) else none
    super := flags % 2 = 1, formed := flags / 2 % 2 = 1, twin := flags / 4 % 4
    sfail := if flags / 16 % 2 = 1 then some (w.sfail.getD 0) else none
    latN := bytesAt h 34 1, fflags := BitVec.ofNat 5 (bytesAt h 35 1)
    d := Store.block 0 0 4 fun n => bytesAt h (36 + n) 1
    va := bytesAt h 40 1, ka := bytesAt h 41 1, ta := bytesAt h 42 1
    mgdN := if w.wait = some .mgd then (bytesAt h 43 1 + 255) % 256 else bytesAt h 43 1
    win := Store.block 0 0 4 fun n => d 48 n
    xpc := d 80 0, xcause := d 80 1, xval := d 80 2, xstat := d 80 3, xscr0 := d 80 4, xscr1 := d 80 5
    xarm := w.xarm && w.xpc == d 80 0
    token := if token = 0 then none else some token
    markV := BitVec.ofNat 128 (bytesAt h 136 16), markK := BitVec.ofNat 128 (bytesAt h 152 16)
    markE := BitVec.ofNat 128 (bytesAt h 176 16), markL := BitVec.ofNat 4 (bytesAt h 192 1)
    markT := BitVec.ofNat 64 (bytesAt h 200 8)
    lat := Store.block 0 0 512 fun i => BitVec.ofNat 64 (bytesAt r.lat (8 * i) 8)
    p := Store.block 0 1 7 fun i => BitVec.ofNat 128 (bytesAt r.preds (16 * i) 16)
    k := Store.block 0 0 128 fun i => BitVec.ofNat 64 (bytesAt r.ks (8 * i) 8)
    e := Store.block 0 0 (32 * bytesAt h 40 1) fun i => r.es.getD i 0
    v := Store.block 0 0 (128 * bytesAt h 40 1) fun i => (r.vs.getD (i / 128) []).getD (i % 128) 0
    acc := Store.block 0 0 (1024 * bytesAt h 42 1) fun i => BitVec.ofNat 32 (bytesAt r.tiles (4 * i) 4)
    pendV := 0, pendE := 0, pendK := 0, out := 0, idleSince := clock
    acqAt := if st = 2 then some (clock - (out - w.acqAt.getD out)) else none }

/-- R171: the pending bits and counter shares of a warp's commands that have not ended, under its new generation. -/
def State.rejoinCmds (s : State) (id : Nat) : State :=
  match s.warp id with
  | none => s
  | some w => (s.cmds.all.filter fun p => p.2.warp == id && p.2.status == 0).foldl (fun s p =>
      let c := { p.2 with slot := w.slotNo, gen := s.gen w.slotNo }
      ({ s with cmds := s.cmds.put p.1 c }).mapWarp id fun w => (w.pend [.k c.kreg 0]).incD c.dc) s

/-- A block with the values of its record: g registers, owners, claims, groups' waits and the block barrier. The clocks that
a record has waited count while the block is resident (R68, R384). -/
def Block.fromArea (b : Block) (order : List (Nat × Warp)) (clock : Nat) (r : SavedBlock) : Block :=
  let region : DWord := BitVec.ofNat 64 (bytesAt r.head 24 8)
  let groups := (List.range (r.groups.length / 8)).map fun i => (bytesAt r.groups (8 * i) 4, bytesAt r.groups (8 * i + 4) 4)
  let owner (n : Nat) : Option Nat := warpAt b order (bytesAt r.gs (512 + 2 * n) 2)
  { b with
    arrived := bytesAt r.head 12 4, phase := bytesAt r.head 16 1, spawnBase := region
    privBase := region + (b.privBase - b.spawnBase)
    gpub := Store.block 0 0 32 fun n => BitVec.ofNat 64 (bytesAt r.gs (8 * n) 8)
    gown := Store.block 0 0 32 fun n => BitVec.ofNat 64 (bytesAt r.gs (256 + 8 * n) 8)
    gowner := Store.block none 0 32 owner
    claims := (List.range (r.claims.length / 4)).filterMap fun i =>
      (warpAt b order (bytesAt r.claims (4 * i + 2) 2)).map fun w => (bytesAt r.claims (4 * i) 2, w)
    recs := b.recs.map fun x => match groups.find? fun g => g.1 == x.slot with
      | some g => { x with waited := clock - g.2 }
      | none => { x with waited := clock - (b.outAt - x.waited) } }

/-- A block and its warps restored, with its scratchpad window. -/
def State.restoreBlock (s : State) (block : Nat) (r : SavedBlock) : State :=
  match s.blocks.find block with
  | none => s
  | some b =>
    let order := s.saveOrder block
    let s1 := { s with blocks := s.blocks.put block (b.fromArea order s.clock r) }
    let s2 := (order.zip r.warps).foldl (fun (s : State) (p : (Nat × Warp) × SavedWarp) =>
      (s.mapWarp p.1.1 fun w => w.fromArea s.clock b.outAt p.2).rejoinCmds p.1.1) s1
    let s3 := s2.wrRaw (padKey block 0) r.window
    (List.range (b.window / 128)).foldl (fun s l =>
      s.wrSide (padKey block (128 * l)) ((List.range 8).map fun i => (i, r.side.getD (8 * l + i) 0))) s3

/-! ### Reissue (R377) -/

/-- The addresses of a record with their positions. -/
def SavedRec.addrs (r : SavedRec) : List (Nat × DWord) :=
  let ps := positions r.mask
  (List.range ps.length).map fun i => (ps.getD i 0, BitVec.ofNat 64 (bytesAt r.payload (8 * i) 8))

/-- The instruction of a record, of a class. -/
def SavedRec.instr (r : SavedRec) (c : Class) : Option Instr :=
  match decode c r.w0 (some r.w1) with
  | .ok i => some i
  | .error _ => match decode c r.w0 none with
    | .ok i => some i
    | .error _ => none

/-- The load that records the instruction at its own index (R376). -/
def State.reindex (s : State) (n ix : Nat) : State :=
  match s.loads.find n with
  | none => s
  | some l => { s with loads := s.loads.put n { l with rep := l.rep.map fun x => { x with ix := ix } } }

/-- The accesses of a recorded read, placed anew (R377). -/
def State.placesOf (s : State) (w : Warp) (r : SavedRec) : Except Trap (List Acc) :=
  match r.instr .mem with
  | some (.ld f _) | some (.ldx f _) => s.placeAll w .glob (mBytes f) (mBytes f) f.u .read false r.addrs
  | some (.lds f _) => s.placeAll w .pad (mBytes f) (mBytes f) f.u .read false r.addrs
  | some (.ldp f _) => s.placeAll w .priv (mBytes f) (mBytes f) f.u .read false r.addrs
  | some (.ldmx _ _) => s.placeMx w (BitVec.ofNat 64 (bytesAt r.payload 0 8)) .read
  | _ => .ok []

/-- The object that a recorded enqueue, dequeue or barrier wait is for (R377): its address, its alignment, what it needs. -/
def SavedRec.object (r : SavedRec) : Option (DWord × Nat × Need) :=
  let a : DWord := BitVec.ofNat 64 (bytesAt r.payload 0 8)
  match r.instr .eng with
  | some (.qEnq _) | some (.qDeq _) => some (a, 64, .write)
  | some (.barWait _ _) => some (a, 16, .read)
  | _ => none

/-- R397: a recorded read, queue request or wait that cannot be made again now: it must wait for a plane. -/
def State.recHeld (s : State) (id : Nat) (r : SavedRec) : Bool :=
  match s.warp id with
  | none => false
  | some w =>
    if r.kind ≤ 4 then match s.placesOf w r with
      | .error t => t.cause == heldCause
      | .ok l => s.heldUp false l
    else match (if r.kind ≤ 7 then r.object else none) with
      | none => false
      | some (a, align, need) => match s.object w a align need with
        | .error t => t.cause == heldCause
        | .ok t => s.planeHeld t.key || s.leafHeld t (need = .write)

/-- A reissued read; one that no longer translates returns as a failed read (R264; log 21). -/
def State.reread (s : State) (id : Nat) (w : Warp) (i : Instr) (f : FmtM) (kind : Nat) (plain : Bool) (r : SavedRec) : State :=
  let t := match s.placesOf w r with
    | .ok l => s.performLoad id w i f kind plain l
    | .error t =>
      let zeros := r.addrs.map fun (p : Nat × DWord) => (p.1, List.replicate (mBytes f) (0 : Byte))
      s.sendLoad id w (some f.dc.toNat) (landing f zeros) ((dataGroup f).map fun (g : Nat × Nat) => (g.1, g.2, t.val))
        (some (replayOf i kind f.dc.toNat w (if f.u then 1 else maskOfList (r.addrs.map fun (p : Nat × DWord) => p.1)) r.addrs)) false
  t.reindex s.nextId r.ix

/-- A reissued `ldmx`. -/
def State.rereadMx (s : State) (id : Nat) (w : Warp) (i : Instr) (f : FmtM) (x : Option XM) (r : SavedRec) : State :=
  let a : DWord := BitVec.ofNat 64 (bytesAt r.payload 0 8)
  let t := match s.placesOf w r with
    | .ok l => s.performMx id w i f (orderOf x == 0) a l
    | .error t =>
      let d := f.data.toNat
      let ty := familyType f.sub.toNat
      let zero : List Nat × List Byte := (List.replicate (mxLine ty) 0, List.replicate (mxLine ty / 32) 0)
      s.sendLoad id w (some f.dc.toNat) (mxLanding d ty (List.replicate 4 zero)) [(0, d, t.val), (1, d, t.val)]
        (some (replayOf i 3 f.dc.toNat w 1 [(0, a)])) false
  t.reindex s.nextId r.ix

/-- Kind 4: a packet as its record holds it. -/
def packetOf (steps : List DWord) (pos : Nat) (l : List Byte) : Packet :=
  let ptr : DWord := BitVec.ofNat 64 (bytesAt l 0 8)
  let step := bytesAt l 8 1
  let k := bytesAt l 10 1
  let at_ := ptr + stepOffset (steps.getD step 0)
  let st : ChaseState := match bytesAt l 9 1 with
    | 0 => .done ptr
    | 1 => .flying
    | _ => if k = 0x10 then .hop else if k = 0x15 then .bad at_ else .fault k at_
  ⟨pos, ptr, step, 0, none, true, st⟩

/-- What the part keeps of a recorded chase (R376); of a record that software has added, the registers as they stand. -/
def Warp.walkOf (w : Warp) (f : FmtM) (x : XH) (walk : Option Walk) : Walk :=
  walk.getD ⟨w.pc, w.super, false, false, (List.range (f.sub.toNat % 8 + 1)).map fun j => w.kr (x.ks.toNat + j)⟩

/-- A reissued chase: its packets go on from their records (R200); one that has trapped keeps them (R199). -/
def State.rechase (s : State) (id : Nat) (w : Warp) (i : Instr) (f : FmtM) (x : XH) (r : SavedRec) (walk : Option Walk) :
    State :=
  let k := w.walkOf f x walk
  let ps := positions r.mask
  let packets := (List.range ps.length).map fun j => packetOf k.steps (ps.getD j 0) (r.payload.drop (16 * j))
  let d := f.data.toNat
  let root := match s.ctxOf w.cmp w.ctx with | some c => c.ptroot | none => 0
  let sent := (packets.filter fun p => p.st == .flying).map fun p => (p.pos, p.ptr)
  let ch : Chase :=
    { warp := id, pc := k.pc, super := k.super, trapped := k.trapped, held := k.held, slot := w.slotNo, gen := s.gen w.slotNo, dc := f.dc.toNat
      dst := d, steps := k.steps, cmp := w.cmp, ctx := w.ctx, root := root, packets := packets
      rep := { replayOf i 4 f.dc.toNat w r.mask sent with ix := r.ix } }
  { (s.putWarp id ((w.pend [.v d [], .v (d + 1) []]).incD f.dc.toNat)).tick1 with chases := s.chases.put s.nextId ch }

/-- The elements of a reissued enqueue (kind 5). -/
def requeueData (op : QOp) (r : SavedRec) : List (List Byte) :=
  (List.range op.threads.length).map fun j => ((r.payload.drop (8 + 256 * j)).take 256).take op.span

/-- A reissued enqueue or dequeue: a new request, which joins the end of its list (R161, R377), behind what has its turn to
come there (R152). A cluster is not resumed while its block cannot be reached (`State.recHeld`). -/
def State.requeue (s : State) (id : Nat) (w : Warp) (f : FmtE) (r : SavedRec) : State :=
  let enq := r.kind == 5
  let thr := f.sub.getLsbD 0
  let addr : DWord := BitVec.ofNat 64 (bytesAt r.payload 0 8)
  let i : Instr := if enq then .qEnq f else .qDeq f
  let threads := if thr then positions r.mask else [0]
  let op0 := { w.qop s id f i enq thr threads (w.spanLen thr f.y.toNat * if thr then 4 else 8) [] with addr := addr }
  let op := { op0 with data := if enq then requeueData op0 r else [] }
  match s.object w addr 64 .write with
  | .error t => s.takeTrap id t
  | .ok t =>
    if s.planeHeld t.key || s.leafHeld t true then s
    else if s.broken w.core t.key then s.takeTrap id { Trap.of 0x0B addr with write := enq }
    else
      let s1 := s.tick1.touch t true
      (if (s.home t.key).line = [] then s1.qjoin t.key s.nextId op else s1.qline t.key s.nextId op).block id (.queue s.nextId)

/-- A reissued `bar.wait` with the bound that remained (R165, R377). A cluster is not resumed while its
object cannot be reached (`State.recHeld`). -/
def State.rewait (s : State) (id : Nat) (w : Warp) (f : FmtE) (r : SavedRec) : State :=
  let a : DWord := BitVec.ofNat 64 (bytesAt r.payload 0 8)
  let v := bytesAt r.payload 8 4 % 16
  let bound : BitVec 32 := BitVec.ofNat 32 (bytesAt r.payload 12 4)
  match s.object w a 16 .read with
  | .error t => s.takeTrap id t
  | .ok t =>
    let x := s.barObj t.key
    if s.planeHeld t.key || s.leafHeld t false then s
    else if s.broken w.core t.key then s.takeTrap id (Trap.of 0x0D a)
    else if s.runFailed t.key 16 || !barOk x then (s.barSpoil t.key).takeTrap id (Trap.of 0x0D a)
    else
      let s1 := s.touch t false
      if barPhase x ≠ v then (s1.writeK id f.x.toNat (BitVec.ofNat 64 (barPhase x + 16))).advance id
      else
        let b : BWait := ⟨.warp id, t.key, v, s.deadline bound, f.x.toNat, none⟩
        ({ s1.tick1 with barWaits := s1.barWaits.put s1.nextId b } : State).block id (.barrier s1.nextId)

/-- A reissued `f.wait` with the bound that remained. -/
def State.refuture (s : State) (id : Nat) (w : Warp) (f : FmtE) (r : SavedRec) : State :=
  let h : DWord := BitVec.ofNat 64 (bytesAt r.payload 0 8)
  let bound : BitVec 32 := BitVec.ofNat 32 (bytesAt r.payload 12 4)
  match s.handleCmd w.cmp w.ctx h with
  | none => s.takeTrap id (Trap.of 0x14 h)
  | some (_, c) =>
    if c.status ≠ 0 then (s.writeK id f.x.toNat (BitVec.ofNat 64 c.status)).advance id
    else s.block id (.future h (s.deadline bound) f.x.toNat)

/-- R377: a record reissued, a chase with what the part kept of it. A record whose words name no instruction of its kind is
dropped. -/
def State.reissue (s : State) (id : Nat) (p : SavedRec × Option Walk) : State :=
  let r := p.1
  match s.warp id with
  | none => s
  | some w =>
    if r.kind ≤ 4 then
      match r.instr .mem with
      | some (.ld f x) => s.reread id w (.ld f x) f 1 (orderOf x == 0) r
      | some (.lds f x) => s.reread id w (.lds f x) f 1 (orderOf x == 0) r
      | some (.ldp f x) => s.reread id w (.ldp f x) f 1 true r
      | some (.ldx f x) => s.reread id w (.ldx f x) f 2 (x.order == 0) r
      | some (.ldmx f x) => s.rereadMx id w (.ldmx f x) f x r
      | some (.chase f x) => s.rechase id w (.chase f x) f x r p.2
      | _ => s
    else if r.kind = 8 then
      s.putWarp id { w with
        phase := .acquiring, acqAt := some (w.acqAt.getD s.clock), age := bytesAt r.payload 0 8, wait := none }
    else if r.kind = 9 then
      let g := bytesAt r.payload 0 1
      match s.blocks.find w.block with
      | none => s
      | some b =>
        let v := if b.gowner.find g == some id then Store.get 0 b.gown g else Store.get 0 b.gpub g
        s.sendLoad id w none [.k (FmtA.parse r.w0).d.toNat v] []
          (some ⟨9, 0, r.ix, r.w0, r.w1, 1, [(0, BitVec.ofNat 64 g)]⟩) false
    else match r.instr .eng with
      | some (.qEnq f) => s.requeue id w f r
      | some (.qDeq f) => s.requeue id w f r
      | some (.barWait f _) => s.rewait id w f r
      | some (.fWait f _) => s.refuture id w f r
      | _ => s

/-- Each chase record with what the part kept of it. -/
def withWalks : List SavedRec → List Walk → List (SavedRec × Option Walk)
  | [], _ => []
  | r :: l, ws => if r.kind = 4 then (r, ws.head?) :: withWalks l (ws.drop 1) else (r, none) :: withWalks l ws

/-- The records of a block's warps reissued, each warp's in its order. -/
def State.reissueBlock (s : State) (old : List (Nat × Warp)) (r : SavedBlock) : State :=
  (old.zip r.warps).foldl (fun (s : State) (p : (Nat × Warp) × SavedWarp) =>
    (withWalks p.2.recs p.1.2.walks).foldl (fun s x => s.reissue p.1.1 x) s) s

/-- R375, R384: the resume elements noted against tokens of a cluster that is resident again. -/
def State.applyNoted (s : State) (cmp : Nat) : State :=
  ((s.comp cmp).tokens.filter fun t => t.noted.isSome && !s.outNow t.who).foldl (fun s t =>
    (s.mapComp cmp fun c => { c with tokens := c.tokens.filter fun x => x.token != t.token }).answer cmp t (t.noted.getD 0)) s

/-! ### ctxr (R321, R384) -/

/-- A placed cluster with its blocks and warps as its area holds them. -/
def State.restoreAll (placed : State) (id : Nat) (c : Cluster) (saved : List SavedBlock) : State :=
  (c.blocks.zip saved).foldl (fun (s : State) (p : Nat × SavedBlock) => s.restoreBlock p.1 p.2)
    { placed with clusters := placed.clusters.put id { c with swapped := false } }

/-- R397: a record of a restored cluster cannot be made again now. -/
def State.reissueHeld (s : State) (olds : List (List (Nat × Warp))) (saved : List SavedBlock) : Bool :=
  (olds.zip saved).any fun p => (p.1.zip p.2.warps).any fun q => q.2.recs.any fun r => s.recHeld q.1.1 r

/-- A cluster resumed from its area: placed, restored, its records reissued, its noted resumes applied; none while a record
must wait for a plane (R397). -/
def State.resumeCluster (s placed : State) (id : Nat) (c : Cluster) (saved : List SavedBlock) : Option State :=
  let olds := c.blocks.map fun b => s.saveOrder b
  let s1 := placed.restoreAll id c saved
  if s1.reissueHeld olds saved then none
  else
    let s2 := (olds.zip saved).foldl (fun (s : State) (p : List (Nat × Warp) × SavedBlock) => s.reissueBlock p.1 p.2) s1
    some (c.blocks.foldl (fun s b => (s.settleTwins b).blockBarTest b) (s2.applyNoted c.cmp))

/-- Translated runs that cannot be read: a failed byte or a failed link (R385, R398). -/
def State.spanBad (s : State) (core : Nat) (l : List (Trans × Nat)) : Bool :=
  l.any fun p => s.runFailed p.1.key p.2 || s.broken core p.1.key

/-- ctxr (R321, R384): every check of the area before any effect; it blocks until the cluster can be placed. The warp's own
loose stores to the area go home first (R134). -/
def execCtxr (f : FmtS) (s : State) : Host.Outcome State Fault Refusal :=
  s.sys (.ctxr f) [.k f.x.toNat, .k f.y.toNat] fun s w =>
    let area := w.kr f.x.toNat
    let bad : Res := .trap (Trap.of 0x02 (firstWord (.ctxr f))) s
    match s.clusterOf w.cmp (w.kr f.y.toNat) with
    | none => bad
    | some (id, c) =>
      if !c.swapped || s.ctxGone c.cmp c.ctx then bad
      else if area.toNat % 64 ≠ 0 then .trap (Trap.of 0x05 area) s
      else if s.backHeld (ofWarp w) then .stay (s.block s.cur .sys)
      else
        let s := s.sendOwn w
        match s.xspan (s.agentOf w) area 64 .read with
        | .error e => .trap (e.2.trap e.1 false none) s
        | .ok h =>
          let head := if s.spanBad w.core h then [] else s.readSpan h
          let size := bytesAt head 8 8
          if !headerOk c (s.clusterWarps c).length head || size < 64 then bad
          else match s.xspan (s.agentOf w) area size .read with
            | .error e => .trap (e.2.trap e.1 false none) s
            | .ok l =>
              if s.spanBad w.core l then bad
              else if l.any fun p => s.planeHeld p.1.key || s.leafHeld p.1 false then .stay (s.block s.cur .sys)
              else match s.parseBlocks (s.clusterBlocks c) ((s.readSpan l).drop 64) with
                | none => bad
                | some saved =>
                  let s1 := l.foldl (fun s p => s.touch p.1 false) s
                  match (s1.seatAll c).bind fun placed => s1.resumeCluster placed id c saved with
                  | none => .stay (s1.block s1.cur .sys)
                  | some t => .done t

end Sys2Proof.Machine
end

