-- ==== Sys2Proof/Machine/Outside.lean ====
section
/-! DEFINITION. The world outside: memory regions and host windows (R160, R387 to R389), requests of other modules (R395,
R397), corrected errors (R385), planes and links (R397, R398). -/

namespace Sys2Proof.Machine

/-! ### Memory regions (R387 to R389) -/

/-- The naturally aligned 8-byte units that `n` bytes from `a` fall into: where each part begins and its length (R388). -/
def rdmaUnits (a n : Nat) : List (Nat × Nat) :=
  if n = 0 then []
  else (List.range ((a + n - 1) / 8 - a / 8 + 1)).map fun i =>
    let lo := max a (8 * (a / 8 + i))
    (lo, min (a + n) (8 * (a / 8 + i) + 8) - lo)

/-- A range of a context's addresses as a region presents it (R387, R389). -/
structure Region where
  cmp : Nat
  ctx : Nat
  base : DWord
  len : Nat
  rd : Bool
  wr : Bool
  side : Bool
  deriving DecidableEq, Repr

/-- The region of an rkey. -/
def State.region (s : State) (rkey : Nat) : Option Region :=
  match s.rkeys.find rkey with
  | some (.region cmp ctx base len rd wr side) => some ⟨cmp, ctx, base, len, rd, wr, side⟩
  | _ => none

/-- The bytes that a region presents: 136 for each line with the sideband view (R389). -/
def Region.size (r : Region) : Nat := if r.side then r.len / 128 * 136 else r.len

/-- Whether an access lies within a region's range. -/
def Region.covers (r : Region) (va : DWord) (n : Nat) : Bool :=
  r.base.toNat ≤ va.toNat && va.toNat + n ≤ r.base.toNat + r.size

/-- Where a unit of a region lies: its page, and the sideband byte at which it begins, if it is one (R389). -/
def State.unitAt (s : State) (r : Region) (x : Nat) (need : Need) : Except Fail (Trans × Option Nat) :=
  let ag : Agent := ⟨r.cmp, r.ctx, 4096, 0⟩
  if r.side then
    let o := x - r.base.toNat
    let line := r.base + BitVec.ofNat 64 (o / 136 * 128)
    let at_ := if o % 136 < 128 then line + BitVec.ofNat 64 (o % 136) else line
    match s.xlate ag at_ need with
    | .error f => .error f
    | .ok t => if !t.mx then .error ⟨7, none⟩ else .ok (t, if o % 136 < 128 then none else some (o % 136 - 128))
  else match s.xlate ag (BitVec.ofNat 64 x) need with
    | .error f => .error f
    | .ok t => .ok (t, none)

/-- R388: one unit written at its home. -/
def State.writeUnit (s : State) (t : Trans) (side : Option Nat) (l : List Byte) : State :=
  let s1 := s.touch t true
  match side with
  | none => s1.wrAt t l
  | some j => (List.range l.length).foldl (fun s i => s.copySide t (j + i) (l.getD i 0)) s1

/-- R385: a unit of a region of which a byte returns an uncorrectable error. -/
def State.unitFailed (s : State) (t : Trans) (side : Option Nat) (n : Nat) : Bool :=
  match side with
  | none => s.runFailed t.key n
  | some j => (List.range n).any fun i => s.sideFailed t.key (j + i)

/-- What a region access comes to. -/
inductive Access where
  /-- It waits for a plane (R397). -/
  | held
  /-- It fails, after the units before it (R389). -/
  | failed (s : State)
  /-- It is done, with the bytes read. -/
  | done (s : State) (data : List Byte)

/-- R388, R389: the units of a WRITE in order. -/
def State.writeRegion (s : State) (r : Region) : List (Nat × Nat) → List Byte → Access
  | [], _ => .done s []
  | (x, n) :: us, l => match s.unitAt r x .write with
    | .error f => if f.cause = heldCause then .held else .failed s
    | .ok (t, side) =>
      if s.planeHeld t.key || s.leafHeld t true then .held else (s.writeUnit t side (l.take n)).writeRegion r us (l.drop n)

/-- R388, R389: the units of a READ. A unit with an uncorrectable error fails the READ (log 31). -/
def State.readRegion (s : State) (r : Region) : List (Nat × Nat) → List Byte → Access
  | [], acc => .done s acc
  | (x, n) :: us, acc => match s.unitAt r x .read with
    | .error f => if f.cause = heldCause then .held else .failed s
    | .ok (t, side) =>
      if s.planeHeld t.key || s.leafHeld t false then .held
      else if s.unitFailed t side n then .failed s
      else
        let bytes := match side with
          | none => s.bytes t.key n
          | some j => (List.range n).map fun i => s.sideByte t.key (j + i)
        (s.touch t false).readRegion r us (acc ++ bytes)

/-- A message to the host. -/
def State.send (s : State) (m : HostMsg) : State := { s with hostOut := s.hostOut ++ [m] }

/-- R389: a region access that fails: an access error and an event of kind region-access-error. -/
def State.regionError (s : State) (cmp conn rkey : Nat) : State :=
  (s.postEvent cmp 11 7 0 (BitVec.ofNat 64 rkey)).send (.accessError conn rkey)

/-- What an access to a region comes to; none while it waits for a plane (R397). -/
def Access.over (a : Access) (cmp conn rkey : Nat) (done : State → List Byte → State) : Option State :=
  match a with
  | .held => none
  | .failed s => some (s.regionError cmp conn rkey)
  | .done s l => some (done s l)

/-- A WRITE to a region (R387 to R389): in range and accepted by the region, or an access error; none while it waits. -/
def State.regionWrite (s : State) (conn rkey : Nat) (r : Region) (va : DWord) (data : List Byte) : Option State :=
  if !r.wr || !r.covers va data.length then some (s.send (.accessError conn rkey))
  else (s.writeRegion r (rdmaUnits va.toNat data.length) data).over r.cmp conn rkey fun s1 _ => s1.send (.writeDone conn rkey)

/-- A READ of a region (R387 to R389): in range and accepted by the region, or an access error; none while it waits. -/
def State.regionRead (s : State) (conn rkey : Nat) (r : Region) (va : DWord) (len : Nat) : Option State :=
  if !r.rd || !r.covers va len then some (s.send (.accessError conn rkey))
  else (s.readRegion r (rdmaUnits va.toNat len) []).over r.cmp conn rkey fun s1 l => s1.send (.readData conn rkey l)

/-! ### Host windows (R160) -/

/-- R160, R388: a window write is under way: the later operations of its connection wait for its acknowledgement. -/
def State.windowWaits (s : State) (conn : Nat) : State :=
  { s with conns := s.conns.map fun p => (p.1, p.2.map fun c => if p.1 = conn then { c with waiting := true } else c) }

/-- R160: a host-window write at its queue: served, waiting in the list, or discarded; none while it cannot reach its home
or has its turn to come (R152, R397). A control block that does not translate is no queue: the write is discarded (log 49). -/
def State.windowWrite (s : State) (conn rkey cmp ctx : Nat) (block : DWord) (data : List Byte) : Option State :=
  match s.xany ⟨cmp, ctx, 4096, 0⟩ block .write with
  | .error f => if f.cause = heldCause then none else some (s.windowDiscard cmp block conn rkey data.length)
  | .ok t =>
    if s.planeHeld t.key || s.leafHeld t true then none
    else if data.length ≠ (s.qblk t.key).size then some (s.windowDiscard cmp block conn rkey data.length)
    else if !s.homeIdle t.key then none
    else
      let op := partEnqueue (.window conn rkey) cmp ctx block data
      let id := s.nextId
      match s.tick1.qserve t.key id op (s.qempty t.key true) with
      | .refuse _ _ s1 => some (s1.windowDiscard cmp block conn rkey data.length)
      | .held => none
      | .wait =>
        some (((s.tick1.touch t true).qjoin t.key id op).windowWaits conn)
      | .served s1 => some ((s1.touch t true).windowWaits conn)

/-! ### Requests of other modules (R395, R397) -/

/-- The compartment that owns a stack of this module. -/
def State.ownerOf (s : State) (stack : Nat) : Option Nat :=
  (List.range 8).find? fun c => (s.comp c).stackGroups.getLsbD (stack / 4)

/-- R395: the key that a request may reach: the source is a member, the address local, and the groups agree. -/
def State.remoteKey (s : State) (r : RemoteReq) : Option Nat :=
  if r.src == s.ownModule || !s.members.contains r.src then none
  else match s.resolve r.pa with
    | .error _ => none
    | .ok k =>
      if !isLocal k then none
      else match s.ownerOf (keyStack k) with
        | none => none
        | some c => if (s.comp c).group = r.group then some k else none

/-- The page of a request at its home: the issuing module has set A and D (R368). -/
def remotePage (k : Nat) : Trans := ⟨k, 0, false, false, 0, 0x300, 4096⟩

/-- A queue request of another module (R152, R395): in the compartment that it may reach, and with the page tables of its
context (R407). -/
def remoteQOp (r : RemoteReq) (enq thr : Bool) (n span : Nat) (data : List (List Byte)) : QOp :=
  { partEnqueue (.module r.src r.ident) 0 0 r.pa [] with
    via := some (r.root, r.group), enq := enq, thr := thr, threads := List.range n, span := span, data := data }

/-- What a request comes to at its home. -/
inductive Remote where
  /-- It has its turn to come, or the home cannot reach what it needs now (R152, R397). -/
  | later
  /-- The answer: none where it is refused; and the state. -/
  | answer (data : Option (List Byte)) (s : State)
  /-- It waits at its home, which answers. -/
  | waits (s : State)

/-- An enqueue or a dequeue of another module at its home (R152 to R158, log 31). -/
def State.remoteQueue (s : State) (k : Nat) (op : QOp) (try_ : Bool) : Remote :=
  if !s.homeIdle k then .later
  else match s.tick1.qserve k s.nextId op (s.qempty k op.enq) with
    | .refuse _ _ s1 => .answer none s1
    | .held => .later
    | .wait => if try_ then .answer (some [1]) s else .waits (s.tick1.qjoin k s.nextId op)
    | .served s1 => .waits s1

/-- A barrier operation of another module at its home (R162 to R164). -/
def State.remoteBar (s : State) (k : Nat) (op : BarOp) : Remote :=
  match s.barDo (remotePage k) op with
  | .corrupt s1 => .answer none s1
  | .done ovr s1 => .answer (some [if ovr then 1 else 0]) s1

/-- A request performed at its home (R395): the forms of the answers are the model's (log 31). A read or an atomic of a line
with an uncorrectable error has no value to answer with. -/
def State.remoteDo (s : State) (k : Nat) (r : RemoteReq) : Remote :=
  let t := remotePage k
  match r.op with
  | .read n => .answer (some (if s.runFailed k n then [] else s.bytes k n)) s
  | .write data => .answer (some []) (s.wrBytes k data)
  | .atomic sub n v =>
    if s.runFailed k n then .answer (some []) s
    else
      let old := s.num k n
      .answer (some (bytesOfNat n old)) (s.wrNum k n (atomGroup sub n old none [(0, v.toNat % 2 ^ (8 * n))]).2)
  | .cas n e x =>
    if s.runFailed k n then .answer (some []) s
    else
      let m := 2 ^ (8 * n)
      let old := s.num k n
      .answer (some (bytesOfNat n old)) (if old = e.toNat % m then s.wrNum k n (x.toNat % m) else s)
  | .readLine =>
    .answer (some (if s.lineFailed k then [] else s.bytes k 128 ++ (List.range 8).map (s.sideByte k))) s
  | .writeLine payload side =>
    .answer (some []) (((s.wrBytes k payload).wrSide k (side.zipIdx.map fun p => (p.2, p.1))).clearFailed k)
  | .enqueue data thr try_ => s.remoteQueue k (remoteQOp r true thr data.length (data.headD []).length data) try_
  | .dequeue n thr try_ span => s.remoteQueue k (remoteQOp r false thr n span []) try_
  | .queueInit base shape =>
    if !qinitOk false base shape then .answer none s
    else if !s.homeIdle k then .later
    else if (s.home k).busy == [] then .answer (some []) (s.qinit k (initWords false base shape))
    else .waits (s.tick1.qline k s.nextId { remoteQOp r true false 0 0 [] with init := initWords false base shape })
  | .arrive c => s.remoteBar k (.arrive c)
  | .addBytes n => s.remoteBar k (.bytes n)
  | .barrierInit cfg => .answer (some []) (s.wrAt t (bytesOfNat 16 (barFresh cfg).toNat))
  | .barrierWait phase =>
    let x := s.barObj k
    if s.runFailed k 16 || !barOk x then .answer none (s.barSpoil k)
    else if barPhase x ≠ phase % 16 then .answer (some (bytesOfNat 8 (barPhase x + 16))) s
    else .waits { s.tick1 with barWaits := s.barWaits.put s.nextId ⟨.module r.src r.ident, k, phase % 16, none, 0, none⟩ }

/-- A request that waits at its home: sent again, it is the same request (R397). -/
def State.remotePending (s : State) (src ident : Nat) : Bool :=
  (s.qops.all.any fun p => p.2.agent == .module src ident) || s.barWaits.all.any fun p => p.2.who == .module src ident

/-- REMOTE_REQUEST (R395, R397): served once; a request seen before is answered from the record. -/
def execRemoteRequest (r : RemoteReq) (s : State) : Host.Outcome State Fault Refusal :=
  .next (match s.remoteLog.find? fun e => e.1 == r.src && e.2.1 == r.ident with
    | some e => s.send (.remote r.src r.ident e.2.2)
    | none =>
      if s.remotePending r.src r.ident then s
      else match s.remoteKey r with
        | none => s.answerModule r.src r.ident none
        | some k => match s.remoteDo k r with
          | .later => s
          | .answer data s1 => s1.answerModule r.src r.ident data
          | .waits s1 => s1)

/-! ### Corrected errors (R385) -/

/-- The key of a unit of a compartment. -/
def unitKey (cmp unit : Nat) : Nat := cmp * 2 ^ 32 + unit

/-- SOFT_ERROR_CORRECTION (R385): counted; the part marks no data. -/
def execSoftErrorCorrection (cmp unit : Nat) (s : State) : Host.Outcome State Fault Refusal :=
  .next { s with corrected := Store.set 0 s.corrected (unitKey cmp unit) (Store.get 0 s.corrected (unitKey cmp unit) + 1) }

/-- R385: 1,024 ticks of `gtime` have passed since the unit's last record. -/
def State.correctedDue (s : State) (k : Nat) : Bool :=
  match s.correctedAt.find k with
  | none => true
  | some t => t + 1024 ≤ s.gtime

/-- CORRECTED_ERROR (R385, R390): the corrections since the last record, at most once per 1,024 ticks per unit. -/
def execCorrectedError (cmp unit : Nat) (s : State) : Host.Outcome State Fault Refusal :=
  let k := unitKey cmp unit
  let n := Store.get 0 s.corrected k
  .next (if n = 0 || !s.correctedDue k then s
    else
      let s1 := { s with corrected := Store.set 0 s.corrected k 0, correctedAt := s.correctedAt.put k s.gtime }
      s1.postEvent cmp 5 1 0 (BitVec.ofNat 64 n))

/-! ### Links and planes -/

/-- LINK_DOWN (R398): the links of the four base dies. -/
def execLinkDown (die link : Nat) (s : State) : Host.Outcome State Fault Refusal :=
  .next (if 4 ≤ die || 256 ≤ link then s
    else
      let s1 := { s with downLinks := if s.downLinks.contains (die, link) then s.downLinks else (die, link) :: s.downLinks }
      s1.postEventAll 9 2 (BitVec.ofNat 64 (die * 256 + link)))

/-- PLANE_DEAD (R14, R397): the part has planes 0 to 15. -/
def execPlaneDead (plane : Nat) (s : State) : Host.Outcome State Fault Refusal :=
  .next (if 16 ≤ plane then s
    else
      let s1 := { s with deadPlanes := if s.deadPlanes.contains plane then s.deadPlanes else plane :: s.deadPlanes }
      s1.postEventAll 8 2 (BitVec.ofNat 64 plane))

end Sys2Proof.Machine
end

