-- ==== Sys2Proof/Machine/Sha.lean ====
section
/-! DEFINITION. The SHA-256 digest that R399 and R401 name. Its tables come from its definition: the fractional parts of the
square and cube roots of the first primes (log 18). -/

namespace Sys2Proof.Machine

/-- A prime number. -/
def isPrime (n : Nat) : Bool := 2 ≤ n && ((List.range n).drop 2).all fun d => n % d != 0

/-- The first 64 primes; the last is 311. -/
def shaPrimes : List Nat := (List.range 312).filter isPrime

/-- The floor of the `k`-th root of a number, by its bits from bit `n - 1` down. -/
def rootFloor (k x : Nat) : Nat → Nat → Nat
  | 0, r => r
  | n + 1, r => rootFloor k x n (if (r + 2 ^ n) ^ k ≤ x then r + 2 ^ n else r)

/-- The first 32 bits of the fractional part of a square root. -/
def sqrtBits (p : Nat) : Word := BitVec.ofNat 32 (rootFloor 2 (p * 2 ^ 64) 40 0)

/-- The first 32 bits of the fractional part of a cube root. -/
def cbrtBits (p : Nat) : Word := BitVec.ofNat 32 (rootFloor 3 (p * 2 ^ 96) 40 0)

/-- The message padded to a multiple of 64 bytes: a one bit, zeros, and its length in bits, most significant byte first. -/
def shaPad (l : List Byte) : List Byte :=
  l ++ ([0x80] : List Byte) ++ List.replicate ((119 - l.length % 64) % 64) (0 : Byte)
    ++ ((List.range 8).map fun i => BitVec.ofNat 8 ((8 * l.length) >>> (8 * (7 - i))))

/-- Word `i` of a block, most significant byte first. -/
def shaWord (l : List Byte) (i : Nat) : Word := l.getD (4 * i) 0 ++ l.getD (4 * i + 1) 0 ++ l.getD (4 * i + 2) 0 ++ l.getD (4 * i + 3) 0

/-- The message schedule, the newest word first: `n` words after the first sixteen. -/
def shaSchedule : Nat → List Word → List Word
  | 0, w => w
  | n + 1, w =>
    let x := w.getD 14 0
    let y := w.getD 1 0
    let s0 := x.rotateRight 7 ^^^ x.rotateRight 18 ^^^ (x >>> 3)
    let s1 := y.rotateRight 17 ^^^ y.rotateRight 19 ^^^ (y >>> 10)
    shaSchedule n ((w.getD 15 0 + s0 + w.getD 6 0 + s1) :: w)

/-- One round on the eight working words. -/
def shaRound (v : List Word) (kw : Word) : List Word :=
  let at_ (i : Nat) : Word := v.getD i 0
  let e := at_ 4
  let a := at_ 0
  let t1 := at_ 7 + (e.rotateRight 6 ^^^ e.rotateRight 11 ^^^ e.rotateRight 25) + ((e &&& at_ 5) ^^^ (~~~e &&& at_ 6)) + kw
  let t2 := (a.rotateRight 2 ^^^ a.rotateRight 13 ^^^ a.rotateRight 22) + ((a &&& at_ 1) ^^^ (a &&& at_ 2) ^^^ (at_ 1 &&& at_ 2))
  [t1 + t2, a, at_ 1, at_ 2, at_ 3 + t1, e, at_ 5, at_ 6]

/-- The hash after `n` blocks of a padded message. -/
def shaBlocks : Nat → List Byte → List Word → List Word
  | 0, _, h => h
  | n + 1, l, h =>
    let w := (shaSchedule 48 ((List.range 16).reverse.map (shaWord l))).reverse
    let v := ((shaPrimes.map cbrtBits).zip w).foldl (fun v p => shaRound v (p.1 + p.2)) h
    shaBlocks n (l.drop 64) ((List.range 8).map fun i => h.getD i 0 + v.getD i 0)

/-- The SHA-256 digest of bytes: 32 bytes. -/
def sha256 (l : List Byte) : List Byte :=
  let p := shaPad l
  (shaBlocks (p.length / 64) p ((shaPrimes.take 8).map sqrtBits)).flatMap fun w =>
    [w.extractLsb' 24 8, w.extractLsb' 16 8, w.extractLsb' 8 8, w.extractLsb' 0 8]

end Sys2Proof.Machine
end

