-- ==== Sys2Proof/Machine/Mgmt.lean ====
section
/-! DEFINITION. Management commands (R392 to R397, R399 to R401): who may give one, its reply, and what each does. -/

namespace Sys2Proof.Machine

/-! ### Commands and replies (R392, R393, R400) -/

/-- What a command comes to: its status (R392), the data of its reply, and the state. -/
structure Answer where
  status : Nat
  data : List Byte
  after : State

/-- R392: the reply, on the connection of the command: the tag, the status, the data length, the data. -/
def State.reply (s : State) (h : MgmtHdr) (status : Nat) (data : List Byte) : State :=
  s.send (.reply h.conn h.replyAddr h.replyRkey
    (bytesOfNat 4 h.tag.toNat ++ bytesOfNat 4 status ++ bytesOfNat 8 data.length ++ data))

/-- Whether a command on a connection may be served (R392, R393, R400): `none` while the boot ROM runs, where it has not
reached the management window, and in recovery on another port than 0; otherwise whether it is permitted: in recovery
what `recovery` says, else the peers of the list. -/
def State.permits (s : State) (h : MgmtHdr) (recovery : Bool) : Option Bool :=
  match s.conns.find h.conn with
  | none => none
  | some c =>
    if c.posted != [] || c.waiting then none
    else match s.boot with
      | .rom => none
      | .recovery => if c.port ≠ 0 then none else some recovery
      | .running => some (s.peers.contains c.peer)

/-- A command of an opcode (R392, R393): status 3 where it is not permitted, 1 where bytes 2 and 3 are not zero. An element
with another opcode is no such command (log 23). -/
def State.mgmt (s : State) (h : MgmtHdr) (opcode : Nat) (act : Answer) : State :=
  if h.opcode.toNat ≠ opcode then s
  else match s.permits h (opcode == 0x0E) with
    | none => s
    | some false => s.reply h 3 []
    | some true => if h.zero ≠ 0 then s.reply h 1 [] else act.after.reply h act.status act.data

/-- A command that changes nothing. -/
def State.only (s : State) (status : Nat) : Answer := ⟨status, [], s⟩

/-- A command for a compartment; there are eight (R339). -/
def State.forComp (s : State) (h : MgmtHdr) (act : Answer) : Answer := if 8 ≤ h.cmp then s.only 1 else act

/-- R392, Table 18.3: an element whose opcode no command has, or whose bytes 2 and 3 are not zero. -/
def badElement (h : MgmtHdr) : Bool := h.opcode == 0 || 0x0E < h.opcode.toNat || h.zero != 0

/-- MANAGEMENT_BAD_OPCODE (R392, R400): status 1, whatever bytes 24 to 255 of the element are; an element that names a command is
none. -/
def execManagementBadOpcode (h : MgmtHdr) (_operands : List Byte) (s : State) : Host.Outcome State Fault Refusal :=
  .next (if !badElement h then s
    else match s.permits h (h.opcode == 0x0E) with
      | none => s
      | some false => s.reply h 3 []
      | some true => s.reply h 1 [])

/-! ### SYNC-SUMMARY (R394) -/

/-- Head and tail of a queue, four bytes each; zeros where there is none that translates. -/
def State.headTail (s : State) : Option (Except Fail Trans) → List Byte
  | some (.ok t) => s.bytes (t.key + 16) 8
  | _ => List.replicate 8 0

/-- The control block of a fault or event queue, as the part reaches it (R407). -/
def State.partBlock (s : State) (cmp : Nat) (q : DWord × Nat) : Except Fail Trans := s.xany ⟨cmp, q.2, 4096, 0⟩ q.1 .read

/-- The control blocks of the queues that a compartment has: fault, event and launch queues (R349, R373, R390). -/
def State.partBlocks (s : State) (cmp : Nat) : List (Except Fail Trans) :=
  let c := s.comp cmp
  (c.qfault.toList ++ c.qevent.toList).map (s.partBlock cmp)
    ++ c.queues.all.map fun q => s.queueXlate cmp q.2 q.2.block .read

/-- The event records of a source that wait to reach their home, or for their turn there (R152, R397): neither posted nor
dropped. -/
def State.eventsDue (s : State) (cmp source : Nat) : Nat :=
  let mine := fun (op : QOp) => op.agent == .event source && op.cmp == cmp
  (s.homes.all.flatMap fun p => p.2.line.filter fun id => match s.qops.find id with | some op => mine op | none => false).length
    + (s.delayed.filter fun d => match d with | .post _ op => mine op | .packet _ _ _ => false).length

/-- R394: the mark of a source: what has a lower sequence has been posted or dropped, the rest is posted later. -/
def State.eventMark (s : State) (cmp source : Nat) : Nat :=
  (Store.get 0 (s.comp cmp).seqEvent source + 2 ^ 32 - s.eventsDue cmp source) % 2 ^ 32

/-- The contexts of a compartment. -/
def State.ctxsOf (s : State) (cmp : Nat) : List Ctx := (s.ctxs.all.filter fun p => p.1 / 65536 == cmp).map (·.2)

/-- The resident clusters of a compartment. -/
def State.residentClusters (s : State) (cmp : Nat) : List Cluster :=
  (s.clusters.all.filter fun p => p.2.cmp == cmp && !p.2.swapped
    && p.2.blocks.any fun b => match s.blocks.find b with | some x => !s.blockEnded b x | none => false).map (·.2)

/-- A compartment's entry of the summary: 256 bytes. R378 lets the summary carry the cluster token; R394's layout, which has
no field for it, is followed (DESIGN CHOICE, log 57). -/
def State.summaryOf (s : State) (cmp : Nat) : List Byte :=
  let c := s.comp cmp
  let live := (s.ctxsOf cmp).filter fun x => !x.fenced
  let gone := (s.ctxsOf cmp).filter fun x => x.fenced
  bytesOfNat 8 c.coreGroups.toNat ++ bytesOfNat 8 c.stackGroups.toNat ++ bytesOfNat 8 c.drc.toNat
    ++ bytesOfNat 4 live.length ++ bytesOfNat 4 (s.residentClusters cmp).length ++ bytesOfNat 4 c.tokens.length
    ++ bytesOfNat 4 gone.length ++ s.headTail (c.qfault.map (s.partBlock cmp)) ++ s.headTail (c.qevent.map (s.partBlock cmp)) ++ bytesOfNat 2 c.group
    ++ List.replicate 6 0 ++ (List.range 8).flatMap (fun i => bytesOfNat 4 (s.eventMark cmp i))
    ++ (List.range 16).flatMap (fun i => s.headTail ((c.queues.find i).map fun q => s.queueXlate cmp q q.block .read))
    ++ List.replicate 32 0

/-- The plane map in eight bytes: sixteen four-bit entries (R396). -/
def planeWord (l : List Nat) : Nat := l.foldr (fun x n => x % 16 + 16 * n) 0

/-- The summary (R394). -/
def State.summary (s : State) : List Byte :=
  bytesOfNat 2 s.ownModule ++ List.replicate 6 0 ++ bytesOfNat 8 (planeWord s.planeMap) ++ bytesOfNat 8 s.gtime
    ++ List.replicate 40 0 ++ (List.range 8).flatMap s.summaryOf

/-- R394: no operation of a home that a summary reads is between its reservation and its publication. -/
def State.homesRest (s : State) : Bool :=
  (List.range 8).all fun cmp => (s.partBlocks cmp).all fun
    | .error _ => true
    | .ok t => (s.home t.key).busy.all fun id => match s.qops.find id with | some op => !op.enq | none => true

/-- R397: the home of a control block cannot be told or reached now. -/
def State.blockAway (s : State) (b : Except Fail Trans) : Bool :=
  match b with
  | .ok t => s.planeHeld t.key
  | .error f => f.cause == heldCause

/-- R394, R397: a summary can be read: the homes rest, and each can be reached. -/
def State.summaryReady (s : State) : Bool :=
  s.homesRest && (List.range 8).all fun cmp => !(s.partBlocks cmp).any s.blockAway

/-- SYNC_SUMMARY (R394): between two operations at each home; it waits for them, and for a plane (R397). -/
def execSyncSummary (h : MgmtHdr) (s : State) : Host.Outcome State Fault Refusal :=
  .next (if s.summaryReady then s.mgmt h 0x01 ⟨0, s.summary, s⟩ else s)

/-! ### Compartments and contexts -/

/-- R339: a compartment has work that is resident. -/
def State.hasWork (s : State) (cmp : Nat) : Bool :=
  s.residentClusters cmp != [] || s.warps.all.any (fun p => p.2.cmp == cmp && !p.2.swapped)
    || s.cmds.all.any fun p => p.2.cmp == cmp && p.2.status == 0

/-- R339, R399: the groups are free for a compartment: no other owns one of them, and the stacks have trained. -/
def State.groupsFree (s : State) (cmp : Nat) (cores : BitVec 48) (stacks_ : BitVec 8) : Bool :=
  stacks_ &&& ~~~ Config.stacksTrained s.image == 0
    && (List.range 8).all fun c => c == cmp || ((s.comp c).coreGroups &&& cores == 0 && (s.comp c).stackGroups &&& stacks_ == 0)

/-- COMPARTMENT_SET (R339). -/
def execCompartmentSet (h : MgmtHdr) (coreGroups : BitVec 48) (stackGroups : BitVec 8) (s : State) :
    Host.Outcome State Fault Refusal :=
  .next (s.mgmt h 0x02 (s.forComp h
    (if !s.groupsFree h.cmp coreGroups stackGroups then s.only 1
    else if s.hasWork h.cmp then s.only 2
    else ⟨0, [], s.mapComp h.cmp fun c => { c with coreGroups := coreGroups, stackGroups := stackGroups }⟩)))

/-- CONTEXT_CREATE (R333). -/
def execContextCreate (h : MgmtHdr) (ctx : BitVec 16) (ptroot xvec : DWord) (s : State) : Host.Outcome State Fault Refusal :=
  .next (s.mgmt h 0x03 (s.forComp h
    (match s.ctxOf h.cmp ctx.toNat with
    | some _ => s.only 1
    | none =>
      let c : Ctx := { ptroot := ptroot, xvec := xvec, xdeleg := 0, old := (xvec, 0), wrote := none, fenced := false, engines := [], seqs := [] }
      ⟨0, [], { s with ctxs := s.ctxs.put (ctxKey h.cmp ctx.toNat) c }⟩)))

/-- What a destroyed context held: its launch-table entries, its tokens, its swapped warps, its ended commands and its
translations (Table 18.3). -/
def State.freeCtx (s : State) (cmp ctx : Nat) : State :=
  let ls := (s.launches.all.filter fun p => p.2.cmp == cmp && p.2.ctx == ctx).map (·.1)
  let s1 := ls.foldl (fun s l => s.forget l) s
  let s2 := s1.mapComp cmp fun c => { c with tokens := c.tokens.filter fun t => (t.token.extractLsb' 32 16).toNat ≠ ctx }
  { s2 with
    ctxs := s2.ctxs.erase (ctxKey cmp ctx)
    warps := s2.warps.filter fun p => match p.2 with | some w => !(w.cmp == cmp && w.ctx == ctx && w.swapped) | none => false
    cmds := s2.cmds.filter fun p => match p.2 with | some c => !(c.cmp == cmp && c.ctx == ctx) | none => false
    barWaits := s2.barWaits.filter fun p => match p.2 with
      | some b => (match b.who with | .launch l => !ls.contains l | _ => true)
      | none => false
    tlb := s2.tlb.filter fun e => !(e.cmp == cmp && e.ctx == ctx) }

/-- CONTEXT_DESTROY (Table 18.3, R386). -/
def execContextDestroy (h : MgmtHdr) (ctx : BitVec 16) (s : State) : Host.Outcome State Fault Refusal :=
  .next (s.mgmt h 0x04 (s.forComp h
    (match s.ctxOf h.cmp ctx.toNat with
    | none => s.only 1
    | some c => ⟨0, [], (if c.fenced then s else s.fence h.cmp ctx.toNat).freeCtx h.cmp ctx.toNat⟩)))

/-! ### Queues -/

/-- Whether a block passes the checks of Table 6.2 with an element size at system scope; `plain` where flag [3] must be
clear (R349, R373, R375, R390). -/
def State.queueFits (s : State) (cmp ctx : Nat) (block : DWord) (size : Nat) (plain : Bool) : Bool :=
  block.toNat % 64 == 0 && match s.xany ⟨cmp, ctx, 4096, 0⟩ block .write with
    | .error _ => false
    | .ok t =>
      let q := s.qblk t.key
      (s.qcheck t.key false).isNone && q.size == size && q.flags % 8 == 6 && (!plain || q.flags / 8 % 2 == 0)

/-- R350: the distributor waits at the block that a launch queue had no longer. -/
def State.leaveQueue (s : State) (cmp index : Nat) : State :=
  match s.distOp cmp index with
  | none => s
  | some (id, _) => match s.homeOf id with
    | some k => s.qleave k id
    | none => s

/-- QUEUE-SET's effect: status 1 where an operand or a block fails. -/
def State.queueSet (s : State) (cmp : Nat) : QueueSetArg → Answer
  | .faultQueue block ctx =>
    let n := ctx.toNat
    if (s.ctxOf cmp n).isSome && s.queueFits cmp n block 64 false && s.queueFits cmp n (block + 64) 16 true then
      ⟨0, [], s.mapComp cmp fun c => { c with qfault := some (block, n) }⟩
    else s.only 1
  | .eventQueue block ctx =>
    let n := ctx.toNat
    if (s.ctxOf cmp n).isSome && s.queueFits cmp n block 32 true then
      ⟨0, [], s.mapComp cmp fun c => { c with qevent := some (block, n) }⟩
    else s.only 1
  | .launchQueue index block table entries supervisor ctx =>
    let n := ctx.toNat
    if index < 16 && 1 ≤ entries && entries ≤ 256 && !table.getLsbD 63 && table.toNat % 8 == 0 && (s.ctxOf cmp n).isSome
        && !block.getLsbD 63 && s.queueFits cmp n block 128 true then
      let root := match s.ctxOf cmp n with | some c => c.ptroot | none => 0
      let q : LaunchQueue :=
        { block := block, table := table, entries := entries, super := supervisor, ctx := n, root := root, stopped := false }
      ⟨0, [], (s.leaveQueue cmp index).mapComp cmp fun c => { c with queues := c.queues.put index q }⟩
    else s.only 1

/-- The control blocks that a QUEUE_SET checks, and the context in which it does. -/
def queueSetBlocks : QueueSetArg → List DWord × Nat
  | .faultQueue block ctx => ([block, block + 64], ctx.toNat)
  | .eventQueue block ctx => ([block], ctx.toNat)
  | .launchQueue _ block _ _ _ ctx => ([block], ctx.toNat)

/-- R397: a control block that a QUEUE_SET checks cannot be reached now. -/
def State.queueSetHeld (s : State) (cmp : Nat) (what : QueueSetArg) : Bool :=
  (queueSetBlocks what).1.any fun b => s.blockAway (s.xany ⟨cmp, (queueSetBlocks what).2, 4096, 0⟩ b .write)

/-- QUEUE_SET (R349, R373, R375, R390, R408): it waits for a plane (R397). -/
def execQueueSet (h : MgmtHdr) (what : QueueSetArg) (s : State) : Host.Outcome State Fault Refusal :=
  .next (if s.queueSetHeld h.cmp what then s else s.mgmt h 0x05 (s.forComp h (s.queueSet h.cmp what)))

/-! ### Targets (R387) -/

/-- The rkey that management issues next (log 18). -/
def State.nextRkey (s : State) : Nat := Config.rkeyOf s.nextId % 2 ^ 32

/-- A target under a new rkey; the reply's data is the rkey. -/
def State.issueRkey (s : State) (t : Target) : Answer :=
  let r := s.nextRkey
  if r = 1 || (s.rkeys.find r).isSome then ⟨2, [], s.tick1⟩
  else ⟨0, bytesOfNat 4 r, { s.tick1 with rkeys := s.rkeys.put r t }⟩

/-- WINDOW_MAP (R387). -/
def execWindowMap (h : MgmtHdr) (block : DWord) (ctx : BitVec 16) (s : State) : Host.Outcome State Fault Refusal :=
  .next (s.mgmt h 0x06 (s.forComp h
    (if (s.ctxOf h.cmp ctx.toNat).isNone || block.toNat % 64 ≠ 0 then s.only 1
    else s.issueRkey (.window h.cmp ctx.toNat block))))

/-- REGION_REGISTER (R387, R389). A sideband view that is not of whole 128-byte lines is a bad operand (DESIGN CHOICE,
log 60). -/
def execRegionRegister (h : MgmtHdr) (ctx : BitVec 16) (base : DWord) (len : Nat) (rd wr side : Bool) (s : State) :
    Host.Outcome State Fault Refusal :=
  .next (s.mgmt h 0x07 (s.forComp h
    (if (s.ctxOf h.cmp ctx.toNat).isNone || 2 ^ 63 < base.toNat + len
        || (side && (base.toNat % 128 != 0 || len % 128 != 0)) then s.only 1
    else s.issueRkey (.region h.cmp ctx.toNat base len rd wr side))))

/-! ### Throttle, domain, planes -/

/-- THROTTLE_SET (R363). -/
def execThrottleSet (h : MgmtHdr) (table : List Nat) (s : State) : Host.Outcome State Fault Refusal :=
  .next (s.mgmt h 0x08 (s.forComp h
    (if table.length ≠ 16 || table.any fun x => x = 0 || 32 < x then s.only 1
    else ⟨0, [], { s with throttle := (s.ownedCores h.cmp).foldl (fun m c => Store.set defaultThrottle m c table) s.throttle }⟩)))

/-- R393, R395: a remote access is in flight: a read, a store or a packet at another module, an operation at a home there, or
one of another module at a home here (log 19). -/
def State.remoteBusy (s : State) : Bool :=
  s.loads.all.any (fun p => p.2.far) || s.acks.all.any (fun p => p.2.far)
    || s.chases.all.any (fun p => p.2.packets.any fun k => k.st == .flying && match k.owner with | some o => o.1 != 0 | none => false)
    || s.homes.all.any (fun p => !isLocal p.1 && (p.2.busy ++ p.2.enqW ++ p.2.deqW ++ p.2.line) != [])
    || s.qops.all.any (fun p => match p.2.agent with | .module _ _ => true | _ => false)
    || s.barWaits.all.any fun p => !isLocal p.2.key || match p.2.who with | .module _ _ => true | _ => false

/-- DOMAIN_SET (R395). -/
def execDomainSet (h : MgmtHdr) (own group : Nat) (ranges : List (Nat × Nat)) (s : State) :
    Host.Outcome State Fault Refusal :=
  .next (s.mgmt h 0x09 (s.forComp h
    (if 2048 ≤ own || 65536 ≤ group || 28 < ranges.length || ranges.any (fun p => 2048 < p.1 + p.2) then s.only 1
    else if s.remoteBusy then s.only 2
    else
      let l := ranges.flatMap fun p => (List.range p.2).map (p.1 + ·)
      ⟨0, [], { s.mapComp h.cmp fun c => { c with group := group } with ownModule := own, members := l }⟩)))

/-- QUIESCE (R397). -/
def execQuiesce (h : MgmtHdr) (s : State) : Host.Outcome State Fault Refusal :=
  .next (s.mgmt h 0x0A ⟨0, [], { s with quiesced := true }⟩)

/-- PLANE_MAP (R396): busy unless quiesced. -/
def execPlaneMap (h : MgmtHdr) (entries : List Nat) (s : State) : Host.Outcome State Fault Refusal :=
  .next (s.mgmt h 0x0B
    (if entries.length ≠ 16 || entries.any (fun x => 16 ≤ x) then s.only 1
    else if !s.quiesced then s.only 2
    else ⟨0, [], { s with planeMap := entries }⟩))

/-- RELEASE (R397). -/
def execRelease (h : MgmtHdr) (s : State) : Host.Outcome State Fault Refusal :=
  .next (s.mgmt h 0x0C ⟨0, [], { s with quiesced := false }⟩)

/-! ### Attestation (R401) and firmware (R399, R400) -/

/-- The first `n` bytes of a list. -/
def fit (n : Nat) (l : List Byte) : List Byte := (List.range n).map fun i => l.getD i 0

/-- R401: bytes 0 to 127 of a report, on the image that runs (DEDUCED, log 57). -/
def State.reportHead (s : State) (nonce : List Byte) : List Byte :=
  let table := (List.range 8).flatMap fun c => [(s.comp c).coreGroups.toNat, (s.comp c).stackGroups.toNat]
  [0x51, 0x4A, 0x41, 0x54] ++ fit 16 Config.serialNumber ++ fit 32 (sha256 s.image)
    ++ fit 32 (sha256 (Config.configText s.image table)) ++ fit 32 nonce ++ bytesOfNat 8 s.gtime ++ List.replicate 4 0

/-- ATTEST (R401), mode 0. -/
def execAttest (h : MgmtHdr) (nonce : List Byte) (s : State) : Host.Outcome State Fault Refusal :=
  .next (s.mgmt h 0x0D
    (if nonce.length ≠ 32 then s.only 1
    else
      let l := s.reportHead nonce
      ⟨0, l ++ fit 384 (Config.identitySignature (sha256 l)), s⟩))

/-- ATTEST_CERTIFICATE_CHAIN (R401), mode 1. -/
def execAttestCertificateChain (h : MgmtHdr) (s : State) : Host.Outcome State Fault Refusal :=
  .next (s.mgmt h 0x0D ⟨0, Config.certificateChain, s⟩)

/-- Bytes written into a list at an offset. -/
def overlay (l : List Byte) (off : Nat) (data : List Byte) : List Byte :=
  l.take off ++ List.replicate (off - l.length) 0 ++ data ++ l.drop (off + data.length)

/-- FIRMWARE_WRITE (R399, R400): staged. -/
def execFirmwareWrite (h : MgmtHdr) (off : Nat) (data : List Byte) (s : State) : Host.Outcome State Fault Refusal :=
  .next (s.mgmt h 0x0E
    (if 224 < data.length then s.only 1 else ⟨0, [], { s with staged := overlay s.staged off data }⟩))

/-- R399: an image that may run: its signature verifies and its security version is not below the fused minimum. -/
def State.imageOk (s : State) (l : List Byte) : Bool :=
  Config.imageVerifies (sha256 l) l && s.fuseMin ≤ Config.imageVersion l

/-- FIRMWARE_COMMIT (R399, R400). -/
def execFirmwareCommit (h : MgmtHdr) (s : State) : Host.Outcome State Fault Refusal :=
  .next (s.mgmt h 0x0E (if s.imageOk s.staged then ⟨0, [], { s with flash := s.staged, torn := false }⟩ else s.only 4))

end Sys2Proof.Machine
end

