-- ==== Sys2Proof/Machine/Conn.lean ====
section
/-! DEFINITION. The connections of hosts (R15, R387, R388): what is posted on them, in posting order, and the management
window (R392). -/

namespace Sys2Proof.Machine

/-- A connection changed. -/
def State.mapConn (s : State) (conn : Nat) (f : Conn → Conn) : State :=
  match s.conns.find conn with
  | none => s
  | some c => { s with conns := s.conns.put conn (f c) }

/-! ### The management window (R392) -/

/-- R392: bytes 0 to 23 of a management element. -/
def elementHead (conn : Nat) (l : List Byte) : MgmtHdr :=
  let at_ (i n : Nat) : Nat := natOfBytes ((l.drop i).take n)
  ⟨conn, BitVec.ofNat 16 (at_ 0 2), BitVec.ofNat 16 (at_ 2 2), BitVec.ofNat 32 (at_ 4 4), BitVec.ofNat 64 (at_ 8 8),
    BitVec.ofNat 32 (at_ 16 4), at_ 20 4⟩

/-- The head of a management command. -/
def mgmtHead : Instr → Option MgmtHdr
  | .syncSummary h | .compartmentSet h _ _ | .contextCreate h _ _ _ | .contextDestroy h _ | .queueSet h _ | .windowMap h _ _
  | .regionRegister h _ _ _ _ _ _ | .throttleSet h _ | .domainSet h _ _ _ | .quiesce h | .planeMap h _ | .release h
  | .attest h _ | .attestCertificateChain h | .firmwareWrite h _ _ | .firmwareCommit h => some h
  | _ => none

/-- A management command executed (Table 18.3). -/
def State.command (s : State) : Instr → State
  | .syncSummary h => nextOr s (execSyncSummary h s)
  | .compartmentSet h c t => nextOr s (execCompartmentSet h c t s)
  | .contextCreate h c r v => nextOr s (execContextCreate h c r v s)
  | .contextDestroy h c => nextOr s (execContextDestroy h c s)
  | .queueSet h q => nextOr s (execQueueSet h q s)
  | .windowMap h b c => nextOr s (execWindowMap h b c s)
  | .regionRegister h c b n r w d => nextOr s (execRegionRegister h c b n r w d s)
  | .throttleSet h t => nextOr s (execThrottleSet h t s)
  | .domainSet h o g r => nextOr s (execDomainSet h o g r s)
  | .quiesce h => nextOr s (execQuiesce h s)
  | .planeMap h e => nextOr s (execPlaneMap h e s)
  | .release h => nextOr s (execRelease h s)
  | .attest h n => nextOr s (execAttest h n s)
  | .attestCertificateChain h => nextOr s (execAttestCertificateChain h s)
  | .firmwareWrite h o d => nextOr s (execFirmwareWrite h o d s)
  | .firmwareCommit h => nextOr s (execFirmwareCommit h s)
  | _ => s

/-- R394, R397: a command that waits: a SYNC-SUMMARY for the homes, and with a QUEUE-SET for a plane. -/
def State.commandHeld (s : State) : Instr → Bool
  | .syncSummary _ => !s.summaryReady
  | .queueSet h what => s.queueSetHeld h.cmp what
  | _ => false

/-- R387, R392: a WRITE of one 256-byte element to the management window: the command that its bytes hold, or status 1; none
while the command waits. -/
def State.element (s : State) (conn : Nat) (l : List Byte) : Option State :=
  let h := elementHead conn l
  if badElement h then some (nextOr s (execManagementBadOpcode h (l.drop 24) s))
  else match Config.commandOf l with
    | none => some (s.mgmt h h.opcode.toNat (s.only 1))
    | some i =>
      if mgmtHead i ≠ some h then some (s.mgmt h h.opcode.toNat (s.only 1))
      else if s.commandHeld i then none
      else some (s.command i)

/-! ### Operations in posting order (R388) -/

/-- R387: one operation of a connection, by the target that its rkey names; none while it cannot be performed. A SEND
completes and has no other effect (log 41). -/
def State.hostOp (s : State) (conn : Nat) : HostOp → Option State
  | .write rkey va data => match s.rkeys.find rkey with
    | some (.region cmp ctx base len rd wr side) => s.regionWrite conn rkey ⟨cmp, ctx, base, len, rd, wr, side⟩ va data
    | some (.window cmp ctx block) => s.windowWrite conn rkey cmp ctx block data
    | none => if rkey = 1 && data.length = 256 then s.element conn data else some (s.send (.accessError conn rkey))
  | .read rkey va len => match s.rkeys.find rkey with
    | some (.region cmp ctx base n rd wr side) => s.regionRead conn rkey ⟨cmp, ctx, base, n, rd, wr, side⟩ va len
    | _ => some (s.send (.accessError conn rkey))
  | .window rkey data => match s.rkeys.find rkey with
    | some (.window cmp ctx block) => s.windowWrite conn rkey cmp ctx block data
    | _ => some (s.send (.accessError conn rkey))
  | .send => some (s.send (.sendDone conn))

/-- R388: the operations of a connection, as far as they can be performed, by fuel: one that waits holds back those posted
after it. A command finds nothing of its connection before it. -/
def State.serveConn (conn : Nat) : Nat → State → State
  | 0, s => s
  | n + 1, s => match s.conns.find conn with
    | none => s
    | some c => match c.posted with
      | [] => s
      | op :: rest =>
        if c.waiting then s
        else match (s.mapConn conn fun c => { c with posted := [] }).hostOp conn op with
          | none => s
          | some t => State.serveConn conn n (t.mapConn conn fun c => { c with posted := rest })

/-- The operations of a connection go on (R388). -/
def State.serve (s : State) (conn : Nat) : State :=
  match s.conns.find conn with
  | none => s
  | some c => s.serveConn conn c.posted.length

/-- R387: an operation posted on a connection that management has admitted; there is no other way in. -/
def State.post (s : State) (conn : Nat) (op : HostOp) : State :=
  match s.conns.find conn with
  | none => s
  | some _ => (s.mapConn conn fun c => { c with posted := c.posted ++ [op] }).serve conn

/-- RDMA_WRITE (R387 to R389). -/
def execRdmaWrite (h : RdmaHdr) (va : DWord) (data : List Byte) (s : State) : Host.Outcome State Fault Refusal :=
  .next (s.post h.conn (.write h.rkey va data))

/-- RDMA_READ (R387 to R389). -/
def execRdmaRead (h : RdmaHdr) (va : DWord) (len : Nat) (s : State) : Host.Outcome State Fault Refusal :=
  .next (s.post h.conn (.read h.rkey va len))

/-- HOST_WINDOW_WRITE (R160). -/
def execHostWindowWrite (h : RdmaHdr) (data : List Byte) (s : State) : Host.Outcome State Fault Refusal :=
  .next (s.post h.conn (.window h.rkey data))

/-- R15, R387, R400: a host connects at one of the four ports; in recovery at port 0 alone, and not while the boot ROM
runs. -/
def State.connect (s : State) (conn port peer : Nat) : State :=
  if 4 ≤ port || s.boot == .rom || (s.boot == .recovery && port != 0) || (s.conns.find conn).isSome then s
  else { s with conns := s.conns.put conn ⟨port, peer, [], false⟩ }

end Sys2Proof.Machine
end

