-- ==== Sys2Proof/Machine/Power.lean ====
section
/-! DEFINITION. Bring-up (R399, R400), power and cooling (R402). -/

namespace Sys2Proof.Machine

/-- The state after reset with what outlives it: flash and fuses (R399), the model's own schedule and counters. -/
def State.afterReset (s : State) : State :=
  { State.reset with
    agenda := s.agenda, fresh := s.fresh, nextId := s.nextId, flash := s.flash, torn := s.torn, fuseMin := s.fuseMin }

/-- R18, R339: an assignment of the 48 core groups to the four base dies, twelve to each. -/
def diesOk (l : List Nat) : Bool := l.length == 48 && (List.range 4).all fun d => (l.filter (· == d)).length == 12

/-- R18: the dies of the core groups as the firmware of an image assigns them (log 7). -/
def bootDies (image : List Byte) : Table Nat :=
  if diesOk (Config.groupDies image) then (Config.groupDies image).zipIdx.foldl (fun m p => m.put p.2 p.1) [] else []

/-- R399: the boot ROM verifies the image in flash; it runs it (log 57), which numbers the cores, raises the fused minimum and
loads the peer list, or stays in recovery (R400). -/
def State.bootRom (s : State) : State :=
  if !s.torn && s.imageOk s.flash then
    { s with
      boot := .running, image := s.flash, fuseMin := Config.imageVersion s.flash, peers := Config.imagePeers s.flash
      coreDie := bootDies s.flash }
  else { s with boot := .recovery }

/-- RESET (R399). -/
def execReset (s : State) : Host.Outcome State Fault Refusal := .next s.afterReset.bootRom

/-- R399: a reset within the flash write of a commit that its verification has let through leaves no valid image. -/
def State.flashCut (s : State) (h : MgmtHdr) : State :=
  if h.opcode = 0x0E && h.zero = 0 && s.permits h true = some true && s.imageOk s.staged then
    ({ s with torn := true } : State).afterReset.bootRom
  else s

/-- THERMAL_LIMIT (R402). -/
def execThermalLimit (s : State) : Host.Outcome State Fault Refusal :=
  .next ({ s with clockLow := true }.postEventAll 10 3 1)

/-- THERMAL_RESTORE (R402). -/
def execThermalRestore (s : State) : Host.Outcome State Fault Refusal :=
  .next ({ s with clockLow := false }.postEventAll 10 3 3)

/-- CRITICAL_TEMPERATURE (R402). -/
def execCriticalTemperature (s : State) : Host.Outcome State Fault Refusal :=
  .next ({ s with issueStopped := true }.postEventAll 10 3 2)

/-- POWER_REMOVAL (R402): all state is lost; flash and fuses are what they are. -/
def execPowerRemoval (s : State) : Host.Outcome State Fault Refusal := .next { s.afterReset with power := false }

end Sys2Proof.Machine
end

