-- ==== Sys2Proof/Machine/Pred.lean ====
section
/-! DEFINITION. Predicates, selection and the instructions that act across the threads of a warp (R246 to R254). -/

namespace Sys2Proof.Machine

/-- Source b of format A with an X-T word: the short permute alone (R85). -/
def Warp.srcBT (w : Warp) (f : FmtA) (t : Nat) : Word := w.src f.b.toNat (permShort f.pb t)

/-- Source b as a pair with an X-T word. -/
def Warp.pairBT (w : Warp) (f : FmtA) (t : Nat) : DWord := w.srcPair f.b.toNat (permShort f.pb t)

/-! ### Comparison (R246) -/

/-- The integer conditions (R246). -/
def intCond (sel : Nat) (a b : Int) : Bool :=
  match sel with
  | 0 => a == b
  | 1 => a != b
  | 2 => decide (a < b)
  | 3 => decide (a ≤ b)
  | 4 => decide (a > b)
  | _ => decide (a ≥ b)

/-- The floating-point conditions (R246). -/
def floatCond (sel : Nat) (a b : FVal) : Bool :=
  if a.isNan || b.isNan then sel == 1 || sel == 6
  else match sel with
    | 0 => fCompare a b == .eq
    | 1 => fCompare a b != .eq
    | 2 => fCompare a b == .lt
    | 3 => fCompare a b != .gt
    | 4 => fCompare a b == .gt
    | 5 => fCompare a b != .lt
    | 6 => false
    | _ => true

/-- A comparison into a predicate, combined with another (R246). -/
def State.compare (s : State) (i : Instr) (f : FmtA) (x : XT) (wide : Bool)
    (cmp : DWord → DWord → Bool × FFlags) : Host.Outcome State Fault Refusal :=
  let a : Ref := if f.u then .k f.a.toNat else if wide then .srcPair f.a else .src f.a
  let b : Ref := if f.u then .k f.b.toNat else if wide then .srcPair f.b else .src f.b
  s.issue i (fun _ => [a, b]) fun s w =>
    let m := w.exec (some x.g)
    let val (t : Nat) : Bool × FFlags :=
      if f.u then cmp (w.kr f.a.toNat) (w.kr f.b.toNat)
      else if wide then cmp (w.srcPair f.a.toNat t) (w.pairBT f t)
      else cmp ((w.src f.a.toNat t).zeroExtend 64) ((w.srcBT f t).zeroExtend 64)
    let fl := if f.u then (if m = 0 then 0 else (val 0).2) else flagsOver m fun t => (val t).2
    .done (s.putWarp s.cur
      ((w.setP f.d.toNat m (maskOf (fun t => (val t).1) &&& w.pr x.c.toNat)).raise fl))

/-- icmp (R246). -/
def execIcmp (f : FmtA) (x : XT) (s : State) : Host.Outcome State Fault Refusal :=
  s.compare (.icmp f x) f x (x.t1 == 14) fun a b =>
    (intCond x.sel.toNat (intValue x.t1.toNat a) (intValue x.t1.toNat b), 0)

/-- fcmp (R246): a signalling NaN raises invalid. -/
def execFcmp (f : FmtA) (x : XT) (s : State) : Host.Outcome State Fault Refusal :=
  s.compare (.fcmp f x) f x false fun a b =>
    let fm := fmtOf x.t1.toNat
    let p := fm.decode (a.toNat % 2 ^ fm.width)
    let q := fm.decode (b.toNat % 2 ^ fm.width)
    (floatCond x.sel.toNat p q, nanFlags [p, q])

/-- plog (R247). -/
def execPlog (f : FmtA) (x : XT) (s : State) : Host.Outcome State Fault Refusal :=
  s.issue (.plog f x) (fun _ => []) fun s w =>
    let a := w.pr f.a.toNat
    let b := w.pr f.b.toNat
    let r := match x.sel.toNat with
      | 0 => a &&& b
      | 1 => a ||| b
      | 2 => a ^^^ b
      | 3 => a &&& ~~~b
      | 4 => ~~~a
      | _ => a
    .done (s.putWarp s.cur (w.setP f.d.toNat (w.exec (some x.g)) r))

/-- sel (R248). -/
def execSel (f : FmtA) (x : XR) (s : State) : Host.Outcome State Fault Refusal :=
  s.alu (.sel f x) [refA f, refB f x] false f.nw f.d (some x.g)
    (fun w t => if (w.pr x.c.toNat).getLsbD t then w.srcA f x t else w.srcB f x t) (fun _ => 0)

/-- pmov.get (R249): the predicate of every position, active or not, into K(d) and K(d+1). -/
def execPmovGet (f : FmtA) (x : XT) (s : State) : Host.Outcome State Fault Refusal :=
  s.issue (.pmovGet f x) (fun _ => [.kGroupDst f.d.toNat 2]) fun s w =>
    let p := w.pr f.a.toNat
    .done (if w.once (some x.g) then
      s.putWarp s.cur ((w.setK f.d.toNat (p.extractLsb' 0 64)).setK (f.d.toNat + 1) (p.extractLsb' 64 64)) else s)

/-- pmov.put (R249). -/
def execPmovPut (f : FmtA) (x : XT) (s : State) : Host.Outcome State Fault Refusal :=
  s.issue (.pmovPut f x) (fun _ => [.kGroup f.a.toNat 2]) fun s w =>
    .done (s.putWarp s.cur (w.setP f.d.toNat (w.exec (some x.g)) (w.kr (f.a.toNat + 1) ++ w.kr f.a.toNat)))

/-! ### Votes (R250) -/

/-- A vote over the present positions (R250); none present: no effect. -/
def State.vote (s : State) (i : Instr) (g : Guard) (refs : List Ref) (a : Nat) (eff : Warp → Mask → Mask → Warp) :
    Host.Outcome State Fault Refusal :=
  s.issue i (fun _ => refs) fun s w =>
    let m := w.exec (some g)
    .done (if m = 0 then s else s.putWarp s.cur (eff w m (m &&& w.pr a)))

/-- vote.any (R250). -/
def execVoteAny (f : FmtA) (x : XT) (s : State) : Host.Outcome State Fault Refusal :=
  s.vote (.voteAny f x) x.g [] f.a.toNat fun w m q => w.setP f.d.toNat m (if q = 0 then 0 else BitVec.allOnes 128)

/-- vote.all (R250). -/
def execVoteAll (f : FmtA) (x : XT) (s : State) : Host.Outcome State Fault Refusal :=
  s.vote (.voteAll f x) x.g [] f.a.toNat fun w m q => w.setP f.d.toNat m (if q = m then BitVec.allOnes 128 else 0)

/-- vote.ballot (R250). -/
def execVoteBallot (f : FmtA) (x : XT) (s : State) : Host.Outcome State Fault Refusal :=
  s.vote (.voteBallot f x) x.g [.kGroupDst f.d.toNat 2] f.a.toNat fun w _ q =>
    (w.setK f.d.toNat (q.extractLsb' 0 64)).setK (f.d.toNat + 1) (q.extractLsb' 64 64)

/-- vote.count (R250). -/
def execVoteCount (f : FmtA) (x : XT) (s : State) : Host.Outcome State Fault Refusal :=
  s.vote (.voteCount f x) x.g [.kDst f.d.toNat] f.a.toNat fun w _ q => w.setK f.d.toNat (BitVec.ofNat 64 (count q))

/-! ### Other threads' registers (R251, R252) -/

/-- shfl (R251): the register of thread B mod 128. -/
def execShfl (f : FmtA) (x : Option XR) (s : State) : Host.Outcome State Fault Refusal :=
  let y := xr x
  s.alu (.shfl f x) [.src f.a, refB f y] false f.nw f.d (some y.g)
    (fun w t => w.src f.a.toNat ((w.srcB f y t).toNat % 128)) (fun _ => 0)

/-- bcast (R252). -/
def execBcast (f : FmtI) (s : State) : Host.Outcome State Fault Refusal :=
  s.alu (.bcast f) [.src f.a] false f.nw f.d none (fun w _ => w.src f.a.toNat (f.imm.toNat % 128)) (fun _ => 0)

/-! ### Reductions (R115, R253, R254) -/

/-- One level of the tree of R115: adjacent nodes combined, a lone input passed on. -/
def treeLevel (op : Word → Word → Word × FFlags) : List (Option Word) → List (Option Word) × FFlags
  | a :: b :: r =>
    let t := treeLevel op r
    match a, b with
    | some p, some q => let c := op p q; (some c.1 :: t.1, c.2 ||| t.2)
    | some p, none => (some p :: t.1, t.2)
    | none, q => (q :: t.1, t.2)
  | l => (l, 0)

/-- `n` levels of the tree. -/
def treeFold (op : Word → Word → Word × FFlags) : Nat → List (Option Word) → List (Option Word) × FFlags
  | 0, l => (l, 0)
  | n + 1, l =>
    let a := treeLevel op l
    let b := treeFold op n a.1
    (b.1, a.2 ||| b.2)

/-- The FP32 node operation of R115: add, min or max. -/
def treeOp (sel : Nat) (a b : Word) : Word × FFlags :=
  match sel with
  | 0 => fOut 0 (fAdd 0 (fval a) (fval b))
  | 1 => fMinMax false a b
  | _ => fMinMax true a b

/-- The identity of an FP32 reduction (R115, R254). -/
def floatIdentity (sel : Nat) : Word :=
  match sel with
  | 0 => 0
  | 1 => 0x7F800000
  | _ => 0xFF800000

/-- R115: the fold of the present positions of a mask. -/
def floatFold (sel : Nat) (m : Mask) (f : Nat → Word) : Word × FFlags :=
  let r := treeFold (treeOp sel) 7 ((List.range 128).map fun t => if m.getLsbD t then some (f t) else none)
  match r.1 with
  | some x :: _ => (x, r.2)
  | _ => (floatIdentity sel, r.2)

/-- The integer operations of `redux` and `scan` on 64-bit words (R253). -/
def intFoldOp (sel : Nat) (signed : Bool) (a b : DWord) : DWord :=
  match sel with
  | 0 => a + b
  | 1 => if signed then sMin 64 a b else uMin 64 a b
  | 2 => if signed then sMax 64 a b else uMax 64 a b
  | 3 => a &&& b
  | 4 => a ||| b
  | _ => a ^^^ b

/-- The identity of an integer fold (R254). -/
def intIdentity (sel t1 : Nat) : DWord :=
  match sel with
  | 1 => BitVec.ofInt 64 (intMax t1)
  | 2 => BitVec.ofInt 64 (intMin t1)
  | 3 => BitVec.allOnes 64
  | _ => 0

/-- The fold of the present positions of a mask. -/
def intFold (sel t1 : Nat) (m : Mask) (f : Nat → DWord) : DWord :=
  match positions m with
  | [] => intIdentity sel t1
  | h :: r => r.foldl (fun acc t => intFoldOp sel (intSigned t1) acc (f t)) (f h)

/-- The value that a thread brings to a fold: extended to 64 bits by its type (R253). -/
def Warp.foldIn (w : Warp) (f : FmtA) (t1 t : Nat) : DWord :=
  if t1 = 14 then w.srcPair f.a.toNat t else BitVec.ofInt 64 (intValue t1 ((w.src f.a.toNat t).zeroExtend 64))

/-- redux (R253). -/
def execRedux (f : FmtA) (x : XT) (s : State) : Host.Outcome State Fault Refusal :=
  s.issue (.redux f x) (fun _ => [if x.t1 == 14 then .srcPair f.a else .src f.a, .kDst f.d.toNat]) fun s w =>
    let m := w.exec (some x.g)
    .done (if m = 0 then s
      else if x.t1 == 2 then
        let r := floatFold x.sel.toNat m fun t => w.src f.a.toNat t
        s.putWarp s.cur ((w.setK f.d.toNat (r.1.zeroExtend 64)).raise r.2)
      else s.putWarp s.cur (w.setK f.d.toNat (intFold x.sel.toNat x.t1.toNat m (w.foldIn f x.t1.toNat))))

/-- The present positions that the scan of thread `t` folds (R254). -/
def scanMask (m : Mask) (t : Nat) (ex : Bool) : Mask := m &&& bitsFrom 0 (if ex then t else t + 1)

/-- scan (R254). -/
def execScan (f : FmtA) (x : XT) (s : State) : Host.Outcome State Fault Refusal :=
  let wide := x.t1 == 14
  let sel := x.sel.toNat % 8
  let ex := x.sel.getLsbD 3
  s.issue (.scan f x)
    (fun _ => (if wide then Ref.srcPair f.a else .src f.a)
      :: (if wide then refPairD false f.nw f.d else refD false f.nw f.d)) fun s w =>
    let m := w.exec (some x.g)
    let fl (t : Nat) := floatFold sel (scanMask m t ex) fun t => w.src f.a.toNat t
    let it (t : Nat) := intFold sel x.t1.toNat (scanMask m t ex) (w.foldIn f x.t1.toNat)
    .done (s.putWarp s.cur
      (if wide then w.resultPair f.nw f.d.toNat m it
      else if x.t1 == 2 then (w.result f.nw f.d.toNat m fun t => (fl t).1).raise (flagsOver m fun t => (fl t).2)
      else w.result f.nw f.d.toNat m fun t => (it t).extractLsb' 0 32))

end Sys2Proof.Machine
end

