-- ==== Sys2Proof/Machine/Dispatch.lean ====
section
/-! DEFINITION. The dispatch of every constructor of `Instr` to its meaning. -/

namespace Sys2Proof.Machine

/-- The meaning of every row of the opcode table. -/
def exec (i : Instr) (s : State) : Host.Outcome State Fault Refusal :=
  match i with
  | .clauseDecode => Sys2Proof.Machine.execClauseDecode s
  | .iadd f x => Sys2Proof.Machine.execIadd f x s
  | .isub f x => Sys2Proof.Machine.execIsub f x s
  | .imul f x => Sys2Proof.Machine.execImul f x s
  | .imulh f x => Sys2Proof.Machine.execImulh f x s
  | .imulhu f x => Sys2Proof.Machine.execImulhu f x s
  | .imad f x => Sys2Proof.Machine.execImad f x s
  | .iadd64 f x => Sys2Proof.Machine.execIadd64 f x s
  | .imin f x => Sys2Proof.Machine.execImin f x s
  | .imax f x => Sys2Proof.Machine.execImax f x s
  | .umin f x => Sys2Proof.Machine.execUmin f x s
  | .umax f x => Sys2Proof.Machine.execUmax f x s
  | .andR f x => Sys2Proof.Machine.execAndR f x s
  | .orR f x => Sys2Proof.Machine.execOrR f x s
  | .xorR f x => Sys2Proof.Machine.execXorR f x s
  | .andn f x => Sys2Proof.Machine.execAndn f x s
  | .shl f x => Sys2Proof.Machine.execShl f x s
  | .shr f x => Sys2Proof.Machine.execShr f x s
  | .sar f x => Sys2Proof.Machine.execSar f x s
  | .rotl f x => Sys2Proof.Machine.execRotl f x s
  | .lea f x => Sys2Proof.Machine.execLea f x s
  | .iaddi f x => Sys2Proof.Machine.execIaddi f x s
  | .andi f x => Sys2Proof.Machine.execAndi f x s
  | .ori f x => Sys2Proof.Machine.execOri f x s
  | .xori f x => Sys2Proof.Machine.execXori f x s
  | .shli f => Sys2Proof.Machine.execShli f s
  | .shri f => Sys2Proof.Machine.execShri f s
  | .sari f => Sys2Proof.Machine.execSari f s
  | .movi f x => Sys2Proof.Machine.execMovi f x s
  | .mov f x => Sys2Proof.Machine.execMov f x s
  | .bfx f => Sys2Proof.Machine.execBfx f s
  | .bfi f => Sys2Proof.Machine.execBfi f s
  | .clz f x => Sys2Proof.Machine.execClz f x s
  | .popc f x => Sys2Proof.Machine.execPopc f x s
  | .brev f x => Sys2Proof.Machine.execBrev f x s
  | .iabs f x => Sys2Proof.Machine.execIabs f x s
  | .notR f x => Sys2Proof.Machine.execNotR f x s
  | .sext8 f x => Sys2Proof.Machine.execSext8 f x s
  | .sext16 f x => Sys2Proof.Machine.execSext16 f x s
  | .zext8 f x => Sys2Proof.Machine.execZext8 f x s
  | .zext16 f x => Sys2Proof.Machine.execZext16 f x s
  | .fadd f x => Sys2Proof.Machine.execFadd f x s
  | .fsub f x => Sys2Proof.Machine.execFsub f x s
  | .fmul f x => Sys2Proof.Machine.execFmul f x s
  | .ffma f x => Sys2Proof.Machine.execFfma f x s
  | .fmin f x => Sys2Proof.Machine.execFmin f x s
  | .fmax f x => Sys2Proof.Machine.execFmax f x s
  | .fdiv f x => Sys2Proof.Machine.execFdiv f x s
  | .fneg f x => Sys2Proof.Machine.execFneg f x s
  | .fabs f x => Sys2Proof.Machine.execFabs f x s
  | .frcp f x => Sys2Proof.Machine.execFrcp f x s
  | .frsqrt f x => Sys2Proof.Machine.execFrsqrt f x s
  | .fsqrt f x => Sys2Proof.Machine.execFsqrt f x s
  | .fexp2 f x => Sys2Proof.Machine.execFexp2 f x s
  | .flog2 f x => Sys2Proof.Machine.execFlog2 f x s
  | .ffloor f x => Sys2Proof.Machine.execFfloor f x s
  | .fceil f x => Sys2Proof.Machine.execFceil f x s
  | .ftrunc f x => Sys2Proof.Machine.execFtrunc f x s
  | .frint f x => Sys2Proof.Machine.execFrint f x s
  | .hadd2 f x => Sys2Proof.Machine.execHadd2 f x s
  | .hmul2 f x => Sys2Proof.Machine.execHmul2 f x s
  | .hfma2 f x => Sys2Proof.Machine.execHfma2 f x s
  | .cvt f x => Sys2Proof.Machine.execCvt f x s
  | .mxpack f x => Sys2Proof.Machine.execMxpack f x s
  | .mxunpack f x => Sys2Proof.Machine.execMxunpack f x s
  | .sget f x => Sys2Proof.Machine.execSget f x s
  | .sput f x => Sys2Proof.Machine.execSput f x s
  | .smov f x => Sys2Proof.Machine.execSmov f x s
  | .sadd f x => Sys2Proof.Machine.execSadd f x s
  | .smax f x => Sys2Proof.Machine.execSmax f x s
  | .sfill f x => Sys2Proof.Machine.execSfill f x s
  | .icmp f x => Sys2Proof.Machine.execIcmp f x s
  | .fcmp f x => Sys2Proof.Machine.execFcmp f x s
  | .plog f x => Sys2Proof.Machine.execPlog f x s
  | .sel f x => Sys2Proof.Machine.execSel f x s
  | .pmovGet f x => Sys2Proof.Machine.execPmovGet f x s
  | .pmovPut f x => Sys2Proof.Machine.execPmovPut f x s
  | .voteAny f x => Sys2Proof.Machine.execVoteAny f x s
  | .voteAll f x => Sys2Proof.Machine.execVoteAll f x s
  | .voteBallot f x => Sys2Proof.Machine.execVoteBallot f x s
  | .voteCount f x => Sys2Proof.Machine.execVoteCount f x s
  | .shfl f x => Sys2Proof.Machine.execShfl f x s
  | .bcast f => Sys2Proof.Machine.execBcast f s
  | .redux f x => Sys2Proof.Machine.execRedux f x s
  | .scan f x => Sys2Proof.Machine.execScan f x s
  | .rds f => Sys2Proof.Machine.execRds f s
  | .wrsFflags f => Sys2Proof.Machine.execWrsFflags f s
  | .wrsSrseed f => Sys2Proof.Machine.execWrsSrseed f s
  | .kget f => Sys2Proof.Machine.execKget f s
  | .wfield f => Sys2Proof.Machine.execWfield f s
  | .wfieldExt f => Sys2Proof.Machine.execWfieldExt f s
  | .gget f x => Sys2Proof.Machine.execGget f x s
  | .gput f x => Sys2Proof.Machine.execGput f x s
  | .gclaim f x => Sys2Proof.Machine.execGclaim f x s
  | .grel f x => Sys2Proof.Machine.execGrel f x s
  | .ld f x => Sys2Proof.Machine.execLd f x s
  | .st f x => Sys2Proof.Machine.execSt f x s
  | .lds f x => Sys2Proof.Machine.execLds f x s
  | .sts f x => Sys2Proof.Machine.execSts f x s
  | .ldp f x => Sys2Proof.Machine.execLdp f x s
  | .stp f x => Sys2Proof.Machine.execStp f x s
  | .ldx f x => Sys2Proof.Machine.execLdx f x s
  | .stx f x => Sys2Proof.Machine.execStx f x s
  | .ldmx f x => Sys2Proof.Machine.execLdmx f x s
  | .stmx f x => Sys2Proof.Machine.execStmx f x s
  | .atom f x => Sys2Proof.Machine.execAtom f x s
  | .cas f x => Sys2Proof.Machine.execCas f x s
  | .chase f x => Sys2Proof.Machine.execChase f x s
  | .fence f => Sys2Proof.Machine.execFence f s
  | .pf f x => Sys2Proof.Machine.execPf f x s
  | .ipf f x => Sys2Proof.Machine.execIpf f x s
  | .cwb f x => Sys2Proof.Machine.execCwb f x s
  | .cmdw f => Sys2Proof.Machine.execCmdw f s
  | .go f => Sys2Proof.Machine.execGo f s
  | .fTest f => Sys2Proof.Machine.execFTest f s
  | .fWait f x => Sys2Proof.Machine.execFWait f x s
  | .fCancel f => Sys2Proof.Machine.execFCancel f s
  | .qInit f => Sys2Proof.Machine.execQInit f s
  | .qEnq f => Sys2Proof.Machine.execQEnq f s
  | .qDeq f => Sys2Proof.Machine.execQDeq f s
  | .qInfo f => Sys2Proof.Machine.execQInfo f s
  | .barInit f => Sys2Proof.Machine.execBarInit f s
  | .barArv f => Sys2Proof.Machine.execBarArv f s
  | .barExp f => Sys2Proof.Machine.execBarExp f s
  | .barWait f x => Sys2Proof.Machine.execBarWait f x s
  | .barTest f => Sys2Proof.Machine.execBarTest f s
  | .barBlk f => Sys2Proof.Machine.execBarBlk f s
  | .barCmp f => Sys2Proof.Machine.execBarCmp f s
  | .mma f x => Sys2Proof.Machine.execMma f x s
  | .accz f => Sys2Proof.Machine.execAccz f s
  | .accld f => Sys2Proof.Machine.execAccld f s
  | .accst f => Sys2Proof.Machine.execAccst f s
  | .mrq f x => Sys2Proof.Machine.execMrq f x s
  | .mgd f x => Sys2Proof.Machine.execMgd f x s
  | .macc f x => Sys2Proof.Machine.execMacc f x s
  | .mscl f x => Sys2Proof.Machine.execMscl f x s
  | .mplane f => Sys2Proof.Machine.execMplane f s
  | .bra f => Sys2Proof.Machine.execBra f s
  | .brd f x => Sys2Proof.Machine.execBrd f x s
  | .jmp f => Sys2Proof.Machine.execJmp f s
  | .call f => Sys2Proof.Machine.execCall f s
  | .calli f x => Sys2Proof.Machine.execCalli f x s
  | .ret f => Sys2Proof.Machine.execRet f s
  | .reti f => Sys2Proof.Machine.execReti f s
  | .join f x => Sys2Proof.Machine.execJoin f x s
  | .exit f => Sys2Proof.Machine.execExit f s
  | .yield f => Sys2Proof.Machine.execYield f s
  | .acquire f => Sys2Proof.Machine.execAcquire f s
  | .trap f => Sys2Proof.Machine.execTrap f s
  | .brk f => Sys2Proof.Machine.execBrk f s
  | .nop f => Sys2Proof.Machine.execNop f s
  | .rdsp f => Sys2Proof.Machine.execRdsp f s
  | .wrsp f => Sys2Proof.Machine.execWrsp f s
  | .wrspXpc f => Sys2Proof.Machine.execWrspXpc f s
  | .wrspXdeleg f => Sys2Proof.Machine.execWrspXdeleg f s
  | .eret f => Sys2Proof.Machine.execEret f s
  | .tlbi f => Sys2Proof.Machine.execTlbi f s
  | .cfl f => Sys2Proof.Machine.execCfl f s
  | .qdrain f => Sys2Proof.Machine.execQdrain f s
  | .ctxs f => Sys2Proof.Machine.execCtxs f s
  | .ctxr f => Sys2Proof.Machine.execCtxr f s
  | .halt f => Sys2Proof.Machine.execHalt f s
  | .yieldExpiry w => Sys2Proof.Machine.execYieldExpiry w s
  | .resumeElement cmp => Sys2Proof.Machine.execResumeElement cmp s
  | .loadReturn id => Sys2Proof.Machine.execLoadReturn id s
  | .storeAck id => Sys2Proof.Machine.execStoreAck id s
  | .chaseStep id t => Sys2Proof.Machine.execChaseStep id t s
  | .chaseReply id => Sys2Proof.Machine.execChaseReply id s
  | .pageWalk core ctx va => Sys2Proof.Machine.execPageWalk core ctx va s
  | .copyTake id => Sys2Proof.Machine.execCopyTake id s
  | .serialCommandStart id => Sys2Proof.Machine.execSerialCommandStart id s
  | .copyComplete id => Sys2Proof.Machine.execCopyComplete id s
  | .matrixEngineStart q => Sys2Proof.Machine.execMatrixEngineStart q s
  | .matrixEngineComplete q => Sys2Proof.Machine.execMatrixEngineComplete q s
  | .mgdRendezvous leader => Sys2Proof.Machine.execMgdRendezvous leader s
  | .queuePublish home id => Sys2Proof.Machine.execQueuePublish home id s
  | .queueDeliver home id => Sys2Proof.Machine.execQueueDeliver home id s
  | .queueWaiterServe home enq => Sys2Proof.Machine.execQueueWaiterServe home enq s
  | .queueInitServe home => Sys2Proof.Machine.execQueueInitServe home s
  | .barWaitTimeout w => Sys2Proof.Machine.execBarWaitTimeout w s
  | .fWaitTimeout w => Sys2Proof.Machine.execFWaitTimeout w s
  | .warpFormation block rec slot => Sys2Proof.Machine.execWarpFormation block rec slot s
  | .groupWaitExpiry block rec slot => Sys2Proof.Machine.execGroupWaitExpiry block rec slot s
  | .acquireGrant q => Sys2Proof.Machine.execAcquireGrant q s
  | .admissionThrottle core => Sys2Proof.Machine.execAdmissionThrottle core s
  | .gclaimGrant block g => Sys2Proof.Machine.execGclaimGrant block g s
  | .allotmentReturn w => Sys2Proof.Machine.execAllotmentReturn w s
  | .launchDequeue cmp q => Sys2Proof.Machine.execLaunchDequeue cmp q s
  | .dependenceRelease launch => Sys2Proof.Machine.execDependenceRelease launch s
  | .clusterPlacement launch cores rot => Sys2Proof.Machine.execClusterPlacement launch cores rot s
  | .resourceReport die => Sys2Proof.Machine.execResourceReport die s
  | .launchComplete launch => Sys2Proof.Machine.execLaunchComplete launch s
  | .priorityBoost w => Sys2Proof.Machine.execPriorityBoost w s
  | .scoreDecay q => Sys2Proof.Machine.execScoreDecay q s
  | .softErrorCorrection cmp unit => Sys2Proof.Machine.execSoftErrorCorrection cmp unit s
  | .correctedError cmp unit => Sys2Proof.Machine.execCorrectedError cmp unit s
  | .linkDown die link => Sys2Proof.Machine.execLinkDown die link s
  | .planeDead plane => Sys2Proof.Machine.execPlaneDead plane s
  | .remoteRequest r => Sys2Proof.Machine.execRemoteRequest r s
  | .rdmaWrite h va data => Sys2Proof.Machine.execRdmaWrite h va data s
  | .rdmaRead h va len => Sys2Proof.Machine.execRdmaRead h va len s
  | .hostWindowWrite h data => Sys2Proof.Machine.execHostWindowWrite h data s
  | .syncSummary h => Sys2Proof.Machine.execSyncSummary h s
  | .compartmentSet h coreGroups stackGroups => Sys2Proof.Machine.execCompartmentSet h coreGroups stackGroups s
  | .contextCreate h ctx ptroot xvec => Sys2Proof.Machine.execContextCreate h ctx ptroot xvec s
  | .contextDestroy h ctx => Sys2Proof.Machine.execContextDestroy h ctx s
  | .queueSet h what => Sys2Proof.Machine.execQueueSet h what s
  | .windowMap h block ctx => Sys2Proof.Machine.execWindowMap h block ctx s
  | .regionRegister h ctx base len rd wr side => Sys2Proof.Machine.execRegionRegister h ctx base len rd wr side s
  | .throttleSet h table => Sys2Proof.Machine.execThrottleSet h table s
  | .domainSet h own group ranges => Sys2Proof.Machine.execDomainSet h own group ranges s
  | .quiesce h => Sys2Proof.Machine.execQuiesce h s
  | .planeMap h entries => Sys2Proof.Machine.execPlaneMap h entries s
  | .release h => Sys2Proof.Machine.execRelease h s
  | .attest h nonce => Sys2Proof.Machine.execAttest h nonce s
  | .attestCertificateChain h => Sys2Proof.Machine.execAttestCertificateChain h s
  | .firmwareWrite h off data => Sys2Proof.Machine.execFirmwareWrite h off data s
  | .firmwareCommit h => Sys2Proof.Machine.execFirmwareCommit h s
  | .reset => Sys2Proof.Machine.execReset s
  | .thermalLimit => Sys2Proof.Machine.execThermalLimit s
  | .thermalRestore => Sys2Proof.Machine.execThermalRestore s
  | .criticalTemperature => Sys2Proof.Machine.execCriticalTemperature s
  | .powerRemoval => Sys2Proof.Machine.execPowerRemoval s
  | .managementBadOpcode h operands => Sys2Proof.Machine.execManagementBadOpcode h operands s

end Sys2Proof.Machine
end

