-- ==== Sys2Proof/Machine/Sched.lean ====
section
/-! DEFINITION. The schedule (log 1): which agent moves next, and how a warp's next instruction is fetched from the
clause it has decoded (R204). -/

namespace Sys2Proof.Machine

/-- The words of the instruction at which a warp stands (R203). -/
def Warp.nextWords (w : Warp) : Word × Option Word := w.hdr.instrWords w.words w.ix

/-- A warp's move: it decodes its clause, or issues the instruction at which it stands (R34, R204). -/
def State.warpMove (s : State) (id : Nat) : Host.Outcome State Fault Refusal :=
  match s.warp id with
  | none => .next s
  | some w =>
    if !s.mayIssue w then .next s
    else if !w.fetched then exec .clauseDecode { s with cur := id }
    else match decode w.hdr.cls w.nextWords.1 w.nextWords.2 with
      | .ok i => exec i { s with cur := id }
      | .error _ => .next (({ s with cur := id } : State).takeTrap id (Trap.of 0x01 (w.nextWords.1.zeroExtend 64)))

/-- A move of a warp that changes something; none where it is held (R34), also where its wait alone would clear. -/
def State.moved (s : State) (id : Nat) : Option State :=
  let s0 := { s with cur := id }
  match s.warpMove id with
  | .next t => if t = s0 ∨ t = s0.mapWarp id Warp.woken then none else some t
  | _ => none

/-- A warp that stands at an instruction which has not started: it will issue it again (R34, R76). -/
def Warp.stands (w : Warp) : Bool := match w.wait with | some x => x.reissues && x != .beats | none => false

/-- R359: a warp is ready: its clause has been decoded and its next instruction starts. -/
def State.starts (s : State) (id : Nat) (w : Warp) : Bool :=
  w.fetched && w.wait != some .beats && match s.moved id with
    | none => false
    | some t => match t.warp id with
      | none => true
      | some x => !x.stands

/-- A warp that takes no pipe for its move: it decodes a clause (R204), comes to stand at an instruction (R34), or ends one
whose beats have passed (R103). -/
def State.turns (s : State) (id : Nat) (w : Warp) : Bool := (s.moved id).isSome && !s.starts id w

/-- R361: a warp is ready, or kept from it by the locality throttle alone: boosted, it would start. -/
def State.couldStart (s : State) (id : Nat) (w : Warp) : Bool :=
  ({ s with warps := s.warps.put id { w with boosted := true } } : State).starts id { w with boosted := true }

/-- R361: for a warp that is not ready, the clocks without a start begin anew. -/
def State.countIdle (s : State) (w : Nat × Option Warp) : Nat × Option Warp :=
  (w.1, w.2.map fun x => if s.couldStart w.1 x then x else { x with idleSince := s.clock })

/-- R103: steps that have been taken for a warp that no longer waits for them. -/
def State.dropDraws (s : State) : State :=
  { s with draws := s.draws.filter fun d => d.unit == 2 || d.left != 0 || match s.warp d.warp with
      | some w => w.wait == some .beats
      | none => false }

/-- R3, R41, R103, R361, R402: clocks of the main clock and ticks of `gtime` pass; no instruction takes more than 16 clocks of
its generator. -/
def State.pass (s : State) (clocks ns : Nat) : State :=
  let s1 := State.drawClocks (min clocks 16) s
  let s2 := { s1 with clock := s.clock + clocks, gtime := s.gtime + ns, chosen := [] }
  ({ s2 with warps := s2.warps.map s2.countIdle } : State).liftThrottle.dropDraws

/-- One clock at 2.25 GHz: nine clocks are four ticks of `gtime` (R3). -/
def State.oneClock (s : State) : State := s.pass 1 ((s.clock + 1) * 4 / 9 - s.clock * 4 / 9)

/-- The dirty private bytes that a core's L1 holds of a line (R121). -/
def State.privIn (s : State) (core line : Nat) : List PrivByte := (s.privDirty core).filter fun x => x.key / 128 == line

/-- R362: a line leaves a core's L1: its loose and private bytes go home, and it enters the victim tags of the quarters whose
reads filled it, first in, first out. -/
def State.evictLine (s : State) (core line : Nat) : State :=
  let s1 := (s.sendHome (ofCore core) (line * 128) (line * 128 + 128)).writePrivBytes core (s.privIn core line)
  let qs := (s1.fills.filter fun f => f.line == line && f.core == core && f.read).map (·.quarter)
  { s1.unfill core line with
    tags := qs.foldl (fun tags q =>
      let mine := (tags.filter fun p => p.1 == q) ++ [(q, line)]
      (tags.filter fun p => p.1 != q) ++ mine.drop (mine.length - 1024)) s1.tags }

/-- The lines that a core's L1 holds, those filled last first, then the others that are dirty, loose or private (R11, R121, R134,
R362). -/
def State.l1Held (s : State) (core : Nat) : List Nat :=
  ((s.fills.filter fun (f : Fill) => f.core == core).map (fun (f : Fill) => f.line) ++ s.dirtyL1 core).eraseDups

/-- R397: a line of a core's L1 that cannot leave now: it has dirty bytes, and its home is on a plane that carries nothing. -/
def State.lineStuck (s : State) (core line : Nat) : Bool :=
  s.planeHeld (128 * line) && (s.dirtyL1 core).contains line

/-- R121: a line with dirty private bytes leaves the L1 only where it has no room for others alone. -/
def State.mayEvict (s : State) (core line : Nat) : Bool := !s.lineStuck core line && s.privIn core line == []

/-- R11: a core's L1 keeps no more lines than it has: the oldest that can leave do, and lines with dirty private bytes only after
all others (R121; log 50). -/
def State.trimCore (s : State) (core : Nat) : State :=
  let l := s.l1Held core
  let go := l.reverse.filter fun x => !s.lineStuck core x
  let priv (x : Nat) : Bool := s.privIn core x != []
  ((go.filter (fun x => !priv x) ++ go.filter priv).take (l.length - Config.l1Lines)).foldl (fun s x => s.evictLine core x) s

/-- R8, R16: the dirty lines of the L2 slice of a base die. -/
def State.sliceDirty (s : State) (die : Nat) : List Nat :=
  s.dirtyL2.filter fun l => isLocal (128 * l) && stackDie (keyStack (128 * l)) == die

/-- R16: the L2 slice of a base die keeps no more lines than it has: the lowest dirty ones are written back to their stacks
(log 50). -/
def State.trimSlice (s : State) (die : Nat) : State :=
  let l := s.sliceDirty die
  (l.take (l.length - Config.sliceLines)).foldl (fun s l => s.l2Clean (l * 128) (l * 128 + 128)) s

/-- What the L1s hold at most: lines filled, loose bytes, private bytes. -/
def State.l1Load (s : State) : Nat := s.fills.length + s.l1.length + (s.blocks.all.map fun p => p.2.priv.length).sum

/-- The cores whose L1 holds something. -/
def State.l1Cores (s : State) : List Nat :=
  (s.fills.map (fun (f : Fill) => f.core) ++ s.l1.all.map (fun (p : Nat × Byte × DWord) => p.1 / 2 ^ 96 / 128)
    ++ s.blocks.all.flatMap fun (p : Nat × Block) => if p.2.priv = [] then [] else p.2.cores).eraseDups

/-- R11, R16: the caches hold what they have room for. -/
def State.trim (s : State) : State :=
  let s1 := if s.l1Load ≤ Config.l1Lines then s else s.l1Cores.foldl (fun s c => s.trimCore c) s
  if s1.stale.length + s1.staleSide.length ≤ Config.sliceLines then s1
  else (List.range 4).foldl (fun s d => s.trimSlice d) s1

/-- R207: a warp still holds one that has yielded to it: it is ready (R359), and has not started a clause since: it stands where it
stood, at the first instruction of a clause, or within the clause in which it stood. -/
def State.holds (s : State) (p : Nat × Nat) : Bool :=
  match s.warp p.1 with
  | some x => s.starts p.1 x && (p.2 != 0 || x.ix == 0)
  | none => false

/-- R207: a warp that is not ready, or has started a clause, holds no warp that has yielded to it. -/
def State.unyield (s : State) : State :=
  { s with warps := s.warps.map fun p => (p.1, p.2.map fun w =>
      if w.yieldFor = [] then w else { w with yieldFor := w.yieldFor.filter s.holds }) }

/-- What a step leaves in order: the caches within their size, and the warps that yielded held for ready ones alone. -/
def State.tidy (s : State) : State := s.trim.unyield

/-- One move of the schedule. -/
def State.move (s : State) (m : Move) : Host.Outcome State Fault Refusal :=
  match m with
  | .warp id => s.warpMove id
  | .event i =>
    match encode i with
    | some _ => .next s
    | none => if i = .clauseDecode then .next s else exec i s
  | .tick c n => .next (s.pass c n)
  | .lineError l => .next { s with failed := Store.set 0 s.failed l (BitVec.allOnes 136) }
  | .registerError w file n => .next (s.mapWarp w fun x => x.mark file n 0)
  | .evict core line => .next (if s.mayEvict core line then s.evictLine core line else s)
  | .l2WriteBack line => .next (s.l2Clean (line * 128) (line * 128 + 128))
  | .send conn => .next (s.post conn .send)
  | .connect conn port peer => .next (s.connect conn port peer)
  | .disconnect conn => .next { s with conns := s.conns.erase conn }
  | .serve conn => .next (s.serve conn)
  | .packetIn group bytes => .next (s.packetIn group bytes)
  | .flashCut h => .next (s.flashCut h)
  | .remoteWithdraw src ident => .next (s.remoteWithdraw src ident)
  | .resend => .next s.resend

/-! ### The group scheduler (R9, R10, R360) -/

/-- R360: whether one warp is a better choice than another: effective priority, then age, then slot. -/
def Warp.better (a b : Warp) : Bool :=
  a.rank > b.rank || (a.rank == b.rank && (a.age < b.age || (a.age == b.age && a.slotNo < b.slotNo)))

/-- The best of some warps. -/
def best (l : List (Nat × Warp)) : Option (Nat × Warp) :=
  l.foldl (fun acc p => match acc with
    | none => some p
    | some q => if p.2.better q.2 then some p else some q) none

/-- Table 1.1: the pipes that a warp's next instruction may go to: 0 VA, 1 VB, 2 MAT, 3 MEM, 4 ENG, 5 UNI (R360). -/
def Warp.pipes (w : Warp) : List Nat :=
  match w.hdr.cls with
  | .alu => if w.nextWords.1.getLsbD 30 then [5] else [0, 1]
  | .mat => [2]
  | .mem => [3]
  | .eng => [4]
  | .ctl | .sys => [5]

/-- R31, Table 1.1: the clocks for which a warp's next instruction holds its pipe: one for each beat of a vector instruction
that is not skipped; one for every other. -/
def Warp.holds (w : Warp) : Nat :=
  match w.hdr.cls with
  | .alu | .mem =>
    if w.nextWords.1.getLsbD 30 then 1
    else max 1 ((List.range 8).filter fun b => (w.mask >>> (16 * b)) &&& 0xFFFF != 0).length
  | _ => 1

/-- The key of a pipe of a quarter. -/
def pipeKey (q pipe : Nat) : Nat := q * 8 + pipe

/-- R360: the ready warp that a quarter starts next in this clock, with its pipe: the pipes in their order, each with the best
warp that has not been chosen; at most four starts. -/
def State.nextStart (s : State) (q : Nat) : Option (Nat × Warp × Nat) :=
  if 4 ≤ (s.chosen.filter fun p => p.1 == q).length then none
  else
    let mine := s.warps.all.filter fun p => p.2.quarterNo == q && !(s.chosen.any fun c => c.2.1 == p.1) && s.starts p.1 p.2
    (List.range 6).findSome? fun pipe =>
      if s.clock < Store.get 0 s.pipes (pipeKey q pipe) then none
      else (best (mine.filter fun p => p.2.pipes.contains pipe)).map fun p => (p.1, p.2, pipe)

/-- The first quarter that starts an instruction now: quarters do not wait for one another. -/
def State.anyStart (s : State) : Option (Nat × Warp × Nat) :=
  ((s.warps.all.map fun p => p.2.quarterNo).eraseDups).findSome? s.nextStart

/-- R9, R10, R360: a warp chosen on a pipe. -/
def State.choose (s : State) (c : Nat × Warp × Nat) : State :=
  let q := c.2.1.quarterNo
  { s with
    chosen := (q, c.1, c.2.2) :: s.chosen
    pipes := Store.set 0 s.pipes (pipeKey q c.2.2) (s.clock + c.2.1.holds) }

/-! ### What is owed when the schedule is empty (log 1) -/

/-- Events of the memory system and the engines. -/
def State.owedReturns (s : State) : List Instr :=
  (s.loads.all.map fun p => Instr.loadReturn p.1) ++ (s.acks.all.map fun p => Instr.storeAck p.1)
    ++ (s.chases.all.flatMap fun p => (p.2.packets.map fun k => Instr.chaseStep p.1 k.pos) ++ [Instr.chaseReply p.1])
    ++ ((s.cmds.all.filter fun p => p.2.status == 0).flatMap fun p =>
      [Instr.copyTake p.1, Instr.serialCommandStart p.1, Instr.copyComplete p.1])
    ++ (s.engines.all.flatMap fun p => [Instr.matrixEngineComplete p.1, Instr.matrixEngineStart p.1])
    ++ s.warps.all.map fun p => Instr.mgdRendezvous p.1

/-- Events of the homes of queues. -/
def State.owedHomes (s : State) : List Instr :=
  s.homes.all.flatMap fun p =>
    [Instr.queueWaiterServe p.1 true, Instr.queueWaiterServe p.1 false, Instr.queueInitServe p.1]
      ++ p.2.busy.flatMap fun id => [Instr.queuePublish p.1 id, Instr.queueDeliver p.1 id]

/-- Events of warps: bounds that expire, and allotments that return. -/
def State.owedWarps (s : State) : List Instr :=
  (s.warps.all.flatMap fun p => [Instr.barWaitTimeout p.1, Instr.fWaitTimeout p.1, Instr.yieldExpiry p.1,
    Instr.priorityBoost p.1, Instr.allotmentReturn p.1, Instr.acquireGrant p.2.quarterNo, Instr.scoreDecay p.2.quarterNo])
    ++ s.blocks.all.flatMap fun p => p.2.claims.map fun c => Instr.gclaimGrant p.1 c.1

/-- Formations of the pending records of blocks, in the first slot that may be taken. -/
def State.owedFormations (s : State) : List Instr :=
  s.blocks.all.flatMap fun p =>
    if p.2.recs == [] || p.2.swapped then []
    else match p.2.cores.findSome? fun c => ((List.range 128).find? fun i => s.formerSlot p.2 (c * 128 + i)).map (c * 128 + ·) with
      | none => []
      | some slot => p.2.recs.flatMap fun r => [Instr.warpFormation p.1 r.slot slot, Instr.groupWaitExpiry p.1 r.slot slot]

/-- Events of the distributor and of the part's own queues. -/
def State.owedLaunches (s : State) : List Instr :=
  (List.range 4).map Instr.resourceReport
    ++ (s.comps.all.flatMap fun p => Instr.resumeElement p.1 :: p.2.queues.all.map fun q => Instr.launchDequeue p.1 q.1)
    ++ s.launches.all.flatMap fun p =>
      [Instr.dependenceRelease p.1, Instr.launchComplete p.1]
        ++ if p.2.state == .active then
          (List.range 4).flatMap fun rot => (List.range 4).map fun die =>
            Instr.clusterPlacement p.1 ((s.windows p.1 p.2 rot die).take p.2.hdr.perCluster) rot
        else []

/-- Whether an event does something now. -/
def State.acts (s : State) (i : Instr) : Bool :=
  match exec i s with
  | .next t => decide (t ≠ s)
  | _ => false

/-- The first event that is owed and does something; a home serves its waiters before anything else happens there (R158). -/
def State.pendingEvent (s : State) : Option Instr :=
  (s.owedHomes ++ s.owedReturns ++ s.owedWarps ++ s.owedFormations ++ s.owedLaunches).find? s.acts

/-- The first connection whose posted operations can go on. -/
def State.connReady (s : State) : Option Nat :=
  (s.conns.all.find? fun p => decide (s.serve p.1 ≠ s)).map (·.1)

/-- The first warp that takes no pipe for its move. -/
def State.turning (s : State) : Option Nat := (s.warps.all.find? fun p => s.turns p.1 p.2).map (·.1)

/-- What moves when the schedule is empty (log 1): the boot ROM after reset (R399), else what is owed, else a warp that takes
no pipe, else the next start of a quarter (R360), else a clock passes. What waits for a plane is tried again before a warp
moves (R397). -/
def State.defaultMove (s : State) : Host.Outcome State Fault Refusal :=
  if s.boot = .rom then exec .reset s
  else match s.pendingEvent with
    | some i => exec i s
    | none => match s.connReady with
      | some conn => .next (s.serve conn)
      | none => if s.resend ≠ s then .next s.resend else match s.turning with
        | some id => s.warpMove id
        | none => match s.anyStart with
          | some c => (s.choose c).warpMove c.1
          | none => .next s.oneClock

/-- The next move of the schedule. -/
def State.nextMove (s : State) : Host.Outcome State Fault Refusal :=
  match s.agenda with
  | [] => s.defaultMove
  | m :: rest => State.move { s with agenda := rest } m

/-- A warp placed with a one-instruction clause already decoded: what placement (R354) and CLAUSE_DECODE would have
left (log 8). A SYS clause is decoded in supervisor mode only (R205). -/
def loadedWarp (block : Nat) (e : Encoded) : Warp :=
  { Warp.blank with
    block := block, super := e.cls == .sys, phase := .running, mask := BitVec.allOnes 128, full := true, va := 112,
    ka := 128, ta := 64, fetched := true, hdr := plainHeader e.cls e.w1.isSome
    words := match e.w1 with | some w => [e.w0, w] | none => [e.w0] }

/-- A block of one warp on core 0 (R28 to R30). -/
def loadedBlock (launch cluster : Nat) : Block :=
  { launch := launch, cluster := cluster, index := 0, blkno := 0, cores := [0], paired := false, threads := 128, wbits := 7,
    window := 1024, pv := 112, fv := 112, ka := 128, acc := 64, lmax := 0, mmax := 0, region := 0, spawnBase := 0,
    privBase := 0, privBytes := 0, gpub := [], gown := [], gowner := [], claims := [], live := 128, arrived := 0,
    phase := 0, recs := [], arrivals := [], resCore := 0, resQuarter := 3, resSlot := 31, resWarp := none, outAt := 0, priv := [], swapped := false }

/-- The machine with an instruction's words loaded where the next step fetches them (log 8). -/
def State.loadWord (s : State) (nbits w : Nat) : State :=
  match tableWord nbits w with
  | none => s
  | some e =>
    let n := s.nextId
    { s with
      agenda := .warp n :: s.agenda, nextId := n + 3, power := true, issueStopped := false, boot := .running
      warps := s.warps.put n (loadedWarp (n + 1) e)
      blocks := s.blocks.put (n + 1) (loadedBlock 0 (n + 2))
      clusters := s.clusters.put (n + 2) ⟨0, 0, 0, 0, [n + 1], false, none⟩ }

end Sys2Proof.Machine
end

