-- ==== Sys2Proof/Machine/Step.lean ====
section
/-! DEFINITION. One step of the part: the next move of the schedule, while there is power (R402, log 1), after which the caches
hold what they have room for. -/

namespace Sys2Proof.Machine

/-- What a move leaves, put in order (R11, R16, R207). -/
def settled (o : Host.Outcome State Fault Refusal) : Host.Outcome State Fault Refusal :=
  match o with
  | .next t => .next t.tidy
  | .fault f => .fault f
  | .refused r => .refused r

/-- One step. -/
def step (s : State) : Host.Outcome State Fault Refusal :=
  if s.power then settled s.nextMove else .fault .powerRemoved

/-- The state whose next step fetches and runs the instruction of a table word (log 8). -/
def State.withFetchWord (s : State) (nbits w : Nat) : State := s.loadWord nbits w

end Sys2Proof.Machine
end

