-- ==== Sys2Proof/Safety.lean ====
section
/-! DEFINITION. The terms in which claims are made: memory in its one canonical form (R117 to R121), the states that
steps reach from reset, when a warp issues an instruction that nothing holds or stops, and what an instruction leaves
alone when it retires. -/

namespace Sys2Proof.Machine

/-- Memory and sidebands are in canonical form: keys strictly rise and no listed byte is what an unlisted one reads. -/
def State.memWf (s : State) : Bool := Memory.wf s.mem && Memory.wf s.side

/-- The states that runs reach from reset. -/
inductive Reachable : State → Prop where
  | reset : Reachable State.reset
  | step {s t : State} (h : Reachable s) (hs : Machine.step s = .next t) : Reachable t

/-! ### When an instruction issues -/

/-- The state in which an instruction has its effect: a wait that lets the warp issue again is cleared (R34). -/
def State.readied (s : State) (w : Warp) : State := if w.wait == none then s else s.putWarp s.cur w.woken

/-- Warp `w` is the one that moves, it may issue (R34), the counters of its wait mask read zero (R78), and the registers
that the instruction names are ones it has (R37, R72, R73, R81), with no write pending (R76) and no mark to read (R264). -/
structure Issues (s : State) (w : Warp) (refs : List Ref) : Prop where
  warp : s.warp s.cur = some w
  may : s.mayIssue w = true
  waits : w.waitMet = true
  ok : ∀ r ∈ refs, r.ok w = true
  free : ∀ r ∈ refs, r.pending w = false
  clean : firstMark w refs = none

/-- As `Issues`, for a MEM instruction that dependency counter `dc` has room for (R77), that the throttle admits (R363)
and that waits for no memory write of an earlier `mrq` (R300). -/
structure IssuesMem (s : State) (w : Warp) (dc : Nat) (refs : List Ref) : Prop extends Issues s w refs where
  room : w.dn dc ≤ 62
  admitted : (s.readied w).admits s.cur w.woken = true
  quiet : (s.readied w).mrqBusy s.cur w.woken = false

/-- As `Issues`, for an ENG instruction that dependency counter `dc` has room for (R77) and that waits for no memory
write of an earlier `mrq` (R300). -/
structure IssuesEng (s : State) (w : Warp) (dc : Nat) (refs : List Ref) : Prop extends Issues s w refs where
  room : w.dn dc ≤ 62
  quiet : (s.readied w).mrqBusy s.cur w.woken = false

/-- Nothing holds up or fails a release or a fence at a scope: at block scope and wider every loose byte that the L1 holds
for the warp can go home (R134, R397, R398), at module scope and wider no store is outstanding and none has failed (R137,
R398). -/
def MayRelease (s : State) (w : Warp) (scope : Nat) : Prop :=
  2 ≤ scope → s.backHeld (ofWarp w) = false ∧ (s.loose (ofWarp w) 0 (2 ^ 96)).filter s.looseCut = []
    ∧ (4 ≤ scope → w.out = 0 ∧ w.sfail = none)

/-- The state after a release or a fence at a scope: at block scope and wider the warp's loose bytes are home (R134). -/
def State.released (s : State) (w : Warp) (scope : Nat) : State := if 2 ≤ scope then s.sendOwn w else s

/-! ### What a retired instruction leaves -/

/-- R208: where a warp stands past an instruction whose effect on it is `w1`: at the next instruction of its clause, or
at the next clause with the header's yield (R207; for whom it yields is a claim of its own). -/
def MovedOn (s : State) (w1 w' : Warp) : Prop :=
  if w1.fetched && w1.hdr.n.toNat ≤ w1.ix + 1 then
    w' = { w1.enter w1.nextClause with
      idleSince := s.clock, boosted := false
      yieldAt := if w1.hdr.y then some s.clock else w1.yieldAt
      yieldFor := if w1.hdr.y then w'.yieldFor else w1.yieldFor }
  else w' = { w1 with ix := w1.ix + 1, wait := none, idleSince := s.clock, boosted := false }

/-- The instruction has retired: beside the warps the state is `u`, no other warp changes, and the warp that issued has
moved on from `w1`. -/
structure Retires (s u t : State) (w1 : Warp) : Prop where
  rest : t = { u with warps := t.warps }
  bytes : ∀ a, t.byte a = u.byte a
  others : ∀ j, j ≠ s.cur → t.warp j = s.warp j
  moved : ∃ w', t.warp s.cur = some w' ∧ MovedOn s w1 w'

/-- v register `d` takes `f p` at the positions of a mask; every other v register and position keeps its value. -/
def VWritten (w w1 : Warp) (d : Nat) (m : Mask) (f : Nat → Word) : Prop :=
  ∀ r, ∀ p < 128, w1.vr r p = if r = d ∧ m.getLsbD p then f p else w.vr r p

/-- The pair at `d` takes `f p` at the positions of a mask: the low half in `d`, the high half in `d + 1`. -/
def VPairWritten (w w1 : Warp) (d : Nat) (m : Mask) (f : Nat → DWord) : Prop :=
  ∀ r, ∀ p < 128, w1.vr r p =
    if r = d ∧ m.getLsbD p then (f p).extractLsb' 0 32
    else if r = d + 1 ∧ m.getLsbD p then (f p).extractLsb' 32 32
    else w.vr r p

/-- k register `d` takes `x`; every other k register keeps its value. -/
def KWritten (w w1 : Warp) (d : Nat) (x : DWord) : Prop := ∀ r, w1.kr r = if r = d then x else w.kr r

/-- e register `d` takes the bytes `f`; every other e register keeps its bytes. -/
def EWritten (w w1 : Warp) (d : Nat) (f : Nat → Byte) : Prop :=
  ∀ r, ∀ i < 32, w1.er r i = if r = d then f i else w.er r i

/-- Predicate `d` takes `f p` at the positions of a mask, unless it is p0; every other predicate and position keeps its
bit (R71). -/
def PWritten (w w1 : Warp) (d : Nat) (m : Mask) (f : Nat → Bool) : Prop :=
  ∀ r, ∀ p < 128, (w1.pr r).getLsbD p = if r = d ∧ r ≠ 0 ∧ m.getLsbD p then f p else (w.pr r).getLsbD p

/-- R79: the latches shift and L0 takes `f`. -/
def Latched (w w1 : Warp) (f : Nat → DWord) : Prop :=
  w1.latN = min 15 (w.latN + 1) ∧ ∀ p < 128, w1.lr 0 p = f p ∧ ∀ n < 3, w1.lr (n + 1) p = w.lr n p

/-- A 32-bit ALU result, `vec p` at each position of mask `m` or `uni` under U, with flags `fl` raised: what is written
and latched (R79, R80, R111, R213, R230, R231), and that nothing else of the warp or of the part changes. -/
def AluResult (s : State) (w : Warp) (t : State) (u nw : Bool) (d : Nat) (m : Mask) (vec : Nat → Word) (uni : DWord)
    (fl : FFlags) : Prop :=
  ∃ w1, Retires s s t w1 ∧
    if u then
      w1 = { w with wait := none, k := w1.k, fflags := if m = 0 then w.fflags else w.fflags ||| fl }
        ∧ KWritten w w1 d (if m = 0 then w.kr d else uni)
    else
      w1 = { w with wait := none, v := w1.v, lat := w1.lat, latN := w1.latN, fflags := w.fflags ||| fl }
        ∧ (if nw then w1.v = w.v else VWritten w w1 d m vec)
        ∧ Latched w w1 fun p =>
          if m.getLsbD p then (vec p).zeroExtend 64 else if nw then 0 else (w.vr d p).zeroExtend 64

/-- A 64-bit ALU result, in the pair `d` or in k register `d` under U. -/
def PairResult (s : State) (w : Warp) (t : State) (u nw : Bool) (d : Nat) (m : Mask) (vec : Nat → DWord) (uni : DWord) :
    Prop :=
  ∃ w1, Retires s s t w1 ∧
    if u then
      w1 = { w with wait := none, k := w1.k } ∧ KWritten w w1 d (if m = 0 then w.kr d else uni)
    else
      w1 = { w with wait := none, v := w1.v, lat := w1.lat, latN := w1.latN }
        ∧ (if nw then w1.v = w.v else VPairWritten w w1 d m vec)
        ∧ Latched w w1 fun p => if m.getLsbD p then vec p else if nw then 0 else w.vp d p

end Sys2Proof.Machine
end

