-- ==== Sys2Proof/Certificates/Slice0/Obligations.lean ====
section
/-! DEFINITION. The statements about the model, from the numbered rules of the spec. -/

open Sys2Proof Sys2Proof.Machine

/-! ### Integer and move instructions (chapter 9) -/

/-- Tables 9.3: the operations on two sources of `n` bits, each with its instruction. -/
def Sys2Proof.Claims.integerTwo : List ((FmtA → Option XR → Instr) × ((n : Nat) → BitVec n → BitVec n → BitVec n)) :=
  [(.iadd, fun _ a b => a + b), (.isub, fun _ a b => a - b), (.imul, fun _ a b => a * b),
   (.imulh, fun n a b => BitVec.ofInt n (a.toInt * b.toInt / 2 ^ n)),
   (.imulhu, fun n a b => BitVec.ofNat n (a.toNat * b.toNat / 2 ^ n)),
   (.imin, fun _ a b => if a.toInt ≤ b.toInt then a else b), (.imax, fun _ a b => if a.toInt ≤ b.toInt then b else a),
   (.umin, fun _ a b => if a.toNat ≤ b.toNat then a else b), (.umax, fun _ a b => if a.toNat ≤ b.toNat then b else a),
   (.andR, fun _ a b => a &&& b), (.orR, fun _ a b => a ||| b), (.xorR, fun _ a b => a ^^^ b),
   (.andn, fun _ a b => a &&& ~~~b), (.shl, fun n a b => a <<< (b.toNat % n)), (.shr, fun n a b => a >>> (b.toNat % n)),
   (.sar, fun n a b => a.sshiftRight (b.toNat % n)), (.rotl, fun n a b => a.rotateLeft (b.toNat % n))]

/-- R235, Table 9.3: iadd, isub, imul, imulh, imulhu, imin, imax, umin, umax, and, or, xor, andn, shl, shr, sar and rotl
complete, write and latch the operation of their sources at N = 32 in each executing thread, or at N = 64 under U, raise
no flag, and change nothing else. -/
def Sys2Proof.Claims.integerResults : Prop :=
  ∀ op ∈ Claims.integerTwo, ∀ (f : FmtA) (x : Option XR) (s : State) (w : Warp),
    Issues s w ([refA f, refB f (xr x)] ++ refD f.u f.nw f.d) →
    ∃ t, exec (op.1 f x) s = .next t ∧
      AluResult s w t f.u f.nw f.d.toNat (w.exec (some (xr x).g))
        (fun p => op.2 32 (w.srcA f (xr x) p) (w.srcB f (xr x) p)) (op.2 64 (w.kr f.a.toNat) (w.kr f.b.toNat)) 0

/-- R235: imad gives the low bits of A times B plus C; iadd64 adds pairs, or k registers under U; lea adds the
sign-extended index shifted by m2 to a 64-bit address. Each completes and changes nothing but its destination and the
latches. -/
def Sys2Proof.Claims.wideResults : Prop :=
  ∀ (f : FmtA) (s : State) (w : Warp),
    (∀ x : XR, Issues s w ([refA f, refB f x, refC f x] ++ refD f.u f.nw f.d) →
      ∃ t, exec (.imad f x) s = .next t ∧
        AluResult s w t f.u f.nw f.d.toNat (w.exec (some x.g))
          (fun p => w.srcA f x p * w.srcB f x p + w.srcC x p)
          (w.kr f.a.toNat * w.kr f.b.toNat + w.kr x.c.toNat) 0) ∧
    (∀ x : Option XR, Issues s w ([refPairA f, refPairB f (xr x)] ++ refPairD f.u f.nw f.d) →
      ∃ t, exec (.iadd64 f x) s = .next t ∧
        PairResult s w t f.u f.nw f.d.toNat (w.exec (some (xr x).g))
          (fun p => w.pairA f (xr x) p + w.pairB f (xr x) p) (w.kr f.a.toNat + w.kr f.b.toNat)) ∧
    (∀ x : XR, Issues s w ([refPairA f, refB f x] ++ refPairD f.u f.nw f.d) →
      ∃ t, exec (.lea f x) s = .next t ∧
        PairResult s w t f.u f.nw f.d.toNat (w.exec (some x.g))
          (fun p => w.pairA f x p + ((w.srcB f x p).signExtend 64 <<< x.m2.toNat))
          (w.kr f.a.toNat + (((w.kr f.b.toNat).extractLsb' 0 32).signExtend 64 <<< x.m2.toNat)))

/-- R94, R95, R232, R233: integer instructions of two and three sources, on 32 and on 64 bits. -/
def Obligations.IntegerResults : Prop := Claims.integerResults ∧ Claims.wideResults

/-- R236: the immediate of a format I instruction: imm10, or the whole X-I word, sign- or zero-extended. -/
def Sys2Proof.Claims.imm (signed : Bool) (f : FmtI) (x : Option (BitVec 32)) (n : Nat) : BitVec n :=
  match x with
  | none => if signed then f.imm.signExtend n else f.imm.zeroExtend n
  | some y => if signed then y.signExtend n else y.zeroExtend n

/-- Table 9.4: the operations with an immediate, each with its instruction. -/
def Sys2Proof.Claims.immediate (x : Option (BitVec 32)) : List ((FmtI → Instr) × (FmtI → (n : Nat) → BitVec n → BitVec n)) :=
  [((.iaddi · x), fun f n a => a + Claims.imm true f x n), ((.andi · x), fun f n a => a &&& Claims.imm false f x n),
   ((.ori · x), fun f n a => a ||| Claims.imm false f x n), ((.xori · x), fun f n a => a ^^^ Claims.imm false f x n),
   (.shli, fun f _ a => a <<< f.imm.toNat), (.shri, fun f _ a => a >>> f.imm.toNat),
   (.sari, fun f _ a => a.sshiftRight f.imm.toNat),
   (.bfx, fun f n a => (a >>> (f.imm.toNat % 32)) &&& BitVec.ofNat n (2 ^ fieldLen f - 1))]

/-- R236, Table 9.4: iaddi, andi, ori, xori, shli, shri, sari and bfx complete with the operation of source a and the
immediate, movi with the sign-extended immediate, mov with source b, and bfi with the low bits of source a placed in the
destination's own value; each under the clause guard alone (mov under its own guard), changing nothing else. Under NW
the destination's value that bfi reads is register v0's (log 27, the model's reading). -/
def Obligations.ImmediateAndMoveResults : Prop :=
  ∀ (s : State) (w : Warp),
    (∀ (x : Option (BitVec 32)), ∀ op ∈ Claims.immediate x, ∀ (f : FmtI),
      Issues s w ([if f.u then .k f.a.toNat else .src f.a] ++ refD f.u f.nw f.d) →
      ∃ t, exec (op.1 f) s = .next t ∧
        AluResult s w t f.u f.nw f.d.toNat (w.exec none) (fun p => op.2 f 32 (w.src f.a.toNat p))
          (op.2 f 64 (w.kr f.a.toNat)) 0) ∧
    (∀ (f : FmtI) (x : Option (BitVec 32)), Issues s w (refD f.u f.nw f.d) →
      ∃ t, exec (.movi f x) s = .next t ∧
        AluResult s w t f.u f.nw f.d.toNat (w.exec none) (fun _ => Claims.imm true f x 32) (Claims.imm true f x 64) 0) ∧
    (∀ (f : FmtA) (x : Option XR), Issues s w ([refB f (xr x)] ++ refD f.u f.nw f.d) →
      ∃ t, exec (.mov f x) s = .next t ∧
        AluResult s w t f.u f.nw f.d.toNat (w.exec (some (xr x).g)) (fun p => w.srcB f (xr x) p) (w.kr f.b.toNat) 0) ∧
    (∀ (f : FmtI), Issues s w ((if f.u then [.k f.a.toNat, .k f.d.toNat] else [.src f.a, .both f.d]) ++ refD f.u f.nw f.d) →
      ∃ t, exec (.bfi f) s = .next t ∧
        AluResult s w t f.u f.nw f.d.toNat (w.exec none)
          (fun p => bitInsert (f.imm.toNat % 32) (fieldLen f) 32 (w.vr f.d.toNat p) (w.src f.a.toNat p))
          (bitInsert (f.imm.toNat % 32) (fieldLen f) 64 (w.kr f.d.toNat) (w.kr f.a.toNat)) 0)

/-- Table 9.5: the operations on one source of `n` bits, each with its instruction. -/
def Sys2Proof.Claims.unary : List ((FmtA → Option XR → Instr) × ((n : Nat) → BitVec n → BitVec n)) :=
  [(.clz, leadingZeros), (.popc, popCount), (.brev, bitReverse), (.iabs, fun _ a => if a.toInt < 0 then -a else a),
   (.notR, fun _ a => ~~~a), (.sext8, fun n a => (a.setWidth 8).signExtend n),
   (.sext16, fun n a => (a.setWidth 16).signExtend n), (.zext8, fun n a => (a.setWidth 8).zeroExtend n),
   (.zext16, fun n a => (a.setWidth 16).zeroExtend n)]

/-- R237, Table 9.5: clz, popc, brev, iabs, not, sext8, sext16, zext8 and zext16 complete with the operation of source a,
which may be permuted, at N = 32 in each executing thread or at N = 64 under U, and change nothing else. Their opcode is
0x1E and field b names the operation; a word with b above 8, with a permute of b, or with kb is refused. -/
def Obligations.UnaryResults : Prop :=
  (∀ op ∈ Claims.unary, ∀ (f : FmtA) (x : Option XR) (s : State) (w : Warp),
    Issues s w ([refA f] ++ refD f.u f.nw f.d) →
    ∃ t, exec (op.1 f x) s = .next t ∧
      AluResult s w t f.u f.nw f.d.toNat (w.exec (some (xr x).g)) (fun p => op.2 32 (w.srcA f (xr x) p))
        (op.2 64 (w.kr f.a.toNat)) 0) ∧
  ∀ (w : Word) (x : Option Word), w.extractLsb' 0 6 = 0x1E →
    (∀ i, decode .alu w x = .ok i →
      Claims.unary[(w.extractLsb' 20 7).toNat]?.map (fun op => op.1 (FmtA.parse w) (x.map XR.parse)) = some i) ∧
    (9 ≤ (w.extractLsb' 20 7).toNat ∨ w.extractLsb' 27 3 ≠ 0 ∨ (∃ y, x = some y ∧ (y.extractLsb' 8 8 ≠ 0 ∨ y.getLsbD 23 = true)) →
      ∃ e, decode .alu w x = .error e)

/-- Table 9.5, bit by bit: the result of clz counts exactly the zero bits above the highest one bit, popc counts the one
bits, and brev reads bit N - 1 - i of the source in bit i. -/
def Obligations.BitCountsAndReversal : Prop :=
  ∀ (n : Nat), n = 32 ∨ n = 64 → ∀ a : BitVec n,
    (∀ i, i < (leadingZeros n a).toNat → a.getLsbD (n - 1 - i) = false) ∧
    ((leadingZeros n a).toNat < n → a.getLsbD (n - 1 - (leadingZeros n a).toNat) = true) ∧
    (leadingZeros n a).toNat ≤ n ∧
    (popCount n a).toNat = ∑ i ∈ Finset.range n, (a.getLsbD i).toNat ∧
    ∀ i < n, (bitReverse n a).getLsbD i = a.getLsbD (n - 1 - i)

/-! ### Floating point (chapters 4 and 9) -/

/-- R238 to R240: the FP32 operations on two sources in rounding mode `m`, each with its instruction. -/
def Sys2Proof.Claims.floatTwo : List ((FmtA → Option XR → Instr) × (Nat → Word → Word → Word × FFlags)) :=
  [(.fadd, fun m a b => fOut m (fAdd m (fval a) (fval b))), (.fsub, fun m a b => fOut m (fAdd m (fval a) (fval b).negate)),
   (.fmul, fun m a b => fOut m (fMul (fval a) (fval b))), (.fdiv, fun m a b => fOut m (fDiv (fval a) (fval b))),
   (.fmin, fun _ a b => fMinMax false a b), (.fmax, fun _ a b => fMinMax true a b)]

/-- R240: the FP32 operations on one source in rounding mode `m`, each with its instruction. -/
def Sys2Proof.Claims.floatOne : List ((FmtA → Option XR → Instr) × (Nat → Word → Word × FFlags)) :=
  [(.fneg, fun _ a => (a ^^^ 0x80000000, 0)), (.fabs, fun _ a => (a &&& 0x7FFFFFFF, 0)),
   (.frcp, fun m a => fOut m (fDiv (.fin false 1 0) (fval a))), (.frsqrt, fun m a => fOut m (fRsqrt (fval a))),
   (.fsqrt, fun m a => fOut m (fSqrt (fval a))), (.fexp2, fun m a => fOut m (fExp2 (fval a))),
   (.flog2, fun m a => fOut m (fLog2 (fval a))), (.ffloor, fun _ a => ((fIntegral 2 a).1, (fIntegral 2 a).2 &&& fInvalid)),
   (.fceil, fun _ a => ((fIntegral 3 a).1, (fIntegral 3 a).2 &&& fInvalid)),
   (.ftrunc, fun _ a => ((fIntegral 1 a).1, (fIntegral 1 a).2 &&& fInvalid)), (.frint, fun m a => fIntegral m a)]

/-- R111, R231, R238 to R240: fadd, fsub, fmul, fdiv, fmin, fmax, ffma, fneg, fabs, frcp, frsqrt, fsqrt, fexp2, flog2,
ffloor, fceil, ftrunc and frint complete with the operation in each executing thread (on the low words of k registers
under U), raise the flags of the executing threads, and change nothing else. -/
def Sys2Proof.Claims.floatOps : Prop :=
  ∀ (f : FmtA) (s : State) (w : Warp),
    (∀ op ∈ Claims.floatTwo, ∀ x : Option XR, Issues s w ([refA f, refB f (xr x)] ++ refD f.u f.nw f.d) →
      ∃ t, exec (op.1 f x) s = .next t ∧
        AluResult s w t f.u f.nw f.d.toNat (w.exec (some (xr x).g))
          (fun p => (op.2 (xr x).m2.toNat (w.srcA f (xr x) p) (w.srcB f (xr x) p)).1)
          ((op.2 (xr x).m2.toNat (w.kw f.a.toNat) (w.kw f.b.toNat)).1.zeroExtend 64)
          (if f.u then (op.2 (xr x).m2.toNat (w.kw f.a.toNat) (w.kw f.b.toNat)).2
            else flagsOver (w.exec (some (xr x).g)) fun p =>
              (op.2 (xr x).m2.toNat (w.srcA f (xr x) p) (w.srcB f (xr x) p)).2)) ∧
    (∀ op ∈ Claims.floatOne, ∀ x : Option XR, Issues s w ([refA f] ++ refD f.u f.nw f.d) →
      ∃ t, exec (op.1 f x) s = .next t ∧
        AluResult s w t f.u f.nw f.d.toNat (w.exec (some (xr x).g))
          (fun p => (op.2 (xr x).m2.toNat (w.srcA f (xr x) p)).1)
          ((op.2 (xr x).m2.toNat (w.kw f.a.toNat)).1.zeroExtend 64)
          (if f.u then (op.2 (xr x).m2.toNat (w.kw f.a.toNat)).2
            else flagsOver (w.exec (some (xr x).g)) fun p => (op.2 (xr x).m2.toNat (w.srcA f (xr x) p)).2)) ∧
    (∀ x : XR, Issues s w ([refA f, refB f x, refC f x] ++ refD f.u f.nw f.d) →
      ∃ t, exec (.ffma f x) s = .next t ∧
        AluResult s w t f.u f.nw f.d.toNat (w.exec (some x.g))
          (fun p => (fOut x.m2.toNat (fFma x.m2.toNat (fval (w.srcA f x p)) (fval (w.srcB f x p)) (fval (w.srcC x p)))).1)
          ((fOut x.m2.toNat (fFma x.m2.toNat (fval (w.kw f.a.toNat)) (fval (w.kw f.b.toNat))
            (fval (w.kw x.c.toNat)))).1.zeroExtend 64)
          (if f.u then (fOut x.m2.toNat (fFma x.m2.toNat (fval (w.kw f.a.toNat)) (fval (w.kw f.b.toNat))
              (fval (w.kw x.c.toNat)))).2
            else flagsOver (w.exec (some x.g)) fun p =>
              (fOut x.m2.toNat (fFma x.m2.toNat (fval (w.srcA f x p)) (fval (w.srcB f x p)) (fval (w.srcC x p)))).2))

/-- R241: the operations on halves, with the exact result of each half before rounding. -/
def Sys2Proof.Claims.pairs : List ((FmtA → XR → Instr) × (FmtA → XR → List Ref) × (FVal → FVal → FVal → FRes)) :=
  [(.hadd2, fun f x => [refA f, refB f x], fun a b _ => fAdd 0 a b),
   (.hmul2, fun f x => [refA f, refB f x], fun a b _ => fMul a b),
   (.hfma2, fun f x => [refA f, refB f x, refC f x], fun a b c => fFma 0 a b c)]

/-- R241: hadd2, hmul2 and hfma2 complete with each half's result rounded to nearest even in the format m2 names, raise
the flags of both halves of every executing thread, and change nothing else. They have no U form (R231). -/
def Sys2Proof.Claims.pairOps : Prop :=
  ∀ op ∈ Claims.pairs, ∀ (f : FmtA) (x : XR) (s : State) (w : Warp), f.u = false →
    Issues s w (op.2.1 f x ++ refD false f.nw f.d) →
    ∃ t, exec (op.1 f x) s = .next t ∧
      let fm := if x.m2.getLsbD 0 then fp16 else bf16
      let r (p h : Nat) := fm.result 0 (op.2.2 (half fm (w.srcA f x p) h) (half fm (w.srcB f x p) h) (half fm (w.srcC x p) h))
      AluResult s w t false f.nw f.d.toNat (w.exec (some x.g))
        (fun p => BitVec.ofNat 32 ((r p 0).1 + 2 ^ 16 * (r p 1).1)) 0
        (flagsOver (w.exec (some x.g)) fun p => (r p 0).2 ||| (r p 1).2)

/-- R94, R101 to R111, R232 to R241: the floating-point instructions on single values and on pairs of 16-bit values. -/
def Obligations.FloatingPointResults : Prop := Claims.floatOps ∧ Claims.pairOps

/-- R31, R103: the generator of quarter `q` steps `n` times; every other generator keeps its state. -/
def Sys2Proof.Claims.srStepped (s t : State) (q n : Nat) : Prop :=
  ∀ r, t.srState r = if r = q then srSteps n (s.srState q) else s.srState r

/-- R103, R104: the draws of a quarter that step its generator in a clock. -/
def Sys2Proof.Claims.drawing (q : Nat) (d : Draw) : Bool := d.quarter == q && d.unit < 3 && d.left != 0

/-- R103: the steps that some draws take in a clock of quarter `q`. -/
def Sys2Proof.Claims.stepsOf (q : Nat) (l : List Draw) : Nat := ((l.filter (Claims.drawing q)).map fun d => d.per).sum

/-- R103, R104: one clock of the generators. The generator of a quarter steps once for each step that its units take in the
clock; a unit's words are the states after its own steps, which follow those of the units before it: VA, VB, the matrix
engine. -/
def Sys2Proof.Claims.generatorClock : Prop :=
  ∀ (s : State),
    (∀ q, s.drawClock.srState q = srSteps (Claims.stepsOf q s.draws) (s.srState q)) ∧
    s.drawClock.draws.length = s.draws.length ∧
    ∀ i d, s.draws[i]? = some d →
      let before := Claims.stepsOf d.quarter (s.draws.filter fun x => decide (x.unit < d.unit))
        + Claims.stepsOf d.quarter ((s.draws.take i).filter fun x => x.unit == d.unit)
      s.drawClock.draws[i]? = some (if Claims.drawing d.quarter d then
        { d with left := d.left - 1, words := d.words ++ srRun d.per (srSteps before (s.srState d.quarter)) } else d)

/-- R103: a vector instruction under SR takes its place: one step of its quarter's generator is owed for each beat that
passes, and its warp stands until they are taken (log 47). -/
def Sys2Proof.Claims.drawStarts (s : State) (w : Warp) : State :=
  ({ s.readied w with
    draws := s.draws ++ [⟨w.quarterNo, s.unitOf s.cur, s.cur, w.point, (beats w.mask).length, 1, []⟩] } : State).block s.cur .beats

/-- R103: the steps owed for the instruction at which the warp that moves stands. -/
def Sys2Proof.Claims.drawOf (s : State) (w : Warp) : Option Draw := s.draws.find? fun d => d.isFor s.cur w

/-- The steps of that instruction used up. -/
def Sys2Proof.Claims.drawEnds (s : State) (w : Warp) : State := { s with draws := s.draws.filter fun d => !d.isFor s.cur w }

/-- R97, R103, R106 to R108, R242: cvt completes from `s` in `t`, beside the warp in `u`, with the words of its beats. -/
def Sys2Proof.Claims.cvtDone (f : FmtA) (x : XT) (s u t : State) (w : Warp) (words : List Word) : Prop :=
  let m := w.exec (some x.g)
  let conv (word : Word) (a : DWord) := convertType x.t1.toNat x.t2.toNat x.rnd.toNat x.sat word a
  let val (p : Nat) := conv (beatWord words w.mask p)
    (if x.t1 = 14 then w.srcPair f.a.toNat p else (w.src f.a.toNat p).zeroExtend 64)
  let uni := conv (srWord (srStep (s.srState w.quarterNo)) 0) (w.kr f.a.toNat)
  ∃ w1, Retires s u t w1 ∧
    if f.u then
      w1 = { w with wait := none, k := w1.k, fflags := if m = 0 then w.fflags else w.fflags ||| uni.2 }
        ∧ KWritten w w1 f.d.toNat (if m = 0 then w.kr f.d.toNat else uni.1)
    else
      w1 = { w with wait := none, v := w1.v, lat := w1.lat, latN := w1.latN
                    fflags := w.fflags ||| flagsOver m fun p => (val p).2 }
        ∧ (if f.nw then w1.v = w.v
          else if x.t2 = 14 then VPairWritten w w1 f.d.toNat m fun p => (val p).1
          else VWritten w w1 f.d.toNat m fun p => (val p).1.extractLsb' 0 32)
        ∧ Latched w w1 fun p =>
          if x.t2 = 14 then (if m.getLsbD p then (val p).1 else if f.nw then 0 else w.vp f.d.toNat p)
          else if m.getLsbD p then ((val p).1.extractLsb' 0 32).zeroExtend 64
          else if f.nw then 0 else (w.vr f.d.toNat p).zeroExtend 64

/-- R97, R103, R104, R106 to R108, R242: cvt completes. Each executing thread's value (a pair where t1 is I64) is converted
from type t1 to type t2 in the rounding of the word, with the saturation of the word, and written as R97 extends it (to a
pair where t2 is I64), or once on k registers under U, where SR steps the quarter's generator once. A vector form under SR
draws one step for each beat that passes, in the clocks of its beats, and completes with the words drawn (log 47). The flags
of the executing threads are raised; nothing else changes. The generators step as R104 orders their units. -/
def Obligations.ConversionResults : Prop :=
  Claims.generatorClock ∧
  ∀ (f : FmtA) (x : XT) (s : State) (w : Warp),
    Issues s w ((if f.u then .k f.a.toNat else if x.t1 = 14 then .srcPair f.a else .src f.a)
      :: (if x.t2 = 14 then refPairD f.u f.nw f.d else refD f.u f.nw f.d)) →
    (x.rnd ≠ 4 ∨ f.u = true → ∃ t, exec (.cvt f x) s = .next t ∧ Claims.cvtDone f x s { s with sr := t.sr } t w [] ∧
      Claims.srStepped s t w.quarterNo (if x.rnd = 4 ∧ w.exec (some x.g) ≠ 0 then 1 else 0)) ∧
    (x.rnd = 4 → f.u = false →
      (Claims.drawOf s w = none → exec (.cvt f x) s = .next (Claims.drawStarts s w)) ∧
      ∀ d, Claims.drawOf s w = some d →
        (d.left ≠ 0 → exec (.cvt f x) s = .next ((s.readied w).block s.cur .beats)) ∧
        (d.left = 0 → ∃ t, exec (.cvt f x) s = .next t ∧ Claims.cvtDone f x s (Claims.drawEnds s w) t w d.words))

/-! ### Block scaling (R98, R243 to R245) -/

/-- R98, R116, R243: mxpack completes from `s` in `t`, beside the warp in `u`, with the words of its beats. -/
def Sys2Proof.Claims.mxPacked (f : FmtA) (x : XT) (s u t : State) (w : Warp) (words : List Word) : Prop :=
  let ty := x.t2.toNat
  let epl := mxEpl ty
  let input (b : Nat) : List FVal := (List.range 32).map fun i =>
    fval (w.vr (f.a.toNat + (32 * b + i) % epl) ((32 * b + i) / epl))
  let word (b i : Nat) : Word := beatWord words (BitVec.allOnes 128) ((32 * b + i) / epl)
  let block (b : Nat) : Nat × List Nat × FFlags :=
    if x.sel.getLsbD 0 then
      ((w.er f.d.toNat b).toNat, keepBlock ty x.rnd.toNat x.sat (w.er f.d.toNat b).toNat (word b) (input b))
    else requantise ty x.rnd.toNat (word b) (input b)
  ∃ w1, Retires s u t w1 ∧
    w1 = { w with wait := none, v := w1.v, e := w1.e
                  fflags := w.fflags ||| ((List.range (4 * epl)).map block).foldl (fun fl b => fl ||| b.2.2) 0 } ∧
    VWritten w w1 f.d.toNat (BitVec.allOnes 128) (fun p => slotsWord (mxWidth ty)
      ((List.range epl).map fun j => (block ((p * epl + j) / 32)).2.1.getD ((p * epl + j) % 32) 0)) ∧
    EWritten w w1 f.d.toNat fun b => if b < 4 * epl then BitVec.ofNat 8 (block b).1 else 0

/-- R31, R98, R103, R116, R243: with every position active and unguarded, mxpack completes. Element j of thread p is
element p·E + j of the register, in block (p·E + j)/32; each block is requantised, or converted under its own scale byte
in the keep form; the codes go to v register d and the scales to e register d, whose further bytes become 0. Under SR it
draws a step for each of its eight beats first (log 47). The flags of every block are raised; nothing else changes. -/
def Sys2Proof.Claims.mxPack : Prop :=
  ∀ (f : FmtA) (x : XT) (s : State) (w : Warp), (Instr.mxpack f x).wf = true →
    Issues s w ([.group f.a.toNat (mxEpl x.t2.toNat), .dst f.d, .eDst f.d.toNat]
      ++ if x.sel.getLsbD 0 then [.e f.d.toNat] else []) →
    w.exec (some x.g) = BitVec.allOnes 128 →
    (x.rnd ≠ 4 → ∃ t, exec (.mxpack f x) s = .next t ∧ Claims.mxPacked f x s s t w []) ∧
    (x.rnd = 4 →
      (Claims.drawOf s w = none → exec (.mxpack f x) s = .next (Claims.drawStarts s w)) ∧
      ∀ d, Claims.drawOf s w = some d →
        (d.left ≠ 0 → exec (.mxpack f x) s = .next ((s.readied w).block s.cur .beats)) ∧
        (d.left = 0 → ∃ t, exec (.mxpack f x) s = .next t ∧ Claims.mxPacked f x s (Claims.drawEnds s w) t w d.words))

/-- R74, R98, R109, R244: with every position active and unguarded, mxunpack completes: v register d + j takes in each
thread p the element p·E + j of the source widened with the scale of its block, every source read first; the flags of
every element are raised and nothing else changes. -/
def Sys2Proof.Claims.mxUnpack : Prop :=
  ∀ (f : FmtA) (x : XT) (s : State) (w : Warp), (Instr.mxunpack f x).wf = true →
    let ty := x.t1.toNat
    let epl := mxEpl ty
    Issues s w [.src f.a, .dst f.a, .e f.a.toNat, .groupDst f.d.toNat epl] →
    w.exec (some x.g) = BitVec.allOnes 128 →
    let val (j p : Nat) : Word × FFlags :=
      widen ty (slotOf (mxWidth ty) (w.vr f.a.toNat p) j) (w.er f.a.toNat ((p * epl + j) / 32)).toNat
    ∃ t w1, exec (.mxunpack f x) s = .next t ∧ Retires s s t w1 ∧
      w1 = { w with wait := none, v := w1.v, fflags := w.fflags |||
        (List.range epl).foldl (fun fl j => fl ||| flagsOver (BitVec.allOnes 128) fun p => (val j p).2) 0 } ∧
      ∀ r, ∀ p < 128, w1.vr r p =
        if f.d.toNat ≤ r ∧ r < f.d.toNat + epl then (val (r - f.d.toNat) p).1 else w.vr r p

/-- R98, R243, R244: mxpack and mxunpack. -/
def Obligations.MxConversionResults : Prop := Claims.mxPack ∧ Claims.mxUnpack

/-- R245, Table 9.7: sget, sput, smov, sadd, smax and sfill complete, once for the warp where any position executes;
each writes its one k or e register as the table gives and changes nothing else. A word of opcode 0x2E whose sel is 6 or
more, or whose field b is not zero where the table has 0, is refused. -/
def Obligations.ScaleRegisterResults : Prop :=
  (∀ a b : Word, a.extractLsb' 0 6 = 0x2E →
    let sel := (b.extractLsb' 12 4).toNat
    (∀ i, decode .alu a (some b) = .ok i →
      [fun f x => Instr.sget f x, .sput, .smov, .sadd, .smax, .sfill][sel]?.map
        (· (FmtA.parse a) ⟨Guard.parse b, b.extractLsb' 16 7, b.extractLsb' 12 4, false, 0, 0, 0⟩) = some i) ∧
    (6 ≤ sel ∨ (sel ∉ [3, 4] ∧ a.extractLsb' 20 7 ≠ 0) → ∃ e, decode .alu a (some b) = .error e)) ∧
  ∀ (f : FmtA) (x : XT) (s : State) (w : Warp),
    let on := w.once (some x.g)
    let d := f.d.toNat
    let a := f.a.toNat
    let toE (t : State) (g : Nat → Byte) : Prop :=
      ∃ w1, Retires s s t w1 ∧ w1 = { w with wait := none, e := w1.e } ∧
        EWritten w w1 d fun j => if on then g j else w.er d j
    (Issues s w [.e a, .kDst d] → ∃ t w1, exec (.sget f x) s = .next t ∧ Retires s s t w1 ∧
      w1 = { w with wait := none, k := w1.k } ∧
      KWritten w w1 d (if on then
        BitVec.ofNat 64 (natOfBytes ((List.range 8).map fun j => w.er a (8 * x.c.toNat + j))) else w.kr d)) ∧
    (Issues s w [.k a, .eDst d] → ∃ t, exec (.sput f x) s = .next t ∧
      toE t fun j => if j / 8 = x.c.toNat then BitVec.ofNat 8 ((w.kr a).toNat / 2 ^ (8 * (j % 8))) else w.er d j) ∧
    (Issues s w [.e a, .eDst d] → ∃ t, exec (.smov f x) s = .next t ∧ toE t (w.er a)) ∧
    (Issues s w [.e a, .k f.b.toNat, .eDst d] → ∃ t, exec (.sadd f x) s = .next t ∧
      toE t fun j => if w.er a j = 0xFF then 0xFF
        else BitVec.ofInt 8 (max 0 (min 254 ((w.er a j).toNat + (w.kw f.b.toNat).toInt)))) ∧
    (Issues s w [.e a, .e f.b.toNat, .eDst d] → ∃ t, exec (.smax f x) s = .next t ∧
      toE t fun j => if (w.er a j).toNat < (w.er f.b.toNat j).toNat then w.er f.b.toNat j else w.er a j) ∧
    (Issues s w [.k a, .eDst d] → ∃ t, exec (.sfill f x) s = .next t ∧ toE t fun _ => (w.kr a).extractLsb' 0 8)

/-! ### Predicates and other threads (R246 to R254) -/

/-- R71, R246: icmp and fcmp complete: predicate d of each executing thread becomes the comparison and predicate c
(p0 stays true), fcmp raises invalid for a signalling NaN in an executing thread, and nothing else changes. -/
def Obligations.CompareResults : Prop :=
  ∀ (f : FmtA) (x : XT) (s : State) (w : Warp),
    let m := w.exec (some x.g)
    let operands (wide : Bool) : List Ref :=
      [if f.u then .k f.a.toNat else if wide then .srcPair f.a else .src f.a,
       if f.u then .k f.b.toNat else if wide then .srcPair f.b else .src f.b]
    let pair (wide : Bool) (p : Nat) : DWord × DWord :=
      if f.u then (w.kr f.a.toNat, w.kr f.b.toNat)
      else if wide then (w.srcPair f.a.toNat p, w.srcPair f.b.toNat (permShort f.pb p))
      else ((w.src f.a.toNat p).zeroExtend 64, (w.src f.b.toNat (permShort f.pb p)).zeroExtend 64)
    (Issues s w (operands (x.t1 == 14)) → ∃ t w1, exec (.icmp f x) s = .next t ∧ Retires s s t w1 ∧
      w1 = { w with wait := none, p := w1.p } ∧
      PWritten w w1 f.d.toNat m fun p =>
        intCond x.sel.toNat (intValue x.t1.toNat (pair (x.t1 == 14) p).1) (intValue x.t1.toNat (pair (x.t1 == 14) p).2)
          && (w.pr x.c.toNat).getLsbD p) ∧
    (Issues s w (operands false) →
      let fm := fmtOf x.t1.toNat
      let val (p : Nat) : FVal × FVal :=
        (fm.decode ((pair false p).1.toNat % 2 ^ fm.width), fm.decode ((pair false p).2.toNat % 2 ^ fm.width))
      ∃ t w1, exec (.fcmp f x) s = .next t ∧ Retires s s t w1 ∧
      w1 = { w with wait := none, p := w1.p, fflags := w.fflags |||
        (if f.u then (if m = 0 then 0 else nanFlags [(val 0).1, (val 0).2])
          else flagsOver m fun p => nanFlags [(val p).1, (val p).2]) } ∧
      PWritten w w1 f.d.toNat m fun p => floatCond x.sel.toNat (val p).1 (val p).2 && (w.pr x.c.toNat).getLsbD p)

/-- R71, R247 to R249: plog (opcode 0x32, two words) combines predicates, its words refused where they name no predicate, no
operation, or a second source for not and mov; sel selects by one, pmov.get copies one of every position into two k
registers and pmov.put sets one from two k registers; each completes and changes nothing else. -/
def Sys2Proof.Claims.predicates : Prop :=
  ∀ (f : FmtA) (s : State) (w : Warp),
    (∀ x : XT, Issues s w [] → ∃ t w1, exec (.plog f x) s = .next t ∧ Retires s s t w1 ∧
      w1 = { w with wait := none, p := w1.p } ∧
      PWritten w w1 f.d.toNat (w.exec (some x.g)) fun p =>
        let a := (w.pr f.a.toNat).getLsbD p
        let b := (w.pr f.b.toNat).getLsbD p
        match x.sel.toNat with
        | 0 => a && b
        | 1 => a || b
        | 2 => a != b
        | 3 => a && !b
        | 4 => !a
        | _ => a) ∧
    (∀ a b : Word, a.extractLsb' 0 6 = 0x32 →
      (∀ i, decode .alu a (some b) = .ok i → i = .plog (FmtA.parse a) (⟨Guard.parse b, 0, b.extractLsb' 12 4, false, 0, 0, 0⟩)) ∧
      (6 ≤ (b.extractLsb' 12 4).toNat ∨ (4 ≤ (b.extractLsb' 12 4).toNat ∧ a.extractLsb' 20 7 ≠ 0) ∨
          8 ≤ (a.extractLsb' 6 7).toNat ∨ 8 ≤ (a.extractLsb' 13 7).toNat ∨ 8 ≤ (a.extractLsb' 20 7).toNat →
        ∃ e, decode .alu a (some b) = .error e)) ∧
    (∀ x : XR, f.u = false → Issues s w ([refA f, refB f x] ++ refD false f.nw f.d) → ∃ t, exec (.sel f x) s = .next t ∧
      AluResult s w t false f.nw f.d.toNat (w.exec (some x.g))
        (fun p => if (w.pr x.c.toNat).getLsbD p then w.srcA f x p else w.srcB f x p) 0 0) ∧
    (∀ x : XT, Issues s w [.kGroupDst f.d.toNat 2] → ∃ t w1, exec (.pmovGet f x) s = .next t ∧ Retires s s t w1 ∧
      w1 = { w with wait := none, k := w1.k } ∧
      ∀ r, w1.kr r = if w.once (some x.g) = false then w.kr r
        else if r = f.d.toNat then (w.pr f.a.toNat).extractLsb' 0 64
        else if r = f.d.toNat + 1 then (w.pr f.a.toNat).extractLsb' 64 64 else w.kr r) ∧
    (∀ x : XT, Issues s w [.kGroup f.a.toNat 2] → ∃ t w1, exec (.pmovPut f x) s = .next t ∧ Retires s s t w1 ∧
      w1 = { w with wait := none, p := w1.p } ∧
      PWritten w w1 f.d.toNat (w.exec (some x.g)) fun p =>
        if p < 64 then (w.kr f.a.toNat).getLsbD p else (w.kr (f.a.toNat + 1)).getLsbD (p - 64))

/-- R71, R250: the votes complete over the present positions, those active and unguarded: any, all, the ballot into two
k registers, the count into one; with no position present they have no effect. A ballot into a pair that the warp does not
have is an illegal operand. A word of opcode 0x34 whose sel is 4 or more is refused. -/
def Sys2Proof.Claims.votes : Prop :=
  ∀ (f : FmtA) (x : XT) (s : State) (w : Warp),
    let m := w.exec (some x.g)
    let q (p : Nat) : Bool := m.getLsbD p && (w.pr f.a.toNat).getLsbD p
    (Issues s w [] → ∃ t w1, exec (.voteAny f x) s = .next t ∧ Retires s s t w1 ∧
      w1 = { w with wait := none, p := w1.p } ∧
      PWritten w w1 f.d.toNat m fun _ => (List.range 128).any q) ∧
    (Issues s w [] → ∃ t w1, exec (.voteAll f x) s = .next t ∧ Retires s s t w1 ∧
      w1 = { w with wait := none, p := w1.p } ∧
      PWritten w w1 f.d.toNat m fun _ => (List.range 128).all fun p => !m.getLsbD p || q p) ∧
    (Issues s w [.kGroupDst f.d.toNat 2] → ∃ t w1, exec (.voteBallot f x) s = .next t ∧ Retires s s t w1 ∧
      w1 = { w with wait := none, k := w1.k } ∧
      ∀ r, w1.kr r = if m = 0 then w.kr r
        else if r = f.d.toNat then (m &&& w.pr f.a.toNat).extractLsb' 0 64
        else if r = f.d.toNat + 1 then (m &&& w.pr f.a.toNat).extractLsb' 64 64 else w.kr r) ∧
    (Issues s w [.kDst f.d.toNat] → ∃ t w1, exec (.voteCount f x) s = .next t ∧ Retires s s t w1 ∧
      w1 = { w with wait := none, k := w1.k } ∧
      KWritten w w1 f.d.toNat (if m = 0 then w.kr f.d.toNat
        else BitVec.ofNat 64 (((List.range 128).filter q).length))) ∧
    (Issues s w [] → w.ka < f.d.toNat + 2 ∨ (126 < f.d.toNat ∧ w.ka ≤ 128) →
      exec (.voteBallot f x) s = .next ((s.readied w).takeTrap s.cur (Trap.of 0x02 (firstWord (.voteBallot f x))))) ∧
    ∀ a b : Word, a.extractLsb' 0 6 = 0x34 →
      (∀ i, decode .alu a (some b) = .ok i →
        [fun f x => Instr.voteAny f x, .voteAll, .voteBallot, .voteCount][(b.extractLsb' 12 4).toNat]?.map
          (· (FmtA.parse a) ⟨Guard.parse b, 0, b.extractLsb' 12 4, false, 0, 0, 0⟩) = some i) ∧
      (4 ≤ (b.extractLsb' 12 4).toNat → ∃ e, decode .alu a (some b) = .error e)

/-- R71, R247 to R250: instructions on predicates, and votes. -/
def Obligations.PredicatesAndVotes : Prop := Claims.predicates ∧ Claims.votes

/-- R115, R251 to R254: shfl reads source a of thread B mod 128, bcast (opcode 0x36) that of the thread that bits [6:0] of
its immediate name, and a word with bits [9:7] is refused; redux
writes the fold of the present positions to a k register (nothing where none is present) and scan each thread's prefix,
inclusive or exclusive; FP32 folds are those of the tree of R115 and raise its flags. Each completes and changes nothing
else. -/
def Obligations.CrossThreadResults : Prop :=
  ∀ (f : FmtA) (s : State) (w : Warp),
    (∀ x : Option XR, f.u = false → Issues s w ([.src f.a, refB f (xr x)] ++ refD false f.nw f.d) →
      ∃ t, exec (.shfl f x) s = .next t ∧
        AluResult s w t false f.nw f.d.toNat (w.exec (some (xr x).g))
          (fun p => w.src f.a.toNat ((w.srcB f (xr x) p).toNat % 128)) 0 0) ∧
    (∀ g : FmtI, Issues s w ([.src g.a] ++ refD false g.nw g.d) →
      ∃ t, exec (.bcast g) s = .next t ∧
        AluResult s w t false g.nw g.d.toNat (w.exec none) (fun _ => w.src g.a.toNat (g.imm.toNat % 128)) 0 0) ∧
    (∀ a : Word, a.extractLsb' 0 6 = 0x36 → (∀ i, decode .alu a none = .ok i → i = .bcast (FmtI.parse a)) ∧
      (a.extractLsb' 27 3 ≠ 0 → ∃ e, decode .alu a none = .error e)) ∧
    (∀ x : XT, Issues s w [if x.t1 = 14 then .srcPair f.a else .src f.a, .kDst f.d.toNat] →
      let m := w.exec (some x.g)
      let fl := floatFold x.sel.toNat m fun p => w.src f.a.toNat p
      ∃ t w1, exec (.redux f x) s = .next t ∧ Retires s s t w1 ∧
        w1 = { w with wait := none, k := w1.k
                      fflags := if m = 0 ∨ x.t1 ≠ 2 then w.fflags else w.fflags ||| fl.2 } ∧
        KWritten w w1 f.d.toNat (if m = 0 then w.kr f.d.toNat
          else if x.t1 = 2 then fl.1.zeroExtend 64
          else intFold x.sel.toNat x.t1.toNat m (w.foldIn f x.t1.toNat))) ∧
    (∀ x : XT, f.u = false →
      Issues s w ((if x.t1 = 14 then .srcPair f.a else .src f.a)
        :: (if x.t1 = 14 then refPairD false f.nw f.d else refD false f.nw f.d)) →
      let m := w.exec (some x.g)
      let sel := x.sel.toNat % 8
      let upTo (p : Nat) : Mask := m &&& bitsFrom 0 (if x.sel.getLsbD 3 then p else p + 1)
      let fl (p : Nat) := floatFold sel (upTo p) fun q => w.src f.a.toNat q
      let it (p : Nat) := intFold sel x.t1.toNat (upTo p) (w.foldIn f x.t1.toNat)
      ∃ t, exec (.scan f x) s = .next t ∧
        if x.t1 = 14 then PairResult s w t false f.nw f.d.toNat m it 0
        else if x.t1 = 2 then AluResult s w t false f.nw f.d.toNat m (fun p => (fl p).1) 0 (flagsOver m fun p => (fl p).2)
        else AluResult s w t false f.nw f.d.toNat m (fun p => (it p).extractLsb' 0 32) 0 0)

/-! ### Special and block-uniform registers (R43, R87, R255 to R259) -/

/-- Table 3.6, number by number, as position `p` of a warp reads it: its width and its value. -/
def Sys2Proof.Claims.specialTable (s : State) (w : Warp) (p : Nat) : List (Nat × DWord) :=
  let b := s.blocks.find w.block
  [(64, Store.get 0 w.wids p), (32, BitVec.ofNat 64 p), (32, BitVec.ofNat 64 (p % 16)), (32, BitVec.ofNat 64 (p / 16)),
   (64, w.mask.extractLsb' 0 64), (64, w.mask.extractLsb' 64 64),
   (32, match b with | some b => BitVec.ofNat 64 (blktOf b.wbits (Store.get 0 w.wids p)) | none => 0),
   (32, BitVec.ofNat 64 w.twin), (64, BitVec.ofNat 64 (s.clock + Store.get 0 s.cycOff w.core)), (64, BitVec.ofNat 64 s.gtime),
   (32, w.fflags.zeroExtend 64), (32, (s.srState w.quarterNo).zeroExtend 64), (32, BitVec.ofNat 64 w.va),
   (32, BitVec.ofNat 64 w.slot), (32, if w.formed then 1 else 0), (64, match b with | some b => b.blkno | none => 0)]

/-- R87, R255, Table 3.6: rds completes for every number of the table that its form may read (amask and amaskhi under U
alone) with the register as each executing thread reads it, in a pair where it is 64 bits wide, or under U as the lowest
active position reads it. A read of fflags waits for the warp's matrix instructions (R111). Any other number, or amask or
amaskhi with U clear, is an illegal operand (0x02). -/
def Sys2Proof.Claims.specialReads : Prop :=
  ∀ (f : FmtI) (s : State) (w : Warp),
    let n := f.imm.toNat
    let wide : Bool := [0, 4, 5, 8, 9, 15].contains n
    let row (p : Nat) : DWord := ((Claims.specialTable s w p).getD n (0, 0)).2
    Issues s w (if !f.u && wide then refPairD f.u f.nw f.d else refD f.u f.nw f.d) →
    (∀ e ∈ (Claims.specialTable s w 0)[n]?, (e.1 = 64 ↔ wide = true)) ∧
    (15 < n ∨ (f.u = false ∧ (n = 4 ∨ n = 5)) →
      exec (.rds f) s = .next ((s.readied w).takeTrap s.cur (Trap.of 0x02 (firstWord (.rds f))))) ∧
    (n ≤ 15 → ¬ (f.u = false ∧ (n = 4 ∨ n = 5)) → (n = 10 → s.matPending s.cur w = false) →
      ∃ t, exec (.rds f) s = .next t ∧
        if wide then PairResult s w t f.u f.nw f.d.toNat (w.exec none) row (row w.lowest)
        else AluResult s w t f.u f.nw f.d.toNat (w.exec none) (fun p => (row p).extractLsb' 0 32) (row w.lowest) 0)

/-- R87, R103, R256: wrs of fflags replaces the sticky flags with the low five bits of a k register once the warp's
matrix instructions have set theirs; wrs of srseed gives the quarter's generator its state, a zero written as 1, and a wrs of any
other number is an illegal operand (0x02). Each completes, once for the warp, and changes nothing else. The generator takes the
state at the end of the clock, after the steps of that clock, which start from the old one. -/
def Sys2Proof.Claims.specialWrites : Prop :=
  ∀ (f : FmtI) (s : State) (w : Warp), Issues s w [.k f.a.toNat] →
    (s.matPending s.cur w = false → ∃ t w1, exec (.wrsFflags f) s = .next t ∧ Retires s s t w1 ∧
      w1 = { w with wait := none
                    fflags := if w.once none then (w.kr f.a.toNat).extractLsb' 0 5 else w.fflags }) ∧
    (f.imm ≠ 0x00B → exec (.wrsSrseed f) s = .next ((s.readied w).takeTrap s.cur (Trap.of 0x02 (firstWord (.wrsSrseed f))))) ∧
    (f.imm = 0x00B → ∃ t, exec (.wrsSrseed f) s = .next t ∧
      Retires s { s with seeds := t.seeds } t { w with wait := none } ∧
      ∀ q, t.seeds.find q = if q = w.quarterNo ∧ w.once none = true then
        some (if w.kw f.a.toNat = 0 then 1 else w.kw f.a.toNat) else s.seeds.find q) ∧
    let u := s.drawClock
    let old := ({ s with seeds := [] } : State).drawClock
    u = { old with sr := u.sr } ∧ (Store.wf none s.seeds = true → ∀ q, u.srState q = (s.seeds.find q).getD (old.srState q))

/-- R87, R103, R111, R255, R256, Table 3.6: the special registers, read and written. -/
def Obligations.SpecialRegisters : Prop := Claims.specialReads ∧ Claims.specialWrites

/-- R20, R257, R258: kget copies a whole k register into a pair of every executing thread; wfield extracts a field of a
work identifier as the launch header gives its place; wfield.ext reads its extent. Each completes and changes nothing
else. -/
def Obligations.WorkIdentifierReads : Prop :=
  ∀ (f : FmtI) (s : State) (w : Warp),
    (Issues s w ([.k f.imm.toNat] ++ refPairD false f.nw f.d) → ∃ t, exec (.kget f) s = .next t ∧
      PairResult s w t false f.nw f.d.toNat (w.exec none) (fun _ => w.kr f.imm.toNat) 0) ∧
    ∀ h : LaunchHdr, s.hdrOf w = some h →
    let i := f.imm.toNat % 8
    let field (x : DWord) : DWord := BitVec.ofNat 64 (x.toNat / 2 ^ (h.widths.take i).sum % 2 ^ h.widths.getD i 0)
    (Issues s w ((if f.u then .k f.a.toNat else .srcPair f.a) :: refD f.u f.nw f.d) → ∃ t, exec (.wfield f) s = .next t ∧
      AluResult s w t f.u f.nw f.d.toNat (w.exec none) (fun p => (field (w.srcPair f.a.toNat p)).extractLsb' 0 32)
        (field (w.kr f.a.toNat)) 0) ∧
    (Issues s w (refD f.u f.nw f.d) → ∃ t, exec (.wfieldExt f) s = .next t ∧
      AluResult s w t f.u f.nw f.d.toNat (w.exec none) (fun _ => BitVec.ofNat 32 (h.extents.getD i 1))
        (BitVec.ofNat 64 (h.extents.getD i 1)) 0)

/-- R43, R44, R75, R137, R213, R259, Table 2.2: where a position executes, gget, with room for its replay record (R376),
sends the owner its own copy and every other warp the last publication, which lands later; gput writes the owner's copy; gclaim takes an unowned register that
none waits for, does nothing for the owner, and waits in turn otherwise; grel, once the warp's `mrq` have
written and its loose bytes can go home, publishes the owner's copy after them and leaves the register unowned; gput and grel by any other warp take the single-writer trap (0x0A).
Where no position executes, each completes without effect. -/
def Obligations.BlockUniformRegisters : Prop :=
  ∀ (f : FmtA) (x : XT) (s : State) (w : Warp) (b : Block), s.blocks.find w.block = some b →
    let d := f.d.toNat
    let a := f.a.toNat
    let idle : Warp := { w with wait := none }
    (w.once (some x.g) = false →
      (a ≤ 31 → Issues s w [.kDst d] → ∃ t, exec (.gget f x) s = .next t ∧ Retires s s t idle) ∧
      (d ≤ 31 → Issues s w [.k a] → ∃ t, exec (.gput f x) s = .next t ∧ Retires s s t idle) ∧
      (d ≤ 31 → Issues s w [] → ∃ t, exec (.gclaim f x) s = .next t ∧ Retires s s t idle) ∧
      (d ≤ 31 → Issues s w [] → ∃ t, exec (.grel f x) s = .next t ∧ Retires s s t idle)) ∧
    (w.once (some x.g) = true →
      (a ≤ 31 → Issues s w [.kDst d] → s.recordRoom s.cur 40 = true → ∃ t w1, exec (.gget f x) s = .next t ∧
        Retires s { s with loads := t.loads, nextId := s.nextId + 1 } t w1 ∧
        w1 = { w with wait := none, pendK := w.pendK ||| (1#128 <<< d) } ∧
        ∃ l, t.loads.find s.nextId = some l ∧ l.warp = s.cur ∧ l.dc = none ∧ l.bad = [] ∧
          l.writes = [.k d (if b.gowner.find a = some s.cur then Store.get 0 b.gown a else Store.get 0 b.gpub a)]) ∧
      (d ≤ 31 → Issues s w [.k a] →
        (b.gowner.find d = some s.cur → ∃ t, exec (.gput f x) s = .next t ∧
          Retires s { s with blocks := t.blocks } t idle ∧
          t.blocks = s.blocks.put w.block { b with gown := Store.set 0 b.gown d (w.kr a) }) ∧
        (b.gowner.find d ≠ some s.cur →
          exec (.gput f x) s = .next ((s.readied w).takeTrap s.cur (Trap.of 0x0A (BitVec.ofNat 64 d))))) ∧
      (d ≤ 31 → Issues s w [] →
        (b.gowner.find d = none → (∀ p ∈ b.claims, p.1 ≠ d) → ∃ t, exec (.gclaim f x) s = .next t ∧
          Retires s { s with blocks := t.blocks, fresh := s.fresh + 1 } t idle ∧
          ∃ copy, t.blocks = s.blocks.put w.block
            { b with gowner := b.gowner.put d s.cur, gown := Store.set 0 b.gown d copy }) ∧
        (b.gowner.find d = some s.cur → ∃ t, exec (.gclaim f x) s = .next t ∧ Retires s s t idle) ∧
        (b.gowner.find d ≠ some s.cur → (b.gowner.find d ≠ none ∨ ∃ p ∈ b.claims, p.1 = d) →
          ∃ t, exec (.gclaim f x) s = .next t ∧
          t = { s with blocks := s.blocks.put w.block { b with claims := b.claims ++ [(d, s.cur)] }, warps := t.warps } ∧
          t.warp s.cur = some { w with wait := some .gclaim } ∧ ∀ j, j ≠ s.cur → t.warp j = s.warp j) ∧
        (b.gowner.find d = some s.cur → s.mrqBusy s.cur w = false → MayRelease s w 2 → ∃ t, exec (.grel f x) s = .next t ∧
          Retires s { (s.readied w).released w 2 with blocks := t.blocks } t idle ∧
          t.blocks = s.blocks.put w.block
            { b with gpub := Store.set 0 b.gpub d (Store.get 0 b.gown d), gowner := b.gowner.erase d }) ∧
        (b.gowner.find d ≠ some s.cur →
          exec (.grel f x) s = .next ((s.readied w).takeTrap s.cur (Trap.of 0x0A (BitVec.ofNat 64 d))))))

/-! ### Loads and stores (R260 to R270) -/

/-- What the claim about loads says of one instruction: its guard, order, space, address references and addresses. -/
structure Sys2Proof.Claims.Access where
  instr : Instr
  guard : Option Guard
  order : BitVec 3
  scope : Nat
  space : Space
  refs : List Ref
  addr : Nat → DWord

/-- Table 10.2, R266, R268: the loads of a warp. -/
def Sys2Proof.Claims.loads (w : Warp) (f : FmtM) (x : Option XM) (g : XG) : List Claims.Access :=
  [⟨.ld f x, guardOfX x, orderOf x, scopeOf x, .glob, [addrRef f true], w.memAddr f true (offOf x)⟩,
   ⟨.lds f x, guardOfX x, orderOf x, scopeOf x, .pad, [addrRef f true], w.memAddr f true (offOf x)⟩,
   ⟨.ldp f x, guardOfX x, 0, 0, .priv, [addrRef f false], w.memAddr f false (offOf x)⟩,
   ⟨.ldx f g, some g.g, g.order, g.scope.toNat, .glob, [addrRef f false, .k g.base.toNat], w.gatherAddr f g⟩]

/-- Table 10.2, R266, R268: the stores of a warp. -/
def Sys2Proof.Claims.stores (w : Warp) (f : FmtM) (x : Option XM) (g : XG) : List Claims.Access :=
  [⟨.st f x, guardOfX x, orderOf x, scopeOf x, .glob, [addrRef f true], w.memAddr f true (offOf x)⟩,
   ⟨.sts f x, guardOfX x, orderOf x, scopeOf x, .pad, [addrRef f true], w.memAddr f true (offOf x)⟩,
   ⟨.stp f x, guardOfX x, 0, 0, .priv, [addrRef f false], w.memAddr f false (offOf x)⟩,
   ⟨.stx f g, some g.g, g.order, g.scope.toNat, .glob, [addrRef f false, .k g.base.toNat], w.gatherAddr f g⟩]

/-- Table 10.2: the address of each position: under U the k register, else the v pair, the zero-extended v register, or
the k base plus the shifted index, with the sign-extended offset. -/
def Sys2Proof.Claims.addressForms : Prop :=
  ∀ (w : Warp) (f : FmtM) (g : XG) (off : DWord) (p : Nat),
    w.memAddr f true off p = (if f.u then w.kr f.addr.toNat else w.srcPair f.addr.toNat p) + off ∧
    w.memAddr f false off p = (if f.u then w.kr f.addr.toNat else (w.src f.addr.toNat p).zeroExtend 64) + off ∧
    w.gatherAddr f g p = w.kr g.base.toNat + (((w.src f.addr.toNat p).signExtend 64 : DWord) <<< g.shift.toNat)
      + g.off.signExtend 64 ∧
    (∀ x : XM, offOf (some x) = x.off.signExtend 64) ∧ offOf none = 0

/-- R75, R77, R260, R261, R263, R264, R266, R268: ld, lds, ldp and ldx complete where every address passes its checks,
none must wait and their replay record has room (R376). The bytes are read in the step of issue and land later (log 4, the
model's choice): the leaves used take A, and an access that is not plain sends the core's loose bytes of its lines, and the
private bytes of the warp's own that it covers, home first (R121, R134), a write-back that needs a failed link being a failed
store (R398); the registers of the data group become pending, the dependency counter counts the load, and the values come with the
marks of failed positions. No register, predicate or flag changes now, and no other warp or byte of memory changes beyond that. Where no position executes, nothing happens. -/
def Obligations.LoadsComplete : Prop :=
  ∀ (f : FmtM) (x : Option XM) (g : XG) (s : State) (w : Warp), ∀ a ∈ Claims.loads w f x g,
    IssuesMem s w f.dc.toNat (a.refs ++ destRefs f) →
    let r := s.readied w
    let plain := a.order == 0
    ∀ l, r.placeAll w a.space (mBytes f) (mBytes f) f.u .read false
        ((w.lanesOf f.u a.guard).map fun p => (p, a.addr p)) = .ok l →
      r.heldUp false l = false →
      (l = [] → ∃ t, exec a.instr s = .next t ∧ Retires s s t { w with wait := none }) ∧
      (l ≠ [] → s.recordRoom s.cur (loadRecord l.length) = true →
        let u := (r.touchPieces l false).homeward w plain l
        ∃ t n w0 w1 w', exec a.instr s = .next t ∧ t.loads.find u.nextId = some n ∧ u.warp s.cur = some w0 ∧
          n.warp = s.cur ∧ n.dc = some f.dc.toNat ∧
          n.writes = landing f (l.map fun c => (c.pos, u.readAcc w plain c)) ∧
          n.bad = u.marksFor w plain (dataGroup f) l ∧
          t = { u with warps := t.warps, loads := t.loads, nextId := u.nextId + 1, fills := t.fills, tags := t.tags } ∧
          (∀ k, t.byte k = u.byte k) ∧ w0 = { w with wait := none, sfail := w0.sfail } ∧
          (plain = true → w0.sfail = w.sfail ∧ ∀ j, u.warp j = r.warp j) ∧
          (∀ j, j ≠ s.cur → t.warp j = u.warp j) ∧ t.warp s.cur = some w' ∧ MovedOn s w1 w' ∧
          w1 = { (w0.pend n.writes).incD f.dc.toNat with wait := none, score := w1.score })

/-- R261: what lands in the data group. Sizes 1 and 2 extend to the width of the register, by sign when sx is set and by
zero otherwise; size 4 fills one v register, size 8 a pair and size 16 four; under U a k register takes up to eight bytes
and the next one the high eight of sixteen. -/
def Sys2Proof.Claims.landedValues : Prop :=
  ∀ (f : FmtM) (p : Nat) (b : List Byte), b.length = mBytes f →
    let d := f.data.toNat
    let word (j : Nat) : Word := BitVec.ofNat 32 (natOfBytes ((b.drop (4 * j)).take 4))
    let ext (n : Nat) (i : BitVec n) (m : Nat) : BitVec m := if f.sx then i.signExtend m else i.zeroExtend m
    (f.u = false → f.size = 0 → landing f [(p, b)] = [.v d [(p, ext 8 (BitVec.ofNat 8 (natOfBytes b)) 32)]]) ∧
    (f.u = false → f.size = 1 → landing f [(p, b)] = [.v d [(p, ext 16 (BitVec.ofNat 16 (natOfBytes b)) 32)]]) ∧
    (f.u = false → f.sx = false → f.size = 2 → landing f [(p, b)] = [.v d [(p, word 0)]]) ∧
    (f.u = false → f.sx = false → f.size = 3 → landing f [(p, b)] = [.v d [(p, word 0)], .v (d + 1) [(p, word 1)]]) ∧
    (f.u = false → f.sx = false → f.size = 4 → landing f [(p, b)] =
      [.v d [(p, word 0)], .v (d + 1) [(p, word 1)], .v (d + 2) [(p, word 2)], .v (d + 3) [(p, word 3)]]) ∧
    (f.u = true → f.size = 0 → landing f [(p, b)] = [.k d (ext 8 (BitVec.ofNat 8 (natOfBytes b)) 64)]) ∧
    (f.u = true → f.size = 1 → landing f [(p, b)] = [.k d (ext 16 (BitVec.ofNat 16 (natOfBytes b)) 64)]) ∧
    (f.u = true → f.sx = false → f.size = 2 → landing f [(p, b)] = [.k d (BitVec.ofNat 64 (natOfBytes b))]) ∧
    (f.u = true → f.sx = false → f.size = 3 → landing f [(p, b)] = [.k d (BitVec.ofNat 64 (natOfBytes b))]) ∧
    (f.u = true → f.sx = false → f.size = 4 → landing f [(p, b)] =
      [.k d (BitVec.ofNat 64 (natOfBytes (b.take 8))), .k (d + 1) (BitVec.ofNat 64 (natOfBytes (b.drop 8)))])

/-- R261, Table 10.2: where an access goes, and what lands in its data group. -/
def Obligations.AddressesAndLandedValues : Prop := Claims.addressForms ∧ Claims.landedValues

/-- The v registers, the e registers and the k registers that a list of results writes, in order. -/
def Sys2Proof.Claims.vWrites (l : List RegWrite) : List (Nat × Nat × Word) :=
  l.flatMap fun x => match x with | .v r vals => vals.map fun p => (r, p.1, p.2) | _ => []

def Sys2Proof.Claims.eWrites (l : List RegWrite) : List (Nat × Nat × Byte) :=
  l.flatMap fun x => match x with | .e r vals => vals.map fun p => (r, p.1, p.2) | _ => []

def Sys2Proof.Claims.kWrites (l : List RegWrite) : List (Nat × DWord) :=
  l.flatMap fun x => match x with | .k r x => [(r, x)] | _ => []

/-- R83: every compartment that owns the core of a slot counts `n` dropped returns; nothing else of a compartment changes. -/
def Sys2Proof.Claims.dropsCounted (s t : State) (slot n : Nat) : Prop :=
  ∀ c o, s.comps.find c = some o → t.comps.find c =
    some (if o.coreGroups.getLsbD (slot / 512) then { o with drc := o.drc + BitVec.ofNat 64 n } else o)

/-- R75, R77, R264: what a read return leaves of its warp, for every list of results: each register at each position takes
the last value that the list gives it and keeps its own where it gives none; the registers of the list are no longer
pending; the counter share is released; the failed registers are marked with their addresses. -/
def Sys2Proof.Claims.received (w w1 : Warp) (n : Load) : Prop :=
  (∀ c, w1.dn c = if n.dc = some c then w.dn c - 1 else w.dn c) ∧
  (∀ r, ∀ p < 128, w1.vr r p =
    (((Claims.vWrites n.writes).reverse.find? fun e => e.1 == r && e.2.1 == p).map (·.2.2)).getD (w.vr r p)) ∧
  (∀ r, ∀ i < 32, w1.er r i =
    (((Claims.eWrites n.writes).reverse.find? fun e => e.1 == r && e.2.1 == i).map (·.2.2)).getD (w.er r i)) ∧
  (∀ r, w1.kr r = (((Claims.kWrites n.writes).reverse.find? fun e => e.1 == r).map (·.2)).getD (w.kr r)) ∧
  (∀ r < 128,
    w1.pendV.getLsbD r = (w.pendV.getLsbD r && !n.writes.any fun x => match x with | .v q _ => q == r | _ => false) ∧
    w1.pendE.getLsbD r = (w.pendE.getLsbD r && !n.writes.any fun x => match x with | .e q _ => q == r | _ => false) ∧
    w1.pendK.getLsbD r = (w.pendK.getLsbD r && !n.writes.any fun x => match x with | .k q _ => q == r | _ => false) ∧
    ∀ file ∈ [0, 1, 2], w1.marked file r = (w.marked file r || n.bad.any fun m => m.1 == file && m.2.1 == r)) ∧
  ((∀ m ∈ n.bad, ∀ o ∈ n.bad, o.2.2 = m.2.2) → ∀ m ∈ n.bad, Store.get 0 w1.markAddr (markKey m.1 m.2.1) = m.2.2)

/-- R75, R77, R83, R137, R264, R312, R397, Table 2.4: a read return lands in a warp whose slot keeps the generation of the
issue and that nothing has killed, one that has ended by itself too: the registers are written and marked, their pending bits
and its counter share released. A store acknowledgement takes one from the outstanding stores, and the last of a group
releases the counter share. Either return for an older generation or a killed warp is dropped and counted for each compartment
that owns the core; that the returns of one load or atomic count as one, and each acknowledgement as one, is log 55 (DESIGN
CHOICE). While the module is quiesced, what another module returns waits. Nothing else changes. -/
def Obligations.ReturnsLand : Prop :=
  ∀ (s : State) (id : Nat),
    (∀ (n : Load) (w : Warp), s.loads.find id = some n → s.warp n.warp = some w → (n.far = false ∨ s.quiesced = false) →
      w.slotNo = n.slot → s.gen n.slot = n.gen → w.killed = false → w.swapped = false →
      (∀ e ∈ Claims.vWrites n.writes, e.2.1 < 128) → (∀ e ∈ Claims.eWrites n.writes, e.2.1 < 32) →
      (∀ m ∈ n.bad, m.1 ≤ 2 ∧ m.2.1 < 128) →
      ∃ w1, exec (.loadReturn id) s = .next { s with loads := s.loads.erase id, warps := s.warps.put n.warp w1 } ∧
        w1 = { w with v := w1.v, e := w1.e, k := w1.k, d := w1.d, pendV := w1.pendV, pendE := w1.pendE, pendK := w1.pendK
                      markV := w1.markV, markE := w1.markE, markK := w1.markK, markAddr := w1.markAddr } ∧
        Claims.received w w1 n) ∧
    (∀ (a : Ack) (w : Warp), s.acks.find id = some a → s.warp a.warp = some w → (a.far = false ∨ s.quiesced = false) →
      w.slotNo = a.slot → s.gen a.slot = a.gen → w.killed = false → w.swapped = false →
      ∃ w1, exec (.storeAck id) s = .next { s with
          acks := (if a.left ≤ 1 then s.acks.erase id else s.acks.put id { a with left := a.left - 1 })
          warps := s.warps.put a.warp w1 } ∧
        w1 = { w with out := w.out - 1, d := w1.d } ∧
        ∀ c, w1.dn c = if a.left ≤ 1 ∧ a.dc = some c then w.dn c - 1 else w.dn c) ∧
    (∀ (n : Load), s.loads.find id = some n → (n.far = false ∨ s.quiesced = false) →
      s.gen n.slot ≠ n.gen ∨ (∃ w, s.warp n.warp = some w ∧ w.killed = true) →
      ∃ t, exec (.loadReturn id) s = .next t ∧ t = { s with loads := s.loads.erase id, comps := t.comps } ∧
        Claims.dropsCounted s t n.slot 1) ∧
    (∀ (a : Ack), s.acks.find id = some a → (a.far = false ∨ s.quiesced = false) →
      s.gen a.slot ≠ a.gen ∨ (∃ w, s.warp a.warp = some w ∧ w.killed = true) →
      ∃ t, exec (.storeAck id) s = .next t ∧
        t = { s with acks := (if a.left ≤ 1 then s.acks.erase id else s.acks.put id { a with left := a.left - 1 })
                     comps := t.comps } ∧
        Claims.dropsCounted s t a.slot 1) ∧
    (s.quiesced = true → (∀ n, s.loads.find id = some n → n.far = true → exec (.loadReturn id) s = .next s) ∧
      ∀ a, s.acks.find id = some a → a.far = true → exec (.storeAck id) s = .next s)

/-- R134, R137, R260 to R263, R266 to R268, R398: st, sts, stp and stx complete where every address passes its checks,
none must wait, the outstanding-store counter has room, and, for one that releases, nothing holds up or fails the release
at its scope; one that releases at block scope or wider first sends the warp's loose bytes home. The leaves of the accesses
that are performed take A and D (R368; one over a failed link is not performed), the stores are performed in the step of issue in ascending position, and those to global addresses are acknowledged
later under the dependency counter (log 4, the model's choice). Where no link has failed only the warp's outstanding stores
and counter change beside what the stores themselves write. -/
def Obligations.StoresComplete : Prop :=
  ∀ (f : FmtM) (x : Option XM) (g : XG) (s : State) (w : Warp), ∀ a ∈ Claims.stores w f x g,
    IssuesMem s w f.dc.toNat (a.refs ++ dataRefs f) →
    let r := s.readied w
    let plain := a.order == 0
    let scope := if releases a.order then a.scope else 0
    ∀ l, r.placeAll w a.space (mBytes f) (mBytes f) f.u .write false
        ((w.lanesOf f.u a.guard).map fun p => (p, a.addr p)) = .ok l →
      r.heldUp true l = false → w.out + (if a.space = .glob then l.length else 0) ≤ 65535 → MayRelease s w scope →
      let u := (((r.released w scope).touchStores w.core l).homeward w plain l).storeAll s.cur w.woken f.u plain
        (w.woken.dataBytes f) l
      exec a.instr s = .next
        ((if a.space = .glob then u.acksFor s.cur (some f.dc.toNat) l.length (farAway l) else u).advance s.cur) ∧
      ((∀ c ∈ l, r.accBroken w.core c = false) → ∃ t, exec a.instr s = .next t ∧
        Retires s { u with acks := t.acks, nextId := t.nextId } t
          (if a.space = .glob ∧ l ≠ [] then
            { w with wait := none, out := w.out + l.length, d := Store.set 0 w.d f.dc.toNat (w.dn f.dc.toNat + 1) }
          else { w with wait := none }))

/-- R124, R267, R385: what performing stores does to memory. Where no link has failed and no page of the accesses is loose or
private, each byte of each access takes its value from the data of the highest position that stores to it, and every
byte outside the stored bytes, every sideband byte and every loose byte keeps its value. A private byte keeps its value, but for
those of the warp's own threads that the store replaces (R121, log 6): such a byte is private no more. A stored byte no longer
returns an error, and what else of its line has failed stays so (R385). -/
def Obligations.StoresWriteTheirBytes : Prop :=
  ∀ (s : State) (id : Nat) (w : Warp) (u plain : Bool) (val : Nat → List Byte) (l : List Acc),
    (∀ a ∈ l, s.accBroken w.core a = false) →
    (∀ a ∈ l, ∀ p ∈ a.pieces, p.priv = none ∧ (p.t.kind ≠ 2 ∨ plain = false ∨ p.t.ms = true)) →
    (∀ k, (∀ a ∈ l, ∀ p ∈ a.pieces, ¬ (p.t.key ≤ k ∧ k < p.t.key + p.n)) →
      (s.storeAll id w u plain val l).byte k = s.byte k ∧ (s.storeAll id w u plain val l).byteFailed k = s.byteFailed k) ∧
    (∀ a ∈ l, ∀ p ∈ a.pieces, ∀ i < p.n, a.pieces = [p] → (val a.pos).length = p.n →
      (s.storeAll id w u plain val l).byteFailed (p.t.key + i) = false) ∧
    (∀ l1 a l2 p i, l = l1 ++ a :: l2 → a.pieces = [p] → i < p.n → (val a.pos).length = p.n →
      (∀ b ∈ l2, ∀ q ∈ b.pieces, ¬ (q.t.key ≤ p.t.key + i ∧ p.t.key + i < q.t.key + q.n)) →
      (s.storeAll id w u plain val l).byte (p.t.key + i) = (val a.pos).getD i 0) ∧
    (let t := s.storeAll id w u plain val l
     t = { s with mem := t.mem, stale := t.stale, failed := t.failed, blocks := t.blocks } ∧
     (∀ k, k ≠ w.block → t.blocks.find k = s.blocks.find k) ∧
     ∀ b, s.blocks.find w.block = some b → ∃ b1, t.blocks.find w.block = some b1 ∧ b1 = { b with priv := b1.priv } ∧
       (∀ off, b1.priv.find off = b.priv.find off ∨ b1.priv.find off = none) ∧
       (b.priv = [] → b1.priv = []) ∧
       ∀ a p, l = [a] → a.pieces = [p] → ∀ i < p.n, ∀ q, s.ownPriv w (p.t.key + i) = some q → b1.priv.find q.1 = none)

/-- R98, R100, R269: what an ldmx of family `ty` lands in v and e register `d` from lines whose payload bits are `bits n`
and whose sidebands are `side n`: element j of the register is element j mod E of line j / E, in thread
j / epl at slot j mod epl, every bit beyond the slots zero; e byte b is sideband byte b mod B of line b / B, zero beyond the
blocks of the four lines. -/
def Sys2Proof.Claims.mxLanded (d ty : Nat) (bits : Nat → Nat) (side : Nat → Nat → Byte) (writes : List RegWrite) : Prop :=
  let width := mxWidth ty
  let per := mxLine ty
  let epl := mxEpl ty
  let blocks := mxLine ty / 32
  ∃ vs es, writes = [.v d vs, .e d es] ∧ vs.map (·.1) = List.range 128 ∧ es.map (·.1) = List.range 32 ∧
    (∀ p x, (p, x) ∈ vs → x.toNat / 2 ^ (width * epl) = 0 ∧ ∀ j < epl,
      slotOf width x j = bits ((p * epl + j) / per) / 2 ^ (width * ((p * epl + j) % per)) % 2 ^ width) ∧
    ∀ b y, (b, y) ∈ es → y = if b < 4 * blocks then side (b / blocks) (b % blocks) else 0

/-- R98 to R100, R262, R264, R269, R385, R398: once for the warp, ldmx completes on four lines at a 512-byte aligned address
of pages that hold MX lines; a misaligned address traps. The lines are read in the step of issue and land later (log 4, the
model's choice): v and e register d become pending, the counter counts the load and the warp goes on; what lands is the
codes and scales of the lines, zeros for a line that failed, v and e register d then marked with the address of the first
such line. Where no position executes, nothing happens. -/
def Sys2Proof.Claims.mxLoads : Prop :=
  ∀ (f : FmtM) (x : Option XM) (s : State) (w : Warp),
    let d := f.data.toNat
    let ty := familyType f.sub.toNat
    let addr := w.memAddr f true (offOf x) 0
    let plain := orderOf x == 0
    let r := s.readied w
    IssuesMem s w f.dc.toNat [addrRef f true, .dst f.data, .eDst d] →
      (w.once (guardOfX x) = false → ∃ t, exec (.ldmx f x) s = .next t ∧ Retires s s t { w with wait := none }) ∧
      (w.once (guardOfX x) = true → addr.toNat % 512 ≠ 0 →
        exec (.ldmx f x) s = .next (r.takeTrap s.cur (Trap.of 0x05 addr))) ∧
      (w.once (guardOfX x) = true → addr.toNat % 512 = 0 → ∀ l, r.placeMx w addr .read = .ok l →
        r.heldUp false l = false → s.recordRoom s.cur (loadRecord 1) = true →
        let u := (r.touchPieces l false).homeward w plain l
        let failed (n : Nat) : Bool := match l[n]? with | some a => u.mxFails w plain a | none => false
        ∃ t n w0 w1 w', exec (.ldmx f x) s = .next t ∧ t.loads.find u.nextId = some n ∧ u.warp s.cur = some w0 ∧
          n.warp = s.cur ∧ n.slot = w.slotNo ∧ n.gen = u.gen w.slotNo ∧ n.dc = some f.dc.toNat ∧
          n.bad = (match (List.range 4).find? failed with
            | some k => [(0, d, addr + BitVec.ofNat 64 (128 * k)), (1, d, addr + BitVec.ofNat 64 (128 * k))]
            | none => []) ∧
          t = { u with warps := t.warps, loads := t.loads, nextId := u.nextId + 1, fills := t.fills, tags := t.tags } ∧
          w0 = { w with wait := none, sfail := w0.sfail } ∧ (plain = true → w0.sfail = w.sfail ∧ ∀ j, u.warp j = r.warp j) ∧
          (∀ j, j ≠ s.cur → t.warp j = u.warp j) ∧ t.warp s.cur = some w' ∧ MovedOn s w1 w' ∧
          w1 = { (w0.incD f.dc.toNat) with
            wait := none, score := w1.score, pendV := w.pendV ||| (1#128 <<< d), pendE := w.pendE ||| (1#128 <<< d) } ∧
          ∀ pieces : List Piece, l.map Acc.pieces = pieces.map ([·]) →
            Claims.mxLanded d ty
              (fun n => if failed n then 0 else match pieces[n]? with | some p => natOfBytes (u.readPiece w plain p) | none => 0)
              (fun n b => if failed n then 0 else match pieces[n]? with | some p => u.sideByte p.t.key b | none => 0) n.writes)

/-- R98 to R100, R262, R269, R270, R385, R398: stmx completes likewise, with room for four stores and a release that nothing
holds up or fails. Payload and sideband of each line are written together at its home, in the step of issue (log 4): the
codes of the line, every bit of the payload beyond them zero, and its scales, the sideband bytes beyond them zero; a failure
of the line is cleared. The four stores are acknowledged later under the counter. -/
def Sys2Proof.Claims.mxStores : Prop :=
  ∀ (f : FmtM) (x : Option XM) (s : State) (w : Warp),
    let d := f.data.toNat
    let ty := familyType f.sub.toNat
    let addr := w.memAddr f true (offOf x) 0
    let r := s.readied w
    let scope := if releases (orderOf x) then scopeOf x else 0
    IssuesMem s w f.dc.toNat [addrRef f true, .dst f.data, .src f.data, .e d] →
      (w.once (guardOfX x) = false → ∃ t, exec (.stmx f x) s = .next t ∧ Retires s s t { w with wait := none }) ∧
      (w.once (guardOfX x) = true → addr.toNat % 512 ≠ 0 →
        exec (.stmx f x) s = .next (r.takeTrap s.cur { Trap.of 0x05 addr with write := true })) ∧
      (w.once (guardOfX x) = true → addr.toNat % 512 = 0 → ∀ l, r.placeMx w addr .write = .ok l → r.heldUp true l = false →
        w.out + 4 ≤ 65535 → MayRelease s w scope → (∀ c ∈ l, r.accBroken w.core c = false) →
        let u := ((r.released w scope).touchStores w.core l).homeward w false l
        ∃ t a, exec (.stmx f x) s = .next t ∧
          Retires s { u with mem := t.mem, side := t.side, stale := t.stale, staleSide := t.staleSide, failed := t.failed
                             acks := t.acks, nextId := s.nextId + 1 } t
            { w with wait := none, out := w.out + 4, d := Store.set 0 w.d f.dc.toNat (w.dn f.dc.toNat + 1) } ∧
          t.acks.find s.nextId = some a ∧ a.warp = s.cur ∧ a.slot = w.slotNo ∧ a.gen = s.gen w.slotNo ∧
          a.dc = some f.dc.toNat ∧ a.left = 4 ∧
          (∀ k, (∀ c ∈ l, ∀ p ∈ c.pieces, ¬ (p.t.key ≤ k ∧ k < p.t.key + 128)) → t.byte k = u.byte k) ∧
          ((l.Pairwise fun c c' => ∀ p ∈ c.pieces, ∀ q ∈ c'.pieces, p.t.key / 128 ≠ q.t.key / 128) →
            ∀ c p, c ∈ l → c.pieces = [p] → p.t.key % 128 = 0 → (∀ c' ∈ l, ∀ q ∈ c'.pieces, q.t.key % 128 = 0) →
              let bits := natOfBytes (t.bytes p.t.key 128)
              let blocks := mxLine ty / 32
              t.lineFailed p.t.key = false ∧ bits / 2 ^ (mxWidth ty * mxLine ty) = 0 ∧
              (∀ i < mxLine ty, let j := c.pos * mxLine ty + i
                bits / 2 ^ (mxWidth ty * i) % 2 ^ mxWidth ty = slotOf (mxWidth ty) (w.vr d (j / mxEpl ty)) (j % mxEpl ty)) ∧
              ∀ b < 8, t.sideByte p.t.key b = if b < blocks then w.er d (c.pos * blocks + b) else 0))

/-- R98 to R100, R262, R264, R269, R270, R385, R398: ldmx and stmx. -/
def Obligations.MxLinesComplete : Prop := Claims.mxLoads ∧ Claims.mxStores

/-! ### Atomics (R145 to R148, R271, R272) -/

/-- R134, R137, R145 to R148, R271, R272: atom and cas complete where every address passes its checks, none must wait, the
outstanding-store counter has room, no way is over a failed link, and nothing holds up or fails the release of one that
releases. Their groups, one for each address, are performed in the step of issue at the homes, with the core's own loose
bytes of those lines sent home first; the fetched values land later under the dependency counter, and the global ones are
owed one acknowledgement each (logs 4 and 20, the model's choices): the warp goes on with its data group pending, its
counter raised and its outstanding stores counted. Where every position has one address, the value there becomes what the
group of R146 or R148 gives. Where no position executes, nothing happens. -/
def Obligations.AtomicsComplete : Prop :=
  ∀ (f : FmtM) (x : Option XM) (y : XM) (s : State) (w : Warp),
    let size := mBytes f
    let mod := 2 ^ (8 * size)
    let add : GroupOp := fun old ts =>
      let r := atomGroup f.sub.toNat size old none (ts.map fun p => (p, w.dataNum f p % mod))
      (r.1, some r.2)
    let swap : GroupOp := fun old ts =>
      let r := casGroup old (ts.map fun p => (p, w.dataNum f p % mod, w.dataNum (casNew f) p % mod))
      (r.1, if r.2 = old then none else some r.2)
    ∀ c ∈ [(Instr.atom f x, guardOfX x, orderOf x, atomScope x, [addrRef f true] ++ dataRefs f ++ destRefs f,
            w.memAddr f true (offOf x), add),
           (Instr.cas f y, some y.g, y.order, y.scope.toNat, [addrRef f true] ++ dataRefs f ++ casRefs f ++ destRefs f,
            w.memAddr f true (offOf (some y)), swap)],
      let (i, g, order, scope, refs, addr, op) := c
      let scope := if releases order then scope else 0
      IssuesMem s w f.dc.toNat refs →
      let r := s.readied w
      ∀ l, r.placeAll w .either size size f.u .write false ((w.lanesOf f.u g).map fun p => (p, addr p)) = .ok l →
        r.heldUp true l = false → w.out + globalCount l ≤ 65535 → (∀ a ∈ l, r.accBroken w.core a = false) →
        (l = [] → ∃ t, exec i s = .next t ∧ Retires s s t { w with wait := none }) ∧
        (l ≠ [] → MayRelease s w scope →
          let s1 := ((r.released w scope).touchStores w.core l).homeward w false l
          let u := (s1.atomAll s.cur w f.u size op (groupsOf l)).1
          let vals := (s1.atomAll s.cur w f.u size op (groupsOf l)).2
          let owed := globalCount l
          let id := if owed = 0 then s.nextId else s.nextId + 1
          ∃ t n w1 w', exec i s = .next t ∧ t.loads.find id = some n ∧ n.warp = s.cur ∧ n.slot = w.slotNo ∧
            n.gen = s.gen w.slotNo ∧ n.dc = some f.dc.toNat ∧
            n.writes = landing f (vals.map fun p => (p.1, bytesOfNat size p.2)) ∧ n.bad = s1.marksFor w false (dataGroup f) l ∧
            (owed = 0 → t.acks = s.acks) ∧
            (owed ≠ 0 → ∃ a, t.acks.find s.nextId = some a ∧ a.warp = s.cur ∧ a.slot = w.slotNo ∧ a.gen = s.gen w.slotNo ∧
              a.dc = none ∧ a.left = owed) ∧
            t = { u with warps := t.warps, loads := t.loads, acks := t.acks, nextId := id + 1 } ∧
            (∀ j, j ≠ s.cur → t.warp j = s.warp j) ∧ t.warp s.cur = some w' ∧ MovedOn s w1 w' ∧
            w1 = { (w.pend n.writes).incD f.dc.toNat with wait := none, out := w.out + owed } ∧
            (∀ p, (∀ a ∈ l, a.addr = (l.headD ⟨0, 0, []⟩).addr ∧ a.pieces = [p]) → s1.runFailed p.t.key size = false →
              let group := op (s1.num p.t.key size) (l.map (·.pos))
              vals = group.1 ∧ t.num p.t.key size = (group.2.getD (s1.num p.t.key size)) % mod ∧
              ∀ k, ¬ (p.t.key ≤ k ∧ k < p.t.key + size) → t.byte k = s1.byte k))

/-- Table 5.5: the integer operations of `n` bytes, one thread at a time: the value that memory receives. -/
def Sys2Proof.Claims.atomicStep (sub n old v : Nat) : Nat :=
  let m := 2 ^ (8 * n)
  let sg (a : Nat) : Int := if m / 2 ≤ a then (a : Int) - m else a
  match sub with
  | 0 => (old + v) % m
  | 2 => if sg old ≤ sg v then old else v
  | 3 => if sg old ≤ sg v then v else old
  | 4 => if old ≤ v then old else v
  | 5 => if old ≤ v then v else old
  | 6 => old &&& v
  | 7 => old ||| v
  | 8 => old ^^^ v
  | _ => v

/-- R146, R148: a combined group of an integer operation, or of cas, gives memory and every thread what performing the
threads one after another in ascending index gives: each fetches the value that the one before it left. -/
def Obligations.CombinedAtomicsAreSerial : Prop :=
  (∀ (sub n : Nat), sub ≠ 1 → sub ≤ 9 → n = 4 ∨ n = 8 → ∀ (old : Nat) (g : List (Nat × Nat)), old < 2 ^ (8 * n) →
    (∀ p ∈ g, p.2 < 2 ^ (8 * n)) → g ≠ [] →
    (atomGroup sub n old none g).2 = g.foldl (fun a p => Claims.atomicStep sub n a p.2) old ∧
    ∀ g1 p g2, g = g1 ++ p :: g2 →
      (atomGroup sub n old none g).1[g1.length]? = some (p.1, g1.foldl (fun a q => Claims.atomicStep sub n a q.2) old)) ∧
  (∀ (old : Nat) (g : List (Nat × Nat × Nat)),
    (casGroup old g).2 = g.foldl (fun a p => if a = p.2.1 then p.2.2 else a) old ∧
    ∀ g1 p g2, g = g1 ++ p :: g2 →
      (casGroup old g).1[g1.length]? = some (p.1, g1.foldl (fun a q => if a = q.2.1 then q.2.2 else a) old))

/-! ### Fences, prefetches, write-backs and chases (R194 to R200, R273 to R277) -/

/-- R134, R136, R137, R274 to R277: fence completes, of any order (log 44): at block scope and wider the warp's loose bytes
go home, at module scope and wider it waits for every store. pf brings lines into the L1 and changes no value; ipf changes
nothing; cwb, where no link has failed, writes back or discards the dirty loose and private bytes of the L1 lines it names,
each write-back acknowledged as one store; the bytes that the core's L1 holds of a loose line leave it and, unless they are
discarded, are what its home then holds. It does nothing on other pages, and a write-back alone keeps every line. While a line
that it names cannot be told, for a plane that carries nothing, it does not issue (R397). -/
def Obligations.FencesAndPrefetches : Prop :=
  ∀ (f : FmtM) (x : Option XM) (s : State) (w : Warp),
    let idle : Warp := { w with wait := none }
    let r := s.readied w
    (IssuesMem s w f.dc.toNat [] →
      (w.once none = false → ∃ t, exec (.fence f) s = .next t ∧ Retires s s t idle) ∧
      (w.once none = true → MayRelease s w f.size.toNat →
        ∃ t, exec (.fence f) s = .next t ∧ Retires s (r.released w f.size.toNat) t idle) ∧
      (w.once none = true → 2 ≤ f.size.toNat → s.backHeld (ofWarp w) = true ∨ (4 ≤ f.size.toNat ∧ w.out ≠ 0) →
        ∃ t, exec (.fence f) s = .next t ∧ t = { s with warps := t.warps } ∧
          t.warp s.cur = some { w with wait := some .fence } ∧ ∀ j, j ≠ s.cur → t.warp j = s.warp j)) ∧
    (IssuesMem s w f.dc.toNat [addrRef f true] →
      (∃ t, exec (.pf f x) s = .next t ∧ Retires s { s with fills := t.fills } t idle) ∧
      (∃ t, exec (.ipf f x) s = .next t ∧ Retires s s t idle)) ∧
    (IssuesMem s w f.dc.toNat [addrRef f (!f.sub.getLsbD 2)] →
      let priv := f.sub.getLsbD 2
      let kind := f.sub.toNat % 4
      let addr := w.memAddr f (!priv) (offOf x)
      let vas := (w.lanesOf f.u (guardOfX x)).filterMap fun p => if priv then r.privVa w.woken p (addr p) else some (addr p)
      let lines := distinctLines (vas.filterMap (r.l1Line w.woken))
      ((∃ a ∈ vas, r.lineUnknown w.woken a = true) → exec (.cwb f x) s = .next r) ∧
      (w.out + lines.length ≤ 65535 → (∀ a ∈ vas, r.lineUnknown w.woken a = false) → (∀ l ∈ lines, r.planeHeld l.2.key = false ∧ r.broken w.core (l.2.key / 128 * 128) = false) →
      let u := (r.cwbAll s.cur w.woken priv kind lines).1
      let n := (r.cwbAll s.cur w.woken priv kind lines).2
      ∃ t, exec (.cwb f x) s = .next t ∧
        Retires s { u with acks := t.acks, nextId := t.nextId } t
          (if n = 0 then idle
          else { idle with out := w.out + n, d := Store.set 0 w.d f.dc.toNat (w.dn f.dc.toNat + 1) }) ∧
        n ≤ lines.length ∧ (kind = 1 → n = 0 ∧ ∀ k, t.byte k = s.byte k) ∧ (kind = 0 → ∀ p ∈ s.fills, p ∈ t.fills) ∧
        (priv = false → (∀ l ∈ lines, l.2.kind ≠ 2 ∧ r.privLine w.woken l.1 = false) → r.privDirty w.core = [] →
          n = 0 ∧ u = r) ∧
        ∀ l, lines = [l] → l.2.kind = 2 → l.2.key < 2 ^ 80 → r.privDirty w.core = [] → Store.wf none s.l1 = true →
          ∀ a, a / 128 = l.2.key / 128 → (∀ slot, slot / 128 = w.core → t.l1.find (l1Key slot a) = none) ∧
            (kind ≠ 1 → (∀ slot, slot / 128 = w.core → slot ≠ w.slotNo → s.l1.find (l1Key slot a) = none) →
              t.byte a = ((s.l1.find (l1Key w.slotNo a)).map (·.1)).getD (s.byte a))))

/-- R34, R194, R195, R198, R273, R376: chase issues one packet for each executing thread at its pointer and at its first
step, done at once with result 0 where the pointer is 0; the destination pair is pending and the counter counts the chase.
That the warp goes on past its chase, whose walk lands later, is log 11 (DESIGN CHOICE). Step words whose top bits are not
zero are an illegal operand; a chase whose replay record has no room does not issue. Where no thread executes, nothing
happens. -/
def Obligations.ChaseIssues : Prop :=
  ∀ (f : FmtM) (x : XH) (s : State) (w : Warp),
    let n := f.sub.toNat % 8 + 1
    let d := f.data.toNat
    let steps := (List.range n).map fun i => w.kr (x.ks.toNat + i)
    let lanes := positions (w.exec (some x.g))
    IssuesMem s w f.dc.toNat [.srcPair f.addr, .dstPair f.data, .kGroup x.ks.toNat n] →
    ((∃ d ∈ steps, d.extractLsb' 44 20 ≠ 0) → exec (.chase f x) s =
      .next ((s.readied w).takeTrap s.cur (Trap.of 0x02 (firstWord (.chase f x))))) ∧
    ((∀ d ∈ steps, d.extractLsb' 44 20 = 0) → lanes = [] →
      ∃ t, exec (.chase f x) s = .next t ∧ Retires s s t { w with wait := none }) ∧
    ((∀ d ∈ steps, d.extractLsb' 44 20 = 0) → lanes ≠ [] → s.recordRoom s.cur (chaseRecord lanes.length) = false →
      exec (.chase f x) s = .next (s.readied w)) ∧
    ((∀ d ∈ steps, d.extractLsb' 44 20 = 0) → lanes ≠ [] → s.recordRoom s.cur (chaseRecord lanes.length) = true →
      ∃ t c, exec (.chase f x) s = .next t ∧ t.chases.find s.nextId = some c ∧
        Retires s { s with chases := t.chases, nextId := s.nextId + 1 } t
          { (w.pend [.v d [], .v (d + 1) []]).incD f.dc.toNat with wait := none } ∧
        c.warp = s.cur ∧ c.slot = w.slotNo ∧ c.gen = s.gen w.slotNo ∧ c.dc = f.dc.toNat ∧ c.dst = d ∧ c.steps = steps ∧
        c.cmp = w.cmp ∧ c.ctx = w.ctx ∧ c.pc = w.pc ∧ c.super = w.super ∧ c.trapped = false ∧ c.held = false ∧ c.rep.ix = w.ix ∧
        (∀ o, s.ctxOf w.cmp w.ctx = some o → c.root = o.ptroot) ∧
        c.packets = lanes.map (fun p =>
          let a := w.srcPair f.addr.toNat p
          ⟨p, a, 0, 0, none, false, if a = 0 then .done 0 else .flying⟩))

/-- The state after a step of chase `id` that leaves packet `q` at its position: nothing else of a chase changes. -/
def Sys2Proof.Claims.stepped (s u : State) (id : Nat) (c : Chase) (pos : Nat) (q : Packet) : State :=
  { u with chases := s.chases.put id { c with packets := c.packets.map fun y => if y.pos = pos then q else y } }

/-- R195 to R199, R385, R397, R398, Tables 7.6 and 7.7: one step of a flying packet. With a null pointer it ends with result
0. A step address that is not 8-byte aligned is a step fault of kind 0x05, whatever its bit 63 (log 51); one that does not
translate is a step fault of the kind that the translation gives. It stops before its seventeenth hop. It waits for a plane
that carries nothing. A table or line that returns an uncorrectable error, or that lies beyond a failed link, marks its
result. A line of another module that the packet may not read is refused there (R395), a step fault of kind 0x07: the packet
travels to it, as to one that returns an uncorrectable error there. Otherwise it loads the 64-bit word at its pointer plus the
offset of its step, ends with it as the result after the last step, else goes on from the word with its high and low bits
cleared; a move to another owner counts a hop, the first leg counts none, and a move to another module sends the 96 bytes of
Table 7.7 there. The leaf used takes A; nothing else changes. -/
def Obligations.ChaseSteps : Prop :=
  (∀ (s : State) (id pos : Nat) (c : Chase) (p : Packet), s.chases.find id = some c →
    c.packets.find? (fun q => q.pos == pos && q.st == .flying) = some p →
    let step := c.steps.getD p.step 0
    let a := p.ptr + (step.extractLsb' 0 32).signExtend 64
    let run (u : State) (q : Packet) : Prop := exec (.chaseStep id pos) s = .next (Claims.stepped s u id c pos q)
    (p.ptr = 0 → run s { p with st := .done 0 }) ∧
    (p.ptr ≠ 0 →
      (a.toNat % 8 ≠ 0 → run s { p with st := .fault 5 a }) ∧
      (a.toNat % 8 = 0 →
        (a.getLsbD 63 = true → run s { p with st := .fault 7 a }) ∧
        let ownerAt (k : Nat) := (keyTag k, stackDie (keyStack k))
        let hopsTo (k : Nat) := p.hops + (match p.owner with | none => 0 | some o => if o = ownerAt k then 0 else 1)
        let here := match p.owner with | none => 0 | some o => o.1
        let sent (u : State) (k : Nat) : State := if (ownerAt k).1 = here ∨ (ownerAt k).1 = 0 then u
          else { u with hostOut := u.hostOut
            ++ [.packet (u.moduleOf (ownerAt k).1) (packetBytes (u.carried c p) { p with hops := hopsTo k })] }
        let refused (tr : Trans) : Prop := s.xlateFrom (c.slot / 128) c.root (fun _ => true) a .read = .ok tr ∧
          isLocal tr.key = false ∧ s.owns c.cmp tr.key = false
        (∀ e, s.chaseXlate c a = .error e → (∀ tr, ¬ refused tr) →
          run s (if e.cause = heldCause then p else if e.cause = 0x15 then { p with st := .bad a }
            else { p with st := .fault e.cause a })) ∧
        (∀ tr, refused tr →
          (16 < hopsTo tr.key → run s { p with st := .hop }) ∧
          (hopsTo tr.key ≤ 16 → s.planeHeld tr.key = true → run s p) ∧
          (hopsTo tr.key ≤ 16 → s.planeHeld tr.key = false →
            run (sent s tr.key) { p with st := .fault 7 a, hops := hopsTo tr.key, owner := some (ownerAt tr.key) })) ∧
        ∀ tr, s.chaseXlate c a = .ok tr →
          let hops := hopsTo tr.key
          (16 < hops → run s { p with st := .hop }) ∧
          (hops ≤ 16 →
            (s.planeHeld tr.key = true ∨ s.leafHeld tr false = true → run s p) ∧
            (s.planeHeld tr.key = false → s.leafHeld tr false = false →
              (s.pathBroken (c.slot / 128) p.owner (ownerAt tr.key) = true → run (s.touch tr false) { p with st := .bad a }) ∧
              (s.pathBroken (c.slot / 128) p.owner (ownerAt tr.key) = false → s.runFailed tr.key 8 = true →
                run (sent (s.touch tr false) tr.key) { p with st := .bad a, hops := hops, owner := some (ownerAt tr.key) }) ∧
              (s.pathBroken (c.slot / 128) p.owner (ownerAt tr.key) = false → s.runFailed tr.key 8 = false →
                let x : DWord := BitVec.ofNat 64 (s.num tr.key 8)
                let h := (step.extractLsb' 38 6).toNat
                let l := (step.extractLsb' 32 6).toNat
                run (sent (s.touch tr false) tr.key)
                  (if p.step + 1 = c.steps.length then { p with st := .done x, hops := hops, owner := some (ownerAt tr.key) }
                  else { p with
                    ptr := (((x <<< h) >>> h) >>> l) <<< l, step := p.step + 1, hops := hops, owner := some (ownerAt tr.key) }))))))) ∧
  ∀ (c : Carried) (p : Packet), c.steps.length ≤ 8 → p.step < 256 → p.hops < 256 → c.ctxid < 2 ^ 32 →
    let b := packetBytes c p
    let field (i n : Nat) : Nat := natOfBytes ((b.drop i).take n)
    b.length = 96 ∧ field 0 8 = p.ptr.toNat ∧ (∀ i < 8, field (8 + 8 * i) 8 = (c.steps.getD i 0).toNat) ∧
      field 72 8 = c.route.toNat ∧ field 80 1 = p.step ∧ field 81 1 = c.steps.length ∧ field 82 1 = p.hops ∧
      field 83 1 = (if p.replay then 1 else 0) ∧ field 84 4 = c.ctxid ∧ field 88 8 = c.root.toNat

/-- R83, R198 to R200: when every packet of a chase has ended, its reply reaches the warp that keeps the slot and the
generation of the issue: with no fault, the results of every packet land in the destination pair (zeros and marks for a
packet that met an uncorrectable error), the replay flag clears with the last trapped chase of the warp, the pair is no longer pending and the counter share is released; with a faulted
packet the warp, once it stands between two instructions, takes the chase trap (0x0F) of the lowest position at the chase,
and with one out of hops alone the hop trap (0x10), the records kept (that the warp has gone on since, and where it then goes
back to, is log 11, the model's choice). The replies of a warp that is gone are dropped and counted, one for each packet
sent; that the unit of the count is the packet is log 55 (DESIGN CHOICE). A warp that has ended by itself takes the results, and
no trap: the records of a chase that would trap are discarded (log 11). -/
def Obligations.ChaseReplies : Prop :=
  (∀ (s : State) (id : Nat) (c : Chase) (w : Warp), s.chases.find id = some c → s.warp c.warp = some w → c.held = false →
    w.slotNo = c.slot → s.gen c.slot = c.gen → w.killed = false → w.swapped = false → (∀ p ∈ c.packets, p.st ≠ .flying) →
    ((∀ p ∈ c.packets, p.pos < 128) → c.packets.Pairwise (fun p q => p.pos ≠ q.pos) →
      (∀ p ∈ c.packets, (∃ x, p.st = .done x) ∨ ∃ a, p.st = .bad a) →
      let bad := c.packets.filterMap fun p => match p.st with | .bad a => some a | _ => none
      let result (p : Packet) : DWord := match p.st with | .done x => x | _ => 0
      ∃ w1, exec (.chaseReply id) s = .next { s with chases := s.chases.erase id, warps := s.warps.put c.warp w1 } ∧
        w1 = { w with v := w1.v, pendV := w1.pendV, d := w1.d, markV := w1.markV, markAddr := w1.markAddr, xstat :=
          if c.trapped && (s.chases.erase id).all.all fun e =>
            !(e.2.warp == c.warp && e.2.trapped && s.gen e.2.slot == e.2.gen) then w.xstat &&& ~~~ 0x10 else w.xstat } ∧
        (∀ n, w1.dn n = if n = c.dc then w.dn n - 1 else w.dn n) ∧
        (∀ r < 128, w1.pendV.getLsbD r = (w.pendV.getLsbD r && !(r == c.dst || r == c.dst + 1))) ∧
        (∀ r, ∀ p < 128, w1.vr r p = match c.packets.find? fun q => q.pos == p with
          | some q => if r = c.dst then (result q).extractLsb' 0 32
            else if r = c.dst + 1 then (result q).extractLsb' 32 32 else w.vr r p
          | none => w.vr r p) ∧
        (bad = [] → w1.markV = w.markV ∧ w1.markAddr = w.markAddr) ∧
        (∀ a rest, bad = a :: rest → c.dst + 1 < 128 → ∀ r ∈ [c.dst, c.dst + 1],
          w1.marked 0 r = true ∧ Store.get 0 w1.markAddr (markKey 0 r) = a)) ∧
    (w.phase = .ended → (∃ p ∈ c.packets, p.st = .hop ∨ ∃ k a, p.st = .fault k a) →
      ∃ w1, exec (.chaseReply id) s = .next { s with chases := s.chases.erase id, warps := s.warps.put c.warp w1 } ∧
        w1 = { w with pendV := w1.pendV, d := w1.d } ∧ (∀ n, w1.dn n = if n = c.dc then w.dn n - 1 else w.dn n) ∧
        ∀ r < 128, w1.pendV.getLsbD r = (w.pendV.getLsbD r && !(r == c.dst || r == c.dst + 1))) ∧
    (w.phase ≠ .ended →
     let kept : State := { s with chases := s.chases.put id { c with trapped := true, held := true } }
     let stood : Warp := { w with
      pc := c.pc, ix := c.rep.ix, fetched := false, words := [], super := c.super, wait := none, xback := some w.point }
     (∀ l1 p l2 k a, c.packets = l1 ++ p :: l2 → p.st = .fault k a → (∀ q ∈ l1, ∀ k b, q.st ≠ .fault k b) →
      exec (.chaseReply id) s = .next (if w.takesChase c.super then (kept.putWarp c.warp stood).takeAside c.warp w
        { Trap.of 0x0F a with pos := some p.pos, value := some (BitVec.ofNat 64 k) } else s)) ∧
     (∀ l1 p l2, c.packets = l1 ++ p :: l2 → p.st = .hop → (∀ q ∈ l1, q.st ≠ .hop) →
      (∀ q ∈ c.packets, ∀ k b, q.st ≠ .fault k b) →
      exec (.chaseReply id) s = .next (if w.takesChase c.super then (kept.putWarp c.warp stood).takeAside c.warp w
        { Trap.of 0x10 p.ptr with pos := some p.pos } else s)))) ∧
  ∀ (s : State) (id : Nat) (c : Chase), s.chases.find id = some c → c.held = false →
    s.gen c.slot ≠ c.gen ∨ (∃ w, s.warp c.warp = some w ∧ w.killed = true) →
    (∀ p ∈ c.packets, p.st ≠ .flying) → ∃ t, exec (.chaseReply id) s = .next t ∧
      t = { s with chases := s.chases.erase id, comps := t.comps } ∧ Claims.dropsCounted s t c.slot c.rep.addrs.length

/-! ### Copy commands and futures (R168 to R174, R282 to R284) -/

/-- R77, R134, R137, R172, R173, R283, Table 6.5: cmdw sets a word of the command window; go, with fewer than 128 commands in
its core and nothing that holds up or fails its release at module scope, sends the warp's loose bytes home and starts a
command that holds the four window words, its barrier where sub[0] is set and a handle, which goes to K(x) with a pending bit and where sub[1] is set to K(z); its
counter counts it. While the core holds 128 commands go does not issue. Where no position executes nothing happens. -/
def Obligations.CommandWindowAndGo : Prop :=
  ∀ (f : FmtE) (s : State) (w : Warp),
    let idle : Warp := { w with wait := none }
    let x := f.x.toNat
    (IssuesEng s w f.dc.toNat [.k x] → ∃ t w1, exec (.cmdw f) s = .next t ∧ Retires s s t w1 ∧
      w1 = { idle with win := w1.win } ∧
      ∀ i, Store.get 0 w1.win i = if w.once none = true ∧ i = f.sub.toNat then w.kr x else Store.get 0 w.win i) ∧
    (IssuesEng s w f.dc.toNat ([.kDst x] ++ (if f.sub.getLsbD 0 then [.k f.y.toNat] else [])
        ++ if f.sub.getLsbD 1 then [.kDst f.z.toNat] else []) →
      let r := s.readied w
      (w.once none = false → ∃ t, exec (.go f) s = .next t ∧ Retires s s t idle) ∧
      (w.once none = true → 128 ≤ (s.coreCmds w.core).length → ∃ t, exec (.go f) s = .next t ∧
        t = { s with warps := t.warps } ∧ t.warp s.cur = some { w with wait := some .goFull } ∧
        ∀ j, j ≠ s.cur → t.warp j = s.warp j) ∧
      (w.once none = true → (s.coreCmds w.core).length < 128 → MayRelease s w 4 →
        ∃ t w1 c, exec (.go f) s = .next t ∧ t.cmds.find s.nextId = some c ∧
          Retires s { r.released w 4 with ctxs := t.ctxs, cmds := t.cmds, nextId := s.nextId + 1 } t w1 ∧
          w1 = { idle with k := w1.k, pendK := w.pendK ||| (1#128 <<< x)
                           d := Store.set 0 w.d f.dc.toNat (w.dn f.dc.toNat + 1) } ∧
          (∀ n, w1.kr n = if n = x ∨ (f.sub.getLsbD 1 = true ∧ n = f.z.toNat) then c.handle else w.kr n) ∧
          c.handle = handleOf (ctxid w.cmp w.ctx) c.token c.seq ∧ c.warp = s.cur ∧ c.core = w.core ∧
          c.w = (List.range 4).map (fun i => Store.get 0 w.win i) ∧
          c.barrier = (if f.sub.getLsbD 0 then some (w.kr f.y.toNat) else none) ∧
          c.status = 0 ∧ c.taken = false ∧ c.started = false))

/-- R169, R170, R284: on a handle that the context accepts, f.test writes the status; f.wait writes it when it is not 0 or
the bound is 0, else, with room for its replay record (R376), blocks until the command ends or the bound, counted from this clock, expires; f.cancel ends a command
that its engine has not taken with status 2 and writes 2, and writes the status of any other. A handle that is not accepted
takes the engine command fault (0x14) before any effect. Where no position executes nothing happens. -/
def Sys2Proof.Claims.futures : Prop :=
  ∀ (f : FmtE) (b : BitVec 32) (s : State) (w : Warp),
    IssuesEng s w f.dc.toNat [.k f.y.toNat, .kDst f.x.toNat] →
    let h := w.kr f.y.toNat
    let r := s.readied w
    let writes (t : State) (n : Nat) : Prop :=
      Retires s s t { w with wait := none, k := Store.set 0 w.k f.x.toNat (BitVec.ofNat 64 n) }
    (w.once none = false → ∀ i ∈ [Instr.fTest f, .fWait f b, .fCancel f],
      ∃ t, exec i s = .next t ∧ Retires s s t { w with wait := none }) ∧
    (w.once none = true → s.handleCmd w.cmp w.ctx h = none → ∀ i ∈ [Instr.fTest f, .fWait f b, .fCancel f],
      exec i s = .next (r.takeTrap s.cur (Trap.of 0x14 h))) ∧
    ∀ n c, w.once none = true → s.handleCmd w.cmp w.ctx h = some (n, c) →
      (∃ t, exec (.fTest f) s = .next t ∧ writes t c.status) ∧
      (c.status ≠ 0 ∨ b = 0 → ∃ t, exec (.fWait f b) s = .next t ∧ writes t c.status) ∧
      (c.status = 0 → b ≠ 0 → s.recordRoom s.cur 48 = true → ∃ t, exec (.fWait f b) s = .next t ∧ t = { s with warps := t.warps } ∧
        t.warp s.cur = some { w with wait := some (.future h
          (if b = 0xFFFFFFFF then none else some (s.clock + b.toNat)) f.x.toNat) } ∧
        ∀ j, j ≠ s.cur → t.warp j = s.warp j) ∧
      (c.status ≠ 0 ∨ c.taken = true → ∃ t, exec (.fCancel f) s = .next t ∧ writes t c.status) ∧
      (c.status = 0 → c.taken = false →
        exec (.fCancel f) s = .next (((r.endCmd n 2).writeK s.cur f.x.toNat 2).advance s.cur))

/-- R77, R170, R284: when a command ends, its status is recorded; where its warp still holds the slot and generation of
the issue, its handle's pending bit clears and its counter share is released; every other warp of its context that waits
on its handle goes on with the status in its register. At F_WAIT_TIMEOUT a wait whose deadline has passed goes on with the
status that the engine reports now. -/
def Sys2Proof.Claims.commandEnds : Prop :=
  ∀ (s : State),
    (∀ (id st : Nat) (c : Cmd) (w : Warp), s.cmds.find id = some c → s.warp c.warp = some w → s.gen c.slot = c.gen →
      w.slotNo = c.slot → w.killed = false → w.swapped = false → Store.wf none s.warps = true → (∀ h d r, w.wait ≠ some (.future h d r)) →
      let t := s.endCmd id st
      t.cmds.find id = some { c with status := st } ∧
      t.warp c.warp = some { w with pendK := w.pendK &&& ~~~ (1#128 <<< c.kreg)
                                    d := Store.set 0 w.d c.dc (w.dn c.dc - 1) } ∧
      ∀ j x d r, j ≠ c.warp → s.warp j = some x → x.wait = some (.future c.handle d r) → x.cmp = c.cmp → x.ctx = c.ctx →
        ∃ y, t.warp j = some y ∧ y.wait = none ∧ y.kr r = BitVec.ofNat 64 st) ∧
    ∀ (id d r : Nat) (h : DWord) (w : Warp) (n : Nat) (c : Cmd), s.warp id = some w → w.wait = some (.future h (some d) r) →
      d ≤ s.clock → s.handleCmd w.cmp w.ctx h = some (n, c) → ∃ t y, exec (.fWaitTimeout id) s = .next t ∧
        t = { s with warps := t.warps } ∧ t.warp id = some y ∧ y.wait = none ∧ y.kr r = BitVec.ofNat 64 c.status ∧
        ∀ j, j ≠ id → t.warp j = s.warp j

/-- R77, R169, R170, R284: the instructions on futures, and what the end of a command does to those who wait on it. -/
def Obligations.FuturesAndTheirCommands : Prop := Claims.futures ∧ Claims.commandEnds

/-- R140, R163, R170, R173, R174: an engine takes a command once every earlier one of its warp has started: bad words or a
bad table end it on a record with the cause of R174 and no access; else, unless it is serial, it starts (log 32: order of
checks, accesses in one step). A serial command starts when the earlier ones have ended. A started one performs its accesses
and ends with status 1, its bytes subtracted from its barrier, or on a record. -/
def Sys2Proof.Claims.copyRuns : Prop :=
  ∀ (s : State) (id : Nat) (c : Cmd), s.cmds.find id = some c → c.status = 0 →
    let put (s : State) (c : Cmd) : State := { s with cmds := s.cmds.put id c }
    let c1 := { c with taken := true }
    (c.taken = false → (∀ e ∈ s.earlierCmds id c, e.started = true) →
      (∀ k a, wordsBad c = some (k, a) → exec (.copyTake id) s = .next ((put s c1).copyFault id c1 k a false none)) ∧
      (wordsBad c = none → ∀ k a wr e, s.readTable c = .error (.fault k a wr e) →
        exec (.copyTake id) s = .next ((put s c1).copyFault id c1 k a wr e)) ∧
      (wordsBad c = none → ∀ table u, s.readTable c = .ok (table, u) →
        ((copyOf (c.word 3) table).ok table = false →
          exec (.copyTake id) s = .next ((put u c1).copyFault id c1 0x14 0 false none)) ∧
        ((copyOf (c.word 3) table).ok table = true →
          exec (.copyTake id) s = .next (put u { c1 with table := table, started := !(copyOf (c.word 3) table).serial })))) ∧
    (c.taken = true → s.recordWaits id = false → s.earlierCmds id c = [] →
      exec (.serialCommandStart id) s = .next (put s { c with started := true })) ∧
    (c.started = true → s.recordWaits id = false →
      let p := copyOf (c.word 3) c.table
      (∀ u, s.copyAll c p = .ok u →
        (c.barrier = none → exec (.copyComplete id) s = .next (u.endCmd id 1)) ∧
        (∀ b t, c.barrier = some b → u.copyAt c b 16 true false 0 = .ok t →
          (∀ o v, u.barDo t (.bytes (-(p.bytes : Int))) = .done o v → exec (.copyComplete id) s = .next (v.endCmd id 1)) ∧
          ∀ v, u.barDo t (.bytes (-(p.bytes : Int))) = .corrupt v →
            exec (.copyComplete id) s = .next (v.copyFault id c 0x0D b true none)) ∧
        ∀ b k a wr e, c.barrier = some b → u.copyAt c b 16 true false 0 = .error (.fault k a wr e) →
          exec (.copyComplete id) s = .next (u.copyFault id c k a wr e)) ∧
      ∀ u k a wr e, s.copyAll c p = .error (.fault k a wr e, u) →
        exec (.copyComplete id) s = .next (u.copyFault id c k a wr e))

/-- R177 to R181, R183: visit `n` of a command of any rank in mode 0, 3, 5, 6 or 7, with A and D set in the leaves. The taps
are innermost, then the first dimension: o_d and q_d are the digits of the visit, and j_d = o_d + q_d dil_d - pl_d. Where
every j_d is inside its source, or clamped to it under pad mode 2, the bytes at W0 plus the sum of j_d strides are copied; a
pad element is zero under pad mode 0 and the value under pad mode 1, as mode 7 writes everywhere. They go to W1 plus the sum
of o_d strides, in mode 3 plus q_lin elements. On the sharded side of modes 5 and 6 the index modulo the shard extent gives
the stride, the quotient the module's. -/
def Sys2Proof.Claims.copyMoves : Prop :=
  ∀ (s : State) (c : Cmd) (p : Copy) (n : Nat), p.mode ∈ [0, 3, 5, 6, 7] → (∀ d ∈ p.dims, 0 < d.k) → 0 < p.eb →
    let rank := p.dims.length
    let dim (d : Nat) : Dim := p.dims.getD d ⟨1, 0, 0, 1, 1, 0, 0, 0⟩
    let below (size : Dim → Nat) (d : Nat) : Nat := ((List.range d).map fun e => size (dim e)).prod
    let taps := below (fun d => d.k) rank
    let o (d : Nat) : Nat := n / taps / below (fun d => d.x) d % (dim d).x
    let q (d : Nat) : Nat := n % taps / below (fun d => d.k) d % (dim d).k
    let lin := ((List.range rank).map fun d => q d * below (fun d => d.k) d).sum
    let j (d : Nat) : Int := o d + q d * (dim d).dil - (dim d).pl
    let inside := ∀ d < rank, 0 ≤ j d ∧ j d < (dim d).src
    let at_ (d : Nat) : Int := if inside then j d else max 0 (min (j d) ((dim d).src - 1))
    let split (mode d : Nat) (i stride : Int) : Int × Int :=
      if p.mode = mode ∧ (dim d).sh ≠ 0 then (i % (dim d).sh * stride, i / (dim d).sh * p.ms.getD d 0) else (i * stride, 0)
    let total (f : Nat → Int × Int) : Int × Int :=
      (((List.range rank).map fun d => (f d).1).sum, ((List.range rank).map fun d => (f d).2).sum)
    let src := total fun d => split 5 d (at_ d) (dim d).ss
    let dst := total fun d => split 6 d (o d) (dim d).ds
    let goal := c.word 1 + BitVec.ofInt 64 (dst.1 + if p.mode = 3 then ((lin * p.eb : Nat) : Int) else 0)
    ∀ td, s.copyAt c goal p.eb true false dst.2 = .ok td → td.leaf &&& 0x300 = 0x300 →
    (p.mode ≠ 7 → inside ∨ p.pad = 2 → ∀ ts,
      s.copyAt c (c.word 0 + BitVec.ofInt 64 src.1) p.eb false false src.2 = .ok ts → ts.leaf &&& 0x100 = 0x100 →
      s.runFailed ts.key p.eb = false →
      ∃ t, s.copyMove c p n = .ok t ∧
        (∀ i < p.eb, t.byte (td.key + i) = s.byte (ts.key + i)) ∧
        ∀ k, ¬ (td.key ≤ k ∧ k < td.key + p.eb) → t.byte k = s.byte k) ∧
    (p.mode = 7 ∨ (¬ inside ∧ p.pad ≠ 2) → p.eb ∈ [1, 2, 4, 8, 16] →
      ∃ t, s.copyMove c p n = .ok t ∧
        (∀ i < p.eb, t.byte (td.key + i) =
          if p.mode = 7 ∨ p.pad = 1 then BitVec.ofNat 8 (p.value / 2 ^ (8 * (i % 4))) else 0) ∧
        ∀ k, ¬ (td.key ≤ k ∧ k < td.key + p.eb) → t.byte k = s.byte k)

/-- R98, R99, R184, R187: modes 1 and 2. Element k of a row of MX type `ty` is element k mod E of line k / E, its scale in
that line's sideband; a write of it keeps the other elements and their scales, and what lies beyond them is zero. Element k
of a BF16 or F16 row is the two bytes at its base plus 2k. In a tile, bit j of element (m, k) is bit k mod 8 of byte 256j +
8m + k / 8, its scale sideband byte (2m + k/32) mod 8 of line (2m + k/32) / 8; other bits stay. An element moves between the
row at W0 plus row times ss_1 and the tile at W1 by ds_0 and ds_1. -/
def Sys2Proof.Claims.copyTiles : Prop :=
  ∀ (s : State) (c : Cmd) (ty k : Nat), ty ∈ [3, 4, 5, 6, 7, 8, 9, 10] →
    (∀ (base : DWord) (tr : Trans), 5 ≤ ty → base.toNat % 128 = 0 →
      s.copyAt c (base + BitVec.ofNat 64 (128 * (k / mxLine ty))) 128 false true 0 = .ok tr → tr.leaf &&& 0x100 = 0x100 →
      s.lineFailed tr.key = false →
      s.rowRead c ty base k = .ok (natOfBytes (s.bytes tr.key 128) / 2 ^ (k % mxLine ty * mxWidth ty) % 2 ^ mxWidth ty,
        s.sideByte tr.key (k % mxLine ty / 32), s)) ∧
    (∀ (base : DWord) (tr : Trans) (code : Nat) (scale : Byte), 5 ≤ ty → base.toNat % 128 = 0 → code < 2 ^ mxWidth ty →
      s.copyAt c (base + BitVec.ofNat 64 (128 * (k / mxLine ty))) 128 true true 0 = .ok tr → tr.leaf &&& 0x300 = 0x300 →
      tr.key % 128 = 0 →
      let elem (u : State) (i : Nat) : Nat := natOfBytes (u.bytes tr.key 128) / 2 ^ (i * mxWidth ty) % 2 ^ mxWidth ty
      ∃ t, s.rowWrite c ty base k code scale = .ok t ∧ t = { s with
          mem := t.mem, side := t.side, stale := t.stale, staleSide := t.staleSide, failed := t.failed } ∧
        (∀ i < mxLine ty, elem t i = if i = k % mxLine ty then code else elem s i) ∧
        natOfBytes (t.bytes tr.key 128) / 2 ^ (mxLine ty * mxWidth ty) = 0 ∧
        (∀ i < 8, t.sideByte tr.key i = if i = k % mxLine ty / 32 then scale
          else if i < mxLine ty / 32 then s.sideByte tr.key i else 0) ∧
        ∀ a, ¬ (tr.key ≤ a ∧ a < tr.key + 128) → t.byte a = s.byte a) ∧
    (∀ (base : DWord) (tr : Trans), ty ≤ 4 → base.toNat % 128 = 0 →
      (s.copyAt c (base + BitVec.ofNat 64 (2 * k)) 2 false false 0 = .ok tr → tr.leaf &&& 0x100 = 0x100 →
        s.runFailed tr.key 2 = false → s.rowRead c ty base k = .ok (s.num tr.key 2, 0, s)) ∧
      (s.copyAt c (base + BitVec.ofNat 64 (2 * k)) 2 true false 0 = .ok tr → tr.leaf &&& 0x300 = 0x300 →
        ∀ (code : Nat) (scale : Byte), ∃ t, s.rowWrite c ty base k code scale = .ok t ∧
          t = { s with mem := t.mem, stale := t.stale, failed := t.failed } ∧ t.num tr.key 2 = code % 2 ^ 16 ∧
          ∀ a, ¬ (tr.key ≤ a ∧ a < tr.key + 2) → t.byte a = s.byte a)) ∧
    (∀ (key b m code : Nat) (scale : Byte), k < 64 → m < 32 → key % 128 = 0 → b % 128 = 0 →
      let w := matWidth (matCode ty)
      let base : DWord := 0x8000000000000000 + BitVec.ofNat 64 b
      let sb := 2 * m + k / 32
      b + 256 * w ≤ 2 ^ 32 → code < 2 ^ w →
      (∀ i < 256 * w, s.padAt c.cluster (b + i) = .ok (key + i) ∧ isPad (key + i) = true ∧ s.planeHeld (key + i) = false ∧
        s.broken c.core (key + i) = false ∧ s.lineFailed (key + i) = false) →
      (∃ x, s.tileRead c ty base m k = .ok (x, (if ty ≤ 4 then 0 else s.sideByte (key + 128 * (sb / 8)) (sb % 8)), s) ∧
        x < 2 ^ w ∧ ∀ j < w, x.testBit j = (s.byte (key + 256 * j + 8 * m + k / 8)).getLsbD (k % 8)) ∧
      ∃ t, s.tileWrite c ty base m k code scale = .ok t ∧ t = { s with
          mem := t.mem, side := t.side, stale := t.stale, staleSide := t.staleSide, failed := t.failed } ∧
        t.sideByte (key + 128 * (sb / 8)) (sb % 8) = scale ∧
        (∀ j < w, (t.byte (key + 256 * j + 8 * m + k / 8)).getLsbD (k % 8) = code.testBit j) ∧
        ∀ a i, i < 8 → ¬ ((∃ j < w, a = key + 256 * j + 8 * m + k / 8) ∧ i = k % 8) →
          (t.byte a).getLsbD i = (s.byte a).getLsbD i) ∧
    ∀ (p : Copy) (d0 d1 : Dim) (row x : Nat) (sc : Byte) (u : State), p.dims = [d0, d1] → d0.k = 1 → d1.k = 1 → k < d0.x →
      row < d1.x → p.sty = ty →
      let line (w : DWord) (stride : Int) : DWord := w + BitVec.ofInt 64 (row * stride)
      let tile (w : DWord) (s0 s1 : Int) : DWord := w + BitVec.ofInt 64 ((k / 64 : Nat) * s0 + (row / 32 : Nat) * s1)
      (p.mode = 1 → s.rowRead c ty (line (c.word 0) d1.ss) k = .ok (x, sc, u) →
        s.copyTile c p (row * d0.x + k) = u.tileWrite c ty (tile (c.word 1) d0.ds d1.ds) (row % 32) (k % 64) x sc) ∧
      (p.mode = 2 → s.tileRead c ty (tile (c.word 0) d0.ss d1.ss) (row % 32) (k % 64) = .ok (x, sc, u) →
        s.copyTile c p (row * d0.x + k) = u.rowWrite c ty (line (c.word 1) d1.ds) k x sc)

/-- R99, R106, R107, R116, R182: block n in mode 4: its 32 elements are converted with the present scale, or quantised
with one computed from them; the codes go to element 32n mod E of line W1 + 128 (32n / E), the scale to the block's
sideband byte, and the fold leaves the larger of the largest magnitude and the word at W2 + value. -/
def Sys2Proof.Claims.copyQuantises : Prop :=
  ∀ (s : State) (c : Cmd) (p : Copy) (d : Dim) (n amax : Nat) (xs : List (FVal × Word)) (tr : Trans),
    5 ≤ p.dty → p.dty ≤ 10 → p.mode = 4 → p.dims = [d] → d.k = 1 → 32 * n + 32 ≤ d.x → s.copyBlock c p n = .ok (xs, s) →
    let e := mxLine p.dty
    let w := mxWidth p.dty
    let word (i : Nat) : Word := rowWord c.gstate (32 * n + i)
    let r := if p.computed then requantise p.dty p.rnd word (xs.map (·.1))
      else (p.scale, keepBlock p.dty p.rnd p.sat p.scale word (xs.map (·.1)))
    s.copyAt c (c.word 1 + BitVec.ofNat 64 (128 * (32 * n / e))) 128 true true 0 = .ok tr → tr.leaf &&& 0x300 = 0x300 →
    tr.key % 128 = 0 →
    (∃ t, s.copyQuant c p n amax = .ok (t, xs.foldl (fun m x => max m (x.2 &&& 0x7FFFFFFF).toNat) amax) ∧
      t.sideByte tr.key (32 * n % e / 32) = BitVec.ofNat 8 r.1 ∧
      (∀ i < 4 * w, t.byte (tr.key + 32 * n % e * w / 8 + i) =
        BitVec.ofNat 8 (r.2.1.foldr (fun x acc => x + acc * 2 ^ w) 0 / 256 ^ i)) ∧
      (∀ k, ¬ (tr.key ≤ k ∧ k < tr.key + 128) → t.byte k = s.byte k)) ∧
    ∀ tw, p.value ≠ 0xFFFFFFFF → s.copyAt c (c.word 2 + BitVec.ofNat 64 p.value) 4 true false 0 = .ok tw →
      s.runFailed tw.key 4 = false → tw.leaf &&& 0x300 = 0x300 → amax < 2 ^ 32 →
      ∃ t, s.copyFold c p amax = .ok t ∧ t.num tw.key 4 = max amax (s.num tw.key 4) ∧
        ∀ k, ¬ (tw.key ≤ k ∧ k < tw.key + 4) → t.byte k = s.byte k

/-- R140, R163, R170, R173, R174, R177 to R184, R187: a copy command from its taking to its end, and what an element or a
block of each mode moves. -/
def Obligations.CopyCommandsRun : Prop :=
  Claims.copyRuns ∧ Claims.copyMoves ∧ Claims.copyTiles ∧ Claims.copyQuantises

/-! ### Queues (R150 to R161, R285 to R288, R407) -/

/-- R134: an object reached by an instruction: the loose bytes that the issuing core holds of its line are home. -/
def Sys2Proof.Claims.atLine (r : State) (w : Warp) (p : Trans) : State :=
  r.sendHome (ofCore w.core) (p.key / 128 * 128) (p.key / 128 * 128 + 128)

/-- R138, R397, R398: an object at a home that can be reached now, with the bits to be set in its leaf. -/
def Sys2Proof.Claims.inReach (s : State) (w : Warp) (p : Trans) (write : Bool) : Prop :=
  s.planeHeld p.key = false ∧ s.leafHeld p write = false ∧ s.broken w.core p.key = false

/-- R150, R151, R159, R285, R288, Table 6.1: with no slot reserved and nothing before it at the home, q.init writes a control
block: ring, shape with broken clear, empty, every slot free, magic and check; else the warp waits in front of the home. A
shape that Table 6.2 refuses is an illegal operand and a misaligned block a misaligned access, in that order (the order is
the model's reading, log 34). q.info copies bytes 14 to 31 as they stand to three k registers. Either first sends the
core's loose bytes of the block's line home. Where no position executes nothing happens. -/
def Obligations.QueueInitAndInfo : Prop :=
  (∀ (f : FmtE) (s : State) (w : Warp),
    let idle : Warp := { w with wait := none }
    let r := s.readied w
    let x := f.x.toNat
    (IssuesEng s w f.dc.toNat [.k x, .k f.y.toNat, .k f.z.toNat] →
      let a := w.kr x
      let pad := a.getLsbD 63
      let base := w.kr f.y.toNat
      let shape := w.kr f.z.toNat &&& 0xFFEFFFFFFFFFFFFF
      let ok := qinitOk pad base shape
      (w.once none = false → ∃ t, exec (.qInit f) s = .next t ∧ Retires s s t idle) ∧
      (w.once none = true → ok = false →
        exec (.qInit f) s = .next (r.takeTrap s.cur (Trap.of 0x02 (firstWord (.qInit f))))) ∧
      (w.once none = true → ok = true → a.toNat % 64 ≠ 0 →
        exec (.qInit f) s = .next (r.takeTrap s.cur { Trap.of 0x05 a with write := true })) ∧
      (w.once none = true → ok = true → a.toNat % 64 = 0 → ∀ p, s.xany (s.agentOf w) a .write = .ok p →
        Claims.inReach s w p true →
        let words := [if pad then base &&& 0xFFFFFFFF else base, shape]
        let u := (Claims.atLine r w p).touch p true
        (u.homeIdle p.key = true → (s.home p.key).busy = [] → ∃ t, exec (.qInit f) s = .next t ∧
          Retires s (u.qinit p.key words) t idle) ∧
        (u.homeIdle p.key = false ∨ (s.home p.key).busy ≠ [] → ∃ t op h, exec (.qInit f) s = .next t ∧
          t.warp s.cur = some { w with wait := some (.queue s.nextId) } ∧ (∀ j, j ≠ s.cur → t.warp j = s.warp j) ∧
          t.qops.find s.nextId = some op ∧ op.init = words ∧ op.agent = .warp s.cur w.slotNo (s.gen w.slotNo) ∧
          t.home p.key = h ∧ h = { s.home p.key with line := (s.home p.key).line ++ [s.nextId], pin := true }))) ∧
    (IssuesEng s w f.dc.toNat [.k f.y.toNat, .kGroupDst x 3] →
      (w.once none = false → ∃ t, exec (.qInfo f) s = .next t ∧ Retires s s t idle) ∧
      (w.once none = true → (w.kr f.y.toNat).toNat % 64 = 0 → ∀ p, s.xany (s.agentOf w) (w.kr f.y.toNat) .read = .ok p →
        Claims.inReach s w p false →
        let u := Claims.atLine r w p
        ∃ t w1, exec (.qInfo f) s = .next t ∧ Retires s (u.touch p false) t w1 ∧ w1 = { idle with k := w1.k } ∧
          ∀ n, w1.kr n = if n = x then BitVec.ofNat 64 (u.num (p.key + 16) 8)
            else if n = x + 1 then BitVec.ofNat 64 (u.num (p.key + 24) 8)
            else if n = x + 2 then BitVec.ofNat 64 (u.num (p.key + 14) 2) else w.kr n))) ∧
  ∀ (s : State) (k : Nat) (base shape : DWord),
    let u := s.qinit k [base, shape]
    let cap := (shape.extractLsb' 0 32).toNat
    u.qblk k = ⟨base.toNat, cap, (shape.extractLsb' 32 16).toNat, (shape.extractLsb' 48 16).toNat, 0, 0, cap, 0⟩ ∧
      u.num (k + 48) 2 = 0x51E0 ∧ u.num (k + 50) 2 = onesSum (u.bytes k 16) ∧ u.num (k + 52) 12 = 0 ∧
      ∀ a, ¬ (k ≤ a ∧ a < k + 64) → u.byte a = s.byte a

/-- R75, R77, R137, R138, R152, R153, R157, R158, R280, R286, R287: q.enq and q.deq, with room for their replay record
(R376), go to the home of the block once nothing is to be performed there first, a waiting q.init among it (log 34, DEDUCED),
q.enq as a release at the block's scope; the home answers, and its trap is taken, in the step of issue (log 20, DESIGN
CHOICE). Reserved or taken there, the warp goes on, a dequeue leaves its span pending, a try form its status register, and
the counter counts the operation; refused there, they trap with the home's cause; not served, the try form writes status 1
and goes on, and the blocking form joins the list and waits. A misaligned block is trapped first. Where no position executes
nothing happens but status 0 of the thread try form. -/
def Obligations.QueueTransfers : Prop :=
  ∀ (f : FmtE) (enq : Bool) (s : State) (w : Warp), IssuesEng s w f.dc.toNat (spanRefs f enq w) →
    let i : Instr := if enq then .qEnq f else .qDeq f
    let thr := f.sub.getLsbD 0
    let try_ := f.sub.getLsbD 1
    let a := w.kr f.x.toNat
    let z := f.z.toNat
    let y := f.y.toNat
    let n := w.spanLen thr y
    let idle : Warp := { w with wait := none }
    let r := s.readied w
    let lanes := if thr then positions (w.exec none) else if w.once none then [0] else []
    let op := { w.qop s s.cur f i enq thr lanes (n * if thr then 4 else 8)
      (if enq then lanes.map (w.spanBytes thr y) else []) with status := if try_ then some z else none }
    s.recordRoom s.cur op.recordSize = true →
    (lanes = [] → ∃ t, exec i s = .next t ∧
      Retires s s t (if thr = true ∧ try_ = true then { idle with k := Store.set 0 w.k z 0 } else idle)) ∧
    (lanes ≠ [] → a.toNat % 64 ≠ 0 → exec i s = .next (r.takeTrap s.cur { Trap.of 0x05 a with write := true })) ∧
    (lanes ≠ [] → a.toNat % 64 = 0 → ∀ p, s.xany (s.agentOf w) a .write = .ok p → Claims.inReach s w p true →
      let r0 := Claims.atLine r w p
      let scope := r0.num (p.key + 14) 2 % 8
      (r0.homeIdle p.key = false → exec i s = .next r0) ∧
      (r0.homeIdle p.key = true → (enq = true → MayRelease r0 w scope) →
      let r1 := if enq then r0.released w scope else r0
      let home := r1.tick1.qserve p.key s.nextId op (r1.qempty p.key enq)
      (∀ c v u, home = .refuse c v u →
        exec i s = .next (u.takeTrap s.cur { Trap.of c.cause v with write := enq, entry := c.entry })) ∧
      (home = .held → exec i s = .next r1) ∧
      (home = .wait → try_ = true → ∃ t, exec i s = .next t ∧ Retires s r1 t { idle with k := Store.set 0 w.k z 1 }) ∧
      (home = .wait → try_ = false → ∃ t, exec i s = .next t ∧
        t = { (r1.tick1.touch p true).qjoin p.key s.nextId op with warps := t.warps } ∧
        t.warp s.cur = some { w with wait := some (.queue s.nextId) } ∧ ∀ j, j ≠ s.cur → t.warp j = s.warp j) ∧
      (∀ u, home = .served u → ∃ t w1, exec i s = .next t ∧ Retires s (u.touch p true) t w1 ∧
        w1 = { idle with
          d := Store.set 0 w.d f.dc.toNat (w.dn f.dc.toNat + 1), pendV := w1.pendV, pendE := w1.pendE, pendK := w1.pendK } ∧
        ∀ b < 128, w1.pendE.getLsbD b = w.pendE.getLsbD b ∧
          w1.pendV.getLsbD b = (w.pendV.getLsbD b || (!enq && thr && decide (y ≤ b ∧ b < y + n))) ∧
          w1.pendK.getLsbD b =
            (w.pendK.getLsbD b || (!enq && !thr && decide (y ≤ b ∧ b < y + n)) || (try_ && b == z)))))

/-- R151, R153, R385, Table 6.2: when the checks of a control block pass: its magic and its check match, the capacity is a
power of two up to 2^24, the element size a multiple of 8 from 8 to 256, the ring base 8-byte aligned, the scope not 7, the
reserved bits and bytes zero, no more elements visible than the capacity, and free, visible and reserved slots add up to
it; broken is clear, and flag [3] is set for a thread-level form. A block of which a byte returns an uncorrectable error fails too. A block that
fails only in one of the last two is refused without setting broken; one that fails any other row has broken set. -/
def Sys2Proof.Claims.queueCheck : Prop :=
  ∀ (s : State) (k : Nat) (thr : Bool),
    let q := s.qblk k
    let sound := s.runFailed k 64 = false ∧ s.num (k + 48) 2 = 0x51E0 ∧ s.num (k + 50) 2 = onesSum (s.bytes k 16) ∧
      (∃ e ≤ 24, q.cap = 2 ^ e) ∧ (8 ≤ q.size ∧ q.size ≤ 256 ∧ q.size % 8 = 0) ∧ q.base % 8 = 0 ∧
      (q.flags % 8 ≠ 7 ∧ q.flags / 32 = 0 ∧ s.num (k + 52) 12 = 0) ∧ (q.tail + 2 ^ 32 - q.head) % 2 ^ 32 ≤ q.cap ∧
      q.free + (q.tail + 2 ^ 32 - q.head) % 2 ^ 32 + q.resv = q.cap
    let open_ := q.flags / 16 % 2 = 0 ∧ (thr = true → q.flags / 8 % 2 = 1)
    (s.qcheck k thr = none ↔ sound ∧ open_) ∧ (s.qcheck k thr = some false ↔ sound ∧ ¬ open_) ∧
      (s.qcheck k thr = some true ↔ ¬ sound)

/-- R153 to R158, R287, R397, R407: what the home answers a request. A block that fails a check is refused (0x0B) and marked
broken where the table says so; too many threads for its capacity, or a span shorter than its element, is an illegal
operand; a slot that does not translate is refused with its cause, the entry of a malformed walk, and the address of the lowest such slot (log 34: slots
before room, for a request that arrives). Slots that cannot be reached now hold the request. Else, with an earlier waiter
or without room, the operation is not served; with room, an enqueue takes n free slots and a dequeue n visible elements,
the head moving past them; both are counted as reserved and held at the home with their slots. -/
def Sys2Proof.Claims.queueServes : Prop :=
  ∀ (s : State) (k id : Nat) (op : QOp) (may : Bool),
    let q := s.qblk k
    let n := op.threads.length
    let first := if op.enq then q.tail + s.unpublished (s.home k) else q.head
    let counters := (List.range n).map fun i => (first + i) % 2 ^ 32
    (∀ b, s.qcheck k op.thr = some b → s.qserve k id op may = .refuse ⟨0x0B, none⟩ op.addr (if b then s.qbreak k else s)) ∧
    (s.qcheck k op.thr = none →
      ((op.thr = true ∧ q.cap < n) ∨ op.span < q.size →
        s.qserve k id op may = .refuse ⟨0x02, none⟩ (op.word.zeroExtend 64) s) ∧
      (¬ (op.thr = true ∧ q.cap < n) → q.size ≤ op.span →
        (∀ a e, s.qslots k op q counters = .error (a, e) →
          s.qserve k id op may = if e.cause = heldCause then .held else .refuse e a s) ∧
        ∀ l, s.qslots k op q counters = .ok l →
          ((∃ x ∈ l, ∃ t ∈ x, s.planeHeld t.key = true ∨ s.leafHeld t op.enq = true) → s.qserve k id op may = .held) ∧
          ((∀ x ∈ l, ∀ t ∈ x, s.planeHeld t.key = false ∧ s.leafHeld t op.enq = false) →
            (may = false ∨ (if op.enq then q.free else q.visible) < n → s.qserve k id op may = .wait) ∧
            (may = true → n ≤ (if op.enq then q.free else q.visible) → ∃ u, s.qserve k id op may = .served u ∧
              (op.enq = true → u.num (k + 24) 4 = q.free - n) ∧
              (op.enq = false → u.num (k + 16) 4 = (q.head + n) % 2 ^ 32) ∧
              u.num (k + 28) 4 = q.resv + n ∧
              u.qops.find id =
                some { op with counters := counters, slots := l.map fun x => x.map fun t => (t.key, t.ms) } ∧
              u.home k = { s.home k with busy := (s.home k).busy ++ [id], pin := true } ∧
              u = { s with mem := u.mem, stale := u.stale, failed := u.failed, tlb := u.tlb, l1 := u.l1, qops := u.qops, homes := u.homes }))))

/-- R151, R153 to R158, R407: the checks of a control block and what its home answers. -/
def Obligations.QueueHomesServe : Prop := Claims.queueCheck ∧ Claims.queueServes

/-- R152, R155, R156, Table 6.2: a block that passes every check still passes them after an operation is reserved or
taken, after an element is published and after one is delivered, and free, visible and reserved slots still add up to the
capacity, where the slots lie outside the block, their leaves already hold A and D, and no L1 holds loose bytes of the
block. -/
def Obligations.QueuesStaySound : Prop :=
  ∀ (s : State) (k : Nat) (thr : Bool), s.qcheck k thr = none →
    let sound (u : State) : Prop := u.qcheck k thr = none ∧
      (u.qblk k).free + (u.qblk k).visible + (u.qblk k).resv = (s.qblk k).cap
    (∀ id op u, s.qserve k id op true = .served u → s.loose (fun _ => true) k (k + 64) = [] →
      (∀ c l, s.qslots k op (s.qblk k) c = .ok l → ∀ x ∈ l, ∀ t ∈ x, t.leaf &&& 0x300 = 0x300) → sound u) ∧
    (∀ id op u, s.qfirst k true = some (id, op) → 1 ≤ (s.qblk k).resv →
      (∀ p ∈ op.slots.headD [], p.1 + 8 ≤ k ∨ k + 64 ≤ p.1) → exec (.queuePublish k id) s = .next u → sound u) ∧
    (∀ id op u, s.qfirst k false = some (id, op) → 1 ≤ (s.qblk k).resv → exec (.queueDeliver k id) s = .next u → sound u)

/-- R77, R155, R156, R264, R280, R286: where its slot can be reached, QUEUE_PUBLISH writes the next element of the earliest
reserved enqueue into its slot and moves the tail past it, and QUEUE_DELIVER writes the next element of the earliest taken
dequeue into the registers of its destination and frees its slot; from a slot of which a byte returns an uncorrectable
error, or which lies beyond a failed link, the element is zeros and its registers are marked (log 40, DEDUCED). Where a failed
link keeps bytes of an enqueued element from their slot, which then keeps its own, the warp has a failed store at the address of
the first of them (R398; log 5). An operation
whose last element is done leaves the home: every pending bit of its span clears, a try form's status register is written
0, and its counter share is released. Nothing else changes. -/
def Sys2Proof.Claims.queueMoves : Prop :=
  ∀ (s : State) (k id j : Nat) (op : QOp) (w : Warp), s.qwarp op = some (j, w) → s.slotHeld op = false →
    let q := s.qblk k
    let i := op.threads.length - op.counters.length
    let last := op.counters.length ≤ 1
    let slot := op.slots.headD []
    let next : QOp := { op with counters := op.counters.drop 1, slots := op.slots.drop 1 }
    let gone : Table QHome := s.homes.put k { s.home k with busy := (s.home k).busy.filter (· ≠ id) }
    (s.qfirst k true = some (id, op) → op.enq = true →
      let elem := (op.data.getD (op.data.length - op.counters.length) []).take q.size
      ∃ t : State, ((∀ p ∈ slot, s.slotCut k p.1 = false) → exec (.queuePublish k id) s = .next t) ∧
      (∀ l1 p l2, slot = l1 ++ p :: l2 → (∀ x ∈ l1, s.slotCut k x.1 = false) → s.slotCut k p.1 = true →
        ∃ y, t.warp j = some y ∧ exec (.queuePublish k id) s = .next (t.storeFail j y none
          (q.slot (isPad k) (op.counters.headD 0) + BitVec.ofNat 64 (8 * l1.length)))) ∧
      t.num (k + 20) 4 = (q.tail + 1) % 2 ^ 32 ∧ t.num (k + 28) 4 = q.resv - 1 ∧
      ((∀ p ∈ slot, p.1 + 8 ≤ k ∨ k + 64 ≤ p.1) → (slot.Pairwise fun x y => x.1 + 8 ≤ y.1 ∨ y.1 + 8 ≤ x.1) →
        elem.length = 8 * slot.length → ∀ i a m, slot[i]? = some (a, m) → ∀ j < 8,
          t.byte (a + j) = if s.slotCut k a then s.byte (a + j) else elem.getD (8 * i + j) 0) ∧
      (∀ a, (∀ p ∈ slot, ¬ (p.1 ≤ a ∧ a < p.1 + 8)) → ¬ (k + 20 ≤ a ∧ a < k + 24) → ¬ (k + 28 ≤ a ∧ a < k + 32) →
        t.byte a = s.byte a) ∧
      t = { s with mem := t.mem, stale := t.stale, failed := t.failed, qops := t.qops, homes := t.homes, warps := t.warps } ∧
      (¬ last → t.warps = s.warps ∧ t.homes = s.homes ∧ t.qops = s.qops.put id next) ∧
      (last → t.qops = s.qops.erase id ∧ t.homes = gone ∧ ∃ w1, t.warps = s.warps.put j w1 ∧
        w1 = { w with k := w1.k, pendK := w1.pendK, d := w1.d } ∧
        (∀ r, w1.kr r = if op.status = some r then 0 else w.kr r) ∧
        (∀ b < 128, w1.pendK.getLsbD b = (w.pendK.getLsbD b && !decide (op.status = some b))) ∧
        ∀ c, w1.dn c = if op.dc = some c then w.dn c - 1 else w.dn c)) ∧
    (s.qfirst k false = some (id, op) → op.enq = false → op.threads.getD i 0 < 128 →
      let fails : Bool := slot.any fun p => s.runFailed p.1 8 || s.slotCut k p.1
      let elem := if fails then List.replicate q.size 0 else (slot.flatMap fun p => s.bytes p.1 8).take q.size
      let span := op.span / if op.thr then 4 else 8
      let landed (r : Nat) (unit : Nat) : Prop := op.dst ≤ r ∧ r < op.dst + elem.length / unit
      ∃ t w1, exec (.queueDeliver k id) s = .next t ∧ t.warps = s.warps.put j w1 ∧
        t.num (k + 24) 4 = (q.free + 1) % 2 ^ 32 ∧ t.num (k + 28) 4 = q.resv - 1 ∧
        (∀ a, ¬ (k + 24 ≤ a ∧ a < k + 32) → t.byte a = s.byte a) ∧
        t = { s with mem := t.mem, failed := t.failed, qops := t.qops, homes := t.homes, warps := t.warps } ∧
        w1 = { w with v := w1.v, k := w1.k, d := w1.d, pendV := w1.pendV, pendK := w1.pendK
                      markV := w1.markV, markK := w1.markK, markAddr := w1.markAddr } ∧
        (∀ r, ∀ p < 128, w1.vr r p = if op.thr = true ∧ landed r 4 ∧ p = op.threads.getD i 0 then
            BitVec.ofNat 32 (natOfBytes ((elem.drop (4 * (r - op.dst))).take 4)) else w.vr r p) ∧
        (∀ r, w1.kr r = if last ∧ op.status = some r then 0 else if op.thr = false ∧ landed r 8 then
            BitVec.ofNat 64 (natOfBytes ((elem.drop (8 * (r - op.dst))).take 8)) else w.kr r) ∧
        (fails = false → w1.markV = w.markV ∧ w1.markK = w.markK ∧ w1.markAddr = w.markAddr) ∧
        (fails = true → ∀ r < 128,
          (op.thr = true → landed r 4 → w1.marked 0 r = true) ∧ (op.thr = false → landed r 8 → w1.marked 2 r = true)) ∧
        (¬ last → w1.d = w.d ∧ w1.pendV = w.pendV ∧ w1.pendK = w.pendK ∧ t.homes = s.homes ∧
          t.qops = s.qops.put id { next with data := op.data ++ [elem] }) ∧
        (last → t.qops = s.qops.erase id ∧ t.homes = gone ∧
          (∀ c, w1.dn c = if op.dc = some c then w.dn c - 1 else w.dn c) ∧
          ∀ b < 128, w1.pendV.getLsbD b = (w.pendV.getLsbD b && !(op.thr && decide (op.dst ≤ b ∧ b < op.dst + span))) ∧
            w1.pendK.getLsbD b = (w.pendK.getLsbD b && !(!op.thr && decide (op.dst ≤ b ∧ b < op.dst + span))
              && !decide (op.status = some b))))

/-- R83, R155, R156: the returns of a warp that is gone are dropped and counted: each element of its dequeue, and the end of
its enqueue; that these are the units of the count is log 55 (DESIGN CHOICE). -/
def Sys2Proof.Claims.queueDrops : Prop :=
  ∀ (s : State) (k id j slot gen : Nat) (op : QOp), op.agent = .warp j slot gen → s.qwarp op = none → s.slotHeld op = false →
    (s.qfirst k false = some (id, op) → op.enq = false →
      ∃ t, exec (.queueDeliver k id) s = .next t ∧ Claims.dropsCounted s t slot 1 ∧ t.warps = s.warps) ∧
    (s.qfirst k true = some (id, op) → op.enq = true →
      ∃ t, exec (.queuePublish k id) s = .next t ∧ t.warps = s.warps ∧
        Claims.dropsCounted s t slot (if op.counters.length ≤ 1 then 1 else 0))

/-- R152, R153, R157, R158, R159, R397, R407: at a home that can be reached, QUEUE_WAITER_SERVE puts the oldest waiter of a
direction to its home again: served, it leaves the list and its warp goes on; refused, it leaves the list and its warp takes
the trap of the refusal; else nothing changes. A waiter without room is not refused for a slot. QUEUE_INIT_SERVE performs
what stands first in front of the home (log 34, DEDUCED) once no waiter is to be served first: a q.init or a qdrain, once no slot
is reserved or taken, writes its block or drains it (R320) and its warp goes on; a request is answered as one that has just reached the home. An
operation that leaves is out of the home's lists, and the block counts the waiters that stay. -/
def Sys2Proof.Claims.queueWaiters : Prop :=
  (∀ (s : State) (k id : Nat) (op : QOp),
    let q := s.qblk k
    let room := if op.enq then q.free else q.visible
    (op.threads.length ≤ room → s.qperform k id op true true = s.qserve k id op true) ∧
    (s.qcheck k op.thr = none → ¬ (op.thr = true ∧ q.cap < op.threads.length) → q.size ≤ op.span →
      room < op.threads.length → s.qperform k id op true true = .wait) ∧
    let v := s.qleave k id
    let h := s.home k
    v.qops = s.qops.erase id ∧ v.home k = { h with
        enqW := h.enqW.filter (· ≠ id), deqW := h.deqW.filter (· ≠ id), line := h.line.filter (· ≠ id) } ∧
      v.num (k + 32) 4 = (h.enqW.filter (· ≠ id)).length % 2 ^ 32 ∧
      v.num (k + 36) 4 = (h.deqW.filter (· ≠ id)).length % 2 ^ 32 ∧
      ∀ a, ¬ (k + 32 ≤ a ∧ a < k + 40) → v.byte a = s.byte a) ∧
  ∀ (s : State) (k id : Nat) (op : QOp) (j slot gen : Nat) (w : Warp), s.qops.find id = some op →
    op.agent = .warp j slot gen → s.warp j = some w → w.wait = some (.queue id) → s.planeHeld k = false →
    let traps (u : State) (c : Fail) (v : DWord) : State :=
      u.takeTrap j { Trap.of c.cause v with write := op.enq, entry := c.entry }
    (∀ enq rest, (if enq then (s.home k).enqW else (s.home k).deqW) = id :: rest →
      let answer := s.qperform k id op true true
      (answer = .wait ∨ answer = .held → exec (.queueWaiterServe k enq) s = .next s) ∧
      (∀ u, answer = .served u →
        exec (.queueWaiterServe k enq) s = .next (((u.unlist k id).putWarp j (w.served op)).advance j)) ∧
      (∀ c v u, answer = .refuse c v u → exec (.queueWaiterServe k enq) s = .next (traps (u.qleave k id) c v))) ∧
    (∀ rest, (s.home k).line = id :: rest → s.blockHeld op = false → s.qripe k (s.home k).enqW = false →
      s.qripe k (s.home k).deqW = false →
      ((s.home k).busy = [] → w.slotNo = slot → s.gen slot = gen → w.killed = false → w.swapped = false →
        (op.init ≠ [] → op.drain = none → exec (.queueInitServe k) s = .next (((s.qleave k id).qinit k op.init).advance j)) ∧
        ∀ mode, op.drain = some mode → exec (.queueInitServe k) s = .next (((s.qleave k id).drainAt k mode).advance j)) ∧
      ((s.home k).busy ≠ [] → op.init ≠ [] ∨ op.drain.isSome = true → exec (.queueInitServe k) s = .next s) ∧
      (op.init = [] → op.drain = none →
        let s1 := s.qleave k id
        let answer := s1.qserve k id op (s1.qempty k op.enq)
        (answer = .held → exec (.queueInitServe k) s = .next s) ∧
        (answer = .wait → exec (.queueInitServe k) s = .next ((s1.touchBlock op).qjoin k id op)) ∧
        (∀ u, answer = .served u →
          exec (.queueInitServe k) s = .next (((u.touchBlock op).putWarp j (w.served op)).advance j)) ∧
        ∀ c v u, answer = .refuse c v u → exec (.queueInitServe k) s = .next (traps u c v)))

/-- R83, R152 to R159, R264, R320, R398: what the home of a queue does after an operation is reserved, taken or listed. The readings
and choices of the model in it are those of logs 34, 40 and 55: the count of a dropped return is the model's choice. -/
def Obligations.QueueHomesProgress : Prop := Claims.queueMoves ∧ Claims.queueDrops ∧ Claims.queueWaiters

/-! ### Barrier objects (R162 to R167, R289 to R292) -/

/-- R163, R164, Tables 6.3, 6.4: an operation on an object that passes its checks. An arrival takes its count from the
pending arrivals, to 0 with the overrun flag where it exceeds them; bytes are added to the pending bytes, which must stay
in the signed 32-bit range; when both are zero the phase steps modulo 16 and the arrivals are expected anew. Everything
else of the object stays and it passes its checks again. -/
def Sys2Proof.Claims.barrierStep : Prop :=
  ∀ (x : BitVec 128) (op : BarOp), barOk x = true →
    let expected := (x.extractLsb' 0 20).toNat
    let arr := (x.extractLsb' 20 20).toNat
    let ovr : Bool := match op with | .arrive c => decide (arr < c) | .bytes _ => false
    let arr1 := match op with | .arrive c => arr - c | .bytes _ => arr
    let bytes1 : Int := match op with | .arrive _ => (x.extractLsb' 48 32).toInt | .bytes d => (x.extractLsb' 48 32).toInt + d
    (bytes1 < -2 ^ 31 ∨ 2 ^ 31 ≤ bytes1 → barApply x op = none) ∧
    (-2 ^ 31 ≤ bytes1 → bytes1 < 2 ^ 31 → ∃ y, barApply x op = some (y, ovr, decide (arr1 = 0 ∧ bytes1 = 0)) ∧
      barOk y = true ∧ (y.extractLsb' 0 20).toNat = expected ∧
      (y.extractLsb' 20 20).toNat = (if arr1 = 0 ∧ bytes1 = 0 then expected else arr1) ∧
      barPhase y = (if arr1 = 0 ∧ bytes1 = 0 then (barPhase x + 1) % 16 else barPhase x) ∧
      y.getLsbD 44 = (x.getLsbD 44 || ovr) ∧ (y.extractLsb' 48 32).toInt = bytes1 ∧
      y.extractLsb' 45 3 = x.extractLsb' 45 3 ∧ y.extractLsb' 80 48 = x.extractLsb' 80 48)

/-- R134, R137, R162, R164, R289, R290, R385, R398: bar.init writes a fresh object, its words checked first and its address
next (the order is the model's reading, log 34); bar.arv, bar.exp and bar.cmp are releases at the object's scope, where
nothing holds up or fails them, and then one operation at its home: the object is replaced and, where its phase completes,
its waiters are woken; an object that fails its checks, that lies beyond a failed link, or bytes out of range, is the
barrier-corrupt trap (0x0D), and an arrival beyond the count the overrun trap (0x0C) after its effect; the home is reached,
and its trap taken, in the step of issue (log 20, the model's choice). Each first sends the core's loose bytes of the object's line home. -/
def Obligations.BarrierOperations : Prop :=
  ∀ (f : FmtE) (s : State) (w : Warp), IssuesEng s w f.dc.toNat [.k f.x.toNat, .k f.y.toNat] →
    let a := w.kr f.x.toNat
    let v := w.kr f.y.toNat
    let r := s.readied w
    let idle : Warp := { w with wait := none }
    let bad := v.extractLsb' 23 41 ≠ 0 ∨ v.extractLsb' 0 20 = 0 ∨ v.extractLsb' 20 3 = 7
    (w.once none = false → ∀ i ∈ [Instr.barInit f, .barArv f, .barExp f, .barCmp f],
      ∃ t, exec i s = .next t ∧ Retires s s t idle) ∧
    (w.once none = true → bad → exec (.barInit f) s = .next (r.takeTrap s.cur (Trap.of 0x02 (firstWord (.barInit f))))) ∧
    (w.once none = true → a.toNat % 16 ≠ 0 →
      (¬ bad → exec (.barInit f) s = .next (r.takeTrap s.cur { Trap.of 0x05 a with write := true })) ∧
      ∀ i ∈ [Instr.barArv f, .barExp f, .barCmp f],
        exec i s = .next (r.takeTrap s.cur { Trap.of 0x05 a with write := true })) ∧
    (w.once none = true → a.toNat % 16 = 0 → ∀ p, s.xany (s.agentOf w) a .write = .ok p → s.planeHeld p.key = false →
      s.leafHeld p true = false →
      let r0 := Claims.atLine r w p
      let corrupt := { Trap.of 0x0D a with write := true }
      (s.broken w.core p.key = true → ∀ i ∈ [Instr.barArv f, .barExp f, .barCmp f],
        exec i s = .next (r0.takeTrap s.cur corrupt)) ∧
      (s.broken w.core p.key = false →
        (¬ bad → ∃ t, exec (.barInit f) s = .next t ∧
          Retires s ((r0.touch p true).wrAt p (bytesOfNat 16 (barFresh v).toNat)) t idle ∧ t.barObj p.key = barFresh v) ∧
        let scope := ((r0.barObj p.key).extractLsb' 45 3).toNat
        MayRelease r0 w scope →
        let r1 := r0.released w scope
        let x := r1.barObj p.key
        ∀ c ∈ [(Instr.barArv f, BarOp.arrive v.toNat), (.barExp f, .bytes (v.extractLsb' 0 32).toInt),
            (.barCmp f, .bytes (-(v.extractLsb' 0 32).toInt))],
          (r1.runFailed p.key 16 = true ∨ barOk x = false →
            exec c.1 s = .next ((r1.barSpoil p.key).takeTrap s.cur corrupt)) ∧
          (r1.runFailed p.key 16 = false → barOk x = true →
            (barApply x c.2 = none → exec c.1 s = .next (r1.takeTrap s.cur corrupt)) ∧
            ∀ y ovr fin, barApply x c.2 = some (y, ovr, fin) →
              let u := (r1.touch p true).wrAt p (bytesOfNat 16 y.toNat)
              let u1 := if fin then u.barWake p.key (barPhase y) else u
              exec c.1 s = .next (if ovr then u1.takeTrap s.cur (Trap.of 0x0C a) else u1.advance s.cur))))

/-- R165, R351, R395: when a phase of an object completes, every warp in its waiter list goes on with "changed" and the phase
in its register, and another module is answered so, their places in the list gone; a launch in the list whose wait has not
ended is marked with the phase. A failing object marks such a launch as one to reject. -/
def Sys2Proof.Claims.barrierWakes : Prop :=
  ∀ (s : State) (k phase n : Nat) (b : BWait), s.barWaits.find n = some b → b.key = k →
    Store.wf none s.barWaits = true →
    let t := s.barWake k phase
    (∀ j x, b.who = .warp j → s.warp j = some x → (∀ m c, s.barWaits.find m = some c → c.who = .warp j → m = n) →
      ∃ y, t.warp j = some y ∧ y.wait = none ∧ y.kr b.dst = BitVec.ofNat 64 (phase + 16) ∧ t.barWaits.find n = none) ∧
    (∀ m ident, b.who = .module m ident →
      t.barWaits.find n = none ∧ .remote m ident (some (bytesOfNat 8 (phase + 16))) ∈ t.hostOut) ∧
    ∀ l, b.who = .launch l → t.barWaits.find n = some { b with woken := if b.woken.isSome then b.woken else some phase } ∧
      (s.barSpoil k).barWaits.find n = some { b with woken := if b.woken.isSome then b.woken else some 16 }

/-- R163 to R165, R351: what one operation does to a barrier object, and to those who wait at it when its phase completes. -/
def Obligations.BarrierObjectsStep : Prop := Claims.barrierStep ∧ Claims.barrierWakes

/-- R134, R162, R165, R291, R385: bar.test copies an object whole to two k registers; bar.wait returns "changed" with the
phase where it differs from the one asked for, "timed out" with the phase where the bound is 0, and else, with room for its
replay record (R376), waits in the object's list until the bound, counted from this clock. An object that fails its checks
is the barrier-corrupt trap. Each first sends the core's loose bytes of the object's line home. At BAR_WAIT_TIMEOUT a wait
whose deadline has passed goes on with the phase as it stands. -/
def Obligations.BarrierWaits : Prop :=
  (∀ (f : FmtE) (bound : BitVec 32) (s : State) (w : Warp) (p : Trans),
    let a := w.kr f.y.toNat
    let r := Claims.atLine (s.readied w) w p
    let idle : Warp := { w with wait := none }
    let x := f.x.toNat
    let o := r.barObj p.key
    w.once none = true → a.toNat % 16 = 0 → s.xany (s.agentOf w) a .read = .ok p → Claims.inReach s w p false →
    (x % 2 = 0 → IssuesEng s w f.dc.toNat [.k f.y.toNat, .kGroupDst x 2] →
      (r.runFailed p.key 16 = true ∨ barOk o = false →
        exec (.barTest f) s = .next ((r.barSpoil p.key).takeTrap s.cur (Trap.of 0x0D a))) ∧
      (r.runFailed p.key 16 = false → barOk o = true → ∃ t w1, exec (.barTest f) s = .next t ∧
        Retires s (r.touch p false) t w1 ∧ w1 = { idle with k := w1.k } ∧
        ∀ n, w1.kr n = if n = x then o.extractLsb' 0 64 else if n = x + 1 then o.extractLsb' 64 64 else w.kr n)) ∧
    (IssuesEng s w f.dc.toNat [.k f.y.toNat, .k f.z.toNat, .kDst x] →
      let v := (w.kr f.z.toNat).toNat % 16
      (r.runFailed p.key 16 = true ∨ barOk o = false →
        exec (.barWait f bound) s = .next ((r.barSpoil p.key).takeTrap s.cur (Trap.of 0x0D a))) ∧
      (r.runFailed p.key 16 = false → barOk o = true →
        (barPhase o ≠ v → ∃ t, exec (.barWait f bound) s = .next t ∧ Retires s (r.touch p false) t
          { idle with k := Store.set 0 w.k x (BitVec.ofNat 64 (barPhase o + 16)) }) ∧
        (barPhase o = v → bound = 0 → ∃ t, exec (.barWait f bound) s = .next t ∧ Retires s (r.touch p false) t
          { idle with k := Store.set 0 w.k x (BitVec.ofNat 64 (barPhase o)) }) ∧
        (barPhase o = v → bound ≠ 0 → s.recordRoom s.cur 48 = true → ∃ t, exec (.barWait f bound) s = .next t ∧
          t = { r.touch p false with warps := t.warps, barWaits := t.barWaits, nextId := s.nextId + 1 } ∧
          t.warp s.cur = some { w with wait := some (.barrier s.nextId) } ∧ (∀ j, j ≠ s.cur → t.warp j = s.warp j) ∧
          t.barWaits.find s.nextId = some ⟨.warp s.cur, p.key, v,
            if bound = 0xFFFFFFFF then none else some (s.clock + bound.toNat), x, none⟩)))) ∧
  (∀ (f : FmtE) (bound : BitVec 32) (s : State) (w : Warp), w.once none = false →
    (f.x.toNat % 2 = 0 → IssuesEng s w f.dc.toNat [.k f.y.toNat, .kGroupDst f.x.toNat 2] →
      ∃ t, exec (.barTest f) s = .next t ∧ Retires s s t { w with wait := none }) ∧
    (IssuesEng s w f.dc.toNat [.k f.y.toNat, .k f.z.toNat, .kDst f.x.toNat] →
      ∃ t, exec (.barWait f bound) s = .next t ∧ Retires s s t { w with wait := none })) ∧
  ∀ (s : State) (id n d : Nat) (w : Warp) (b : BWait), s.warp id = some w → w.wait = some (.barrier n) →
    s.barWaits.find n = some b → b.deadline = some d → d ≤ s.clock →
    ∃ t y, exec (.barWaitTimeout id) s = .next t ∧ t = { s with warps := t.warps, barWaits := s.barWaits.erase n } ∧
      t.warp id = some y ∧ y.wait = none ∧ y.kr b.dst = BitVec.ofNat 64 (barPhase (s.barObj b.key)) ∧
      ∀ j, j ≠ id → t.warp j = s.warp j

/-- R134, R137, R167, R292: bar.blk, a release at block scope, sends the warp's loose bytes home and adds the active unguarded threads to the block's arrivals;
while a member of the block has not arrived the warp waits; when every member has, the phase steps, the arrivals start
anew, and every warp of the block that waits there goes on. -/
def Obligations.BlockBarrier : Prop :=
  ∀ (f : FmtE) (s : State) (w : Warp) (b : Block), IssuesEng s w f.dc.toNat [] → s.blocks.find w.block = some b →
    Store.wf none s.warps = true →
    let idle : Warp := { w with wait := none }
    let r := s.readied w
    let n := b.arrived + count (w.exec none)
    (w.once none = false → ∃ t, exec (.barBlk f) s = .next t ∧ Retires s s t idle) ∧
    (w.once none = true → MayRelease s w 2 → b.live ≠ n → ∃ t, exec (.barBlk f) s = .next t ∧
      t = { r.released w 2 with warps := t.warps, blocks := s.blocks.put w.block { b with arrived := n } } ∧
      t.warp s.cur = some { w with wait := some .blockBar } ∧ ∀ j, j ≠ s.cur → t.warp j = s.warp j) ∧
    (w.once none = true → MayRelease s w 2 → b.live = n → ∃ t y, exec (.barBlk f) s = .next t ∧
      t = { r.released w 2 with
        warps := t.warps, blocks := s.blocks.put w.block { b with arrived := 0, phase := (b.phase + 1) % 256 } } ∧
      t.warp s.cur = some y ∧ y.wait = none ∧
      ∀ j, j ≠ s.cur → ∀ x, s.warp j = some x →
        if x.block = w.block ∧ x.wait = some .blockBar then ∃ z, t.warp j = some z ∧ z.wait = none
        else t.warp j = some x)

/-! ### Matrix engines (R188 to R193, R293 to R304) -/

/-- Tile `t` takes the words `f i`; every other tile and element keeps its value. -/
def Sys2Proof.Claims.tileWritten (w w1 : Warp) (t : Nat) (f : Nat → Word) : Prop :=
  ∀ u, ∀ i < 1024, w1.ar u i = if u = t then f i else w.ar u i

/-- R188, R191, R294 to R296: what a MAT instruction needs beside its operands: every position active, its addresses
placed, their homes within reach, and a place in the engine. -/
structure Sys2Proof.Claims.Hands (s : State) (w : Warp) (refs : List Ref) (places : List Place) (l : List (List Acc)) : Prop
    extends Issues s w refs where
  all : w.mask = BitVec.allOnes 128
  placed : (s.readied w).placeTiles w.woken places = .ok l
  reach : (s.readied w).heldUp ((places.zip l).any fun p => p.1.need = .write) l.flatten = false
  space : (s.engine w.quarterNo).held < 8
  quiet : l ≠ [] → (s.readied w).mrqBusy s.cur w.woken = false

/-- R188, R189, R191, R293 to R304: a MAT instruction whose operands are ready is handed to the engine of its quarter
with the operands read at issue, after the instructions that the engine holds; accst, mrq to registers leave their
destination pending, mrq to memory counts its global lines as outstanding, mplane writes its tile at once, and mgd blocks
its warp until the twin's has come. With an inactive position each takes the inactive-thread trap (0x08); mgd without a
twin that runs takes the twin-absent trap (0x0E). -/
def Obligations.MatrixInstructionsIssue : Prop :=
  ∀ (f : FmtQ) (x : Option XQ) (y : XQ) (s : State) (w : Warp),
    let t := f.t.toNat
    let r := s.readied w
    let a := f.a.toNat
    let c := f.type.toNat
    let b := w.kr f.b.toNat
    let idle : Warp := { w with wait := none }
    let handed (i : Instr) (k : MatKind) : Prop := ∃ v, exec i s = .next v ∧ Retires s (r.hand s.cur w k) v idle
    (∀ k, (r.hand s.cur w k).engines = s.engines.put w.quarterNo { s.engine w.quarterNo with
      queue := (s.engine w.quarterNo).queue ++ [⟨s.cur, w.slotNo, s.gen w.slotNo, k⟩] }) ∧
    (w.mask ≠ BitVec.allOnes 128 →
      ∀ p ∈ [(Instr.accz f, [Ref.tileDst t]), (.accld f, [.group a 8, .tileDst t]), (.accst f, [.groupDst a 8, .tile t]),
          (.macc f y, [.tile t, .tile y.t2.toNat]), (.mscl f y, [.tile t, .k y.k.toNat]),
          (.mgd f y, [.tile t, if w.twin = 1 then .kDst y.k.toNat else .k y.k.toNat]),
          (.mma f x, (if f.ar then groupRefs a (groupRegs c) (matScaled c) else [.k a])
            ++ [.k f.b.toNat, if f.z then .tileDst t else .tile t]),
          (.mrq f x, (if f.ar then groupDstRefs a (mrqRegs c) else [.k f.b.toNat]) ++ [.tile t]),
          (.mplane f, groupRefs a (groupRegs c) (matScaled c) ++ [.k f.b.toNat])],
        Issues s w p.2 → exec p.1 s = .next (r.takeTrap s.cur (Trap.of 0x08 (firstWord p.1)))) ∧
    (Claims.Hands s w [.tileDst t] [] [] → handed (.accz f) (.accz t)) ∧
    (Claims.Hands s w [.group a 8, .tileDst t] [] [] →
      handed (.accld f) (.accld t ((List.range 1024).map fun i => w.vr (a + i / 128) (i % 128)))) ∧
    (Claims.Hands s w [.tile t, .tile y.t2.toNat] [] [] → handed (.macc f y) (.macc t y.t2.toNat)) ∧
    (Claims.Hands s w [.tile t, .k y.k.toNat] [] [] → handed (.mscl f y) (.mscl t (w.kw y.k.toNat) y.rnd.toNat)) ∧
    (Claims.Hands s w [.groupDst a 8, .tile t] [] [] → ∃ v w1, exec (.accst f) s = .next v ∧
      Retires s (r.hand s.cur w (.accst t a)) v w1 ∧ w1 = { idle with pendV := w1.pendV } ∧
      ∀ n < 128, w1.pendV.getLsbD n = (w.pendV.getLsbD n || decide (a ≤ n ∧ n < a + 8))) ∧
    (∀ p, r.twinOf s.cur w = some p → p.2.phase ≠ .ended →
      Claims.Hands s w [.tile t, if w.twin = 1 then .kDst y.k.toNat else .k y.k.toNat] [] [] →
      ∃ v, exec (.mgd f y) s = .next v ∧ v = { r.hand s.cur w (.mgd t (w.kw y.k.toNat)) with warps := v.warps } ∧
        v.warp s.cur = some { w with mgdN := w.mgdN + 1, wait := some .mgd } ∧ ∀ j, j ≠ s.cur → v.warp j = s.warp j) ∧
    ((∀ p, r.twinOf s.cur w = some p → p.2.phase = .ended) →
      Claims.Hands s w [.tile t, if w.twin = 1 then .kDst y.k.toNat else .k y.k.toNat] [] [] →
      exec (.mgd f y) s = .next (r.takeTrap s.cur (Trap.of 0x0E 0))) ∧
    (let tb := match x with | some x => x.btype.toNat | none => c
     let share := match x with | some x => x.share | none => false
     let places := (if f.ar then [] else [padPlace (w.kr a) c .read]) ++ [padPlace b tb .read]
     ∀ l, Claims.Hands s w ((if f.ar then groupRefs a (groupRegs c) (matScaled c) else [.k a])
        ++ [.k f.b.toNat, if f.z then .tileDst t else .tile t]) places l →
      let ka := tileKey (l.headD [])
      let kb := tileKey (l.getLastD [])
      let kind : MatKind := .mma t f.z share c tb b.toNat (if f.ar then w.groupCodes c a else r.planeCodes ka c)
        (if f.ar then w.groupScales c a else r.planeScales ka) (r.planeCodes kb tb) (r.planeScales kb)
      ∃ v, exec (.mma f x) s = .next v ∧
        Retires s { (if share then r.shareB w b tb else r).hand s.cur w kind with fresh := s.fresh + 2 } v idle) ∧
    (let rnd := match x with | some x => x.rnd.toNat | none => 0
     (f.ar = true → Claims.Hands s w (groupDstRefs a (mrqRegs c) ++ [.tile t]) [] [] →
        ∃ v w1, exec (.mrq f x) s = .next v ∧ Retires s (r.hand s.cur w (.mrqReg t a c rnd)) v w1 ∧
          w1 = { idle with pendV := w1.pendV, pendE := w1.pendE } ∧
          ∀ n < 128, w1.pendV.getLsbD n = (w.pendV.getLsbD n || decide (a ≤ n ∧ n < a + mrqRegs c)) ∧
            w1.pendE.getLsbD n = (w.pendE.getLsbD n || decide (a ≤ n ∧ n < a + mrqRegs c))) ∧
     (∀ l, f.ar = false → Claims.Hands s w [.k f.b.toNat, .tile t] [⟨.either, b, mrqLines c, .write⟩] l →
        w.out + (globalAcc l.flatten).length ≤ 65535 →
        let keys := l.flatten.flatMap fun q => q.pieces.map fun p => (p.t.key, p.t.ms, q.addr)
        let n := (globalAcc l.flatten).length
        let u := (r.touchStores w.core l.flatten).homeward w false l.flatten
        exec (.mrq f x) s = .next (((u.mapWarp s.cur fun y => { y with out := y.out + n }).hand s.cur w
          (.mrqMem t c rnd keys)).advance s.cur) ∧
        ((∀ q ∈ l.flatten, r.accBroken w.core q = false) → ∃ v, exec (.mrq f x) s = .next v ∧
          Retires s (u.hand s.cur w (.mrqMem t c rnd keys)) v { idle with out := w.out + n }))) ∧
    ∀ l, Claims.Hands s w (groupRefs a (groupRegs c) (matScaled c) ++ [.k f.b.toNat]) [padPlace b c .write] l →
      ∃ v, exec (.mplane f) s = .next v ∧
        Retires s (r.writeTile (tileKey (l.headD [])) c (w.groupCodes c a) (if matScaled c then w.groupScales c a else []))
          v idle

/-- R103, R188, R193, R295: MATRIX_ENGINE_START. An engine takes the oldest of its instructions when it is idle, and the 64
steps that an SR mrq or mscl takes of the quarter's generator are then owed: four in each of the sixteen clocks that mrq
occupies the engine, eight in each of the eight of mscl; an mgd comes to its rendezvous once nothing of its warp runs. -/
def Sys2Proof.Claims.engineStarts : Prop :=
  ∀ (s : State) (q : Nat) (o : MatOp) (rest : List MatOp),
    let e := s.engine q
    e.queue = o :: rest →
    ((∀ t g, o.kind ≠ .mgd t g) → exec (.matrixEngineStart q) s = .next (if e.run.isSome then s
      else { s with
        engines := s.engines.put q { e with queue := rest, run := some o }
        draws := s.draws ++ (match o.kind with
          | .mrqReg _ _ _ 4 => [⟨q, 2, 0, 0, 16, 4, []⟩]
          | .mrqMem _ _ 4 _ => [⟨q, 2, 0, 0, 16, 4, []⟩]
          | .mscl _ _ 4 => [⟨q, 2, 0, 0, 8, 8, []⟩]
          | _ => []) })) ∧
    ∀ t g, o.kind = .mgd t g → exec (.matrixEngineStart q) s = .next
      (if e.run.any fun p => p.warp == o.warp then s
        else { s with engines := s.engines.put q { e with queue := rest, rendezvous := e.rendezvous ++ [o] } })

/-- R97 to R99, R103, R104, R111, R188, R297 to R304, R398: MATRIX_ENGINE_COMPLETE. While the running instruction has steps
of the generator to take nothing happens. Then it has its effect: the tile of mma, accz, accld, macc and mscl; the registers
of accst; the registers of mrq, element n of the group being code n mod 32 of row n / 32, zero from 1,024 up, and its e
registers the scales, each no longer pending; or the lines of mrq, block m of row m at block m mod B of line m / B, the
rest of each line zero, every global line to be acknowledged; a line over a failed link is a failed store of the warp.
Element i of a tile (of an SR instruction) rounds with the state that step i / 16 left, rotated left by 2 (i mod 16). The
flags of every element are raised. A register result for an older generation or a killed warp is dropped and counted; that it
counts as one, whatever it writes, is log 55 (DESIGN CHOICE). -/
def Sys2Proof.Claims.engineEnds : Prop :=
  ∀ (s : State) (q : Nat) (o : MatOp) (w : Warp),
    let e := s.engine q
    e.run = some o → s.warp o.warp = some w → s.matHeld o = false →
    (s.stepsTaken q o.kind = none → exec (.matrixEngineComplete q) s = .next s) ∧
    ∀ words, s.stepsTaken q o.kind = some words →
      let u : State := { s with
        engines := s.engines.put q { e with run := none }
        draws := s.draws.filter fun d => !(d.unit == 2 && d.quarter == q) }
      let flags (g : Nat → FFlags) : FFlags := (List.range 1024).foldl (fun fl i => fl ||| g i) 0
      let stands := w.slotNo = o.slot ∧ s.gen o.slot = o.gen ∧ w.killed = false ∧ w.swapped = false
      let word (i : Nat) : Word := (words.getD (i / 16) 0).rotateLeft (2 * (i % 16))
      let requant (t c rnd : Nat) : List (Nat × List Nat × FFlags) := (List.range 32).map fun m =>
        requantise (matType c) rnd (fun i => word (32 * m + i)) ((List.range 32).map fun n => fval (w.ar t (32 * m + n)))
      let dropped : Prop := s.gen o.slot ≠ o.gen ∨ w.killed = true → ∃ v, exec (.matrixEngineComplete q) s = .next v ∧
        v = { u with comps := v.comps } ∧ Claims.dropsCounted s v o.slot 1
      let tile (t : Nat) (g : Nat → Word × FFlags) : Prop :=
        ∃ w1, exec (.matrixEngineComplete q) s = .next { u with warps := s.warps.put o.warp w1 } ∧
          w1 = { w with acc := w1.acc, fflags := w.fflags ||| flags fun i => (g i).2 } ∧
          Claims.tileWritten w w1 t fun i => (g i).1
      (∀ t z sh ta tb ad a sa b sb, o.kind = .mma t z sh ta tb ad a sa b sb →
        tile t fun i => mmaElement ta tb a sa b sb (if z then 0 else w.ar t i) (i / 32) (i % 32)) ∧
      (∀ t, o.kind = .accz t → tile t fun _ => (0, 0)) ∧
      (∀ t l, o.kind = .accld t l → tile t fun i => (l.getD i 0, 0)) ∧
      (∀ t t2, o.kind = .macc t t2 → tile t fun i => fOut 0 (fAdd 0 (fval (w.ar t i)) (fval (w.ar t2 i)))) ∧
      (∀ t g rnd, o.kind = .mscl t g rnd → tile t fun i => tileScaled rnd (word i) (w.ar t i) g) ∧
      (∀ t d, o.kind = .accst t d → dropped ∧
        (stands → ∃ v w1, exec (.matrixEngineComplete q) s = .next v ∧ v = { u with warps := s.warps.put o.warp w1 } ∧
          w1 = { w with v := w1.v, pendV := w1.pendV } ∧
          (∀ n, ∀ p < 128, w1.vr n p = if d ≤ n ∧ n < d + 8 then w.ar t (128 * (n - d) + p) else w.vr n p) ∧
          ∀ n < 128, w1.pendV.getLsbD n = (w.pendV.getLsbD n && !decide (d ≤ n ∧ n < d + 8)))) ∧
      (∀ t d c rnd, o.kind = .mrqReg t d c rnd → dropped ∧ (stands →
        let rows := requant t c rnd
        let code (n : Nat) : Nat := if n < 1024 then (rows.getD (n / 32) (0, [], 0)).2.1.getD (n % 32) 0 else 0
        let mine (n : Nat) := d ≤ n ∧ n < d + mrqRegs c
        ∃ v w1, exec (.matrixEngineComplete q) s = .next v ∧ v = { u with warps := s.warps.put o.warp w1 } ∧
          w1 = { w with v := w1.v, e := w1.e, pendV := w1.pendV, pendE := w1.pendE
                        fflags := w.fflags ||| rows.foldl (fun fl b => fl ||| b.2.2) 0 } ∧
          (∀ n, ∀ p < 128, w1.vr n p = if mine n then slotsWord (matWidth c)
            ((List.range (matEpl c)).map fun i => code ((128 * (n - d) + p) * matEpl c + i)) else w.vr n p) ∧
          (∀ n, ∀ i < 32, w1.er n i = if mine n then
            (let b := 4 * matEpl c * (n - d) + i
             if i < 4 * matEpl c ∧ b < 32 then BitVec.ofNat 8 (rows.getD b (0, [], 0)).1 else 0) else w.er n i) ∧
          ∀ n < 128, w1.pendV.getLsbD n = (w.pendV.getLsbD n && !decide (mine n)) ∧
            w1.pendE.getLsbD n = (w.pendE.getLsbD n && !decide (mine n)))) ∧
      (∀ t c rnd lines, o.kind = .mrqMem t c rnd lines →
        let rows := requant t c rnd
        let raised : Warp := { w with fflags := w.fflags ||| rows.foldl (fun fl b => fl ||| b.2.2) 0 }
        (∀ l1 p l2, lines = l1 ++ p :: l2 → s.broken w.core p.1 = true → (∀ x ∈ l1, s.broken w.core x.1 = false) →
          w.sfail = none → ∃ v w1, exec (.matrixEngineComplete q) s = .next v ∧ v.warp o.warp = some w1 ∧
            w1 = { raised with sfail := some p.2.2 }) ∧
        ((∀ p ∈ lines, s.broken w.core p.1 = false) →
        let per := mxLine (matType c) / 32
        let far := (lines.filter fun p => !isPad p.1).length
        ∃ v, exec (.matrixEngineComplete q) s = .next v ∧
          v = { u with
            warps := s.warps.put o.warp raised
            mem := v.mem, stale := v.stale, side := v.side, staleSide := v.staleSide, failed := v.failed
            acks := v.acks, nextId := if far = 0 then s.nextId else s.nextId + 1 } ∧
          (0 < far → ∃ a, v.acks.find s.nextId = some a ∧ a.warp = o.warp ∧ a.slot = o.slot ∧ a.gen = o.gen ∧ a.dc = none ∧
            a.left = far) ∧
          (∀ k, (∀ p ∈ lines, ¬ (p.1 ≤ k ∧ k < p.1 + 128)) → v.byte k = s.byte k) ∧
          ((lines.Pairwise fun p p' => p.1 / 128 ≠ p'.1 / 128) → (∀ p ∈ lines, p.1 % 128 = 0) →
            ∀ n key ms a, lines[n]? = some (key, ms, a) →
              let held := (rows.drop (per * n)).take per
              v.lineFailed key = false ∧
              natOfBytes (v.bytes key 128) =
                (held.flatMap fun b => b.2.1).foldr (fun x acc => x + acc * 2 ^ matWidth c) 0 % 2 ^ 1024 ∧
              ∀ b < 8, v.sideByte key b = match held[b]? with | some x => BitVec.ofNat 8 x.1 | none => 0)))

/-- R83, R188: the completion of an instruction whose warp is no more: a result in registers is dropped and counted as one (log 55,
DESIGN CHOICE), and everything else of it is nothing. -/
def Sys2Proof.Claims.engineDrops : Prop :=
  ∀ (s : State) (q : Nat) (o : MatOp) (words : List Word),
    let e := s.engine q
    e.run = some o → s.warp o.warp = none → s.matHeld o = false → s.stepsTaken q o.kind = some words →
    ∃ v, exec (.matrixEngineComplete q) s = .next v ∧
      v = { s with
        comps := v.comps, engines := s.engines.put q { e with run := none }
        draws := s.draws.filter fun d => !(d.unit == 2 && d.quarter == q) } ∧
      Claims.dropsCounted s v o.slot (match o.kind with | .accst _ _ => 1 | .mrqReg _ _ _ _ => 1 | _ => 0)

/-- R64, R111, R193, R302: at MGD_RENDEZVOUS, when both twins' mgd have come and nothing of either runs, the leader's tile
is guided and both warps go on. -/
def Sys2Proof.Claims.guidance : Prop :=
  ∀ (s : State) (leader fid tl tf : Nat) (w fw : Warp) (g h : Word), s.warp leader = some w → w.twin = 0 →
    s.twinOf leader w = some (fid, fw) →
    let e := s.engine w.quarterNo
    e.waiting leader = some (tl, g) → e.waiting fid = some (tf, h) → (∀ o, e.run = some o → o.warp ≠ leader ∧ o.warp ≠ fid) →
    ∃ w1, Claims.tileWritten w w1 tl (fun i => (guided (w.ar tl i) (fw.ar tf i) g).1) ∧
      w1 = { w with acc := w1.acc, fflags := w.fflags ||| (List.range 1024).foldl (fun fl i =>
        fl ||| (guided (w.ar tl i) (fw.ar tf i) g).2) 0 } ∧
      exec (.mgdRendezvous leader) s = .next
        (((({ s with engines := s.engines.put w.quarterNo { e with
          rendezvous := e.rendezvous.filter fun o => o.warp ≠ leader && o.warp ≠ fid } } : State).putWarp leader
            w1).advance leader).advance fid)

/-- R64, R83, R97 to R99, R103, R104, R111, R188, R193, R295, R297 to R304, R398: the matrix engine. The count of a dropped result
is log 55 (DESIGN CHOICE). -/
def Obligations.MatrixEngineRuns : Prop :=
  Claims.engineStarts ∧ Claims.engineEnds ∧ Claims.engineDrops ∧ Claims.guidance

/-- The exact value of a finite FVal. -/
noncomputable def Sys2Proof.Claims.value (n : Bool) (m : Nat) (e : Int) : ℚ := (if n then -1 else 1) * m * (2 : ℚ) ^ e

/-- R5, R113, R114: the products of a block of finite elements with scales that are not NaN are summed without rounding
and scaled exactly, and a finite block is added into a finite accumulator with one rounding to nearest even of the exact
sum; a block that sums to zero leaves the accumulator as it is. -/
def Obligations.MatrixSumsAreExact : Prop :=
  (∀ (a b : List (Bool × Nat × Int)) (sa sb : Nat), a.length = b.length → sa < 255 → sb < 255 →
    let fin (l : List (Bool × Nat × Int)) : List FVal := l.map fun x => .fin x.1 x.2.1 x.2.2
    ∃ v e, blockSum (fin a) (fin b) sa sb = .fin v e ∧
      (v : ℚ) * (2 : ℚ) ^ e = (((a.zip b).map fun p =>
        Claims.value p.1.1 p.1.2.1 p.1.2.2 * Claims.value p.2.1 p.2.2.1 p.2.2.2).sum) * (2 : ℚ) ^ ((sa : Int) + sb - 254)) ∧
  ∀ (acc : Word) (v e : Int) (n : Bool) (m : Nat) (x : Int), fval acc = .fin n m x →
    (v = 0 → accumulate acc (.fin v e) = (acc, 0)) ∧
    (v ≠ 0 → ∃ n1 m1 e1, Claims.value n1 m1 e1 = Claims.value n m x + (v : ℚ) * (2 : ℚ) ^ e ∧
      accumulate acc (.fin v e) =
        (BitVec.ofNat 32 (fp32.deliver 0 0 false n1 m1 e1 false).1, (fp32.deliver 0 0 false n1 m1 e1 false).2))

/-! ### Rounding (R101, R102, R105, R107) -/

/-- R5, R101, R102: a magnitude m·2^e rounded to a spacing of 2^a. To nearest, the result is within half a unit and, at
exactly half, even; toward zero it is the largest multiple not above; downward and upward it is the multiple next to the
signed value on that side; it is inexact exactly when the magnitude is no multiple. -/
def Sys2Proof.Claims.roundsToSpacing : Prop :=
  ∀ (word : Word) (neg : Bool) (m : Nat) (e a : Int),
    let x : ℚ := (m : ℚ) * (2 : ℚ) ^ (e - a)
    let u (mode : Nat) : Nat := (roundUnits mode word neg m e a false).1
    (∀ mode, ((roundUnits mode word neg m e a false).2 = false ↔ ∃ n : Nat, x = n)) ∧
    (∀ mode n, x = (n : ℚ) → mode ≤ 3 → u mode = n) ∧
    (2 * |((u 0 : Nat) : ℚ) - x| ≤ 1 ∧ (2 * |((u 0 : Nat) : ℚ) - x| = 1 → u 0 % 2 = 0)) ∧
    (((u 1 : Nat) : ℚ) ≤ x ∧ x < (u 1 : ℚ) + 1) ∧
    ∀ mode ∈ [2, 3], if (mode = 2 ∧ neg = true) ∨ (mode = 3 ∧ neg = false) then x ≤ (u mode : ℚ) ∧ (u mode : ℚ) < x + 1
      else (u mode : ℚ) ≤ x ∧ x < (u mode : ℚ) + 1

/-- R5, R90 to R92, R102, R106, R109, R238: before rounding, a sum, a product and a fused product and sum of finite values
are exact, and a quotient is known to its lower bound and whether it lies above. A nonzero value that a format can hold is
delivered by one rounding: the code decodes to the value rounded to the spacing of the format at its size, its sign kept.
An MX element widens exactly to its value times the power of two of its scale, unless it overflows. -/
def Sys2Proof.Claims.valuesAreExact : Prop :=
  (∀ (mode : Nat) (n1 n2 n3 : Bool) (m1 m2 m3 : Nat) (e1 e2 e3 : Int),
    let x := Claims.value n1 m1 e1
    let y := Claims.value n2 m2 e2
    (∃ n m e, fAdd mode (.fin n1 m1 e1) (.fin n2 m2 e2) = .fin n m e false ∧ Claims.value n m e = x + y) ∧
    (∃ n m e, fMul (.fin n1 m1 e1) (.fin n2 m2 e2) = .fin n m e false ∧ Claims.value n m e = x * y) ∧
    (∃ n m e, fFma mode (.fin n1 m1 e1) (.fin n2 m2 e2) (.fin n3 m3 e3) = .fin n m e false ∧
      Claims.value n m e = x * y + Claims.value n3 m3 e3) ∧
    (m2 ≠ 0 → ∃ m e st, fDiv (.fin n1 m1 e1) (.fin n2 m2 e2) = .fin (n1 != n2) m e st ∧
      Claims.value false m e ≤ |x / y| ∧ |x / y| < Claims.value false (m + 1) e ∧
      (st = false ↔ Claims.value false m e = |x / y|))) ∧
  (∀ f ∈ [fp32, bf16, fp16, e5m2, e4m3, e3m2, e2m3, e2m1], ∀ (mode : Nat) (word : Word) (sat neg st : Bool) (m : Nat) (e : Int),
    m ≠ 0 → (f.round mode word neg m e st).1 ≤ f.maxCode →
    let a := max (e + (Nat.log2 m : Int) - f.mbits) f.minExp
    ∃ m1 e1, f.decode (f.deliver mode word sat neg m e st).1 = .fin neg m1 e1 ∧
      Claims.value false m1 e1 = Claims.value false (roundUnits mode word neg m e a st).1 a) ∧
  ∀ t ∈ [5, 6, 7, 8, 9, 10], ∀ (code scale : Nat) (n : Bool) (m : Nat) (e : Int), scale < 255 → mxValue t code = .fin n m e →
    (widen t code scale).2 = 0 → ∃ n1 m1 e1, fval (widen t code scale).1 = .fin n1 m1 e1 ∧
      Claims.value n1 m1 e1 = Claims.value n m e * (2 : ℚ) ^ ((scale : Int) - 127)

/-- R90 to R92, R105: stochastic rounding of a magnitude m·2^e to a spacing of 2^a. A spacing no coarser than the source's
least significant bit rounds nothing. Otherwise d = a − e bits are dropped, and the largest multiple not above steps up
exactly when the dropped fraction and the word's fraction reach one: the low d bits of the word over 2^d where d is at most
32, else the whole word over 2^32 against the first 32 bits of the dropped fraction. A code decodes to its significand and
the exponent of its least significant bit. -/
def Sys2Proof.Claims.roundsStochastically : Prop :=
  (∀ (word : Word) (neg : Bool) (m : Nat) (e a : Int),
    let x : ℚ := (m : ℚ) * (2 : ℚ) ^ (e - a)
    let d := (a - e).toNat
    let up := if d ≤ 32 then 1 ≤ Int.fract x + ((word.toNat % 2 ^ d : Nat) : ℚ) / 2 ^ d
      else 2 ^ 32 ≤ ⌊Int.fract x * 2 ^ 32⌋ + (word.toNat : Int)
    ((roundUnits 4 word neg m e a false).1 : ℚ) = if a ≤ e then x else (⌊x⌋ : ℚ) + (if up then 1 else 0)) ∧
  ∀ f ∈ [fp32, bf16, fp16, e5m2, e4m3, e3m2, e2m3, e2m1], ∀ (code : Nat) (n : Bool) (m : Nat) (e : Int),
    f.decode code = .fin n m e →
    m < 2 ^ (f.mbits + 1) ∧ f.minExp ≤ e ∧ (m < 2 ^ f.mbits → e = f.minExp)

/-- R102, R107, R110: a nonzero value overflows a format exactly when its rounded magnitude exceeds the format's largest
finite value. An overflow without saturation to nearest, stochastic, or away from zero by the mode and the sign gives an
infinity (E4M3: 0x7F; the formats of Table 4.11's third row have neither) and every other overflow the largest finite value
with the sign; its flags are overflow and inexact. A value in range raises inexact where it is rounded, and underflow too
where the result is nonzero below the least normal value. Infinities and NaNs deliver what Table 4.11 gives; an infinity
saturated to an IEEE type or E4M3 raises no flag (the model's reading: log 14). -/
def Sys2Proof.Claims.overflows : Prop :=
  ∀ f ∈ [fp32, bf16, fp16, e5m2, e4m3, e3m2, e2m3, e2m1], ∀ (mode : Nat) (word : Word) (sat neg : Bool), mode ≤ 4 →
    let ieee := f ∈ [fp32, bf16, fp16, e5m2]
    let big (b : Bool) : Nat := (if b then 2 ^ (f.ebits + f.mbits) else 0) + f.maxCode
    let inf (b : Bool) : Nat := (if b then 2 ^ (f.ebits + f.mbits) else 0) + (2 ^ f.ebits - 1) * 2 ^ f.mbits
    let away := sat = false ∧ (mode = 0 ∨ mode = 4 ∨ (mode = 3 ∧ neg = false) ∨ (mode = 2 ∧ neg = true))
    (∀ (m : Nat) (e : Int), m ≠ 0 →
      let r := roundUnits mode word neg m e (max (e + (Nat.log2 m : Int) - f.mbits) f.minExp) false
      let v := Claims.value false r.1 (max (e + (Nat.log2 m : Int) - f.mbits) f.minExp)
      ∃ m1 e1, f.decode f.maxCode = .fin false m1 e1 ∧
        if Claims.value false m1 e1 < v then
          f.deliver mode word sat neg m e false =
            (if ieee ∧ away then inf neg else if f = e4m3 ∧ away then 0x7F else big neg, fOverflow ||| fInexact)
        else (f.deliver mode word sat neg m e false).2 =
          (if r.2 then fInexact else 0) ||| (if r.2 = true ∧ 0 < v ∧ v < (2 : ℚ) ^ (f.minExp + f.mbits) then fUnderflow else 0)) ∧
    f.convert mode word sat (.inf neg) =
      (if ieee then (if sat then big neg else inf neg, 0)
        else if f = e4m3 then (if sat then (big neg, 0) else (0x7F, fInvalid)) else (big neg, fInvalid)) ∧
    ∀ sig, f.convert mode word sat (.nan sig) =
      if ieee then (inf false + 2 ^ (f.mbits - 1), if sig then fInvalid else 0)
      else if f = e4m3 then (0x7F, if sig then fInvalid else 0) else (0, fInvalid)

/-- R5, R90 to R92, R101, R102, R105 to R107, R109, R110, R238: rounding, what is rounded, and what an overflow, an infinity
and a NaN deliver. That an infinity which saturates to an IEEE type or to E4M3 raises no flag is log 14 (DEDUCED), the model's
reading. -/
def Obligations.RoundingIsCorrect : Prop :=
  Claims.roundsToSpacing ∧ Claims.roundsStochastically ∧ Claims.valuesAreExact ∧ Claims.overflows

/-! ### Control (R46 to R66, R305 to R314) -/

/-- R207, R209: the warp that issued stands at the clause at `pc` with the registers of `w1`, and yields where its
header says so; nothing else changes. -/
def Sys2Proof.Claims.jumps (s t : State) (w1 : Warp) (pc : DWord) : Prop :=
  t = { s with warps := t.warps } ∧ (∀ j, j ≠ s.cur → t.warp j = s.warp j) ∧ ∃ w', t.warp s.cur = some w' ∧
    w' = { w1 with
      pc := pc, ix := 0, fetched := false, words := [], lat := [], latN := 0, wait := none, idleSince := s.clock
      boosted := false, yieldAt := if w1.hdr.y then some s.clock else w1.yieldAt
      yieldFor := if w1.hdr.y then w'.yieldFor else w1.yieldFor }

/-- R46, R207, R209, R306, R307, R313, R314: bra goes to its target when every active thread takes it and on when none
does, and traps as non-uniform (0x09) else; jmp, call and ret do so by their guard, call with the next clause in K(127)
and ret to a k register; a misaligned destination is an illegal clause (0x03). nop goes on; yield goes on and holds the
warp for the other ready warps of its quarter at its priority or above, until each has started a clause or 64 clocks have
passed (the warps that are ready at the yield: log 37, the model's reading; `peersOf` holds those that may be, with the
instruction at which each stands, and the end of the step takes off those that are not, `StepRunsDecodedInstruction`); trap and brk take their traps (0x12 with the
code, 0x13), and a trap that ends a clause with Y set yields too. -/
def Obligations.ControlTransfers : Prop :=
  (∀ (f : FmtC) (s : State) (w : Warp),
    let r := s.readied w
    let idle : Warp := { w with wait := none }
    let target := w.pc + (f.off.signExtend 64 <<< 2)
    let m := w.exec none
    let goes (i : Instr) (r1 : State) (w1 : Warp) (pc : DWord) : Prop :=
      (pc.extractLsb' 0 2 = 0 → ∃ t, exec i s = .next t ∧ Claims.jumps s t w1 pc) ∧
      (pc.extractLsb' 0 2 ≠ 0 → exec i s = .next (r1.takeTrap s.cur (Trap.of 0x03 pc)))
    let split (i : Instr) (m : Mask) (r1 : State) (w1 : Warp) (pc : DWord) : Prop :=
      (m = w.mask → goes i r1 w1 pc) ∧
      (m ≠ w.mask → m = 0 → ∃ t, exec i s = .next t ∧ Retires s s t idle) ∧
      (m ≠ w.mask → m ≠ 0 → exec i s = .next (r.takeTrap s.cur (Trap.of 0x09 (firstWord i))))
    (Issues s w [] →
      split (.bra f) (w.mask &&& (if f.p then (if f.n then ~~~ w.pr f.pred.toNat else w.pr f.pred.toNat)
        else BitVec.allOnes 128) &&& w.clauseGuard) r idle target ∧
      split (.jmp f) m r idle target ∧
      (∃ t, exec (.nop f) s = .next t ∧ Retires s s t idle) ∧
      (m = 0 → ∀ i ∈ [Instr.yield f, .trap f, .brk f], ∃ t, exec i s = .next t ∧ Retires s s t idle) ∧
      (m ≠ 0 → exec (.yield f) s = .next ((r.advance s.cur).yieldWarp s.cur) ∧
        (let u := r.takeTrap s.cur (Trap.of 0x12 (BitVec.ofNat 64 (f.off.toNat % 4096)))
         exec (.trap f) s = .next (if w.hdr.y then u.yieldWarp s.cur else u)) ∧
        exec (.brk f) s = .next (r.takeTrap s.cur (Trap.of 0x13 0)))) ∧
    (Issues s w [.kDst 127] →
      let w1 := { idle with k := Store.set 0 w.k 127 (w.pc + BitVec.ofNat 64 (4 * (1 + w.hdr.body))) }
      split (.call f) m (r.putWarp s.cur w1) w1 target) ∧
    (Issues s w [.k (f.off.toNat % 128)] → split (.ret f) m r idle (w.kr (f.off.toNat % 128)))) ∧
  (∀ (s : State) (id : Nat) (w : Warp), s.warp id = some w →
    (s.yieldWarp id).warp id = some { w with yieldAt := some s.clock, yieldFor := s.peersOf id w } ∧
    (Store.wf none s.warps = true → ∀ j n, (j, n) ∈ s.peersOf id w ↔ j ≠ id ∧ ∃ x, s.warp j = some x ∧ x.ix = n ∧
      x.quarterNo = w.quarterNo ∧ x.swapped = false ∧ (x.phase = .prologue ∨ x.phase = .running) ∧
      (∀ v, x.wait = some v → v.reissues = true) ∧ x.held = false ∧ w.rank ≤ x.rank)) ∧
  ∀ (s : State) (id n : Nat) (w : Warp), s.warp id = some w → w.yieldAt = some n →
    exec (.yieldExpiry id) s = .next (if n + 64 ≤ s.clock ∨ w.yieldFor = [] then
      s.putWarp id { w with yieldAt := none, yieldFor := [] } else s)

/-- R59, R306, R309: the groups into which calli and reti divide the active threads: one for each destination of the threads
that the guard lets through, one, to the next clause, for the others; each active thread is in one group. The group that
continues is one of the most threads, and of those the one with the lowest position. -/
def Sys2Proof.Claims.groups : Prop :=
  ∀ (w : Warp) (dest : Nat → DWord),
    let yes := w.exec none
    (∀ g ∈ w.divide dest, g.mask ≠ 0 ∧
      (g.link = true → ∀ p < 128, g.mask.getLsbD p = (yes.getLsbD p && dest p == g.dest)) ∧
      (g.link = false → g.dest = w.nextClause ∧ g.mask = w.mask &&& ~~~ yes)) ∧
    (∀ p < 128, w.mask.getLsbD p = true → ∃ g ∈ w.divide dest, g.mask.getLsbD p = true) ∧
    ∀ g, largest (w.divide dest) = some g → g ∈ w.divide dest ∧ ∀ h ∈ w.divide dest, count h.mask ≤ count g.mask ∧
      (count h.mask = count g.mask → (positions g.mask).headD 128 ≤ (positions h.mask).headD 128)

/-- R47 to R52, R58, R59, R66, R76, R264, R306, R308 to R310: the diverging instructions in a block. brd with no thread that
stays goes to its target, with none that leaves goes on, and else sheds the smaller side, the leaving one where both are
equal. calli and reti go to each thread's own destination: the largest group continues, the others are shed; calli links to the
next clause. join sheds every thread of a warp that is not full, unless it is a placed twin, which waits.
L and M beyond their limits are an illegal operand; of a reti that has a misaligned target too, the target's trap comes first
(log 51, the model's choice). What sheds needs v0 to v(L-1) and k0 to k(M-1) not pending and not marked, and no memory write
of an mrq to come; a twin that waits at a join needs every register that a record may restore so. A branch that finds no
snapshot entry waits for one. -/
def Sys2Proof.Claims.diverging : Prop :=
  ∀ (f : FmtC) (x : XD) (s : State) (w : Warp) (b : Block), s.blocks.find w.block = some b →
    let r := s.readied w
    let idle : Warp := { w with wait := none }
    let l := x.l.toNat
    let m := x.m.toNat
    let fits (l m : Nat) : Prop := l ≤ b.lmax ∧ m ≤ b.mmax ∧ l ≤ w.va ∧ m ≤ w.ka
    let ready (l m : Nat) : Prop := (∀ q ∈ [Ref.group 0 l, Ref.kGroup 0 m], q.ok w = true ∧ q.pending w = false) ∧
      firstMark w [.group 0 l, .kGroup 0 m] = none ∧ r.mrqBusy s.cur w.woken = false
    let sheds (i : Instr) (w1 : Warp) (l m : Nat) (g : List Shed) (pc : DWord) : Prop :=
      let shed := (r.putWarp s.cur w1).shed s.cur w1 b l m g
      ready l m →
      (∀ u, shed = .done u → exec i s = .next ((u.jump u.cur pc).settleTwins w.block)) ∧
      (∀ t, shed = .trap t → exec i s = .next (r.takeTrap s.cur t)) ∧
      (shed = .pool → exec i s = .next (r.block s.cur (.pool m))) ∧
      (shed = .held → exec i s = .next r)
    (Issues s w [] →
      let t := w.taken f
      let n := w.mask &&& ~~~ t
      let target := w.pc + (f.off.signExtend 64 <<< 2)
      (¬ fits l m → exec (.brd f x) s = .next (r.takeTrap s.cur (Trap.of 0x02 (firstWord (.brd f x))))) ∧
      (fits l m → n = 0 → target.extractLsb' 0 2 = 0 → ∃ u, exec (.brd f x) s = .next u ∧ Claims.jumps s u idle target) ∧
      (fits l m → n ≠ 0 → t = 0 → ∃ u, exec (.brd f x) s = .next u ∧ Retires s s u idle) ∧
      (fits l m → n ≠ 0 → t ≠ 0 → count t ≤ count n →
        sheds (.brd f x) w.woken l m [⟨target, false, t⟩] w.nextClause) ∧
      (fits l m → n ≠ 0 → t ≠ 0 → count n < count t → sheds (.brd f x) w.woken l m [⟨w.nextClause, false, n⟩] target)) ∧
    (Issues s w [pairField (f.off.toNat % 128), .groupDst 110 2] →
      let groups := w.divide (w.vp (f.off.toNat % 128))
      let w1 := w.woken.setVP 110 (w.exec none) fun _ => w.nextClause
      let bad := 110 < l ∨ b.lmax < l + 2 ∨ ¬ fits l m
      (bad → exec (.calli f x) s = .next (r.takeTrap s.cur (Trap.of 0x02 (firstWord (.calli f x))))) ∧
      (¬ bad → ∀ d, firstMisaligned groups = some d → exec (.calli f x) s = .next (r.takeTrap s.cur (Trap.of 0x03 d))) ∧
      (¬ bad → firstMisaligned groups = none → ∀ g, largest groups = some g →
        (groups.filter (· ≠ g) = [] → ∃ u, exec (.calli f x) s = .next u ∧ Claims.jumps s u w1 g.dest) ∧
        (groups.filter (· ≠ g) ≠ [] → sheds (.calli f x) w1 l m (groups.filter (· ≠ g)) g.dest))) ∧
    (Issues s w [.group 110 2] →
      let groups := (w.divide (w.vp 110)).map fun g => { g with link := false }
      (∀ d, firstMisaligned groups = some d → exec (.reti f) s = .next (r.takeTrap s.cur (Trap.of 0x03 d))) ∧
      (firstMisaligned groups = none → ∀ g, largest groups = some g →
        (groups.filter (· ≠ g) = [] → ∃ u, exec (.reti f) s = .next u ∧ Claims.jumps s u idle g.dest) ∧
        (groups.filter (· ≠ g) ≠ [] →
          (¬ fits b.lmax b.mmax → exec (.reti f) s = .next (r.takeTrap s.cur (Trap.of 0x02 (firstWord (.reti f))))) ∧
          (fits b.lmax b.mmax → sheds (.reti f) w.woken b.lmax b.mmax (groups.filter (· ≠ g)) g.dest)))) ∧
    (Issues s w [] →
      (w.once none = false → ∃ u, exec (.join f x) s = .next u ∧ Retires s s u idle) ∧
      (w.once none = true → ¬ fits l m → exec (.join f x) s = .next (r.takeTrap s.cur (Trap.of 0x02 (firstWord (.join f x))))) ∧
      (w.once none = true → fits l m → w.mask = BitVec.allOnes 128 → ∃ u, exec (.join f x) s = .next u ∧ Retires s s u idle) ∧
      (w.once none = true → fits l m → w.mask ≠ BitVec.allOnes 128 → w.twin ≠ 2 → w.formed = false →
        (∀ q ∈ [Ref.kGroup 0 m, .groupDst 0 w.va], q.ok w = true ∧ q.pending w = false) →
        firstMark w [.kGroup 0 m, .groupDst 0 w.va] = none → exec (.join f x) s = .next ((r.block s.cur (.join w.nextClause l m)).settleTwins w.block)) ∧
      (w.once none = true → fits l m → w.mask ≠ BitVec.allOnes 128 → (w.twin = 2 ∨ w.formed = true) → ready l m →
        ∀ u, (r.putWarp s.cur w.woken).shed s.cur w.woken b l m [⟨w.nextClause, false, w.mask⟩] = .done u →
          exec (.join f x) s = .next (u.lastGone s.cur w.woken)))

/-- R47, R49 to R51, Table 2.3: a shed of one thread, its record and the snapshot each within one translated line whose leaf
holds A and D, once the warp's loose bytes have gone home: the record's 24 + 4L bytes, 8 more with a link, stand at its slot
(destination, wid, snapshot offset, the predicates p1 to p7, L, the flags paired, follower, link and supervisor, the v
registers, the link pair), the thread's position clears, and the block holds one more record with M, its pool entry, the
destination, the follower and supervisor flags and the instruction's age. While a loose byte cannot go home it waits. With M above 0 the snapshot is k0 to k(M-1): an entry that a live record names and that holds the same
bytes is shared, else the lowest free one is written, and without one the shed waits. -/
def Sys2Proof.Claims.spawnRecords : Prop :=
  ∀ (s : State) (id : Nat) (w : Warp) (b : Block) (l m p : Nat) (dest : DWord) (link : Bool) (t : Trans) (snap : Snap),
    s.warp id = some w → s.blocks.find w.block = some b → p < 128 → l ≤ 110 →
    let ag := s.agentOf w
    s.snapFor ag b m (w.snapBytes m) = snap →
    (m = 0 ↔ snap = .none) ∧
    (∀ j, snap = .share j → j < b.poolSize ∧ s.poolBytes ag b j m = .ok (w.snapBytes m) ∧
      ∃ r ∈ b.recs, r.pool = some j ∧ r.m = m) ∧
    (∀ j, snap = .write j → j < b.poolSize ∧ (∀ r ∈ b.recs, r.pool ≠ some j) ∧ ∀ i < j, ∃ r ∈ b.recs, r.pool = some i) ∧
    (snap = .full → s.shed id w b l m [⟨dest, link, 1#128 <<< p⟩] = .pool) ∧
    (let off := match snap.entry with | some j => b.poolOffset j | none => 0
     let bytes := w.recBytes b p dest off l link
     let slot := w.recSlot b p
     let home := s.sendOwn w
     let line (va : DWord) (n : Nat) (t : Trans) : Prop := s.xspan ag va n .write = .ok [(t, n)] ∧
      t.leaf &&& 0x300 = 0x300 ∧ s.planeHeld t.key = false ∧ s.broken w.core t.key = false
     snap ≠ .full → line (b.recAddr slot) bytes.length t →
     ∀ tp, (∀ j, snap = .write j → line (b.spawnBase + BitVec.ofNat 64 (b.poolOffset j)) (w.snapBytes m).length tp ∧
       (tp.key + 8 * m ≤ t.key ∨ t.key + bytes.length ≤ tp.key)) →
     (s.backHeld (ofWarp w) = true → s.shed id w b l m [⟨dest, link, 1#128 <<< p⟩] = .held) ∧
     (s.backHeld (ofWarp w) = false → ∃ u, s.shed id w b l m [⟨dest, link, 1#128 <<< p⟩] = .done u ∧
      u.warp id = (home.warp id).map (fun y => { y with mask := y.mask &&& ~~~ (1#128 <<< p) }) ∧
      ((s.loose (ofWarp w) 0 (2 ^ 96)).filter s.looseCut = [] → home.warp id = some w ∧ home.nextId = s.nextId) ∧
      (∃ b1, u.blocks.find w.block = some b1 ∧ b1.recs = b.recs ++
        [⟨slot, m, snap.entry, dest, w.twin == 1, w.super, home.nextId, Store.get 0 w.wids p, s.clock, none⟩]) ∧
      bytes.length = 24 + 4 * l + (if link then 8 else 0) ∧ (∀ i < bytes.length, u.byte (t.key + i) = bytes.getD i 0) ∧
      (∀ j, snap = .write j → ∀ i < m, natOfBytes (u.bytes (tp.key + 8 * i) 8) = (w.kr i).toNat) ∧
      (∀ a, ¬ (t.key ≤ a ∧ a < t.key + bytes.length) → (∀ j, snap = .write j → ¬ (tp.key ≤ a ∧ a < tp.key + 8 * m)) →
        u.byte a = home.byte a) ∧
      natOfBytes (bytes.take 8) = dest.toNat ∧ natOfBytes ((bytes.drop 8).take 8) = (Store.get 0 w.wids p).toNat ∧
      natOfBytes ((bytes.drop 16).take 4) = off % 2 ^ 32 ∧
      (∀ i < 7, (bytes.getD 20 0).getLsbD i = (w.pr (i + 1)).getLsbD p) ∧ (bytes.getD 20 0).getLsbD 7 = false ∧
      bytes.getD 21 0 = BitVec.ofNat 8 l ∧
      natOfBytes ((bytes.drop 22).take 2) = (if b.paired then 1 else 0) + (if w.twin = 1 then 2 else 0)
        + (if link then 4 else 0) + (if w.super then 8 else 0) ∧
      (∀ i < l, natOfBytes ((bytes.drop (24 + 4 * i)).take 4) = (w.vr i p).toNat) ∧
      (link = true → natOfBytes (bytes.drop (24 + 4 * l)) = (w.vp 110 p).toNat)))

/-- R47 to R52, R58, R59, R66, R76, R264, R306, R308 to R311, Table 2.3: the diverging instructions, the groups they make,
and the record of a thread that leaves. -/
def Obligations.DivergenceAndRecords : Prop := Claims.groups ∧ Claims.diverging ∧ Claims.spawnRecords

/-- R38, R39, R134, R137, R300, R312, R313: exit by every active thread, once the writes of its mrq are done and nothing holds
up or fails a release at block scope, sends the warp's loose bytes home, ends the threads and the warp; by some of them, it
ends those and the warp goes on. acquire goes on with the full allotment, at once where no older request waits and the
growth fits the quarter, and else waits for its grant, once there is room for its record (R376). -/
def Sys2Proof.Claims.exitAcquire : Prop :=
  ∀ (f : FmtC) (s : State) (w : Warp), Issues s w [] →
    let r := s.readied w
    let idle : Warp := { w with wait := none }
    let gone := w.exec none
    let full := match s.blocks.find w.block with | some b => (b.fv, b.acc) | none => (w.va, w.ta)
    (gone = 0 → ∀ i ∈ [Instr.exit f, .acquire f], ∃ t, exec i s = .next t ∧ Retires s s t idle) ∧
    (gone ≠ 0 → gone = w.mask → s.mrqBusy s.cur w = false → MayRelease s w 2 →
      exec (.exit f) s = .next (((r.released w 2).endThreads s.cur gone).lastGone s.cur w.woken)) ∧
    (gone ≠ 0 → gone ≠ w.mask →
      exec (.exit f) s = .next (((r.endThreads s.cur gone).advance s.cur).settleTwins w.block)) ∧
    (gone ≠ 0 → w.full = true → ∃ t, exec (.acquire f) s = .next t ∧ Retires s s t idle) ∧
    (gone ≠ 0 → w.full = false →
      let now := r.growthFits w.woken && !((r.acquirers w.core w.quarter).any fun p => p.2.elder w.woken)
      (now = true → ∃ t, exec (.acquire f) s = .next t ∧
        Retires s s t { idle with va := full.1, ta := full.2, full := true, phase := .running, acqAt := none }) ∧
      (now = false → s.recordRoom s.cur 40 = false → exec (.acquire f) s = .next r) ∧
      (now = false → s.recordRoom s.cur 40 = true → ∃ t, exec (.acquire f) s = .next t ∧ t = { s with warps := t.warps } ∧
        t.warp s.cur = some { idle with phase := .acquiring, acqAt := some s.clock } ∧
        ∀ j, j ≠ s.cur → t.warp j = s.warp j))

/-- R43, R66, R67, R121, R134, R167, R303, R312: what ends. Threads that end clear their positions, drop the dirty private
bytes of the L1 that are theirs and leave the block barrier, whose phase completes where every other member has arrived: the
arrivals start anew and every warp that waits there goes on. A warp that ends sends its loose bytes home, publishes
and releases the registers it owns and gives up its claims, and the records that wait for its eret are discarded (R200); it keeps
its slot, and its generation until the slot is returned (log 36, the model's choice of the moment at which R83's increment
happens). A twin that waits for it
in mgd takes the twin-absent trap, and the twins of the block that wait at a join are settled; where the block is not paired
nothing more happens. -/
def Sys2Proof.Claims.endings : Prop :=
  (∀ (s : State) (id : Nat) (w : Warp) (b : Block) (m : Mask), s.warp id = some w → s.blocks.find w.block = some b →
    w.wait ≠ some .blockBar → Store.wf none s.warps = true →
    let live := b.live - count (w.mask &&& m)
    let t := s.endThreads id m
    let completes := live ≠ 0 ∧ b.arrived = live
    ∃ b1, t = { s with warps := t.warps, blocks := s.blocks.put w.block b1 } ∧
      b1 = { b with
        live := live, priv := b1.priv, arrived := if completes then 0 else b.arrived
        phase := if completes then (b.phase + 1) % 256 else b.phase } ∧
      (∀ off, let gone := ∃ p < 128, (w.mask &&& m).getLsbD p = true ∧
          privIndex b.paired (w.blkt b p) w.twin = off / 4 % b.slots
        (gone → b1.priv.find off = none) ∧ (¬ gone → b1.priv.find off = b.priv.find off)) ∧
      t.warp id = some { w with mask := w.mask &&& ~~~ m } ∧
      ∀ j x, j ≠ id → s.warp j = some x →
        if completes ∧ x.block = w.block ∧ x.wait = some .blockBar then ∃ y, t.warp j = some y ∧ y.wait = none
        else t.warp j = some x) ∧
  (∀ (s : State) (id : Nat) (w : Warp), s.warp id = some w →
    let t := s.endWarp id true
    (∃ y, t.warp id = some y ∧ y = { w with
      phase := .ended, killed := false, wait := none, mask := 0, acqAt := none, token := none, susp := none, xback := none
      pendV := y.pendV, d := y.d } ∧ ((s.trappedChases id).filter (fun p => p.2.held) = [] → y.pendV = w.pendV ∧ y.d = w.d)) ∧
    (∀ j, j ≠ id → t.warp j = (s.sendOwn w).warp j) ∧ t.gens = s.gens ∧ (∀ k, t.byte k = (s.sendOwn w).byte k) ∧
    ((s.loose (ofWarp w) 0 (2 ^ 96)).filter s.looseCut = [] → ∀ j, (s.sendOwn w).warp j = s.warp j) ∧
    ∀ b, s.blocks.find w.block = some b → ∃ b1, t.blocks.find w.block = some b1 ∧
      (∀ g, b.gowner.find g = some id → Store.wf none b.gowner = true →
        b1.gowner.find g = none ∧ Store.get 0 b1.gpub g = Store.get 0 b.gown g) ∧
      (∀ q ∈ b1.claims, q.2 ≠ id)) ∧
  ∀ (s : State) (id : Nat) (w : Warp),
    let u := s.endWarp id true
    s.lastGone id w = ((match u.twinOf id w with
      | some (p, x) => if x.wait = some Wait.mgd then (u.withdraw p).takeTrap p (Trap.of 0x0E 0) else u
      | none => u).settleTwins w.block) ∧
    ((∀ b, u.blocks.find w.block = some b → b.paired = false) → w.twin = 2 → s.lastGone id w = u)

/-- R38, R39, R43, R66, R67, R121, R134, R137, R167, R300, R303, R312, R313: exit and acquire, and what ends. -/
def Obligations.ExitAndAcquire : Prop := Claims.exitAcquire ∧ Claims.endings

/-! ### Clauses (R202 to R209, R346, R347) -/

/-- R203 to R208, R346: CLAUSE_DECODE checks a clause in order: a misaligned header is an illegal clause; a word that
cannot be fetched is its fetch trap at index 0; a header that does not parse is an illegal clause; a SYS clause in user mode is a
privilege violation (0x04); a control transfer before the last instruction is an illegal clause; the first instruction
that does not decode is an illegal instruction (0x01) with its index. A clause that passes is decoded whole: the warp
stands at its instruction with the header and words that memory holds, and a yield that held it has ended (R207). The threads of
a formed warp of a paired block arrive at the clause (R66) at this step, when the clause is decoded: the moment is log 26
(DEDUCED), the model's reading; and the twins of the block that wait are settled. A warp whose index is past the last instruction
goes on at the next clause. -/
def Obligations.ClauseDecoding : Prop :=
  ∀ (s : State) (w : Warp), s.warp s.cur = some w → s.mayIssue w = true → w.fetched = false →
    let traps (t : Trap) (i : Nat) : Prop :=
      exec .clauseDecode s = .next ((s.putWarp s.cur { w with ix := i }).takeAside s.cur w t)
    (w.pc.extractLsb' 0 2 ≠ 0 → traps (Trap.of 0x03 w.pc) 0) ∧
    (w.pc.extractLsb' 0 2 = 0 →
      (∀ t, s.fetchAt w w.pc = .error t → t.cause ≠ heldCause → traps t 0) ∧
      ∀ p, s.fetchAt w w.pc = .ok p → s.planeHeld p.key = false → s.leafHeld p false = false →
        let word : Word := BitVec.ofNat 32 (s.num p.key 4)
        (Header.parse word = none → traps (Trap.of 0x03 (word.zeroExtend 64)) 0) ∧
        ∀ h, Header.parse word = some h →
          (h.cls = .sys → w.super = false → traps (Trap.of 0x04 (word.zeroExtend 64)) 0) ∧
          ((h.cls = .sys → w.super = true) →
            (∀ t, s.fetchBody w (w.pc + 4) h.body = .error t → t.cause ≠ heldCause → traps t 0) ∧
            ∀ l, s.fetchBody w (w.pc + 4) h.body = .ok l →
              (∀ q ∈ l, s.planeHeld q.key = false ∧ s.leafHeld q false = false) →
              let ws : List Word := l.map fun q => BitVec.ofNat 32 (s.num q.key 4)
              (∀ i, misplacedFrom h ws w.ix = some i → traps (Trap.of 0x03 (word.zeroExtend 64)) i) ∧
              (misplacedFrom h ws w.ix = none → ∀ i, illegalFrom h ws w.ix = some i →
                traps (Trap.of 0x01 ((h.instrWords ws i).1.zeroExtend 64)) i) ∧
              (misplacedFrom h ws w.ix = none → illegalFrom h ws w.ix = none → ∃ t u : State,
                exec .clauseDecode s = .next (if w.ix < h.n.toNat then u
                  else u.jump s.cur (w.pc + BitVec.ofNat 64 (4 * (1 + h.body)))) ∧
                  t = { (p :: l).foldl (fun v q => v.touch q false) s with warps := t.warps } ∧
                  t.warp s.cur = some { w with fetched := true, hdr := h, words := ws, yieldAt := none, yieldFor := [] } ∧
                  (∀ j, j ≠ s.cur → t.warp j = s.warp j) ∧
                  ((w.formed = false ∨ ∀ b, s.blocks.find w.block = some b → b.paired = false) → u = t) ∧
                  ∀ b, w.formed = true → s.blocks.find w.block = some b → b.paired = true → ∃ b1,
                    u = ({ t with blocks := s.blocks.put w.block b1 } : State).settleTwins w.block ∧
                    b1 = { b with arrivals := b1.arrivals } ∧
                    ∀ a, a ∈ b1.arrivals ↔ a ∈ b.arrivals ∨ ∃ i < 128, w.mask.getLsbD i = true ∧ a = (w.recSlot b i, w.pc))))

/-! ### The system class (R315 to R340, R371 to R390) -/

/-- R315, R316, R330 to R332, R337, Tables 15.1, 15.2: rdsp reads the privileged register of its number, zero for a number
that is not assigned; wrsp writes xvec and xdeleg of the context (only the delegable bits; for the clock of the write the
values before it are kept for the other warps), xscr0, xscr1 and xpc of the warp and the dropped-return count of the
compartment, and ignores any other; a write of xpc with an index is an illegal
operand, one that is not aligned is ignored, and one that is taken discards the saved latches and their count and the
records of the warp's chases (R376), those in flight too, whose pending bits and counter shares are released. Where no position executes nothing happens. -/
def Obligations.PrivilegedRegisters : Prop :=
  ∀ (f : FmtS) (s : State) (w : Warp),
    let idle : Warp := { w with wait := none }
    let r := s.readied w
    let n := f.imm.toNat
    let v := w.kr f.y.toNat
    let c := s.ctxOf w.cmp w.ctx
    let p := s.comp w.cmp
    let ofCtx (g : Ctx → DWord) : DWord := match c with | some c => g c | none => 0
    let keeps (c1 : Ctx) : Ctx := { c1 with
      old := if c1.wrote.map (·.2) = some s.clock then c1.old else (c1.xvec, c1.xdeleg), wrote := some (s.cur, s.clock) }
    let table : List (Nat × DWord) :=
      [(0x000, ofCtx Ctx.xvec), (0x001, w.xpc), (0x002, w.xcause), (0x003, w.xval), (0x004, w.xstat), (0x005, w.xscr0),
       (0x006, w.xscr1), (0x007, ofCtx Ctx.xdeleg), (0x008, BitVec.ofNat 64 (w.cmp * 65536 + w.ctx)),
       (0x009, ofCtx Ctx.ptroot), (0x00A, p.drc), (0x00B, match p.qfault with | some q => q.1 | none => 0),
       (0x00C, match p.qevent with | some q => q.1 | none => 0), (0x00D, p.coreGroups.zeroExtend 64),
       (0x00E, p.stackGroups.zeroExtend 64), (0x010, BitVec.ofNat 64 (w.slot * 1024 + w.quarter * 256 + w.core))]
    (Issues s w [.kDst f.x.toNat] → ∃ t w1, exec (.rdsp f) s = .next t ∧ Retires s s t w1 ∧ w1 = { idle with k := w1.k } ∧
      KWritten w w1 f.x.toNat (if w.once none = false then w.kr f.x.toNat
        else match table.find? fun e => e.1 == n with | some e => e.2 | none => 0)) ∧
    (Issues s w [.k f.y.toNat] →
      (w.once none = false → ∀ i ∈ [Instr.wrsp f, .wrspXpc f, .wrspXdeleg f],
        ∃ t, exec i s = .next t ∧ Retires s s t idle) ∧
      (w.once none = true →
        (∀ c1, c = some c1 → n = 0x000 → ∃ t, exec (.wrsp f) s = .next t ∧ Retires s { s with ctxs := t.ctxs } t idle ∧
          t.ctxs = s.ctxs.put (ctxKey w.cmp w.ctx) { keeps c1 with xvec := v }) ∧
        (n = 0x005 → ∃ t, exec (.wrsp f) s = .next t ∧ Retires s s t { idle with xscr0 := v }) ∧
        (n = 0x006 → ∃ t, exec (.wrsp f) s = .next t ∧ Retires s s t { idle with xscr1 := v }) ∧
        (n = 0x00A → ∃ t, exec (.wrsp f) s = .next t ∧ Retires s { s with comps := t.comps } t idle ∧
          t.comps = s.comps.put w.cmp { p with drc := v }) ∧
        (n ∉ [0x000, 0x001, 0x005, 0x006, 0x007, 0x00A] → ∃ t, exec (.wrsp f) s = .next t ∧ Retires s s t idle) ∧
        (∀ c1, c = some c1 → ∃ t d, exec (.wrspXdeleg f) s = .next t ∧ Retires s { s with ctxs := t.ctxs } t idle ∧
          t.ctxs = s.ctxs.put (ctxKey w.cmp w.ctx) { keeps c1 with xdeleg := d } ∧
          ∀ i < 64, d.getLsbD i = (v.getLsbD i && [6, 7, 15, 16, 21, 22].contains i)) ∧
        (v.extractLsb' 60 4 ≠ 0 → exec (.wrspXpc f) s = .next (r.takeTrap s.cur (Trap.of 0x02 (firstWord (.wrspXpc f))))) ∧
        (v.extractLsb' 60 4 = 0 → v.extractLsb' 0 2 ≠ 0 → ∃ t, exec (.wrspXpc f) s = .next t ∧ Retires s s t idle) ∧
        (v.extractLsb' 60 4 = 0 → v.extractLsb' 0 2 = 0 →
          let w1 := { idle with xpc := v, slat := [], xstat := w.xstat &&& ~~~ 0xF10, xarm := false, xback := none }
          (∀ k h, (k, h) ∈ s.chasesOf s.cur ↔ (k, some h) ∈ s.chases ∧ h.warp = s.cur ∧ s.gen h.slot = h.gen) ∧
          (s.chasesOf s.cur = [] → ∃ t, exec (.wrspXpc f) s = .next t ∧ Retires s s t w1) ∧
          (∃ t y, exec (.wrspXpc f) s = .next t ∧ Retires s { s with chases := t.chases } t y ∧
            (∀ k h, (k, h) ∈ s.chasesOf s.cur → Store.wf none s.chases = true → t.chases.find k = none) ∧
            y = { w1 with pendV := y.pendV, d := y.d }) ∧
          ∀ k h, s.chasesOf s.cur = [(k, h)] → ∃ t, exec (.wrspXpc f) s = .next t ∧
            Retires s { s with chases := s.chases.erase k } t { w1 with
              pendV := w.pendV &&& ~~~ (1#128 <<< h.dst) &&& ~~~ (1#128 <<< (h.dst + 1))
              d := Store.set 0 w.d h.dc (w.dn h.dc - 1) })))

/-- R335 to R337, R372 to R374: taking a trap. In user mode, with a vector that is set and aligned and a cause that is not
delegated, the warp saves the point, the cause, the value, its latches and their count, and whether the part keeps the
records of a trapped chase of it (Table 15.3), goes to supervisor mode and stands at the vector, and nothing else changes. In the clock of another warp's write of the vector or the mask, the values
before the write are used. In supervisor mode, or without such a vector, a record is posted with the double-trap flag and the
context is fenced. A cause that is delegable and delegated suspends the warp on a posted record
and a resume token, and keeps its registers. Either way the warp's clocks without a start begin anew and its boost ends (R361), but
for a trap that no start of an instruction raises, that of a chase or of a clause's decode, which leaves both as they were. -/
def Sys2Proof.Claims.trapEntry : Prop :=
  ∀ (s : State) (id : Nat) (w : Warp) (t : Trap) (c : Ctx), s.warp id = some w → s.ctxOf w.cmp w.ctx = some c →
    t.cause ≠ heldCause →
    let regs : DWord × DWord := match c.wrote with
      | some (j, n) => if j ≠ id ∧ n = s.clock then c.old else (c.xvec, c.xdeleg)
      | none => (c.xvec, c.xdeleg)
    let saved : Warp := { w with
      xpc := (w.pc &&& 0x0FFFFFFFFFFFFFFC) ||| (BitVec.ofNat 64 w.ix <<< 60), xcause := BitVec.ofNat 64 t.cause, xval := t.val
      xstat := BitVec.ofNat 64 (w.latN * 256 + (if s.trappedChases id = [] then 0 else 16) + 1), slat := w.lat
      lat := [], latN := 0, super := true, xarm := true, pc := regs.1, ix := 0, fetched := false, words := [], wait := none
      token := none, susp := none, idleSince := s.clock, boosted := false }
    let delegated := w.super = false ∧ t.cause ∈ [6, 7, 0x0F, 0x10, 0x15, 0x16] ∧ regs.2.getLsbD t.cause = true ∧
      (s.comp w.cmp).tokens.length < 4096
    (¬ delegated → w.super = false → regs.1 ≠ 0 → regs.1.extractLsb' 0 2 = 0 → s.takeTrap id t = s.putWarp id saved) ∧
    (¬ delegated → (w.super = true ∨ regs.1 = 0 ∨ regs.1.extractLsb' 0 2 ≠ 0) → s.takeTrap id t =
      ((s.postFault (s.recordOf w t 0 true) (.record none none)).1).fence w.cmp w.ctx) ∧
    (∀ y, (s.takeTrap id t).warp id = some y →
      (s.takeAside id w t).warp id = some { y with idleSince := w.idleSince, boosted := w.boosted }) ∧
    (delegated → ∀ u k v, s.newToken w.cmp w.ctx (.warp id) = (u, k) →
      u.postFault (s.recordOf w t k false) (.record (some id) none) = (v, true) →
      s.takeTrap id t = v.putWarp id { w with
        wait := some .resume, token := some k, susp := some (t.cause, t.val), idleSince := s.clock, boosted := false }) ∧
    (Store.wf none s.warps = true → ∀ j x, s.warp j = some x → x.cmp = w.cmp → x.ctx = w.ctx → x.swapped = false →
      ∃ y, (s.fence w.cmp w.ctx).warp j = some y ∧ y.phase = .ended)

/-- R207, R317, R331, R338, Table 11.6: eret with an interrupted state goes back to user mode at the saved point with the
saved latches and their count, past the trapped instruction for an overrun, a software trap or a breakpoint, and clears the
state bit; where its warp has a chase that trapped, the stopped packets are sent again and the warp goes on where it stood
at the trap (log 11, the model's reading); the header's yield applies. Without an interrupted state it is an illegal
instruction (0x01). -/
def Sys2Proof.Claims.trapReturn : Prop :=
  ∀ (f : FmtS) (s : State) (w : Warp), Issues s w [] →
    let back : Warp := { w with
      pc := w.xpc &&& 0x0FFFFFFFFFFFFFFC, ix := (w.xpc.extractLsb' 60 4).toNat, fetched := false, words := [], lat := w.slat
      latN := (w.xstat.extractLsb' 8 4).toNat, slat := [], xstat := w.xstat &&& ~~~ 1, super := false, wait := none
      idleSince := s.clock, boosted := false }
    let next (chases : Table Chase) (w1 : Warp) : Prop := ∃ t y, exec (.eret f) s = .next t ∧
      t = { s with warps := t.warps, chases := chases } ∧ t.warp s.cur = some y ∧
      y = (if w.hdr.y then { w1 with yieldAt := some s.clock, yieldFor := y.yieldFor } else w1) ∧
      ∀ j, j ≠ s.cur → t.warp j = s.warp j
    (w.once none = false → ∃ t, exec (.eret f) s = .next t ∧ Retires s s t { w with wait := none }) ∧
    (w.once none = true → w.xstat.getLsbD 0 = false →
      exec (.eret f) s = .next ((s.readied w).takeTrap s.cur (Trap.of 0x01 (firstWord (.eret f))))) ∧
    (w.once none = true → w.xstat.getLsbD 0 = true →
      (w.xarm = false ∨ w.xcause.toNat ∉ [0x0C, 0x0F, 0x10, 0x12, 0x13] → next s.chases back) ∧
      (w.xarm = true → w.xcause.toNat ∈ [0x0C, 0x12, 0x13] → next s.chases { back with ix := back.ix + 1 }) ∧
      (w.xarm = true → w.xcause.toNat ∈ [0x0F, 0x10] →
        (s.chaseOf s.cur = none → next s.chases back) ∧
        ∀ k h, s.chaseOf s.cur = some (k, h) →
          let point := w.xback.getD back.point
          next (s.chases.put k { h with
              held := false
              rep := { h.rep with addrs := (h.packets.filter Packet.stopped).map fun p => (p.pos, p.ptr) }
              packets := h.packets.map fun p =>
                if p.stopped then { p with st := .flying, replay := true, hops := 0, owner := none } else p })
            { back with
              pc := point &&& 0x0FFFFFFFFFFFFFFC, ix := (point.extractLsb' 60 4).toNat, xback := none }))

/-- R317, R331, R335 to R338, R372 to R374: taking a trap, and returning from one. -/
def Obligations.TrapsTakenAndReturned : Prop := Claims.trapEntry ∧ Claims.trapReturn

/-- R277, R319, R398: what cfl does. Level 0: no loose byte and no dirty private byte stays in the issuing core's L1; kind 1
drops them, the others take each home where no link fails. Kind 0 keeps every line; the others leave no loose or private line
in that L1. Level 1, over a range of addresses, in the dirty lines of the compartment's stacks: kind 1 gives each line its
stack's bytes again, unless it is pinned (R152); else the stack takes the line's; other lines keep theirs. -/
def Sys2Proof.Claims.cacheControl : Prop :=
  (∀ (s : State) (w : Warp) (kind : Nat),
    let u := s.cflL1 w kind
    (∀ slot, slot / 128 = w.core → ∀ a < 2 ^ 96, u.l1.find (l1Key slot a) = none) ∧
    (∀ x ∈ s.privDirty w.core, ∀ b, u.blocks.find x.block = some b → b.priv.find x.off = none) ∧
    (kind = 1 → u.mem = s.mem ∧ u.warps = s.warps) ∧
    (kind = 0 → (∀ f ∈ s.fills, f ∈ u.fills) ∧ (w.quarter < 4 → ∀ l ∈ s.dirtyL1 w.core, u.filled w.core l = true)) ∧
    (kind ≠ 0 → ∀ f, f ∈ u.fills ↔ f ∈ s.fills ∧ ¬ (f.quarter / 4 = w.core ∧ f.weak = true)) ∧
    (kind ≠ 1 → (s.loose (ofCore w.core) 0 (2 ^ 96)).filter s.looseCut = [] → (∀ x ∈ s.privDirty w.core, s.broken w.core x.key = false) →
      u.warps = s.warps ∧
      (∀ a < 2 ^ 96, (∀ x ∈ s.privDirty w.core, x.key ≠ a) → Store.wf none s.l1 = true → ∀ slot, slot / 128 = w.core →
        (∀ n, n / 128 = w.core → n ≠ slot → s.l1.find (l1Key n a) = none) →
        u.byte a = ((s.l1.find (l1Key slot a)).map (·.1)).getD (s.byte a)) ∧
      ∀ x ∈ s.privDirty w.core, (∀ y ∈ s.privDirty w.core, y.key = x.key → y.val = x.val) → u.byte x.key = x.val)) ∧
  ∀ (s : State) (cmp lo n kind : Nat), s.memWf = true → Store.wf none s.stale = true → Store.wf none s.staleSide = true →
    let u := s.cflL2 cmp lo n kind
    let drops (l : Nat) : Prop := s.inRange cmp lo n l = true ∧ kind = 1 ∧ s.pinned l = false
    u.warps = s.warps ∧ u.homes = s.homes ∧
    (∀ a, (drops (a / 128) → u.byte a = (s.stale.find a).getD (s.byte a)) ∧ (¬ drops (a / 128) → u.byte a = s.byte a) ∧
      u.stale.find a = if s.inRange cmp lo n (a / 128) then none else s.stale.find a) ∧
    ∀ a, (drops (a / 8) → Store.get 0 u.side a = (s.staleSide.find a).getD (Store.get 0 s.side a)) ∧
      (¬ drops (a / 8) → Store.get 0 u.side a = Store.get 0 s.side a)

/-- R134, R152, R153, R315, R318 to R320, R371, R398: tlbi drops the translations of an address, of a context (global ones
stay) or of the compartment, mode 2 with a register that it does not read (log 30, the model's reading). cfl acts on level 0
or 1, and blocks while a byte of its core is for a plane that carries nothing. qdrain blocks while its block is beyond such a
plane; else it acts in its turn at the home: where nothing comes first and no slot is reserved or taken it sets broken in
mode 1, writes the block's line to its stack and unpins it, and else it waits in front of the home (log 34, DEDUCED), later
operations behind it. -/
def Sys2Proof.Claims.maintenance : Prop :=
  ∀ (f : FmtS) (s : State) (w : Warp),
    let idle : Warp := { w with wait := none }
    let r := s.readied w
    let x := w.kr f.x.toNat
    let mode := f.imm.toNat
    let on := w.once none
    (Issues s w ((if mode = 2 then [] else [.k f.x.toNat]) ++ if mode = 0 then [.k f.y.toNat] else []) →
      let illegal := exec (.tlbi f) s = .next (r.takeTrap s.cur (Trap.of 0x02 (firstWord (.tlbi f))))
      (mode = 2 → w.ka ≤ f.x.toNat → illegal) ∧
      (on = false → (mode = 2 → f.x.toNat < w.ka) → ∃ t, exec (.tlbi f) s = .next t ∧ Retires s s t idle) ∧
      (on = true → mode = 2 → f.x.toNat < w.ka → ∃ t, exec (.tlbi f) s = .next t ∧
        Retires s { s with tlb := s.tlb.filter fun e => e.cmp ≠ w.cmp } t idle) ∧
      (on = true → mode ≤ 1 → x.toNat / 65536 ≠ w.cmp → illegal) ∧
      (on = true → mode ≤ 1 → x.toNat / 65536 = w.cmp → ∃ t, exec (.tlbi f) s = .next t ∧
        Retires s { s with tlb := t.tlb } t idle ∧
        ∀ e, e ∈ t.tlb ↔ e ∈ s.tlb ∧ ¬ (e.cmp = w.cmp ∧ e.ctx = x.toNat % 65536 ∧ e.leaf.getLsbD 10 = false ∧
          (mode = 1 ∨ e.page = (w.kr f.y.toNat).toNat / 2 ^ pageBits e.level)))) ∧
    (Issues s w (if f.imm.getLsbD 2 then [.k f.x.toNat, .k f.y.toNat] else []) →
      let kind := mode % 4
      let held := r.backHeld (ofCore w.core) = true ∨ r.privStuck w.core = true ∨ ∃ x ∈ r.privDirty w.core, r.planeHeld x.key = true
      (on = false → ∃ t, exec (.cfl f) s = .next t ∧ Retires s s t idle) ∧
      (on = true → f.imm.getLsbD 2 = true → ∃ t, exec (.cfl f) s = .next t ∧
        Retires s (r.cflL2 w.cmp x.toNat (w.kr f.y.toNat).toNat kind) t idle) ∧
      (on = true → f.imm.getLsbD 2 = false → kind ≠ 1 → held → exec (.cfl f) s = .next (r.block s.cur .plane)) ∧
      (on = true → f.imm.getLsbD 2 = false → kind = 1 ∨ ¬ held →
        exec (.cfl f) s = .next ((r.cflL1 w.woken kind).advance s.cur))) ∧
    (Issues s w [.k f.x.toNat] →
      (on = false → ∃ t, exec (.qdrain f) s = .next t ∧ Retires s s t idle) ∧
      (on = true → x.toNat % 64 ≠ 0 → exec (.qdrain f) s = .next (r.takeTrap s.cur { Trap.of 0x05 x with write := true })) ∧
      (on = true → x.toNat % 64 = 0 → (∀ e, r.xany (r.agentOf w.woken) x .write = .error e → e.cause = heldCause →
        exec (.qdrain f) s = .next (r.block s.cur .plane)) ∧
        ∀ p, r.xany (r.agentOf w.woken) x .write = .ok p → r.planeHeld p.key = true ∨ r.leafHeld p true = true →
          exec (.qdrain f) s = .next (r.block s.cur .plane)) ∧
      (on = true → x.toNat % 64 = 0 → ∀ p, r.xany (r.agentOf w.woken) x .write = .ok p → r.planeHeld p.key = false →
        r.leafHeld p true = false →
        let v := Claims.atLine r w p
        (v.broken w.core p.key = true →
          exec (.qdrain f) s = .next ((v.storeFail s.cur w.woken none x).advance s.cur)) ∧
        (v.broken w.core p.key = false → (v.touch p true).homeIdle p.key = false ∨ (s.home p.key).busy ≠ [] →
          ∃ t op, exec (.qdrain f) s = .next t ∧ t.qops.find s.nextId = some op ∧ op.drain = some mode ∧
            op.agent = .warp s.cur w.slotNo (s.gen w.slotNo) ∧
            t.home p.key = { s.home p.key with line := (s.home p.key).line ++ [s.nextId], pin := true } ∧
            t.warp s.cur = some { w with wait := some (.queue s.nextId) } ∧ ∀ j, j ≠ s.cur → t.warp j = s.warp j) ∧
        (v.broken w.core p.key = false → (v.touch p true).homeIdle p.key = true → (s.home p.key).busy = [] →
          let u := if f.imm = 1 then (v.touch p true).qbreak p.key else v.touch p true
          ∃ t, exec (.qdrain f) s = .next t ∧
            Retires s { u with homes := t.homes, stale := t.stale, staleSide := t.staleSide } t idle ∧
            (f.imm = 1 → ((t.num (p.key + 14) 2).testBit 4 = true)) ∧
            t.homes = s.homes.put p.key { s.home p.key with pin := false } ∧
            ∀ a, t.stale.find a = if a / 128 = p.key / 128 then none else u.stale.find a)))

/-- R200, R322, R386: halt kills the issuing warp, which publishes no register and sends no loose byte home, and whose
trapped chases that wait for eret are discarded (its mgd twin and its block's joins are settled), or fences a context. A
context of another compartment, here and for tlbi, is an illegal operand. What still comes back for a killed warp is dropped;
it keeps its generation until its slot is returned (the moment: log 36, the model's choice). -/
def Sys2Proof.Claims.halting : Prop :=
  ∀ (f : FmtS) (s : State) (w : Warp), Issues s w (if f.imm = 1 then [.k f.x.toNat] else []) →
    let r := s.readied w
    let x := w.kr f.x.toNat
    (w.once none = false → ∃ t, exec (.halt f) s = .next t ∧ Retires s s t { w with wait := none }) ∧
    (w.once none = true → f.imm = 0 → ∃ u : State, exec (.halt f) s = .next ((u.twinGone s.cur w.woken).settleTwins w.block) ∧
      (∃ y, u.warp s.cur = some y ∧ y = { w with
        phase := .ended, killed := true, wait := none, mask := 0, acqAt := none, token := none, susp := none, xback := none
        pendV := y.pendV, d := y.d }) ∧
      u.mem = s.mem ∧ u.l1 = s.l1 ∧ u.gens = s.gens ∧
      (∀ k h, s.chases.find k = some h → Store.wf none s.chases = true →
        u.chases.find k = if h.warp = s.cur ∧ h.trapped = true ∧ h.held = true ∧ s.gen h.slot = h.gen then none
          else some h) ∧
      ∀ b, s.blocks.find w.block = some b → ∃ b1, u.blocks.find w.block = some b1 ∧ b1.gpub = b.gpub ∧
        b1.live = b.live - count w.mask ∧ (∀ q ∈ b1.claims, q.2 ≠ s.cur) ∧
        ∀ g, b.gowner.find g = some s.cur → Store.wf none b.gowner = true → b1.gowner.find g = none) ∧
    (w.once none = true → f.imm = 1 → x.toNat / 65536 ≠ w.cmp →
      exec (.halt f) s = .next (r.takeTrap s.cur (Trap.of 0x02 (firstWord (.halt f))))) ∧
    (w.once none = true → f.imm = 1 → x.toNat / 65536 = w.cmp →
      exec (.halt f) s = .next (if x.toNat % 65536 = w.ctx then r.fence w.cmp w.ctx
        else (r.fence w.cmp (x.toNat % 65536)).advance s.cur))

/-- R51, R161, R165, R169, R386: fencing a context. It is marked; its warps end, and their blocked requests leave every list;
its copy commands not yet taken are cancelled with status 2, those that run stop with status 3; its chases are dropped; the
records and pool entries of its blocks are discarded; an event of kind context-fenced is posted. Commands, chases, records
and requests of others stay. -/
def Sys2Proof.Claims.fencing : Prop :=
  ∀ (s : State) (cmp ctx : Nat),
    let t := s.fence cmp ctx
    let mine (w : Warp) : Prop := w.cmp = cmp ∧ w.ctx = ctx
    (∃ v : State, t = v.postEvent cmp 6 6 0 (BitVec.ofNat 64 (ctxid cmp ctx))) ∧
    (∀ o, s.ctxOf cmp ctx = some o → ∃ o1, t.ctxOf cmp ctx = some o1 ∧ o1.fenced = true) ∧
    (Store.wf none s.warps = true → ∀ id w, s.warp id = some w → mine w → w.swapped = false → w.phase ≠ .ended →
      (∃ y, t.warp id = some y ∧ y.phase = .ended ∧ y.mask = 0) ∧
      (∀ op k, w.wait = some (.queue op) → op < s.nextId → s.homeOf op = some k →
        op ∉ (t.home k).enqW ∧ op ∉ (t.home k).deqW ∧ op ∉ (t.home k).line ∧ t.qops.find op = none) ∧
      (∀ n, w.wait = some (.barrier n) → t.barWaits.find n = none)) ∧
    (Store.wf none s.cmds = true → ∀ id c, s.cmds.find id = some c →
      t.cmds.find id = some (if c.cmp = cmp ∧ c.ctx = ctx ∧ c.status = 0 then
        { c with status := if c.taken = true then 3 else 2 } else c)) ∧
    (∀ id c, t.chases.find id = some c → Store.wf none s.chases = true → s.chases.find id = some c ∧ ¬ (c.cmp = cmp ∧ c.ctx = ctx)) ∧
    (∀ id c, s.chases.find id = some c → Store.wf none s.chases = true → ¬ (c.cmp = cmp ∧ c.ctx = ctx) →
      (∀ w, s.warp c.warp = some w → ¬ mine w) → t.chases.find id = some c) ∧
    (∀ k b c, s.blocks.find k = some b → s.clusters.find b.cluster = some c → ∃ b1, t.blocks.find k = some b1 ∧
      b1.recs = if c.cmp = cmp ∧ c.ctx = ctx then [] else b.recs) ∧
    ∀ k op, (op ∈ (s.home k).enqW ∨ op ∈ (s.home k).deqW) → (∀ id w, s.warp id = some w → mine w → w.wait ≠ some (.queue op)) →
      op ∈ (t.home k).enqW ∨ op ∈ (t.home k).deqW

/-- R51, R134, R152, R153, R161, R165, R169, R200, R315, R318 to R320, R322, R371, R386, R398: tlbi, cfl, qdrain, halt, and
what fencing a context does. -/
def Obligations.SystemMaintenance : Prop := Claims.cacheControl ∧ Claims.maintenance ∧ Claims.halting ∧ Claims.fencing

/-- R321, R379, R380, R384, R397: ctxs and ctxr. A token that names no cluster of the compartment, a cluster already out
(ctxs) or not out (ctxr), or for ctxs the warp's own cluster, is an illegal operand, then a misaligned area is a misaligned
access. ctxs checks the whole save bound of the area, stops the cluster, and while its work has not ended waits; then it has
saved the cluster and goes on. ctxr sends its warp's loose bytes home first (R134), checks the area whole before any effect
(header bytes that are to be zero included, log 59, the model's choice), waits while the cluster cannot be placed, and then
has restored it. An area beyond a failed link is refused before any effect (log 45, the model's choice). -/
def Sys2Proof.Claims.contextSwap : Prop :=
  ∀ (f : FmtS) (s : State) (w : Warp), Issues s w [.k f.x.toNat, .k f.y.toNat] →
    let r := s.readied w
    let ag := r.agentOf w.woken
    let area := w.kr f.x.toNat
    let token := w.kr f.y.toNat
    let illegal (i : Instr) : Prop := exec i s = .next (r.takeTrap s.cur (Trap.of 0x02 (firstWord i)))
    (w.once none = false → ∀ i ∈ [Instr.ctxs f, .ctxr f],
      ∃ t, exec i s = .next t ∧ Retires s s t { w with wait := none }) ∧
    (w.once none = true →
      (s.clusterOf w.cmp token = none → illegal (.ctxs f) ∧ illegal (.ctxr f)) ∧
      ∀ id c, s.clusterOf w.cmp token = some (id, c) →
        let inside := c.swapped = true ∨ w.block ∈ c.blocks
        let gone := c.swapped = false ∨ s.ctxGone c.cmp c.ctx = true
        (inside → illegal (.ctxs f)) ∧ (gone → illegal (.ctxr f)) ∧
        (¬ inside → area.toNat % 64 ≠ 0 →
          exec (.ctxs f) s = .next (r.takeTrap s.cur { Trap.of 0x05 area with write := true })) ∧
        (¬ gone → area.toNat % 64 ≠ 0 → exec (.ctxr f) s = .next (r.takeTrap s.cur (Trap.of 0x05 area))) ∧
        (¬ inside → area.toNat % 64 = 0 →
          (∀ e, r.xspan ag area (r.saveBound c) .write = .error e →
            exec (.ctxs f) s = .next (r.takeTrap s.cur (e.2.trap e.1 true none))) ∧
          ∀ l0, r.xspan ag area (r.saveBound c) .write = .ok l0 →
          ((∃ p ∈ l0, r.broken w.core p.1.key = true) →
            exec (.ctxs f) s = .next (r.takeTrap s.cur { Trap.of 0x15 area with write := true })) ∧
          ((∀ p ∈ l0, r.broken w.core p.1.key = false) →
            (r.saveCluster id c w.woken area = none →
              exec (.ctxs f) s = .next (({ r with
                clusters := s.clusters.put id { c with stopping := some s.cur } } : State).block s.cur .sys)) ∧
            ∀ t, r.saveCluster id c w.woken area = some t → exec (.ctxs f) s = .next (t.advance s.cur))) ∧
        (¬ gone → area.toNat % 64 = 0 → r.backHeld (ofWarp w) = true → exec (.ctxr f) s = .next (r.block s.cur .sys)) ∧
        (¬ gone → area.toNat % 64 = 0 → r.backHeld (ofWarp w) = false →
          let v := r.sendOwn w
          let va := v.agentOf w.woken
          let bad : Prop := exec (.ctxr f) s = .next (v.takeTrap s.cur (Trap.of 0x02 (firstWord (.ctxr f))))
          (∀ e, v.xspan va area 64 .read = .error e →
            exec (.ctxr f) s = .next (v.takeTrap s.cur (e.2.trap e.1 false none))) ∧
          ∀ h, v.xspan va area 64 .read = .ok h →
          let head := v.readSpan h
          let size := bytesAt head 8 8
          (v.spanBad w.core h = true ∨ headerOk c (v.clusterWarps c).length head = false ∨ size < 64 → bad) ∧
          (v.spanBad w.core h = false → headerOk c (v.clusterWarps c).length head = true → 64 ≤ size →
            (∀ e, v.xspan va area size .read = .error e →
              exec (.ctxr f) s = .next (v.takeTrap s.cur (e.2.trap e.1 false none))) ∧
            ∀ l, v.xspan va area size .read = .ok l →
            let parsed := v.parseBlocks (v.clusterBlocks c) ((v.readSpan l).drop 64)
            let held := ∃ p ∈ l, v.planeHeld p.1.key = true ∨ v.leafHeld p.1 false = true
            (v.spanBad w.core l = true → bad) ∧
            (v.spanBad w.core l = false → held → exec (.ctxr f) s = .next (v.block s.cur .sys)) ∧
            (v.spanBad w.core l = false → ¬ held →
              (parsed = none → bad) ∧
              ∀ saved, parsed = some saved →
                let u := l.foldl (fun v p => v.touch p.1 false) v
                ((∀ placed, u.seatAll c = some placed → u.resumeCluster placed id c saved = none) →
                  exec (.ctxr f) s = .next (u.block s.cur .sys)) ∧
                ∀ placed t, u.seatAll c = some placed → u.resumeCluster placed id c saved = some t →
                  exec (.ctxr f) s = .next (t.advance s.cur)))))

/-- R67, R83, R376, R379, R380: saving a cluster: the requests of its warps are withdrawn, its work ends and its loose bytes
and those of the warp that saves it go home (log 21); then the area of Tables 17.4 and 17.5 is written and the cluster leaves
the part: its ended warps are gone, each other warp keeps its values and what it waits for, is out of its slot, whose
generation has stepped, and has no read or chase in flight; other warps stay. The header of an area names the cluster, its blocks, its warps and the size. -/
def Sys2Proof.Claims.swapping : Prop :=
  (∀ (s : State) (id : Nat) (c : Cluster) (by_ : Warp) (area : DWord) (t : State),
    s.saveCluster id c by_ area = some t →
    let v := ((s.withdrawAll (s.clusterWarps c)).drain id c).sendHome (s.saveSlots c by_) 0 (2 ^ 96)
    v.drained id c = true ∧ s.backHeld (s.saveSlots c by_) = false ∧
    (∀ slot, s.saveSlots c by_ slot = true ↔ slot = by_.slotNo ∨ ∃ j x, (j, x) ∈ s.warps.all ∧ x.block ∈ c.blocks ∧
      x.swapped = false ∧ x.slotNo = slot) ∧
    ∃ recs l, v.xspan (s.agentOf by_) area (v.areaBytes c recs).length .write = .ok l ∧
      (∀ n, recs n = v.flightRecs n ++ match s.warp n with | some w => s.waitRecs w | none => []) ∧
      (∀ p ∈ l, s.planeHeld p.1.key = false ∧ s.leafHeld p.1 true = false) ∧ t = (v.writeSpan l (v.areaBytes c recs)).swapOut id c) ∧
  (∀ (s : State) (id : Nat) (c : Cluster),
    let t := s.swapOut id c
    t.clusters.find id = some { c with swapped := true, stopping := none } ∧ t.mem = s.mem ∧ t.side = s.side ∧
    (Store.wf none s.warps = true → ∀ j x, s.warp j = some x →
      (x.block ∉ c.blocks → t.warp j = some x) ∧
      (x.block ∈ c.blocks → x.phase = .ended → t.warp j = none) ∧
      (x.block ∈ c.blocks → x.phase ≠ .ended →
        (∃ y, t.warp j = some y ∧ y = { x with
          swapped := true, score := 0, boosted := false, yieldAt := none, yieldFor := [], walks := y.walks }) ∧
        ((∀ i y, i ≠ j → s.warp i = some y → y.block ∈ c.blocks → y.slotNo ≠ x.slotNo) →
          t.gen x.slotNo = (s.gen x.slotNo + 1) % 64) ∧
        (Store.wf none s.loads = true → ∀ n l, t.loads.find n = some l → l.warp ≠ j) ∧
        (Store.wf none s.chases = true → ∀ n h, t.chases.find n = some h → h.warp ≠ j))) ∧
    ∀ k b, k ∈ c.blocks → s.blocks.find k = some b → ∃ b1, t.blocks.find k = some b1 ∧ b1.swapped = true) ∧
  ∀ (s : State) (c : Cluster) (recs : Nat → List SavedRec),
    let a := s.areaBytes c recs
    bytesAt a 0 4 = 0x58434A51 ∧ bytesAt a 4 2 = 1 ∧ bytesAt a 6 2 = c.blocks.length % 2 ^ 16 ∧
    bytesAt a 8 8 = a.length % 2 ^ 64 ∧ bytesAt a 16 8 = c.token.toNat ∧
    bytesAt a 24 4 = (s.clusterWarps c).length % 2 ^ 32 ∧ bytesAt a 28 4 = 0 ∧ bytesAt a 32 8 = s.gtime % 2 ^ 64 ∧
    bytesAt a 40 24 = 0

/-- R67, R376, R377, R382 to R384: a warp record as ctxs writes it (the index that it holds: log 22, the model's choice) is read
back whole by ctxr, whatever follows it, and gives a warp its resume point, mask, age, exception registers, flags, v, e and k
registers, predicates, latches and accumulator again, and its state (Table 2.4): one that was not blocked is in its phase,
one that was blocked until it issues again is blocked as it was (log 54, DEDUCED: the model's reading); an `xpc` that the area
holds changed is a written one, from which eret resumes without its cause (R331, R384); and a coded v register is read back by its own bytes. -/
def Sys2Proof.Claims.restoring : Prop :=
  (∀ (w : Warp) (r : Nat) (rest : List Byte),
    parseReg (codedReg w r ++ rest) = some ((List.range 128).map fun t => w.vr r t, rest)) ∧
  ∀ (s : State) (recs : List SavedRec) (id index clock out : Nat) (w w0 : Warp) (rest : List Byte),
    w.va < 256 → w.ka ≤ 128 → w.ta < 256 → w.age < 2 ^ 64 → w.twin < 4 → w.latN < 16 → w.ix < 16 →
    w.pc = w.pc &&& 0x0FFFFFFFFFFFFFFC → recs.length < 2 ^ 32 →
    (∀ r ∈ recs, 1 ≤ r.kind ∧ r.kind ≤ 9 ∧ r.counter < 4 ∧ r.ix < 256 ∧ r.payload.length < 2 ^ 32) →
    ∃ x, parseWarp (s.warpBytes recs id w index ++ rest) = some (x, rest) ∧ x.recs = recs ∧
      let y := w0.fromArea clock out x
      y.pc = w.pc ∧ y.ix = w.ix ∧ y.mask = w.mask ∧ y.age = w.age ∧ y.super = w.super ∧ y.formed = w.formed ∧
      y.twin = w.twin ∧ y.latN = w.latN ∧ y.fflags = w.fflags ∧ y.va = w.va ∧ y.ka = w.ka ∧ y.ta = w.ta ∧
      y.xpc = w.xpc ∧ y.xcause = w.xcause ∧ y.xval = w.xval ∧ y.xstat = w.xstat ∧ y.xscr0 = w.xscr0 ∧ y.xscr1 = w.xscr1 ∧
      (∀ r < w.va, (∀ p < 128, y.vr r p = w.vr r p) ∧ ∀ i < 32, y.er r i = w.er r i) ∧
      (s.blockedNow w = false → w.phase ≠ .ended → y.phase = w.phase ∧ y.wait = none) ∧
      (s.blockedNow w = true → w.token = none → ∀ v, w0.wait = some v → v.reissues = true → y.wait = some v) ∧
      y.xarm = (w0.xarm && decide (w0.xpc = w.xpc)) ∧
      (∀ r < w.ka, y.kr r = w.kr r) ∧ (∀ n < 8, y.pr n = w.pr n) ∧ (∀ n < 4, ∀ p < 128, y.lr n p = w.lr n p) ∧
      ∀ i < 1024 * w.ta, Store.get 0 y.acc i = Store.get 0 w.acc i

/-- R67, R83, R134, R321, R331, R376, R377, R379, R380, R382 to R384, R397: ctxs, ctxr, and what is saved and restored. The choices
and readings of the model in it are those of logs 21, 22, 45, 54 and 59. -/
def Obligations.ContextSwap : Prop := Claims.contextSwap ∧ Claims.swapping ∧ Claims.restoring

/-! ### The warp former, grants and schedulers (R39 to R44, R53 to R57, R67, R84, R361, R362) -/

/-- R53 to R57, R66, R83: WARP_FORMATION and GROUP_WAIT_EXPIRY form a warp from the group of a record, for its size, a quiet
block or a pool wait, or once its oldest record has waited 2,048 clocks, in a slot that the former may take, where no
record of the group waits on a resume token; else nothing changes (an event that may not act yet: log 23, the model's
choice). The 128 oldest records of the group are read and gone; the warp holds their threads in
ascending wid order from position 0 on, each with its v registers, its link pair and its predicates, every other v and e
register zero, the k registers of the snapshot, the full allotment, its records' twin and mode, at their clause. -/
def Sys2Proof.Claims.forming : Prop :=
  (∀ (s : State) (block rec_ slot : Nat) (b : Block) (r : Rec) (c : Cluster), s.blocks.find block = some b →
    b.recs.find? (fun r => r.slot == rec_) = some r → s.clusters.find b.cluster = some c →
    let g := s.groupOf block b r
    let free := b.swapped = false ∧ g ≠ [] ∧ (∀ x ∈ g, x.token = none) ∧ s.formerSlot b slot = true
    let may := 128 ≤ g.length ∨ s.quiet block = true ∨ (s.poolWaits block = true ∧ b.holdsOldest g = true)
    let late := ∃ o rest, g = o :: rest ∧ o.waited + 2048 ≤ s.clock
    (∀ x, x ∈ g ↔ x ∈ b.recs ∧ x.pc = r.pc ∧ x.follower = r.follower ∧ x.super = r.super ∧ x.m = r.m ∧ x.pool = r.pool ∧
      s.joinTwin block b x = none) ∧
    (free → may → exec (.warpFormation block rec_ slot) s = .next (s.form block slot b c g)) ∧
    (free → late → exec (.groupWaitExpiry block rec_ slot) s = .next (s.form block slot b c g)) ∧
    (¬ (free ∧ may) → exec (.warpFormation block rec_ slot) s = .next s) ∧
    (¬ (free ∧ late) → exec (.groupWaitExpiry block rec_ slot) s = .next s)) ∧
  ∀ (s : State) (block slot : Nat) (b : Block) (c : Cluster) (g : List Rec) (l : List (Rec × RecImage)) (s1 s2 : State)
    (h : Rec × RecImage) (rest : List (Rec × RecImage)) (ks : List DWord),
    let ag : Agent := ⟨c.cmp, c.ctx, slot / 128, b.cluster⟩
    s.readRecs ag b (g.take 128) = .ok (l, s1) →
    sortBy (fun x y => x.2.wid.toNat < y.2.wid.toNat) l = h :: rest →
    s1.readSnap ag b h.2.snap h.1.m = .ok (ks, s2) → s2.blocks.find block = some b →
    let n := (h :: rest).length
    let word (l : List Byte) (i : Nat) : Word := BitVec.ofNat 32 (natOfBytes ((l.drop (4 * i)).take 4))
    ∃ (v : State) (w : Warp), s.form block slot b c g = v.settleTwins block ∧ (b.paired = false → v.settleTwins block = v) ∧
      v.warp s2.nextId = some w ∧ (∀ j, j ≠ s2.nextId → v.warp j = s2.warp j) ∧
      (∀ p < 128, w.mask.getLsbD p = decide (p < n)) ∧
      (∀ p < n, ∀ x, (h :: rest)[p]? = some x → Store.get 0 w.wids p = x.2.wid ∧
        (∀ i < 112, w.vr i p =
          if 110 ≤ i ∧ i < 110 + x.2.link.length / 4 then word x.2.link (i - 110)
          else if i < x.2.live.length / 4 then word x.2.live i else 0) ∧
        ∀ i < 7, (w.pr (i + 1)).getLsbD p = x.2.preds.testBit i) ∧
      (∀ r i, w.er r i = 0) ∧ (∀ i, w.kr i = ks.getD i 0) ∧ (∀ i, w.dn i = 0) ∧ w.latN = 0 ∧ w.lat = [] ∧
      w.core = slot / 128 ∧ w.quarter = slot / 32 % 4 ∧ w.slot = slot % 32 ∧ w.block = block ∧ w.formed = true ∧
      w.twin = (if b.paired then (if h.2.flags.testBit 1 then 1 else 0) else 2) ∧ w.super = h.2.flags.testBit 3 ∧
      w.phase = .running ∧ w.wait = none ∧ w.pc = h.2.pc ∧ w.ix = 0 ∧ w.full = true ∧ w.va = b.fv ∧ w.ka = b.ka ∧
      w.ta = b.acc ∧ v.gen slot = (s2.gen slot + 1) % 64 ∧
      ∃ b1, v.blocks.find block = some b1 ∧
        b1.recs = b.recs.filter fun x => !(((g.take 128).map (·.slot)).contains x.slot)

/-- R54, R368, R385, R398, Table 2.3: what the warp former reads of a record slot: its destination, wid, snapshot offset,
predicates and flags, as many of its v registers as the allotment has, and the link pair where the flag is set and the
allotment reaches it; the bytes are those of memory, with A set, where none has failed. Bytes of a record that lie beyond its
block's region are read line by line, those of a line that cannot be read as free values (log 2). -/
def Sys2Proof.Claims.recordsRead : Prop :=
  (∀ (s : State) (ag : Machine.Agent) (va : DWord) (n : Nat) (t : Trans), s.xspan ag va n .read = .ok [(t, n)] →
    s.planeHeld t.key = false → s.leafHeld t false = false → s.runFailed t.key n = false → s.broken ag.core t.key = false →
    s.fetchSpan ag va n = .ok (s.bytes t.key n, s.touch t false)) ∧
  (∀ (s u1 u2 u3 : State) (ag : Machine.Agent) (b : Block) (va slot : Nat) (head live link : List Byte),
    let a := b.spawnBase + BitVec.ofNat 64 (slot * (24 + 4 * b.lmax))
    let l := bytesAt head 21 1
    let flags := bytesAt head 22 2
    s.fetchSpan ag a 24 = .ok (head, u1) → u1.fetchSpan ag (a + 24) (4 * min l va) = .ok (live, u2) →
    u2.fetchSpan ag (a + BitVec.ofNat 64 (24 + 4 * l)) (if flags.testBit 2 ∧ 112 ≤ va then 8 else 0) = .ok (link, u3) →
    slot * (24 + 4 * b.lmax) + 24 + 4 * l + 8 ≤ b.poolOffset b.poolSize → b.poolOffset b.poolSize < 2 ^ 64 →
    s.readRec ag b va slot = .ok (⟨BitVec.ofNat 64 (bytesAt head 0 8), BitVec.ofNat 64 (bytesAt head 8 8), bytesAt head 16 4,
      bytesAt head 20 1, flags, live, link⟩, u3)) ∧
  ∀ (s : State) (ag : Machine.Agent) (va : DWord) (n : Nat) (rest : List (DWord × Nat)),
    (∀ l u, s.fetchSpan ag va n = .ok (l, u) → ∀ m v, u.strayRuns ag rest = .ok (m, v) →
      s.strayRuns ag ((va, n) :: rest) = .ok (l ++ m, v)) ∧
    (∀ e, s.fetchSpan ag va n = .error e → e.2.cause ≠ heldCause →
      ∀ m v, ({ s with fresh := s.fresh + 1 } : State).strayRuns ag rest = .ok (m, v) →
        s.strayRuns ag ((va, n) :: rest) = .ok ((List.range n).map (Config.strayByte s.fresh) ++ m, v))

/-- R39 to R41, R43, R44, R67, R84, R361, R362: ACQUIRE_GRANT gives the oldest request of a quarter its full allotment
where its growth fits; GCLAIM_GRANT gives an unowned register to its oldest claim; ALLOTMENT_RETURN takes an ended warp's
slot and allotment back once nothing of it or of the slot's next generation is in flight and the loose bytes that the L1
still holds for it are home, and steps the generation (the moment: log 36, the model's choice);
ADMISSION_THROTTLE marks a core on which an acquire has waited more than 4,096 clocks, and a clock that begins without one
lifts the mark; PRIORITY_BOOST raises a warp that has been ready, or kept from a start by the throttle alone, for
768 clocks without one; SCORE_DECAY halves the scores of a quarter once for every 1,024 clocks that have passed. -/
def Sys2Proof.Claims.grants : Prop :=
  ∀ (s : State),
    (∀ q id w rest, s.acquirers (q / 4) (q % 4) = (id, w) :: rest → s.warp id = some w → s.growthFits w = true →
      let full := s.fullOf w
      ∃ t w', exec (.acquireGrant q) s = .next t ∧ t = { s with warps := t.warps } ∧ t.warp id = some w' ∧
        MovedOn s { w with va := full.1, ta := full.2, full := true, phase := .running, acqAt := none } w' ∧
        ∀ j, j ≠ id → t.warp j = s.warp j) ∧
    (∀ q id w rest, s.acquirers (q / 4) (q % 4) = (id, w) :: rest → s.growthFits w = false →
      exec (.acquireGrant q) s = .next s) ∧
    (∀ block g b n id w, s.blocks.find block = some b → b.gowner.find g = none →
      b.claims.find? (fun p => p.1 == g) = some (n, id) → s.warp id = some w →
      ∃ t b1 w', exec (.gclaimGrant block g) s = .next t ∧
        t = { s with blocks := s.blocks.put block b1, warps := t.warps, fresh := s.fresh + 1 } ∧
        b1 = { b with gowner := b.gowner.put g id, gown := b1.gown
                      claims := b.claims.filter fun p => !(p.1 == g && p.2 == id) } ∧
        t.warp id = some w' ∧ MovedOn s w w' ∧ ∀ j, j ≠ id → t.warp j = s.warp j) ∧
    (∀ id w b, s.warp id = some w → s.blocks.find w.block = some b →
      let free := w.phase = .ended ∧ s.inFlight id = false ∧ s.genFree w.slotNo = true ∧ s.backHeld (ofWarp w) = false
      let u := s.sendOwn w
      (¬ free → exec (.allotmentReturn id) s = .next s) ∧
      (free → ∃ t b1, exec (.allotmentReturn id) s = .next t ∧ t.warp id = none ∧ (∀ j, j ≠ id → t.warp j = u.warp j) ∧
        (s.loose (ofWarp w) 0 (2 ^ 96) = [] → u.warps = s.warps ∧ u.mem = s.mem) ∧
        t = { u with warps := u.warps.erase id, blocks := s.blocks.put w.block b1, gens := t.gens } ∧
        b1 = { b with resWarp := if b.resWarp = some id then none else b.resWarp } ∧
        ∀ n, t.gen n = if n = w.slotNo then (s.gen n + 1) % 64 else s.gen n)) ∧
    (∀ core, ∃ t, exec (.admissionThrottle core) s = .next t ∧ t = { s with throttled := t.throttled } ∧
      (core ∈ t.throttled ↔ core ∈ s.throttled ∨ s.longWait core = true) ∧
      ∀ c, c ≠ core → (c ∈ t.throttled ↔ c ∈ s.throttled)) ∧
    (s.liftThrottle = { s with throttled := s.liftThrottle.throttled } ∧
      ∀ c, c ∈ s.liftThrottle.throttled ↔ s.longWait c = true) ∧
    (∀ id w, s.warp id = some w → exec (.priorityBoost id) s = .next
      (if s.mayIssue w = true ∧ s.blockedNow w = false ∧ w.idleSince + 768 ≤ s.clock then s.putWarp id { w with boosted := true } else s)) ∧
    (∀ q, let n := s.clock / 1024 - Store.get 0 s.decayAt q / 1024
      ∃ t, exec (.scoreDecay q) s = .next t ∧ t = { s with warps := t.warps, decayAt := t.decayAt } ∧
      (n = 0 → t = s) ∧
      (∀ j, t.warp j = (s.warp j).map fun w => if w.quarterNo = q then { w with score := w.score / 2 ^ n } else w) ∧
      ∀ r, Store.get 0 t.decayAt r = if r = q ∧ n ≠ 0 then s.clock else Store.get 0 s.decayAt r)

/-- R39 to R41, R43, R44, R53 to R57, R67, R83, R84, R361, R362: forming warps from records, the records that are read,
granting acquired registers, and the agents that choose what issues. -/
def Obligations.FormerAndSchedulers : Prop := Claims.forming ∧ Claims.recordsRead ∧ Claims.grants

/-! ### Launches (R20 to R30, R89, R348 to R358, R408) -/

/-- R349 to R352, R408, Tables 16.1, 16.2: LAUNCH_DEQUEUE asks the queue for an element while the launch table has a free
entry and delivers it there; the queue is reached in its context, or from the root that a destroyed context had (log 48, the
model's choice). A refusal at the queue's home stops the queue with a record of the walk's or the checks' cause (R408), and
so does a control block or an entry that does not translate (log 52, the model's choice). A header is rejected with the lowest reason that holds, 11 before every other, else queued, and the queue's
head compares its dependence; DEPENDENCE_RELEASE activates or rejects a launch whose barrier's phase has changed. -/
def Sys2Proof.Claims.dequeues : Prop :=
  ∀ (s : State),
    (∀ cmp lq va need, (∀ c, s.ctxOf cmp lq.ctx = some c → s.queueXlate cmp lq va need = s.xlate (distAgent cmp lq.ctx) va need) ∧
      (s.ctxOf cmp lq.ctx = none → s.queueXlate cmp lq va need = s.xlateVia (lq.root, (s.comp cmp).group) va need)) ∧
    (∀ cmp q lq why, s.stopQueue cmp q lq why = if lq.stopped = true ∨ why.cause = heldCause then s
      else (s.mapComp cmp fun c => { c with queues := c.queues.put q { lq with stopped := true } }).distFault cmp lq.ctx why
        lq.block true) ∧
    (∀ cmp q lq ix, s.launchQueue cmp q = some lq → s.freeEntry cmp q lq = some ix →
      (∀ e, s.queueXlate cmp lq lq.block .write = .error e →
        exec (.launchDequeue cmp q) s = .next (s.stopQueue cmp q lq e)) ∧
      ∀ t e, s.queueXlate cmp lq lq.block .write = .ok t →
        units (fun x => s.queueXlate cmp lq x .write) (lq.table + BitVec.ofNat 64 (128 * ix)) 128 = .error e →
        exec (.launchDequeue cmp q) s = .next (s.stopQueue cmp q lq e.2)) ∧
    (∀ cmp q lq ix t entry, s.launchQueue cmp q = some lq → s.freeEntry cmp q lq = some ix →
      s.queueXlate cmp lq lq.block .write = .ok t → s.leafHeld t true = false →
      units (fun x => s.queueXlate cmp lq x .write) (lq.table + BitVec.ofNat 64 (128 * ix)) 128 = .ok entry →
      s.distOp cmp q = none → lq.stopped = false → s.planeHeld t.key = false → s.homeIdle t.key = true →
      let op := s.distRequest cmp q lq
      (op.enq = false ∧ op.span = 128 ∧ op.agent = .distributor q ∧ op.addr = lq.block ∧ op.cmp = cmp) ∧
      (∀ c v u, s.tick1.qserve t.key s.nextId op (s.qempty t.key false) = .refuse c v u →
        exec (.launchDequeue cmp q) s = .next (u.stopQueue cmp q lq c)) ∧
      (s.tick1.qserve t.key s.nextId op (s.qempty t.key false) = .wait →
        exec (.launchDequeue cmp q) s = .next ((s.tick1.touch t true).qjoin t.key s.nextId op)) ∧
      (∀ u, s.tick1.qserve t.key s.nextId op (s.qempty t.key false) = .served u →
        exec (.launchDequeue cmp q) s = .next ((u.touch t true).distDeliver cmp q lq s.nextId ix entry))) ∧
    (∀ cmp q lq id ix entry k op, s.busyHome id = some k → s.qfirst k false = some (id, op) → s.slotHeld op = false →
      s.distDeliver cmp q lq id ix entry =
        (s.deliverOne k id op).accept cmp q lq ix entry (s.slotBytes k (op.slots.headD []) 128)) ∧
    (∀ cmp q lq ix entry l, let u := s.writeUnits entry l
      let addr := lq.table + BitVec.ofNat 64 (128 * ix)
      (∀ k, u.rejectFor cmp lq.ctx l = some k → s.accept cmp q lq ix entry l = u.reject cmp lq.ctx k addr) ∧
      (u.rejectFor cmp lq.ctx l = none → s.accept cmp q lq ix entry l = ({ u with
        nextId := u.nextId + 1
        launches := u.launches.put u.nextId ⟨cmp, q, lq.ctx, lq.super, ix, addr, headerOf l, .queued, 0⟩ } : State).pumpAll
          cmp q)) ∧
    (∀ cmp ctx l, let h := headerOf l
      let bad := [(s.ctxGone cmp ctx, 11), (badMagic l, 1), (decide (h.entry.extractLsb' 0 2 ≠ 0) || h.entry.getLsbD 63, 2),
        (h.badFields, 3), (h.badAllotments, 4), (h.badRegion, 5), (decide (1024 < h.scratch ∨ h.privBytes % 4 ≠ 0), 6),
        (decide (h.coop ≠ decide (2 ≤ h.coresPer)), 7),
        (decide (16 < h.perCluster * h.coresPer ∨ s.dieCores cmp < h.perCluster * h.coresPer), 8), (h.tooBig, 9),
        ((match h.dep with | some p => s.badBarrier cmp ctx p.1 .read | none => false)
          || (match h.comp with | some a => s.badBarrier cmp ctx a .write | none => false), 10)]
      s.rejectFor cmp ctx l = (bad.find? fun p => p.1).map (·.2)) ∧
    ∀ id l n b p, s.launches.find id = some l → l.state = .waiting → s.depWait id = some (n, b) → b.woken = some p →
      let u : State := { s with barWaits := s.barWaits.erase n }
      exec (.dependenceRelease id) s =
        .next ((if p = 16 then u.rejectLate id l else u.activate id l).pumpAll l.cmp l.queue)

/-- R29, R40, R62, R83, R89, R339, R353 to R357: CLUSTER_PLACEMENT places the next cluster of a launch whole where no launch
that comes before could be placed on any cores: its blocks on distinct cores of one die that admit them, each block with its
region, every unit of a block a warp in the lowest free slot of its quarter under the slot's next generation, or a pair in two
adjacent slots, each warp as R89 gives; RESOURCE_REPORT renews the distributor's view of a die at most once in every 64 clocks. That
the slot is the lowest free one of its quarter is log 16 (DESIGN CHOICE): R354 names no slot. -/
def Sys2Proof.Claims.placing : Prop :=
  ∀ (s : State),
    (∀ id l cores rot, s.launches.find id = some l →
      ((∀ p ∈ s.launches.all, tried p (id, l) = true → s.placeable p.1 p.2 = false) →
        exec (.clusterPlacement id cores rot) s = .next ((s.tryPlace id l cores rot).getD s)) ∧
      ((∃ p ∈ s.launches.all, tried p (id, l) = true ∧ s.placeable p.1 p.2 = true) →
        exec (.clusterPlacement id cores rot) s = .next s)) ∧
    (∀ p r : Nat × Launch, tried p r = true ↔
      r.2.hdr.prio < p.2.hdr.prio ∨ (p.2.hdr.prio = r.2.hdr.prio ∧ p.1 < r.1)) ∧
    (∀ id l, s.placeable id l = true → ∃ cores rot t, s.tryPlace id l cores rot = some t) ∧
    (∀ id l cores rot t, s.tryPlace id l cores rot = some t →
      l.state = .active ∧ s.ctxGone l.cmp l.ctx = false ∧ l.next < l.hdr.clusters ∧ s.coresOk l.cmp l.hdr cores = true ∧
      ∃ v, allSteps (fun v p => v.placeBlock id l s.nextId rot p) (s.newCluster id l) ((List.range cores.length).zip cores) =
          some v ∧ s.admitted v (allCores l.hdr cores) = true ∧
        t = s.reserve { v with launches := v.launches.put id { l with
          next := l.next + 1, state := if l.next + 1 = l.hdr.clusters then .placed else .active } } (allCores l.hdr cores)) ∧
    (∀ id l cluster rot ix core t, s.placeBlock id l cluster rot (ix, core) = some t → ∃ v b,
      allSteps (fun v u => v.placeUnit l s.nextId b rot u) v (List.range l.hdr.units) = some t ∧ v.warps = s.warps ∧
      v.blocks.find s.nextId = some b ∧ b.launch = id ∧ b.cluster = cluster ∧ b.index = ix ∧
      b.blkno = BitVec.ofNat 64 (ix + l.hdr.perCluster * l.next) ∧ b.cores = (List.range l.hdr.coresPer).map (core + ·) ∧
      b.wbits = (l.hdr.widths.take l.hdr.b).sum ∧
      s.freeRegion id l.hdr = some b.region ∧
      b.spawnBase = l.hdr.regionBase + BitVec.ofNat 64 (b.region * l.hdr.stride) ∧
      b.live = l.hdr.slots ∧ b.recs = [] ∧ b.claims = [] ∧ b.gowner = [] ∧ (∀ n, Store.get 0 b.gpub n = 0) ∧
      s.findReserve l.hdr b.cores rot = some (b.resCore, b.resQuarter, b.resSlot)) ∧
    (∀ l block b rot u t, s.placeUnit l block b rot u = some t →
      let core := b.cores.getD (u / l.hdr.unitsPerCore) 0
      let q := (u % l.hdr.unitsPerCore + rot) % 4
      let w (i u twin : Nat) : Warp := placedWarp l block b core q i u twin s.gtime s.clock
      ∃ i, s.slotFree core q i = true ∧
        (b.paired = false → (∀ j < i, s.slotFree core q j = false) ∧ t.warp s.nextId = some (w i u 2) ∧
          (∀ j, j ≠ s.nextId → t.warp j = s.warp j) ∧
          t.gen (slotKey core q i) = (s.gen (slotKey core q i) + 1) % 64) ∧
        (b.paired = true → i % 2 = 0 ∧ s.slotFree core q (i + 1) = true ∧ t.warp s.nextId = some (w i u 0) ∧
          t.warp (s.nextId + 1) = some (w (i + 1) u 1) ∧
          ∀ j, j ≠ s.nextId → j ≠ s.nextId + 1 → t.warp j = s.warp j)) ∧
    (∀ l block b core q slot u twin age clock, let w := placedWarp l block b core q slot u twin age clock
      w.core = core ∧ w.quarter = q ∧ w.slot = slot ∧ w.twin = twin ∧ w.cmp = l.cmp ∧ w.ctx = l.ctx ∧ w.widx = u ∧
      w.mask = BitVec.allOnes 128 ∧ w.pc = l.hdr.entry ∧ w.phase = .prologue ∧ w.super = l.super ∧ w.va = l.hdr.pv ∧
      w.ka = l.hdr.ka ∧ w.ta = 0 ∧ w.kr 0 = l.hdr.arg ∧ w.kr 1 = l.entryAddr ∧ w.kr 2 = b.blkno ∧
      w.kr 3 = BitVec.ofNat 64 b.index ∧ (∀ n, 4 ≤ n → w.kr n = 0) ∧ (∀ r p, w.vr r p = 0) ∧
      (∀ p < 128, Store.get 0 w.wids p = BitVec.ofNat 64 (l.hdr.blockWid b.blkno.toNat + 128 * u + p))) ∧
    ∀ die, (¬ (die < 4 ∧ Store.get 0 s.reportAt die / 64 < s.clock / 64) → exec (.resourceReport die) s = .next s) ∧
      (die < 4 → Store.get 0 s.reportAt die / 64 < s.clock / 64 → ∃ t, exec (.resourceReport die) s = .next t ∧
      t = { s with reports := t.reports, reportAt := t.reportAt } ∧
      (∀ d, Store.get 0 t.reportAt d = if d = die then s.clock else Store.get 0 s.reportAt d) ∧
      ∀ core < Config.cores, ∀ q < 4, t.reports.find (4 * core + q) =
        if s.dieOf core = die then some (s.reportOf core q) else s.reports.find (4 * core + q))

/-- R134, R358: LAUNCH_COMPLETE, when every block and command of a placed launch has ended: no loose byte stays in the L1 of
its cores, the completion barrier takes an arrival, an arrival that fails posts a record with the cause of the walk, 0x0C for
an overrun or 0x0D for an object that fails its check (log 28, the model's reading), the launch, its blocks and its clusters
are forgotten, and its event is posted. -/
def Sys2Proof.Claims.completing : Prop :=
  (∀ (s : State) (id : Nat) (l : Launch), s.launches.find id = some l →
    (s.launchDone id l = false → exec (.launchComplete id) s = .next s) ∧
    let its (slot : Nat) : Bool := (s.launchCores id).contains (slot / 128)
    (s.launchDone id l = true → s.backHeld its = true → exec (.launchComplete id) s = .next s) ∧
    (s.launchDone id l = true → s.backHeld its = false → ∃ v, s.publish id = some v ∧
      (∀ slot, slot / 128 ∈ s.launchCores id → ∀ a < 2 ^ 96, v.l1.find (l1Key slot a) = none) ∧
      let ends (u : State) : Prop := exec (.launchComplete id) s =
        .next ((u.forget id).postEvent l.cmp 1 0 l.entryAddr (BitVec.ofNat 64 l.queue))
      (l.hdr.comp = none → ends v) ∧
      ∀ a, l.hdr.comp = some a →
        (∀ e, v.xlate (distAgent l.cmp l.ctx) a .write = .error e → e.cause ≠ heldCause →
          ends (v.distFault l.cmp l.ctx e a true)) ∧
        ∀ t, v.xlate (distAgent l.cmp l.ctx) a .write = .ok t → v.planeHeld t.key = false → v.leafHeld t true = false →
          (∀ u, v.barDo t (.arrive 1) = .done false u → ends u) ∧
          (∀ u, v.barDo t (.arrive 1) = .done true u → ends (u.distFault l.cmp l.ctx ⟨0x0C, none⟩ a true)) ∧
          (∀ u, v.barDo t (.arrive 1) = .corrupt u → ends (u.distFault l.cmp l.ctx ⟨0x0D, none⟩ a true)))) ∧
  ∀ (s : State) (id : Nat), Store.wf none s.blocks = true → Store.wf none s.clusters = true →
    let u := s.forget id
    u = { s with launches := u.launches, blocks := u.blocks, clusters := u.clusters } ∧
    (∀ k, u.launches.find k = if k = id then none else s.launches.find k) ∧
    (∀ k b, s.blocks.find k = some b → u.blocks.find k = if b.launch = id then none else some b) ∧
    ∀ k c, s.clusters.find k = some c → u.clusters.find k = if c.launch = id then none else some c

/-- R23, R29, R40, R62, R83, R89, R134, R339, R349 to R358, R408: launches dequeued, placed and completed. The choices and readings
of the model in it are those of logs 16, 28, 48 and 52. -/
def Obligations.LaunchesRun : Prop := Claims.dequeues ∧ Claims.placing ∧ Claims.completing

/-! ### Translation, errors and the outside (R160, R365 to R375, R385 to R398) -/

/-- R365, R366, R370, R385, R397, R398, Table 17.1: one level of a walk: the entry at the table's base plus eight times the
index of the level, 12 bits of the address from bit 15, 27, 39 or 51. A clear V is page not present (0x06). At level 1, and
at levels 2 and 3 with bit 3 set, it is a leaf, whose fields the level binds; with bit 3 clear it names the next table, with
the fields of a leaf zero; every other entry is malformed: a protection failure (0x07) that carries the entry. -/
def Sys2Proof.Claims.walks : Prop :=
  ∀ (s : State) (core level at_ : Nat) (va base : DWord), 1 ≤ level → level ≤ 4 →
    s.resolve (base + BitVec.ofNat 64 (8 * (va.toNat / 2 ^ (15 + 12 * (level - 1)) % 4096))) = .ok at_ →
    (s.planeHeld at_ = true → s.walk core va level base = .error ⟨heldCause, none⟩) ∧
    (s.planeHeld at_ = false → s.runFailed at_ 8 = true ∨ s.broken core at_ = true →
      s.walk core va level base = .error ⟨0x15, none⟩) ∧
    (s.planeHeld at_ = false → s.runFailed at_ 8 = false → s.broken core at_ = false →
      let e : DWord := BitVec.ofNat 64 (s.seen core at_ 8)
      let leafOk := e.getLsbD 63 = false ∧ e.extractLsb' 12 3 = 0 ∧ e.extractLsb' 4 2 ≠ 3 ∧
        (level = 1 → e.getLsbD 3 = false) ∧ (level = 2 → e.extractLsb' 15 12 = 0) ∧
        (level = 3 → e.getLsbD 51 = true ∧ e.extractLsb' 15 33 = 0) ∧ level ≤ 3
      let tableOk := e.getLsbD 63 = false ∧ e.extractLsb' 12 3 = 0 ∧ e.extractLsb' 4 7 = 0 ∧ e.extractLsb' 1 2 = 0
      let leaf := level = 1 ∨ e.getLsbD 3 = true
      (e.getLsbD 0 = false → s.walk core va level base = .error ⟨6, none⟩) ∧
      (e.getLsbD 0 = true →
        (leaf → leafOk → s.walk core va level base = .ok (level, at_, e)) ∧
        (¬ leaf → tableOk →
          s.walk core va level base = s.walk core va (level - 1) (BitVec.ofNat 64 (e.toNat / 2 ^ 15 % 2 ^ 48 * 2 ^ 15))) ∧
        ((leaf ∧ ¬ leafOk) ∨ (¬ leaf ∧ ¬ tableOk) → s.walk core va level base = .error ⟨7, some e⟩)))

/-- R117, R124, R340, R366, R367: an access that no held translation serves: a walk that fails is its failure; a leaf without
W or X for a write or a fetch is a protection failure; else the leaf gives the fabric physical address (at level 3 the striped
form), which is to be one of the domain's and of the compartment, and the page behaves as the leaf's fields say. -/
def Sys2Proof.Claims.translates : Prop :=
  ∀ (s : State) (ag : Machine.Agent) (va : DWord) (need : Need) (c : Ctx),
    (va.getLsbD 63 = true → s.xlate ag va need = .error ⟨7, none⟩) ∧
    (va.getLsbD 63 = false → s.tlbHit ag va = none → s.ctxOf ag.cmp ag.ctx = some c →
      (∀ f, s.walk ag.core va 4 c.ptroot = .error f → s.xlate ag va need = .error f) ∧
      ∀ level at_ e, s.walk ag.core va 4 c.ptroot = .ok (level, at_, e) →
        let v := va.toNat
        let pa : Nat :=
          if level = 1 then e.toNat / 2 ^ 15 % 2 ^ 48 * 2 ^ 15 + v % 2 ^ 15
          else if level = 2 then e.toNat / 2 ^ 27 % 2 ^ 36 * 2 ^ 27 + v % 2 ^ 27
          else e.toNat / 2 ^ 48 % 2 ^ 15 * 2 ^ 48 + v / 2 ^ 37 % 4 * 2 ^ 46 + v % 2 ^ 37
        let allowed := (need = .write → e.getLsbD 1 = true) ∧ (need = .fetch → e.getLsbD 2 = true)
        (¬ allowed → s.xlate ag va need = .error ⟨7, none⟩) ∧
        (allowed →
          (∀ f, s.resolve (BitVec.ofNat 64 pa) = .error f → s.xlate ag va need = .error f) ∧
          ∀ k, s.resolve (BitVec.ofNat 64 pa) = .ok k →
            (s.owns ag.cmp k = false → s.xlate ag va need = .error ⟨7, none⟩) ∧
            (s.owns ag.cmp k = true → s.xlate ag va need =
              .ok ⟨k, (e.extractLsb' 4 2).toNat, e.getLsbD 7, e.getLsbD 6, at_, e, ag.core⟩)))

/-- R14, R370, R371, R374, R375, R385, R397, R398: PAGE_WALK puts the leaf that a walk finds into a core's translations and
leaves nothing where the walk fails; RESUME_ELEMENT answers a token once: a retry or the trap for its warp, or the fence of
its context, noted while who waits is swapped out, an unknown token being a bad-resume event; SOFT_ERROR_CORRECTION counts
and CORRECTED_ERROR posts the count at most once in 1,024 ticks; LINK_DOWN of a base die and PLANE_DEAD of planes 0 to 15 are
kept and posted to every compartment. -/
def Sys2Proof.Claims.errors : Prop :=
  ∀ (s : State),
    (∀ core cmp ctx va c level at_ e, s.compOf core = some cmp → s.ctxOf cmp ctx = some c → va.getLsbD 63 = false →
      s.walk core va 4 c.ptroot = .ok (level, at_, e) → ∃ t, exec (.pageWalk core ctx va) s = .next t ∧
        t = { s with tlb := t.tlb } ∧
        (⟨core, cmp, ctx, level, va.toNat / 2 ^ pageBits level, BitVec.ofNat 64 at_, e⟩ : TlbEntry) ∈ t.tlb ∧
        ∀ x ∈ s.tlb, x ∈ t.tlb ∨
          (x.core = core ∧ x.cmp = cmp ∧ x.ctx = ctx ∧ x.level = level ∧ x.page = va.toNat / 2 ^ pageBits level)) ∧
    (∀ core cmp ctx va c e, s.compOf core = some cmp → s.ctxOf cmp ctx = some c → va.getLsbD 63 = false →
      s.walk core va 4 c.ptroot = .error e → exec (.pageWalk core ctx va) s = .next s) ∧
    (∀ cmp block ctx t u op1, (s.comp cmp).qfault = some (block, ctx) →
      s.xany ⟨cmp, ctx, 4096, 0⟩ (block + 64) .write = .ok t → s.num (t.key + 12) 2 = 16 → s.qfirst t.key false = none →
      s.planeHeld t.key = false → s.leafHeld t true = false → s.homeIdle t.key = true →
      s.tick1.qserve t.key s.nextId { partEnqueue (.record none none) cmp ctx (block + 64) [] with
        enq := false, span := 16 } (s.qempty t.key false) = .served u → u.qops.find s.nextId = some op1 →
      let elem := u.slotBytes t.key (op1.slots.headD []) 16
      exec (.resumeElement cmp) s = .next (((u.touch t true).deliverOne t.key s.nextId op1).resumeElement cmp
        (BitVec.ofNat 64 (natOfBytes (elem.take 8))) (natOfBytes (elem.drop 8)))) ∧
    (∀ cmp token action, let found := (s.comp cmp).tokens.find? fun t => t.token == token && t.noted.isNone && s.tokenLive t
      (found = none ∨ 2 < action → s.resumeElement cmp token action = s.postEvent cmp 4 1 0 token) ∧
      (∀ t, found = some t → action ≤ 2 → s.outNow t.who = true → s.resumeElement cmp token action =
        s.mapComp cmp fun c => { c with
          tokens := c.tokens.map fun x => if x.token = token then { x with noted := some action } else x }) ∧
      (∀ t id w, found = some t → t.who = .warp id → s.warp id = some w → w.swapped = false →
        let u := s.mapComp cmp fun c => { c with tokens := c.tokens.filter fun x => x.token != token }
        (action = 0 → s.resumeElement cmp token action = u.retrySuspended id) ∧
        (action = 1 → s.resumeElement cmp token action = u.trapSuspended id) ∧
        (action = 2 → s.resumeElement cmp token action = u.fence cmp w.ctx))) ∧
    (∀ cmp unit, let k := cmp * 2 ^ 32 + unit
      let n := Store.get 0 s.corrected k
      exec (.softErrorCorrection cmp unit) s = .next { s with corrected := Store.set 0 s.corrected k (n + 1) } ∧
      ((n = 0 ∨ ∃ a, s.correctedAt.find k = some a ∧ s.gtime < a + 1024) → exec (.correctedError cmp unit) s = .next s) ∧
      (n ≠ 0 → (∀ a, s.correctedAt.find k = some a → a + 1024 ≤ s.gtime) → exec (.correctedError cmp unit) s = .next
        (({ s with corrected := Store.set 0 s.corrected k 0, correctedAt := s.correctedAt.put k s.gtime } : State).postEvent
          cmp 5 1 0 (BitVec.ofNat 64 n)))) ∧
    (∀ die link, 4 ≤ die ∨ 256 ≤ link → exec (.linkDown die link) s = .next s) ∧
    (∀ die link, die < 4 → link < 256 → ∃ u : State, exec (.linkDown die link) s = .next (u.postEventAll 9 2 (BitVec.ofNat 64 (die * 256 + link))) ∧
      u = { s with downLinks := u.downLinks } ∧ ∀ x, x ∈ u.downLinks ↔ x = (die, link) ∨ x ∈ s.downLinks) ∧
    (∀ plane, 16 ≤ plane → exec (.planeDead plane) s = .next s) ∧
    (∀ plane < 16, ∃ u : State, exec (.planeDead plane) s = .next (u.postEventAll 8 2 (BitVec.ofNat 64 plane)) ∧
      u = { s with deadPlanes := u.deadPlanes } ∧ ∀ x, x ∈ u.deadPlanes ↔ x = plane ∨ x ∈ s.deadPlanes)

/-- R14, R117, R124, R340, R365 to R367, R370, R371, R374, R375, R385, R397, R398: walks, translations, and errors. -/
def Obligations.TranslationsAndErrors : Prop := Claims.walks ∧ Claims.translates ∧ Claims.errors

/-- R15, R387, R388: an RDMA or window write is posted on its connection and does nothing on one that is not there; behind
one that waits, or that cannot be performed yet, it waits; else it is performed, by the target that its rkey names, and a
target that is none of that kind is a remote access error. A SEND only completes (log 41, DEDUCED). -/
def Sys2Proof.Claims.posting : Prop :=
  ∀ (s : State) (conn rkey len : Nat) (va : DWord) (data : List Byte),
    (∀ p ∈ [(Instr.rdmaWrite ⟨conn, rkey⟩ va data, HostOp.write rkey va data), (.rdmaRead ⟨conn, rkey⟩ va len, .read rkey va len),
        (.hostWindowWrite ⟨conn, rkey⟩ data, .window rkey data)],
      (s.conns.find conn = none → exec p.1 s = .next s) ∧
      ∀ c, s.conns.find conn = some c →
        let holds (u : State) (l : List HostOp) : State := { u with conns := s.conns.put conn { c with posted := l } }
        (c.waiting = true → exec p.1 s = .next (holds s (c.posted ++ [p.2]))) ∧
        (c.waiting = false → ∀ a l, c.posted = a :: l → (holds s []).hostOp conn a = none →
          exec p.1 s = .next (holds s (c.posted ++ [p.2]))) ∧
        (c.waiting = false → c.posted = [] →
          ((holds s []).hostOp conn p.2 = none → exec p.1 s = .next (holds s [p.2])) ∧
          ∀ t, (holds s []).hostOp conn p.2 = some t →
            exec p.1 s = .next (t.mapConn conn fun c => { c with posted := [] }))) ∧
    let wrong := some (s.send (.accessError conn rkey))
    s.hostOp conn .send = some (s.send (.sendDone conn)) ∧
    (s.rkeys.find rkey = none → s.hostOp conn (.read rkey va len) = wrong ∧ s.hostOp conn (.window rkey data) = wrong ∧
      (rkey ≠ 1 ∨ data.length ≠ 256 → s.hostOp conn (.write rkey va data) = wrong) ∧
      (rkey = 1 → data.length = 256 → s.hostOp conn (.write rkey va data) = s.element conn data)) ∧
    (∀ cmp ctx block, s.rkeys.find rkey = some (.window cmp ctx block) → s.hostOp conn (.read rkey va len) = wrong ∧
      s.hostOp conn (.write rkey va data) = s.windowWrite conn rkey cmp ctx block data ∧
      s.hostOp conn (.window rkey data) = s.windowWrite conn rkey cmp ctx block data) ∧
    ∀ cmp ctx base n rd wr side, s.rkeys.find rkey = some (.region cmp ctx base n rd wr side) →
      s.hostOp conn (.window rkey data) = wrong ∧
      s.hostOp conn (.write rkey va data) = s.regionWrite conn rkey ⟨cmp, ctx, base, n, rd, wr, side⟩ va data ∧
      s.hostOp conn (.read rkey va len) = s.regionRead conn rkey ⟨cmp, ctx, base, n, rd, wr, side⟩ va len

/-- R368, R387 to R389: an access to a region outside its range or of a kind that it does not accept is an access error. The
range is performed in the aligned 8-byte units that it falls into, in order, at their homes, in the sideband view 128 payload
and 8 sideband bytes a line; a unit that does not translate ends it with an access error and an event, and so does one that a
READ finds failed (log 31, the model's choice). -/
def Sys2Proof.Claims.regions : Prop :=
  (∀ (s : State) (conn rkey len : Nat) (r : Region) (va : DWord) (data : List Byte),
    let wrong := some (s.send (.accessError conn rkey))
    let inside (n : Nat) : Prop :=
      r.base.toNat ≤ va.toNat ∧ va.toNat + n ≤ r.base.toNat + if r.side then r.len / 128 * 136 else r.len
    let fails (u : State) : Option State :=
      some ((u.postEvent r.cmp 11 7 0 (BitVec.ofNat 64 rkey)).send (.accessError conn rkey))
    (r.wr = false ∨ ¬ inside data.length → s.regionWrite conn rkey r va data = wrong) ∧
    (r.rd = false ∨ ¬ inside len → s.regionRead conn rkey r va len = wrong) ∧
    (r.wr = true → inside data.length → let a := s.writeRegion r (rdmaUnits va.toNat data.length) data
      (a = .held → s.regionWrite conn rkey r va data = none) ∧
      (∀ u, a = .failed u → s.regionWrite conn rkey r va data = fails u) ∧
      ∀ u l, a = .done u l → s.regionWrite conn rkey r va data = some (u.send (.writeDone conn rkey))) ∧
    (r.rd = true → inside len → let a := s.readRegion r (rdmaUnits va.toNat len) []
      (a = .held → s.regionRead conn rkey r va len = none) ∧
      (∀ u, a = .failed u → s.regionRead conn rkey r va len = fails u) ∧
      ∀ u l, a = .done u l → s.regionRead conn rkey r va len = some (u.send (.readData conn rkey l)))) ∧
  (∀ a n : Nat, (rdmaUnits a n).flatMap (fun p => (List.range p.2).map (p.1 + ·)) = (List.range n).map (a + ·) ∧
    ∀ p ∈ rdmaUnits a n, 0 < p.2 ∧ p.1 / 8 = (p.1 + p.2 - 1) / 8) ∧
  (∀ (s : State) (r : Region) (x : Nat) (need : Need),
    let ag : Machine.Agent := ⟨r.cmp, r.ctx, 4096, 0⟩
    let o := x - r.base.toNat
    let line := r.base + BitVec.ofNat 64 (o / 136 * 128)
    (r.side = false → ∀ t, s.xlate ag (BitVec.ofNat 64 x) need = .ok t → s.unitAt r x need = .ok (t, none)) ∧
    (r.side = true → o % 136 < 128 → ∀ t, s.xlate ag (line + BitVec.ofNat 64 (o % 136)) need = .ok t →
      s.unitAt r x need = if t.mx then .ok (t, none) else .error ⟨7, none⟩) ∧
    (r.side = true → 128 ≤ o % 136 → ∀ t, s.xlate ag line need = .ok t →
      s.unitAt r x need = if t.mx then .ok (t, some (o % 136 - 128)) else .error ⟨7, none⟩)) ∧
  ∀ (s : State) (r : Region) (x n : Nat) (us : List (Nat × Nat)) (l acc : List Byte) (need : Need) (t : Trans)
    (j : Option Nat), s.unitAt r x need = .ok (t, j) → s.planeHeld t.key = false → s.leafHeld t (need = .write) = false →
    (s.writeRegion r [] l = .done s [] ∧ s.readRegion r [] acc = .done s acc) ∧
    (need = .write → t.leaf &&& 0x300 = 0x300 → n ≤ l.length →
      ∃ v : State, s.writeRegion r ((x, n) :: us) l = v.writeRegion r us (l.drop n) ∧
        v = { s with mem := v.mem, side := v.side, stale := v.stale, staleSide := v.staleSide, failed := v.failed } ∧
        (j = none → v.side = s.side ∧
          ∀ a, v.byte a = if t.key ≤ a ∧ a < t.key + n then l.getD (a - t.key) 0 else s.byte a) ∧
        ∀ i, j = some i → v.mem = s.mem ∧ ∀ a, Store.get 0 v.side a =
          if t.key / 128 * 8 + i ≤ a ∧ a < t.key / 128 * 8 + i + n then l.getD (a - (t.key / 128 * 8 + i)) 0
          else Store.get 0 s.side a) ∧
    (need = .read → s.unitFailed t j n = true → s.readRegion r ((x, n) :: us) acc = .failed s) ∧
    (need = .read → s.unitFailed t j n = false → s.readRegion r ((x, n) :: us) acc = (s.touch t false).readRegion r us
      (acc ++ match j with | none => s.bytes t.key n | some i => (List.range n).map fun m => s.sideByte t.key (i + m)))

/-- R152, R155, R160, R388: a window write is an enqueue of one element at the queue's home: served, waiting in the list, or,
of another length or refused by the block's checks or with no block that translates (log 49, the model's choice), discarded.
Served or waiting, it is not acknowledged yet, and the later operations of its connection wait; QUEUE_PUBLISH acknowledges
it, and they go on. -/
def Sys2Proof.Claims.windows : Prop :=
  ∀ (s : State) (conn rkey cmp ctx : Nat) (block : DWord) (data : List Byte),
    let gives (u : State) : Prop := s.windowWrite conn rkey cmp ctx block data = some u
    (∀ e, s.xany ⟨cmp, ctx, 4096, 0⟩ block .write = .error e → e.cause ≠ heldCause →
      gives (s.windowDiscard cmp block conn rkey data.length)) ∧
    ∀ t, s.xany ⟨cmp, ctx, 4096, 0⟩ block .write = .ok t → s.planeHeld t.key = false →
      s.leafHeld t true = false →
      let op := partEnqueue (.window conn rkey) cmp ctx block data
      let waits (v : State) : Prop := ∃ u, gives u ∧ u = { v with conns := u.conns } ∧
        ∀ c, v.conns.find conn = some c → u.conns.find conn = some { c with waiting := true }
      let home := s.tick1.qserve t.key s.nextId op (s.qempty t.key true)
      (data.length ≠ (s.qblk t.key).size → gives (s.windowDiscard cmp block conn rkey data.length)) ∧
      (data.length = (s.qblk t.key).size → s.homeIdle t.key = true →
        (∀ c v u, home = .refuse c v u → gives (u.windowDiscard cmp block conn rkey data.length)) ∧
        (home = .wait → waits ((s.tick1.touch t true).qjoin t.key s.nextId op)) ∧
        ∀ u, home = .served u → waits (u.touch t true)) ∧
      ∀ k id o, o.agent = .window conn rkey → o.enq = true → s.qfirst k true = some (id, o) → s.slotHeld o = false →
        ∃ u, exec (.queuePublish k id) s = .next u ∧
          (o.counters.length ≤ 1 → u.hostOut = s.hostOut ++ [.writeDone conn rkey] ∧
            ∀ c, s.conns.find conn = some c → u.conns.find conn = some { c with waiting := false }) ∧
          (¬ o.counters.length ≤ 1 → u.hostOut = s.hostOut ∧ u.conns = s.conns)

/-- R152, R162 to R164, R271, R385, R395, R397: a request of a member for a local address of an equal group is performed once,
kept and answered, and asked again is answered from what is kept; others are refused. Reads, writes, atomics, cas and MX lines
act on the bytes at the address; queue and barrier requests are served at their home (the forms of the answers: log 31, the
model's choice). -/
def Sys2Proof.Claims.remote : Prop :=
  ∀ (s : State) (r : RemoteReq),
    let kept := s.remoteLog.find? fun e => e.1 == r.src && e.2.1 == r.ident
    let answers (u : State) (d : Option (List Byte)) : Prop := ∃ t, exec (.remoteRequest r) s = .next t ∧
      t = { u with remoteLog := t.remoteLog, hostOut := u.hostOut ++ [.remote r.src r.ident d] } ∧
      exec (.remoteRequest r) t = .next (t.send (.remote r.src r.ident d))
    (∀ e, kept = some e → exec (.remoteRequest r) s = .next (s.send (.remote r.src r.ident e.2.2))) ∧
    (kept = none → s.remotePending r.src r.ident = true → exec (.remoteRequest r) s = .next s) ∧
    (kept = none → s.remotePending r.src r.ident = false →
      (s.remoteKey r = none → answers s none) ∧
      ∀ k, s.remoteKey r = some k →
        (s.remoteDo k r = .later → exec (.remoteRequest r) s = .next s) ∧
        (∀ d u, s.remoteDo k r = .answer d u → answers u d) ∧
        ∀ u, s.remoteDo k r = .waits u → exec (.remoteRequest r) s = .next u) ∧
    ∀ k,
      let does (d : List Byte) (n : Nat) (f : Nat → Byte) : Prop := ∃ u, s.remoteDo k r = .answer (some d) u ∧
        u = { s with mem := u.mem, stale := u.stale, failed := u.failed } ∧
        ∀ a, u.byte a = if k ≤ a ∧ a < k + n then f (a - k) else s.byte a
      (∀ l, r.op = .write l → does [] l.length fun i => l.getD i 0) ∧
      ((∀ n, r.op = .read n → s.runFailed k n = false → s.remoteDo k r = .answer (some (s.bytes k n)) s) ∧
        (r.op = .readLine → s.lineFailed k = false → s.remoteDo k r = .answer (some (s.bytes k 128 ++ (List.range 8).map (s.sideByte k))) s) ∧
        (∀ sub n v, r.op = .atomic sub n v → s.runFailed k n = false → does (bytesOfNat n (s.num k n)) n fun i =>
          (bytesOfNat n (atomGroup sub n (s.num k n) none [(0, v.toNat % 2 ^ (8 * n))]).2).getD i 0) ∧
        ∀ n e x, r.op = .cas n e x → s.runFailed k n = false →
          (s.num k n = e.toNat % 2 ^ (8 * n) → does (bytesOfNat n (s.num k n)) n fun i =>
            (bytesOfNat n (x.toNat % 2 ^ (8 * n))).getD i 0) ∧
          (s.num k n ≠ e.toNat % 2 ^ (8 * n) → s.remoteDo k r = .answer (some (bytesOfNat n (s.num k n))) s)) ∧
      (∀ p l, r.op = .writeLine p l → ∃ u, s.remoteDo k r = .answer (some []) u ∧ u.lineFailed k = false ∧
        (∀ a, u.byte a = if k ≤ a ∧ a < k + p.length then p.getD (a - k) 0 else s.byte a) ∧
        ∀ i < l.length, u.sideByte k i = l.getD i 0) ∧
      ∀ c, r.op = .arrive c →
        (∀ b u, s.barDo (remotePage k) (.arrive c) = .done b u → s.remoteDo k r = .answer (some [if b then 1 else 0]) u) ∧
        ∀ u, s.barDo (remotePage k) (.arrive c) = .corrupt u → s.remoteDo k r = .answer none u

/-- R15, R152, R160, R162 to R164, R368, R387 to R389, R395, R397: what reaches the part from outside. -/
def Obligations.OutsideRequests : Prop := Claims.posting ∧ Claims.regions ∧ Claims.windows ∧ Claims.remote

/-! ### Management, bring-up, power (R339, R363, R386 to R402) -/

/-- The commands with a header and their opcodes, as the channel carries them, less those for firmware (Table 18.3). -/
def Sys2Proof.Claims.command (h : MgmtHdr) (n : Nat) (i : Instr) : Prop :=
  (n = 0x01 ∧ i = .syncSummary h) ∨ (n = 0x02 ∧ ∃ a b, i = .compartmentSet h a b)
    ∨ (n = 0x03 ∧ ∃ a b c, i = .contextCreate h a b c) ∨ (n = 0x04 ∧ ∃ a, i = .contextDestroy h a)
    ∨ (n = 0x05 ∧ ∃ a, i = .queueSet h a) ∨ (n = 0x06 ∧ ∃ a b, i = .windowMap h a b)
    ∨ (n = 0x07 ∧ ∃ a b c d e g, i = .regionRegister h a b c d e g) ∨ (n = 0x08 ∧ ∃ a, i = .throttleSet h a)
    ∨ (n = 0x09 ∧ ∃ a b c, i = .domainSet h a b c) ∨ (n = 0x0A ∧ i = .quiesce h) ∨ (n = 0x0B ∧ ∃ a, i = .planeMap h a)
    ∨ (n = 0x0C ∧ i = .release h) ∨ (n = 0x0D ∧ ((∃ a, i = .attest h a) ∨ i = .attestCertificateChain h))

/-- R392, R393, R400: who is served. Nothing is while the boot ROM runs; in recovery only port 0 is, and only the firmware
commands (another opcode is status 3); otherwise a peer outside the list is refused (status 3). A command of another opcode than its element's is none
(log 23, the model's choice); an element with no opcode of Table 18.3, or whose bytes 2 and 3 are not zero, is status 1. -/
def Sys2Proof.Claims.served : Prop :=
  ∀ (h : MgmtHdr) (l : List Byte) (s : State) (n : Nat) (i : Instr),
    Claims.command h n i ∨ (n = 0x0E ∧ ((∃ o l, i = .firmwareWrite h o l) ∨ i = .firmwareCommit h)) →
    let answer (st : Nat) : State := { s with hostOut := s.hostOut ++ [.reply h.conn h.replyAddr h.replyRkey
      (bytesOfNat 4 h.tag.toNat ++ bytesOfNat 4 st ++ bytesOfNat 8 0)] }
    let rests := (i = .syncSummary h → s.summaryReady = true) ∧ ∀ a, i = .queueSet h a → s.queueSetHeld h.cmp a = false
    let bad := h.opcode = 0 ∨ 0x0E < h.opcode.toNat ∨ h.zero ≠ 0
    (s.conns.find h.conn = none → exec i s = .next s ∧ exec (.managementBadOpcode h l) s = .next s) ∧
    (h.opcode.toNat ≠ n → exec i s = .next s) ∧
    (¬ bad → exec (.managementBadOpcode h l) s = .next s) ∧
    ∀ c, s.conns.find h.conn = some c →
      (c.posted ≠ [] ∨ c.waiting = true ∨ s.boot = .rom ∨ (s.boot = .recovery ∧ c.port ≠ 0) →
        exec i s = .next s ∧ exec (.managementBadOpcode h l) s = .next s) ∧
      (c.posted = [] → c.waiting = false → s.boot = .running →
        (c.peer ∉ s.peers → (h.opcode.toNat = n → rests → exec i s = .next (answer 3)) ∧
          (bad → exec (.managementBadOpcode h l) s = .next (answer 3))) ∧
        (c.peer ∈ s.peers → (h.opcode.toNat = n → h.zero ≠ 0 → rests → exec i s = .next (answer 1)) ∧
          (bad → exec (.managementBadOpcode h l) s = .next (answer 1)))) ∧
      (c.posted = [] → c.waiting = false → s.boot = .recovery → c.port = 0 →
        (Claims.command h n i → h.opcode.toNat = n → rests → exec i s = .next (answer 3)) ∧
        (bad → h.opcode ≠ 0x0E → exec (.managementBadOpcode h l) s = .next (answer 3)) ∧
        (bad → h.opcode = 0x0E → exec (.managementBadOpcode h l) s = .next (answer 1)))

/-- R339, R349, R363, R386, R392 to R397, R399 to R401, Table 18.3: a command that is served is answered with the tag, its
status, its data length and its data: a bad operand is status 1 and a busy part status 2 and nothing else changes; a command
that succeeds has the effect of its row. What makes DOMAIN-SET busy is log 19, and that a sideband view is of whole lines is
log 60, the model's choices. -/
def Sys2Proof.Claims.effects : Prop :=
  ∀ (h : MgmtHdr) (s : State) (c : Conn), s.conns.find h.conn = some c → c.posted = [] → c.waiting = false → h.zero = 0 →
    let answer (u : State) (st : Nat) (l : List Byte) : State := { u with hostOut := u.hostOut ++
      [.reply h.conn h.replyAddr h.replyRkey (bytesOfNat 4 h.tag.toNat ++ bytesOfNat 4 st ++ bytesOfNat 8 l.length ++ l)] }
    let gives (n : Nat) (i : Instr) (st : Nat) (l : List Byte) (u : State) : Prop :=
      h.opcode.toNat = n → exec i s = .next (answer u st l)
    (s.boot = .running ∧ c.peer ∈ s.peers ∨ s.boot = .recovery ∧ c.port = 0 → ∀ off l,
      (224 < l.length → gives 0x0E (.firmwareWrite h off l) 1 [] s) ∧
      (l.length ≤ 224 → ∃ u, gives 0x0E (.firmwareWrite h off l) 0 [] u ∧ u = { s with staged := u.staged } ∧
        ∀ n, u.staged.getD n 0 = if off ≤ n ∧ n < off + l.length then l.getD (n - off) 0 else s.staged.getD n 0) ∧
      (s.imageOk s.staged = true → gives 0x0E (.firmwareCommit h) 0 [] { s with flash := s.staged, torn := false }) ∧
      (s.imageOk s.staged = false → gives 0x0E (.firmwareCommit h) 4 [] s)) ∧
    (s.boot = .running → c.peer ∈ s.peers →
      (s.summaryReady = true → gives 0x01 (.syncSummary h) 0 s.summary s) ∧
      (s.summaryReady = false → exec (.syncSummary h) s = .next s) ∧
      (∀ a, s.queueSetHeld h.cmp a = true → exec (.queueSet h a) s = .next s) ∧
      gives 0x0A (.quiesce h) 0 [] { s with quiesced := true } ∧
      gives 0x0C (.release h) 0 [] { s with quiesced := false } ∧
      gives 0x0D (.attestCertificateChain h) 0 Config.certificateChain s ∧
      (∀ n, n.length ≠ 32 → gives 0x0D (.attest h n) 1 [] s) ∧
      (∀ n, n.length = 32 → gives 0x0D (.attest h n) 0
        (s.reportHead n ++ fit 384 (Config.identitySignature (sha256 (s.reportHead n)))) s) ∧
      (∀ l, (l.length ≠ 16 ∨ ∃ x ∈ l, 16 ≤ x) → gives 0x0B (.planeMap h l) 1 [] s) ∧
      (∀ l, l.length = 16 → (∀ x ∈ l, x < 16) → (s.quiesced = false → gives 0x0B (.planeMap h l) 2 [] s) ∧
        (s.quiesced = true → gives 0x0B (.planeMap h l) 0 [] { s with planeMap := l })) ∧
      (8 ≤ h.cmp → ∀ n i, Claims.command h n i → n ∈ [2, 3, 4, 5, 6, 7, 8, 9] →
        (∀ a, i = .queueSet h a → s.queueSetHeld h.cmp a = false) → gives n i 1 [] s) ∧
      (h.cmp < 8 →
        (∀ a b, (s.groupsFree h.cmp a b = false → gives 0x02 (.compartmentSet h a b) 1 [] s) ∧
          (s.groupsFree h.cmp a b = true → s.hasWork h.cmp = true → gives 0x02 (.compartmentSet h a b) 2 [] s) ∧
          (s.groupsFree h.cmp a b = true → s.hasWork h.cmp = false → gives 0x02 (.compartmentSet h a b) 0 []
            { s with comps := s.comps.put h.cmp { s.comp h.cmp with coreGroups := a, stackGroups := b } })) ∧
        (∀ x p v, (s.ctxOf h.cmp x.toNat ≠ none → gives 0x03 (.contextCreate h x p v) 1 [] s) ∧
          (s.ctxOf h.cmp x.toNat = none → gives 0x03 (.contextCreate h x p v) 0 []
            { s with ctxs := s.ctxs.put (ctxKey h.cmp x.toNat) ⟨p, v, 0, (v, 0), none, false, [], []⟩ })) ∧
        (∀ x, (s.ctxOf h.cmp x.toNat = none → gives 0x04 (.contextDestroy h x) 1 [] s) ∧
          ∀ y, s.ctxOf h.cmp x.toNat = some y → gives 0x04 (.contextDestroy h x) 0 []
            ((if y.fenced then s else s.fence h.cmp x.toNat).freeCtx h.cmp x.toNat)) ∧
        (let p := s.comp h.cmp
         (∀ b x, s.queueSetHeld h.cmp (.faultQueue b x) = false →
          let ok := s.ctxOf h.cmp x.toNat ≠ none ∧ s.queueFits h.cmp x.toNat b 64 false = true ∧
            s.queueFits h.cmp x.toNat (b + 64) 16 true = true
          (¬ ok → gives 0x05 (.queueSet h (.faultQueue b x)) 1 [] s) ∧
          (ok → gives 0x05 (.queueSet h (.faultQueue b x)) 0 []
            { s with comps := s.comps.put h.cmp { p with qfault := some (b, x.toNat) } })) ∧
         (∀ b x, s.queueSetHeld h.cmp (.eventQueue b x) = false →
          let ok := s.ctxOf h.cmp x.toNat ≠ none ∧ s.queueFits h.cmp x.toNat b 32 true = true
          (¬ ok → gives 0x05 (.queueSet h (.eventQueue b x)) 1 [] s) ∧
          (ok → gives 0x05 (.queueSet h (.eventQueue b x)) 0 []
            { s with comps := s.comps.put h.cmp { p with qevent := some (b, x.toNat) } })) ∧
         ∀ ix b table n sup x,
          let q : QueueSetArg := .launchQueue ix b table n sup x
          s.queueSetHeld h.cmp q = false →
          let ok := ix < 16 ∧ 1 ≤ n ∧ n ≤ 256 ∧ table.getLsbD 63 = false ∧ table.toNat % 8 = 0 ∧ b.getLsbD 63 = false ∧
            s.ctxOf h.cmp x.toNat ≠ none ∧ s.queueFits h.cmp x.toNat b 128 true = true
          (¬ ok → gives 0x05 (.queueSet h q) 1 [] s) ∧
          (s.distOp h.cmp ix = none → ok → ∀ o, s.ctxOf h.cmp x.toNat = some o →
            let lq : LaunchQueue :=
              { block := b, table := table, entries := n, super := sup, ctx := x.toNat, root := o.ptroot, stopped := false }
            gives 0x05 (.queueSet h q) 0 []
              { s with comps := s.comps.put h.cmp { p with queues := p.queues.put ix lq } })) ∧
        (∀ b x, (s.ctxOf h.cmp x.toNat = none ∨ b.toNat % 64 ≠ 0 → gives 0x06 (.windowMap h b x) 1 [] s) ∧
          (s.ctxOf h.cmp x.toNat ≠ none → b.toNat % 64 = 0 → s.nextRkey ≠ 1 → s.rkeys.find s.nextRkey = none →
            gives 0x06 (.windowMap h b x) 0 (bytesOfNat 4 s.nextRkey) { s with
              nextId := s.nextId + 1, rkeys := s.rkeys.put s.nextRkey (.window h.cmp x.toNat b) })) ∧
        (∀ x b n rd wr side,
          let bad := s.ctxOf h.cmp x.toNat = none ∨ 2 ^ 63 < b.toNat + n ∨ (side = true ∧ (b.toNat % 128 ≠ 0 ∨ n % 128 ≠ 0))
          (bad → gives 0x07 (.regionRegister h x b n rd wr side) 1 [] s) ∧
          (¬ bad → s.nextRkey ≠ 1 → s.rkeys.find s.nextRkey = none → gives 0x07 (.regionRegister h x b n rd wr side) 0
            (bytesOfNat 4 s.nextRkey) { s with
              nextId := s.nextId + 1, rkeys := s.rkeys.put s.nextRkey (.region h.cmp x.toNat b n rd wr side) })) ∧
        (∀ l, ((l.length ≠ 16 ∨ ∃ x ∈ l, x = 0 ∨ 32 < x) → gives 0x08 (.throttleSet h l) 1 [] s) ∧
          (l.length = 16 → (∀ x ∈ l, 1 ≤ x ∧ x ≤ 32) → ∃ u, gives 0x08 (.throttleSet h l) 0 [] u ∧
            u = { s with throttle := u.throttle } ∧
            ∀ c, u.throttleOf c = if c ∈ s.ownedCores h.cmp then l else s.throttleOf c)) ∧
        ∀ own group l, let bad := 2048 ≤ own ∨ 65536 ≤ group ∨ 28 < l.length ∨ ∃ p ∈ l, 2048 < p.1 + p.2
          (bad → gives 0x09 (.domainSet h own group l) 1 [] s) ∧
          (¬ bad → s.remoteBusy = true → gives 0x09 (.domainSet h own group l) 2 [] s) ∧
          (¬ bad → s.remoteBusy = false → ∃ u, gives 0x09 (.domainSet h own group l) 0 [] u ∧
            u = { s with comps := s.comps.put h.cmp { s.comp h.cmp with group := group }, ownModule := own, members := u.members } ∧
            ∀ m, m ∈ u.members ↔ ∃ p ∈ l, p.1 ≤ m ∧ m < p.1 + p.2)))

/-- R349, R373, R375, R390, Table 6.2: a block that QUEUE-SET accepts: aligned, translating for a write, sound, of the element
size that its use asks for, at system scope, and with flag [3] clear where its use asks for it. -/
def Sys2Proof.Claims.acceptedBlocks : Prop :=
  ∀ (s : State) (cmp ctx size : Nat) (block : DWord) (plain : Bool),
    (∀ e, s.xany ⟨cmp, ctx, 4096, 0⟩ block .write = .error e → s.queueFits cmp ctx block size plain = false) ∧
    ∀ t, s.xany ⟨cmp, ctx, 4096, 0⟩ block .write = .ok t → let q := s.qblk t.key
      (s.queueFits cmp ctx block size plain = true ↔ block.toNat % 64 = 0 ∧ s.qcheck t.key false = none ∧ q.size = size ∧
        q.flags % 8 = 6 ∧ (plain = true → q.flags / 8 % 2 = 0))

/-- R349, R378, R394, R396: the bytes of a summary: the header, and the 256 bytes of each compartment (which hold no cluster
token: log 57, the model's choice between R378 and R394). Where no event record is on its way the mark of a source is its next
sequence. -/
def Sys2Proof.Claims.summaryLayout : Prop :=
  ∀ (s : State),
    let l := s.summary
    let head (i n : Nat) : Nat := natOfBytes ((l.drop i).take n)
    l.length = 64 + 8 * 256 ∧ head 0 2 = s.ownModule % 2 ^ 16 ∧ head 2 6 = 0 ∧ head 16 8 = s.gtime % 2 ^ 64 ∧ head 24 40 = 0 ∧
    (∀ i < 16, head 8 8 / 16 ^ i % 16 = s.planeMap.getD i 0 % 16) ∧
    ∀ c < 8,
      let p := s.comp c
      let at_ (i n : Nat) : Nat := head (64 + 256 * c + i) n
      let shows (i : Nat) (t : Trans) : Prop := at_ i 4 = s.num (t.key + 16) 4 ∧ at_ (i + 4) 4 = s.num (t.key + 20) 4
      let ctxs (fenced : Bool) : List (Nat × Ctx) := s.ctxs.all.filter fun e => e.1 / 65536 == c && e.2.fenced == fenced
      at_ 0 8 = p.coreGroups.toNat ∧ at_ 8 8 = p.stackGroups.toNat ∧ at_ 16 8 = p.drc.toNat ∧
      at_ 24 4 = (ctxs false).length % 2 ^ 32 ∧ at_ 28 4 = (s.residentClusters c).length % 2 ^ 32 ∧
      at_ 32 4 = p.tokens.length % 2 ^ 32 ∧ at_ 36 4 = (ctxs true).length % 2 ^ 32 ∧
      (∀ i q, (i = 40 ∧ q = p.qfault) ∨ (i = 48 ∧ q = p.qevent) → (q = none → at_ i 8 = 0) ∧
        ∀ b t, q = some b → s.xany ⟨c, b.2, 4096, 0⟩ b.1 .read = .ok t → shows i t) ∧
      at_ 56 2 = p.group % 2 ^ 16 ∧ at_ 58 6 = 0 ∧
      (∀ i < 8, at_ (64 + 4 * i) 4 = s.eventMark c i ∧ (s.delayed = [] → (∀ e ∈ s.homes.all, e.2.line = []) →
        s.eventMark c i = Store.get 0 p.seqEvent i % 2 ^ 32)) ∧
      (∀ i < 16, (p.queues.find i = none → at_ (96 + 8 * i) 8 = 0) ∧
        ∀ q t, p.queues.find i = some q → s.queueXlate c q q.block .read = .ok t → shows (96 + 8 * i) t) ∧
      at_ 224 32 = 0

/-- R401: the first 128 bytes of a report: its magic, the serial number, the digest of the image that runs (log 57, DEDUCED),
the digest of the configuration and of the compartment table, the nonce, gtime, and zeros. -/
def Sys2Proof.Claims.reportLayout : Prop :=
  ∀ (s : State) (nonce : List Byte),
    let l := s.reportHead nonce
    let table := (List.range 8).flatMap fun c => [(s.comp c).coreGroups.toNat, (s.comp c).stackGroups.toNat]
    let holds (i n : Nat) (x : List Byte) : Prop := ∀ j < n, l.getD (i + j) 0 = x.getD j 0
    l.length = 128 ∧ l.take 4 = [0x51, 0x4A, 0x41, 0x54] ∧ holds 4 16 Config.serialNumber ∧ holds 20 32 (sha256 s.image) ∧
    holds 52 32 (sha256 (Config.configText s.image table)) ∧ holds 84 32 nonce ∧
    natOfBytes ((l.drop 116).take 8) = s.gtime % 2 ^ 64 ∧ l.drop 124 = [0, 0, 0, 0]

/-- R339, R349, R363, R373, R378, R386, R390, R392 to R397, R399 to R401, Table 18.3: management commands. -/
def Obligations.ManagementCommands : Prop :=
  Claims.served ∧ Claims.effects ∧ Claims.acceptedBlocks ∧ Claims.summaryLayout ∧ Claims.reportLayout

/-- R3, R18, R103, R363, R396, R399, R400, R402, Table 16.3: after reset the generators hold 1, plane map entry i is i, the
throttle tables hold Table 16.3 and the boot ROM is about to run; the values that no rule gives are those of logs 3 and 7, the
model's choices. RESET runs the boot ROM on the flash: an image that is whole, verifies and is not older than the fuse runs,
with its version fused, its peers listed and the cores numbered; else the part is in recovery. THERMAL_LIMIT and
THERMAL_RESTORE change the clock, CRITICAL_TEMPERATURE stops every issue, each with its event to every compartment;
POWER_REMOVAL loses all but flash and fuses, and no step follows it. -/
def Obligations.ResetAndPower : Prop :=
  (∀ q, State.reset.srState q = 1) ∧ State.reset.planeMap = List.range 16 ∧
  (∀ c, State.reset.throttleOf c = [32, 24, 16, 12, 8, 6, 6, 6, 4, 4, 4, 4, 2, 2, 2, 2]) ∧ State.reset.boot = .rom ∧
  State.reset.memWf = true ∧ (∀ a, State.reset.byte a = 0) ∧
  (∀ s : State,
    let after : State := { State.reset with
      agenda := s.agenda, fresh := s.fresh, nextId := s.nextId, flash := s.flash, torn := s.torn, fuseMin := s.fuseMin }
    (s.torn = false → s.imageOk s.flash = true → exec .reset s = .next { after with
      boot := .running, image := s.flash, fuseMin := Config.imageVersion s.flash, peers := Config.imagePeers s.flash
      coreDie := bootDies s.flash }) ∧
    (s.torn = true ∨ s.imageOk s.flash = false → exec .reset s = .next { after with boot := .recovery }) ∧
    exec .thermalLimit s = .next (({ s with clockLow := true } : State).postEventAll 10 3 1) ∧
    exec .thermalRestore s = .next (({ s with clockLow := false } : State).postEventAll 10 3 3) ∧
    exec .criticalTemperature s = .next (({ s with issueStopped := true } : State).postEventAll 10 3 2) ∧
    (s.issueStopped = true → ∀ w, s.mayIssue w = false) ∧
    exec .powerRemoval s = .next { after with power := false } ∧
    (s.power = false → step s = .fault .powerRemoved))

/-! ### The machine as a whole -/

/-- R201 to R212, R260, R278, R293, R305, R315: for every well-formed instruction that is encoded, decoding its words in
its class gives it back. -/
def Obligations.DecodingInvertsEncoding : Prop :=
  ∀ (i : Instr) (e : Encoded), i.wf = true → encode i = some e → decode e.cls e.w0 e.w1 = .ok i

/-- R201, R202, R212, R214 to R216, Tables 8.1 to 8.16: words written out field by field from the tables, one or two for each
class, decode to the instructions they stand for; and a reserved class, an unassigned opcode and a second word where none may
be are refused. -/
def Obligations.TableWordsDecode : Prop :=
  -- iadd v5, v17, v33 << permute 2: NW U pb b a d op
  decode .alu (0#1 ++ 0#1 ++ 2#3 ++ 33#7 ++ 17#7 ++ 5#7 ++ 0x01#6) none = .ok (.iadd ⟨false, false, 2, 33, 17, 5⟩ none) ∧
  -- ffma.u k3, k9, k10, k12 rounded up: X-R GN GP GE m2 kc kb c pb pa
  decode .alu (0#1 ++ 1#1 ++ 0#3 ++ 10#7 ++ 9#7 ++ 3#7 ++ 0x23#6)
      (some (1#1 ++ 6#3 ++ 1#1 ++ 3#2 ++ 0#1 ++ 0#1 ++ 12#7 ++ 0#8 ++ 0#8)) =
    .ok (.ffma ⟨false, true, 0, 10, 9, 3⟩ ⟨⟨true, 6, true⟩, 3, false, false, 12, 0, 0⟩) ∧
  -- iaddi nw v0, v7, -512: NW U imm a d op
  decode .alu (1#1 ++ 0#1 ++ 512#10 ++ 7#7 ++ 0#7 ++ 0x14#6) none = .ok (.iaddi ⟨true, false, 512, 7, 0⟩ none) ∧
  -- icmp p2, v4, v5 (greater), and p3, unsigned: X-T GN GP GE 0 c sel sat rnd t2 t1
  decode .alu (0#1 ++ 0#1 ++ 0#3 ++ 5#7 ++ 4#7 ++ 2#7 ++ 0x30#6)
      (some (0#1 ++ 0#3 ++ 0#1 ++ 0#4 ++ 3#7 ++ 4#4 ++ 0#1 ++ 0#3 ++ 0#4 ++ 1#4)) =
    .ok (.icmp ⟨false, false, 0, 5, 4, 2⟩ ⟨⟨false, 0, false⟩, 3, 4, false, 0, 0, 1⟩) ∧
  -- ld: 0 U sub sx dc size addr data op, X-M GN GP GE 0 scope order off
  decode .mem (0#1 ++ 0#1 ++ 0#4 ++ 1#1 ++ 2#2 ++ 1#3 ++ 40#7 ++ 8#7 ++ 0x01#6)
      (some (0#1 ++ 1#3 ++ 1#1 ++ 0#1 ++ 4#3 ++ 2#3 ++ 0xFFFF8#20)) =
    .ok (.ld ⟨false, 0, true, 2, 1, 40, 8⟩ (some ⟨⟨false, 1, true⟩, 4, 2, 0xFFFF8⟩)) ∧
  -- go: sub dc z y x op
  decode .eng (3#3 ++ 1#2 ++ 6#7 ++ 5#7 ++ 4#7 ++ 0x02#6) none = .ok (.go ⟨3, 1, 6, 5, 4⟩) ∧
  -- mma: Z ar type b a T op, X-Q GN GP GE 0 rnd k T2 share btype
  decode .mat (1#1 ++ 0#1 ++ 2#3 ++ 16#7 ++ 8#7 ++ 1#7 ++ 0x01#6)
      (some (0#1 ++ 0#3 ++ 0#1 ++ 0#7 ++ 0#3 ++ 0#7 ++ 0#6 ++ 1#1 ++ 5#3)) =
    .ok (.mma ⟨true, false, 2, 16, 8, 1⟩ (some ⟨⟨false, 0, false⟩, 0, 0, 0, true, 5⟩)) ∧
  -- brd: 0 P N pred off op, X-D 0 M L
  decode .ctl (0#1 ++ 1#1 ++ 1#1 ++ 4#3 ++ 0xFFFFE#20 ++ 0x02#6) (some (0#20 ++ 16#5 ++ 33#7)) =
    .ok (.brd ⟨true, true, 4, 0xFFFFE⟩ ⟨16, 33⟩) ∧
  -- wrsp: imm y x op
  decode .sys (7#12 ++ 9#7 ++ 0#7 ++ 0x02#6) none = .ok (.wrspXdeleg ⟨7, 9, 0⟩) ∧
  -- a header: GN GP GE Y wait long class n
  Header.parse (0#1 ++ 3#3 ++ 1#1 ++ 1#1 ++ 9#4 ++ 6#15 ++ 4#3 ++ 3#4) = some ⟨false, 3, true, true, 9, 6, .ctl, 3⟩ ∧
  Header.parse (0#1 ++ 0#3 ++ 0#1 ++ 0#1 ++ 0#4 ++ 0#15 ++ 6#3 ++ 1#4) = none ∧
  decode .ctl 0x0000000F none = .error .unassigned ∧
  decode .ctl 0x0000000E (some 0) = .error .longBit

/-- R117 to R121: memory and sidebands stay in canonical form: every step from a state in which they are, reachable or not,
gives a state in which they are. -/
def Obligations.MemoryStaysCanonical : Prop := ∀ s t : State, s.memWf = true → step s = .next t → t.memWf = true

/-- R11, R16, R34, R203, R204, R207, R208, R359 (the schedule is the model's own, log 1): when a warp that may issue moves and stands at
an instruction of a clause it has decoded, and the words at its index decode to i, the step is the meaning of i with that
warp issuing and the move taken from the schedule, after which the caches give up what they have no room for; a scheduled
event of the part is its meaning so too. While they have room they give up nothing. After a step a warp that has yielded waits,
of those it waited for, for the warps that are ready (R359) and have not started a clause since, and for no other: R207 with
log 37 (DEDUCED), the model's reading of its bound. -/
def Obligations.StepRunsDecodedInstruction : Prop :=
  (∀ (s : State), s.power = true →
    let runs (o : Host.Outcome State Fault Refusal) : Prop :=
      (∀ t, o = .next t → step s = .next t.tidy) ∧ (∀ f, o = .fault f → step s = .fault f) ∧
        ∀ x, o = .refused x → step s = .refused x
    (∀ (id : Nat) (rest : List Move) (w : Warp) (i : Instr), s.agenda = .warp id :: rest → s.warp id = some w →
      s.mayIssue w = true → w.fetched = true →
      decode w.hdr.cls (w.hdr.instrWords w.words w.ix).1 (w.hdr.instrWords w.words w.ix).2 = .ok i →
      runs (exec i { s with agenda := rest, cur := id })) ∧
    (∀ (id : Nat) (rest : List Move) (w : Warp), s.agenda = .warp id :: rest → s.warp id = some w → s.mayIssue w = true →
      w.fetched = false → runs (exec .clauseDecode { s with agenda := rest, cur := id })) ∧
    (∀ (i : Instr) (rest : List Move), s.agenda = .event i :: rest → encode i = none → i ≠ .clauseDecode →
      runs (exec i { s with agenda := rest })) ∧
    ∀ (c n : Nat) (rest : List Move), s.agenda = .tick c n :: rest → ∃ t : State, step s = .next t.tidy ∧
      t.clock = s.clock + c ∧ t.gtime = s.gtime + n ∧ t.agenda = rest ∧ t.mem = s.mem) ∧
  ∀ t : State,
    (∃ warps, t.tidy = { t.trim with warps := warps }) ∧
    (∀ id w, t.trim.warp id = some w → ∃ l, t.tidy.warp id = some { w with yieldFor := l } ∧
      ∀ j n, (j, n) ∈ l ↔ (j, n) ∈ w.yieldFor ∧ ∃ x, t.trim.warp j = some x ∧ t.trim.starts j x = true ∧ (n = 0 → x.ix = 0)) ∧
    (t.l1Load ≤ Config.l1Lines → t.stale.length + t.staleSide.length ≤ Config.sliceLines →
      t.trim = t ∧ ((∀ p ∈ t.warps, ∀ w, p.2 = some w → w.yieldFor = []) → t.tidy = t))
end

