-- ==== Sys2Proof/Laws/State.lean ====
section
/-! SUPPORT. One lemma for each field of a state or a warp and each plain update: what the update leaves it. -/

namespace Sys2Proof.Machine

/-! ### Updates of a state -/

@[simp] theorem State.putWarp_agenda (s : State) (id : Nat) (w : Warp) : (s.putWarp id w).agenda = s.agenda := rfl
@[simp] theorem State.putWarp_cur (s : State) (id : Nat) (w : Warp) : (s.putWarp id w).cur = s.cur := rfl
@[simp] theorem State.putWarp_fresh (s : State) (id : Nat) (w : Warp) : (s.putWarp id w).fresh = s.fresh := rfl
@[simp] theorem State.putWarp_nextId (s : State) (id : Nat) (w : Warp) : (s.putWarp id w).nextId = s.nextId := rfl
@[simp] theorem State.putWarp_power (s : State) (id : Nat) (w : Warp) : (s.putWarp id w).power = s.power := rfl
@[simp] theorem State.putWarp_boot (s : State) (id : Nat) (w : Warp) : (s.putWarp id w).boot = s.boot := rfl
@[simp] theorem State.putWarp_issueStopped (s : State) (id : Nat) (w : Warp) : (s.putWarp id w).issueStopped = s.issueStopped := rfl
@[simp] theorem State.putWarp_clockLow (s : State) (id : Nat) (w : Warp) : (s.putWarp id w).clockLow = s.clockLow := rfl
@[simp] theorem State.putWarp_clock (s : State) (id : Nat) (w : Warp) : (s.putWarp id w).clock = s.clock := rfl
@[simp] theorem State.putWarp_cycOff (s : State) (id : Nat) (w : Warp) : (s.putWarp id w).cycOff = s.cycOff := rfl
@[simp] theorem State.putWarp_gtime (s : State) (id : Nat) (w : Warp) : (s.putWarp id w).gtime = s.gtime := rfl
@[simp] theorem State.putWarp_mem (s : State) (id : Nat) (w : Warp) : (s.putWarp id w).mem = s.mem := rfl
@[simp] theorem State.putWarp_side (s : State) (id : Nat) (w : Warp) : (s.putWarp id w).side = s.side := rfl
@[simp] theorem State.putWarp_stale (s : State) (id : Nat) (w : Warp) : (s.putWarp id w).stale = s.stale := rfl
@[simp] theorem State.putWarp_staleSide (s : State) (id : Nat) (w : Warp) : (s.putWarp id w).staleSide = s.staleSide := rfl
@[simp] theorem State.putWarp_failed (s : State) (id : Nat) (w : Warp) : (s.putWarp id w).failed = s.failed := rfl
@[simp] theorem State.putWarp_corrected (s : State) (id : Nat) (w : Warp) : (s.putWarp id w).corrected = s.corrected := rfl
@[simp] theorem State.putWarp_correctedAt (s : State) (id : Nat) (w : Warp) : (s.putWarp id w).correctedAt = s.correctedAt := rfl
@[simp] theorem State.putWarp_l1 (s : State) (id : Nat) (w : Warp) : (s.putWarp id w).l1 = s.l1 := rfl
@[simp] theorem State.putWarp_fills (s : State) (id : Nat) (w : Warp) : (s.putWarp id w).fills = s.fills := rfl
@[simp] theorem State.putWarp_tags (s : State) (id : Nat) (w : Warp) : (s.putWarp id w).tags = s.tags := rfl
@[simp] theorem State.putWarp_decayAt (s : State) (id : Nat) (w : Warp) : (s.putWarp id w).decayAt = s.decayAt := rfl
@[simp] theorem State.putWarp_throttle (s : State) (id : Nat) (w : Warp) : (s.putWarp id w).throttle = s.throttle := rfl
@[simp] theorem State.putWarp_tlb (s : State) (id : Nat) (w : Warp) : (s.putWarp id w).tlb = s.tlb := rfl
@[simp] theorem State.putWarp_warps (s : State) (id : Nat) (w : Warp) : (s.putWarp id w).warps = s.warps.put id w := rfl
@[simp] theorem State.putWarp_blocks (s : State) (id : Nat) (w : Warp) : (s.putWarp id w).blocks = s.blocks := rfl
@[simp] theorem State.putWarp_clusters (s : State) (id : Nat) (w : Warp) : (s.putWarp id w).clusters = s.clusters := rfl
@[simp] theorem State.putWarp_launches (s : State) (id : Nat) (w : Warp) : (s.putWarp id w).launches = s.launches := rfl
@[simp] theorem State.putWarp_gens (s : State) (id : Nat) (w : Warp) : (s.putWarp id w).gens = s.gens := rfl
@[simp] theorem State.putWarp_sr (s : State) (id : Nat) (w : Warp) : (s.putWarp id w).sr = s.sr := rfl
@[simp] theorem State.putWarp_draws (s : State) (id : Nat) (w : Warp) : (s.putWarp id w).draws = s.draws := rfl
@[simp] theorem State.putWarp_seeds (s : State) (id : Nat) (w : Warp) : (s.putWarp id w).seeds = s.seeds := rfl
@[simp] theorem State.putWarp_engines (s : State) (id : Nat) (w : Warp) : (s.putWarp id w).engines = s.engines := rfl
@[simp] theorem State.putWarp_loads (s : State) (id : Nat) (w : Warp) : (s.putWarp id w).loads = s.loads := rfl
@[simp] theorem State.putWarp_acks (s : State) (id : Nat) (w : Warp) : (s.putWarp id w).acks = s.acks := rfl
@[simp] theorem State.putWarp_chases (s : State) (id : Nat) (w : Warp) : (s.putWarp id w).chases = s.chases := rfl
@[simp] theorem State.putWarp_cmds (s : State) (id : Nat) (w : Warp) : (s.putWarp id w).cmds = s.cmds := rfl
@[simp] theorem State.putWarp_qops (s : State) (id : Nat) (w : Warp) : (s.putWarp id w).qops = s.qops := rfl
@[simp] theorem State.putWarp_homes (s : State) (id : Nat) (w : Warp) : (s.putWarp id w).homes = s.homes := rfl
@[simp] theorem State.putWarp_barWaits (s : State) (id : Nat) (w : Warp) : (s.putWarp id w).barWaits = s.barWaits := rfl
@[simp] theorem State.putWarp_ctxs (s : State) (id : Nat) (w : Warp) : (s.putWarp id w).ctxs = s.ctxs := rfl
@[simp] theorem State.putWarp_comps (s : State) (id : Nat) (w : Warp) : (s.putWarp id w).comps = s.comps := rfl
@[simp] theorem State.putWarp_rkeys (s : State) (id : Nat) (w : Warp) : (s.putWarp id w).rkeys = s.rkeys := rfl
@[simp] theorem State.putWarp_hostOut (s : State) (id : Nat) (w : Warp) : (s.putWarp id w).hostOut = s.hostOut := rfl
@[simp] theorem State.putWarp_conns (s : State) (id : Nat) (w : Warp) : (s.putWarp id w).conns = s.conns := rfl
@[simp] theorem State.putWarp_ownModule (s : State) (id : Nat) (w : Warp) : (s.putWarp id w).ownModule = s.ownModule := rfl
@[simp] theorem State.putWarp_members (s : State) (id : Nat) (w : Warp) : (s.putWarp id w).members = s.members := rfl
@[simp] theorem State.putWarp_planeMap (s : State) (id : Nat) (w : Warp) : (s.putWarp id w).planeMap = s.planeMap := rfl
@[simp] theorem State.putWarp_deadPlanes (s : State) (id : Nat) (w : Warp) : (s.putWarp id w).deadPlanes = s.deadPlanes := rfl
@[simp] theorem State.putWarp_quiesced (s : State) (id : Nat) (w : Warp) : (s.putWarp id w).quiesced = s.quiesced := rfl
@[simp] theorem State.putWarp_delayed (s : State) (id : Nat) (w : Warp) : (s.putWarp id w).delayed = s.delayed := rfl
@[simp] theorem State.putWarp_remoteLog (s : State) (id : Nat) (w : Warp) : (s.putWarp id w).remoteLog = s.remoteLog := rfl
@[simp] theorem State.putWarp_downLinks (s : State) (id : Nat) (w : Warp) : (s.putWarp id w).downLinks = s.downLinks := rfl
@[simp] theorem State.putWarp_coreDie (s : State) (id : Nat) (w : Warp) : (s.putWarp id w).coreDie = s.coreDie := rfl
@[simp] theorem State.putWarp_reports (s : State) (id : Nat) (w : Warp) : (s.putWarp id w).reports = s.reports := rfl
@[simp] theorem State.putWarp_reportAt (s : State) (id : Nat) (w : Warp) : (s.putWarp id w).reportAt = s.reportAt := rfl
@[simp] theorem State.putWarp_chosen (s : State) (id : Nat) (w : Warp) : (s.putWarp id w).chosen = s.chosen := rfl
@[simp] theorem State.putWarp_pipes (s : State) (id : Nat) (w : Warp) : (s.putWarp id w).pipes = s.pipes := rfl
@[simp] theorem State.putWarp_throttled (s : State) (id : Nat) (w : Warp) : (s.putWarp id w).throttled = s.throttled := rfl
@[simp] theorem State.putWarp_image (s : State) (id : Nat) (w : Warp) : (s.putWarp id w).image = s.image := rfl
@[simp] theorem State.putWarp_flash (s : State) (id : Nat) (w : Warp) : (s.putWarp id w).flash = s.flash := rfl
@[simp] theorem State.putWarp_torn (s : State) (id : Nat) (w : Warp) : (s.putWarp id w).torn = s.torn := rfl
@[simp] theorem State.putWarp_staged (s : State) (id : Nat) (w : Warp) : (s.putWarp id w).staged = s.staged := rfl
@[simp] theorem State.putWarp_fuseMin (s : State) (id : Nat) (w : Warp) : (s.putWarp id w).fuseMin = s.fuseMin := rfl
@[simp] theorem State.putWarp_peers (s : State) (id : Nat) (w : Warp) : (s.putWarp id w).peers = s.peers := rfl

@[simp] theorem State.tick1_agenda (s : State) : (s.tick1).agenda = s.agenda := rfl
@[simp] theorem State.tick1_cur (s : State) : (s.tick1).cur = s.cur := rfl
@[simp] theorem State.tick1_fresh (s : State) : (s.tick1).fresh = s.fresh := rfl
@[simp] theorem State.tick1_nextId (s : State) : (s.tick1).nextId = s.nextId + 1 := rfl
@[simp] theorem State.tick1_power (s : State) : (s.tick1).power = s.power := rfl
@[simp] theorem State.tick1_boot (s : State) : (s.tick1).boot = s.boot := rfl
@[simp] theorem State.tick1_issueStopped (s : State) : (s.tick1).issueStopped = s.issueStopped := rfl
@[simp] theorem State.tick1_clockLow (s : State) : (s.tick1).clockLow = s.clockLow := rfl
@[simp] theorem State.tick1_clock (s : State) : (s.tick1).clock = s.clock := rfl
@[simp] theorem State.tick1_cycOff (s : State) : (s.tick1).cycOff = s.cycOff := rfl
@[simp] theorem State.tick1_gtime (s : State) : (s.tick1).gtime = s.gtime := rfl
@[simp] theorem State.tick1_mem (s : State) : (s.tick1).mem = s.mem := rfl
@[simp] theorem State.tick1_side (s : State) : (s.tick1).side = s.side := rfl
@[simp] theorem State.tick1_stale (s : State) : (s.tick1).stale = s.stale := rfl
@[simp] theorem State.tick1_staleSide (s : State) : (s.tick1).staleSide = s.staleSide := rfl
@[simp] theorem State.tick1_failed (s : State) : (s.tick1).failed = s.failed := rfl
@[simp] theorem State.tick1_corrected (s : State) : (s.tick1).corrected = s.corrected := rfl
@[simp] theorem State.tick1_correctedAt (s : State) : (s.tick1).correctedAt = s.correctedAt := rfl
@[simp] theorem State.tick1_l1 (s : State) : (s.tick1).l1 = s.l1 := rfl
@[simp] theorem State.tick1_fills (s : State) : (s.tick1).fills = s.fills := rfl
@[simp] theorem State.tick1_tags (s : State) : (s.tick1).tags = s.tags := rfl
@[simp] theorem State.tick1_decayAt (s : State) : (s.tick1).decayAt = s.decayAt := rfl
@[simp] theorem State.tick1_throttle (s : State) : (s.tick1).throttle = s.throttle := rfl
@[simp] theorem State.tick1_tlb (s : State) : (s.tick1).tlb = s.tlb := rfl
@[simp] theorem State.tick1_warps (s : State) : (s.tick1).warps = s.warps := rfl
@[simp] theorem State.tick1_blocks (s : State) : (s.tick1).blocks = s.blocks := rfl
@[simp] theorem State.tick1_clusters (s : State) : (s.tick1).clusters = s.clusters := rfl
@[simp] theorem State.tick1_launches (s : State) : (s.tick1).launches = s.launches := rfl
@[simp] theorem State.tick1_gens (s : State) : (s.tick1).gens = s.gens := rfl
@[simp] theorem State.tick1_sr (s : State) : (s.tick1).sr = s.sr := rfl
@[simp] theorem State.tick1_draws (s : State) : (s.tick1).draws = s.draws := rfl
@[simp] theorem State.tick1_seeds (s : State) : (s.tick1).seeds = s.seeds := rfl
@[simp] theorem State.tick1_engines (s : State) : (s.tick1).engines = s.engines := rfl
@[simp] theorem State.tick1_loads (s : State) : (s.tick1).loads = s.loads := rfl
@[simp] theorem State.tick1_acks (s : State) : (s.tick1).acks = s.acks := rfl
@[simp] theorem State.tick1_chases (s : State) : (s.tick1).chases = s.chases := rfl
@[simp] theorem State.tick1_cmds (s : State) : (s.tick1).cmds = s.cmds := rfl
@[simp] theorem State.tick1_qops (s : State) : (s.tick1).qops = s.qops := rfl
@[simp] theorem State.tick1_homes (s : State) : (s.tick1).homes = s.homes := rfl
@[simp] theorem State.tick1_barWaits (s : State) : (s.tick1).barWaits = s.barWaits := rfl
@[simp] theorem State.tick1_ctxs (s : State) : (s.tick1).ctxs = s.ctxs := rfl
@[simp] theorem State.tick1_comps (s : State) : (s.tick1).comps = s.comps := rfl
@[simp] theorem State.tick1_rkeys (s : State) : (s.tick1).rkeys = s.rkeys := rfl
@[simp] theorem State.tick1_hostOut (s : State) : (s.tick1).hostOut = s.hostOut := rfl
@[simp] theorem State.tick1_conns (s : State) : (s.tick1).conns = s.conns := rfl
@[simp] theorem State.tick1_ownModule (s : State) : (s.tick1).ownModule = s.ownModule := rfl
@[simp] theorem State.tick1_members (s : State) : (s.tick1).members = s.members := rfl
@[simp] theorem State.tick1_planeMap (s : State) : (s.tick1).planeMap = s.planeMap := rfl
@[simp] theorem State.tick1_deadPlanes (s : State) : (s.tick1).deadPlanes = s.deadPlanes := rfl
@[simp] theorem State.tick1_quiesced (s : State) : (s.tick1).quiesced = s.quiesced := rfl
@[simp] theorem State.tick1_delayed (s : State) : (s.tick1).delayed = s.delayed := rfl
@[simp] theorem State.tick1_remoteLog (s : State) : (s.tick1).remoteLog = s.remoteLog := rfl
@[simp] theorem State.tick1_downLinks (s : State) : (s.tick1).downLinks = s.downLinks := rfl
@[simp] theorem State.tick1_coreDie (s : State) : (s.tick1).coreDie = s.coreDie := rfl
@[simp] theorem State.tick1_reports (s : State) : (s.tick1).reports = s.reports := rfl
@[simp] theorem State.tick1_reportAt (s : State) : (s.tick1).reportAt = s.reportAt := rfl
@[simp] theorem State.tick1_chosen (s : State) : (s.tick1).chosen = s.chosen := rfl
@[simp] theorem State.tick1_pipes (s : State) : (s.tick1).pipes = s.pipes := rfl
@[simp] theorem State.tick1_throttled (s : State) : (s.tick1).throttled = s.throttled := rfl
@[simp] theorem State.tick1_image (s : State) : (s.tick1).image = s.image := rfl
@[simp] theorem State.tick1_flash (s : State) : (s.tick1).flash = s.flash := rfl
@[simp] theorem State.tick1_torn (s : State) : (s.tick1).torn = s.torn := rfl
@[simp] theorem State.tick1_staged (s : State) : (s.tick1).staged = s.staged := rfl
@[simp] theorem State.tick1_fuseMin (s : State) : (s.tick1).fuseMin = s.fuseMin := rfl
@[simp] theorem State.tick1_peers (s : State) : (s.tick1).peers = s.peers := rfl

@[simp] theorem State.bumpGen_agenda (s : State) (n : Nat) : (s.bumpGen n).agenda = s.agenda := rfl
@[simp] theorem State.bumpGen_cur (s : State) (n : Nat) : (s.bumpGen n).cur = s.cur := rfl
@[simp] theorem State.bumpGen_fresh (s : State) (n : Nat) : (s.bumpGen n).fresh = s.fresh := rfl
@[simp] theorem State.bumpGen_nextId (s : State) (n : Nat) : (s.bumpGen n).nextId = s.nextId := rfl
@[simp] theorem State.bumpGen_power (s : State) (n : Nat) : (s.bumpGen n).power = s.power := rfl
@[simp] theorem State.bumpGen_boot (s : State) (n : Nat) : (s.bumpGen n).boot = s.boot := rfl
@[simp] theorem State.bumpGen_issueStopped (s : State) (n : Nat) : (s.bumpGen n).issueStopped = s.issueStopped := rfl
@[simp] theorem State.bumpGen_clockLow (s : State) (n : Nat) : (s.bumpGen n).clockLow = s.clockLow := rfl
@[simp] theorem State.bumpGen_clock (s : State) (n : Nat) : (s.bumpGen n).clock = s.clock := rfl
@[simp] theorem State.bumpGen_cycOff (s : State) (n : Nat) : (s.bumpGen n).cycOff = s.cycOff := rfl
@[simp] theorem State.bumpGen_gtime (s : State) (n : Nat) : (s.bumpGen n).gtime = s.gtime := rfl
@[simp] theorem State.bumpGen_mem (s : State) (n : Nat) : (s.bumpGen n).mem = s.mem := rfl
@[simp] theorem State.bumpGen_side (s : State) (n : Nat) : (s.bumpGen n).side = s.side := rfl
@[simp] theorem State.bumpGen_stale (s : State) (n : Nat) : (s.bumpGen n).stale = s.stale := rfl
@[simp] theorem State.bumpGen_staleSide (s : State) (n : Nat) : (s.bumpGen n).staleSide = s.staleSide := rfl
@[simp] theorem State.bumpGen_failed (s : State) (n : Nat) : (s.bumpGen n).failed = s.failed := rfl
@[simp] theorem State.bumpGen_corrected (s : State) (n : Nat) : (s.bumpGen n).corrected = s.corrected := rfl
@[simp] theorem State.bumpGen_correctedAt (s : State) (n : Nat) : (s.bumpGen n).correctedAt = s.correctedAt := rfl
@[simp] theorem State.bumpGen_l1 (s : State) (n : Nat) : (s.bumpGen n).l1 = s.l1 := rfl
@[simp] theorem State.bumpGen_fills (s : State) (n : Nat) : (s.bumpGen n).fills = s.fills := rfl
@[simp] theorem State.bumpGen_tags (s : State) (n : Nat) : (s.bumpGen n).tags = s.tags := rfl
@[simp] theorem State.bumpGen_decayAt (s : State) (n : Nat) : (s.bumpGen n).decayAt = s.decayAt := rfl
@[simp] theorem State.bumpGen_throttle (s : State) (n : Nat) : (s.bumpGen n).throttle = s.throttle := rfl
@[simp] theorem State.bumpGen_tlb (s : State) (n : Nat) : (s.bumpGen n).tlb = s.tlb := rfl
@[simp] theorem State.bumpGen_warps (s : State) (n : Nat) : (s.bumpGen n).warps = s.warps := rfl
@[simp] theorem State.bumpGen_blocks (s : State) (n : Nat) : (s.bumpGen n).blocks = s.blocks := rfl
@[simp] theorem State.bumpGen_clusters (s : State) (n : Nat) : (s.bumpGen n).clusters = s.clusters := rfl
@[simp] theorem State.bumpGen_launches (s : State) (n : Nat) : (s.bumpGen n).launches = s.launches := rfl
@[simp] theorem State.bumpGen_gens (s : State) (n : Nat) : (s.bumpGen n).gens = Store.set 0 s.gens n ((s.gen n + 1) % 64) := rfl
@[simp] theorem State.bumpGen_sr (s : State) (n : Nat) : (s.bumpGen n).sr = s.sr := rfl
@[simp] theorem State.bumpGen_draws (s : State) (n : Nat) : (s.bumpGen n).draws = s.draws := rfl
@[simp] theorem State.bumpGen_seeds (s : State) (n : Nat) : (s.bumpGen n).seeds = s.seeds := rfl
@[simp] theorem State.bumpGen_engines (s : State) (n : Nat) : (s.bumpGen n).engines = s.engines := rfl
@[simp] theorem State.bumpGen_loads (s : State) (n : Nat) : (s.bumpGen n).loads = s.loads := rfl
@[simp] theorem State.bumpGen_acks (s : State) (n : Nat) : (s.bumpGen n).acks = s.acks := rfl
@[simp] theorem State.bumpGen_chases (s : State) (n : Nat) : (s.bumpGen n).chases = s.chases := rfl
@[simp] theorem State.bumpGen_cmds (s : State) (n : Nat) : (s.bumpGen n).cmds = s.cmds := rfl
@[simp] theorem State.bumpGen_qops (s : State) (n : Nat) : (s.bumpGen n).qops = s.qops := rfl
@[simp] theorem State.bumpGen_homes (s : State) (n : Nat) : (s.bumpGen n).homes = s.homes := rfl
@[simp] theorem State.bumpGen_barWaits (s : State) (n : Nat) : (s.bumpGen n).barWaits = s.barWaits := rfl
@[simp] theorem State.bumpGen_ctxs (s : State) (n : Nat) : (s.bumpGen n).ctxs = s.ctxs := rfl
@[simp] theorem State.bumpGen_comps (s : State) (n : Nat) : (s.bumpGen n).comps = s.comps := rfl
@[simp] theorem State.bumpGen_rkeys (s : State) (n : Nat) : (s.bumpGen n).rkeys = s.rkeys := rfl
@[simp] theorem State.bumpGen_hostOut (s : State) (n : Nat) : (s.bumpGen n).hostOut = s.hostOut := rfl
@[simp] theorem State.bumpGen_conns (s : State) (n : Nat) : (s.bumpGen n).conns = s.conns := rfl
@[simp] theorem State.bumpGen_ownModule (s : State) (n : Nat) : (s.bumpGen n).ownModule = s.ownModule := rfl
@[simp] theorem State.bumpGen_members (s : State) (n : Nat) : (s.bumpGen n).members = s.members := rfl
@[simp] theorem State.bumpGen_planeMap (s : State) (n : Nat) : (s.bumpGen n).planeMap = s.planeMap := rfl
@[simp] theorem State.bumpGen_deadPlanes (s : State) (n : Nat) : (s.bumpGen n).deadPlanes = s.deadPlanes := rfl
@[simp] theorem State.bumpGen_quiesced (s : State) (n : Nat) : (s.bumpGen n).quiesced = s.quiesced := rfl
@[simp] theorem State.bumpGen_delayed (s : State) (n : Nat) : (s.bumpGen n).delayed = s.delayed := rfl
@[simp] theorem State.bumpGen_remoteLog (s : State) (n : Nat) : (s.bumpGen n).remoteLog = s.remoteLog := rfl
@[simp] theorem State.bumpGen_downLinks (s : State) (n : Nat) : (s.bumpGen n).downLinks = s.downLinks := rfl
@[simp] theorem State.bumpGen_coreDie (s : State) (n : Nat) : (s.bumpGen n).coreDie = s.coreDie := rfl
@[simp] theorem State.bumpGen_reports (s : State) (n : Nat) : (s.bumpGen n).reports = s.reports := rfl
@[simp] theorem State.bumpGen_reportAt (s : State) (n : Nat) : (s.bumpGen n).reportAt = s.reportAt := rfl
@[simp] theorem State.bumpGen_chosen (s : State) (n : Nat) : (s.bumpGen n).chosen = s.chosen := rfl
@[simp] theorem State.bumpGen_pipes (s : State) (n : Nat) : (s.bumpGen n).pipes = s.pipes := rfl
@[simp] theorem State.bumpGen_throttled (s : State) (n : Nat) : (s.bumpGen n).throttled = s.throttled := rfl
@[simp] theorem State.bumpGen_image (s : State) (n : Nat) : (s.bumpGen n).image = s.image := rfl
@[simp] theorem State.bumpGen_flash (s : State) (n : Nat) : (s.bumpGen n).flash = s.flash := rfl
@[simp] theorem State.bumpGen_torn (s : State) (n : Nat) : (s.bumpGen n).torn = s.torn := rfl
@[simp] theorem State.bumpGen_staged (s : State) (n : Nat) : (s.bumpGen n).staged = s.staged := rfl
@[simp] theorem State.bumpGen_fuseMin (s : State) (n : Nat) : (s.bumpGen n).fuseMin = s.fuseMin := rfl
@[simp] theorem State.bumpGen_peers (s : State) (n : Nat) : (s.bumpGen n).peers = s.peers := rfl

@[simp] theorem State.wrRaw_agenda (s : State) (a : Nat) (l : List Byte) : (s.wrRaw a l).agenda = s.agenda := rfl
@[simp] theorem State.wrRaw_cur (s : State) (a : Nat) (l : List Byte) : (s.wrRaw a l).cur = s.cur := rfl
@[simp] theorem State.wrRaw_fresh (s : State) (a : Nat) (l : List Byte) : (s.wrRaw a l).fresh = s.fresh := rfl
@[simp] theorem State.wrRaw_nextId (s : State) (a : Nat) (l : List Byte) : (s.wrRaw a l).nextId = s.nextId := rfl
@[simp] theorem State.wrRaw_power (s : State) (a : Nat) (l : List Byte) : (s.wrRaw a l).power = s.power := rfl
@[simp] theorem State.wrRaw_boot (s : State) (a : Nat) (l : List Byte) : (s.wrRaw a l).boot = s.boot := rfl
@[simp] theorem State.wrRaw_issueStopped (s : State) (a : Nat) (l : List Byte) : (s.wrRaw a l).issueStopped = s.issueStopped := rfl
@[simp] theorem State.wrRaw_clockLow (s : State) (a : Nat) (l : List Byte) : (s.wrRaw a l).clockLow = s.clockLow := rfl
@[simp] theorem State.wrRaw_clock (s : State) (a : Nat) (l : List Byte) : (s.wrRaw a l).clock = s.clock := rfl
@[simp] theorem State.wrRaw_cycOff (s : State) (a : Nat) (l : List Byte) : (s.wrRaw a l).cycOff = s.cycOff := rfl
@[simp] theorem State.wrRaw_gtime (s : State) (a : Nat) (l : List Byte) : (s.wrRaw a l).gtime = s.gtime := rfl
@[simp] theorem State.wrRaw_mem (s : State) (a : Nat) (l : List Byte) : (s.wrRaw a l).mem = Store.setBlock 0 s.mem a l.length fun i => l.getD i 0 := rfl
@[simp] theorem State.wrRaw_side (s : State) (a : Nat) (l : List Byte) : (s.wrRaw a l).side = s.side := rfl
@[simp] theorem State.wrRaw_stale (s : State) (a : Nat) (l : List Byte) : (s.wrRaw a l).stale = s.stale := rfl
@[simp] theorem State.wrRaw_staleSide (s : State) (a : Nat) (l : List Byte) : (s.wrRaw a l).staleSide = s.staleSide := rfl
@[simp] theorem State.wrRaw_failed (s : State) (a : Nat) (l : List Byte) : (s.wrRaw a l).failed = clearRun s.failed a l.length := rfl
@[simp] theorem State.wrRaw_corrected (s : State) (a : Nat) (l : List Byte) : (s.wrRaw a l).corrected = s.corrected := rfl
@[simp] theorem State.wrRaw_correctedAt (s : State) (a : Nat) (l : List Byte) : (s.wrRaw a l).correctedAt = s.correctedAt := rfl
@[simp] theorem State.wrRaw_l1 (s : State) (a : Nat) (l : List Byte) : (s.wrRaw a l).l1 = s.l1 := rfl
@[simp] theorem State.wrRaw_fills (s : State) (a : Nat) (l : List Byte) : (s.wrRaw a l).fills = s.fills := rfl
@[simp] theorem State.wrRaw_tags (s : State) (a : Nat) (l : List Byte) : (s.wrRaw a l).tags = s.tags := rfl
@[simp] theorem State.wrRaw_decayAt (s : State) (a : Nat) (l : List Byte) : (s.wrRaw a l).decayAt = s.decayAt := rfl
@[simp] theorem State.wrRaw_throttle (s : State) (a : Nat) (l : List Byte) : (s.wrRaw a l).throttle = s.throttle := rfl
@[simp] theorem State.wrRaw_tlb (s : State) (a : Nat) (l : List Byte) : (s.wrRaw a l).tlb = s.tlb := rfl
@[simp] theorem State.wrRaw_warps (s : State) (a : Nat) (l : List Byte) : (s.wrRaw a l).warps = s.warps := rfl
@[simp] theorem State.wrRaw_blocks (s : State) (a : Nat) (l : List Byte) : (s.wrRaw a l).blocks = s.blocks := rfl
@[simp] theorem State.wrRaw_clusters (s : State) (a : Nat) (l : List Byte) : (s.wrRaw a l).clusters = s.clusters := rfl
@[simp] theorem State.wrRaw_launches (s : State) (a : Nat) (l : List Byte) : (s.wrRaw a l).launches = s.launches := rfl
@[simp] theorem State.wrRaw_gens (s : State) (a : Nat) (l : List Byte) : (s.wrRaw a l).gens = s.gens := rfl
@[simp] theorem State.wrRaw_sr (s : State) (a : Nat) (l : List Byte) : (s.wrRaw a l).sr = s.sr := rfl
@[simp] theorem State.wrRaw_draws (s : State) (a : Nat) (l : List Byte) : (s.wrRaw a l).draws = s.draws := rfl
@[simp] theorem State.wrRaw_seeds (s : State) (a : Nat) (l : List Byte) : (s.wrRaw a l).seeds = s.seeds := rfl
@[simp] theorem State.wrRaw_engines (s : State) (a : Nat) (l : List Byte) : (s.wrRaw a l).engines = s.engines := rfl
@[simp] theorem State.wrRaw_loads (s : State) (a : Nat) (l : List Byte) : (s.wrRaw a l).loads = s.loads := rfl
@[simp] theorem State.wrRaw_acks (s : State) (a : Nat) (l : List Byte) : (s.wrRaw a l).acks = s.acks := rfl
@[simp] theorem State.wrRaw_chases (s : State) (a : Nat) (l : List Byte) : (s.wrRaw a l).chases = s.chases := rfl
@[simp] theorem State.wrRaw_cmds (s : State) (a : Nat) (l : List Byte) : (s.wrRaw a l).cmds = s.cmds := rfl
@[simp] theorem State.wrRaw_qops (s : State) (a : Nat) (l : List Byte) : (s.wrRaw a l).qops = s.qops := rfl
@[simp] theorem State.wrRaw_homes (s : State) (a : Nat) (l : List Byte) : (s.wrRaw a l).homes = s.homes := rfl
@[simp] theorem State.wrRaw_barWaits (s : State) (a : Nat) (l : List Byte) : (s.wrRaw a l).barWaits = s.barWaits := rfl
@[simp] theorem State.wrRaw_ctxs (s : State) (a : Nat) (l : List Byte) : (s.wrRaw a l).ctxs = s.ctxs := rfl
@[simp] theorem State.wrRaw_comps (s : State) (a : Nat) (l : List Byte) : (s.wrRaw a l).comps = s.comps := rfl
@[simp] theorem State.wrRaw_rkeys (s : State) (a : Nat) (l : List Byte) : (s.wrRaw a l).rkeys = s.rkeys := rfl
@[simp] theorem State.wrRaw_hostOut (s : State) (a : Nat) (l : List Byte) : (s.wrRaw a l).hostOut = s.hostOut := rfl
@[simp] theorem State.wrRaw_conns (s : State) (a : Nat) (l : List Byte) : (s.wrRaw a l).conns = s.conns := rfl
@[simp] theorem State.wrRaw_ownModule (s : State) (a : Nat) (l : List Byte) : (s.wrRaw a l).ownModule = s.ownModule := rfl
@[simp] theorem State.wrRaw_members (s : State) (a : Nat) (l : List Byte) : (s.wrRaw a l).members = s.members := rfl
@[simp] theorem State.wrRaw_planeMap (s : State) (a : Nat) (l : List Byte) : (s.wrRaw a l).planeMap = s.planeMap := rfl
@[simp] theorem State.wrRaw_deadPlanes (s : State) (a : Nat) (l : List Byte) : (s.wrRaw a l).deadPlanes = s.deadPlanes := rfl
@[simp] theorem State.wrRaw_quiesced (s : State) (a : Nat) (l : List Byte) : (s.wrRaw a l).quiesced = s.quiesced := rfl
@[simp] theorem State.wrRaw_delayed (s : State) (a : Nat) (l : List Byte) : (s.wrRaw a l).delayed = s.delayed := rfl
@[simp] theorem State.wrRaw_remoteLog (s : State) (a : Nat) (l : List Byte) : (s.wrRaw a l).remoteLog = s.remoteLog := rfl
@[simp] theorem State.wrRaw_downLinks (s : State) (a : Nat) (l : List Byte) : (s.wrRaw a l).downLinks = s.downLinks := rfl
@[simp] theorem State.wrRaw_coreDie (s : State) (a : Nat) (l : List Byte) : (s.wrRaw a l).coreDie = s.coreDie := rfl
@[simp] theorem State.wrRaw_reports (s : State) (a : Nat) (l : List Byte) : (s.wrRaw a l).reports = s.reports := rfl
@[simp] theorem State.wrRaw_reportAt (s : State) (a : Nat) (l : List Byte) : (s.wrRaw a l).reportAt = s.reportAt := rfl
@[simp] theorem State.wrRaw_chosen (s : State) (a : Nat) (l : List Byte) : (s.wrRaw a l).chosen = s.chosen := rfl
@[simp] theorem State.wrRaw_pipes (s : State) (a : Nat) (l : List Byte) : (s.wrRaw a l).pipes = s.pipes := rfl
@[simp] theorem State.wrRaw_throttled (s : State) (a : Nat) (l : List Byte) : (s.wrRaw a l).throttled = s.throttled := rfl
@[simp] theorem State.wrRaw_image (s : State) (a : Nat) (l : List Byte) : (s.wrRaw a l).image = s.image := rfl
@[simp] theorem State.wrRaw_flash (s : State) (a : Nat) (l : List Byte) : (s.wrRaw a l).flash = s.flash := rfl
@[simp] theorem State.wrRaw_torn (s : State) (a : Nat) (l : List Byte) : (s.wrRaw a l).torn = s.torn := rfl
@[simp] theorem State.wrRaw_staged (s : State) (a : Nat) (l : List Byte) : (s.wrRaw a l).staged = s.staged := rfl
@[simp] theorem State.wrRaw_fuseMin (s : State) (a : Nat) (l : List Byte) : (s.wrRaw a l).fuseMin = s.fuseMin := rfl
@[simp] theorem State.wrRaw_peers (s : State) (a : Nat) (l : List Byte) : (s.wrRaw a l).peers = s.peers := rfl

@[simp] theorem State.srAdvance_agenda (s : State) (q n : Nat) : (s.srAdvance q n).agenda = s.agenda := rfl
@[simp] theorem State.srAdvance_cur (s : State) (q n : Nat) : (s.srAdvance q n).cur = s.cur := rfl
@[simp] theorem State.srAdvance_fresh (s : State) (q n : Nat) : (s.srAdvance q n).fresh = s.fresh := rfl
@[simp] theorem State.srAdvance_nextId (s : State) (q n : Nat) : (s.srAdvance q n).nextId = s.nextId := rfl
@[simp] theorem State.srAdvance_power (s : State) (q n : Nat) : (s.srAdvance q n).power = s.power := rfl
@[simp] theorem State.srAdvance_boot (s : State) (q n : Nat) : (s.srAdvance q n).boot = s.boot := rfl
@[simp] theorem State.srAdvance_issueStopped (s : State) (q n : Nat) : (s.srAdvance q n).issueStopped = s.issueStopped := rfl
@[simp] theorem State.srAdvance_clockLow (s : State) (q n : Nat) : (s.srAdvance q n).clockLow = s.clockLow := rfl
@[simp] theorem State.srAdvance_clock (s : State) (q n : Nat) : (s.srAdvance q n).clock = s.clock := rfl
@[simp] theorem State.srAdvance_cycOff (s : State) (q n : Nat) : (s.srAdvance q n).cycOff = s.cycOff := rfl
@[simp] theorem State.srAdvance_gtime (s : State) (q n : Nat) : (s.srAdvance q n).gtime = s.gtime := rfl
@[simp] theorem State.srAdvance_mem (s : State) (q n : Nat) : (s.srAdvance q n).mem = s.mem := rfl
@[simp] theorem State.srAdvance_side (s : State) (q n : Nat) : (s.srAdvance q n).side = s.side := rfl
@[simp] theorem State.srAdvance_stale (s : State) (q n : Nat) : (s.srAdvance q n).stale = s.stale := rfl
@[simp] theorem State.srAdvance_staleSide (s : State) (q n : Nat) : (s.srAdvance q n).staleSide = s.staleSide := rfl
@[simp] theorem State.srAdvance_failed (s : State) (q n : Nat) : (s.srAdvance q n).failed = s.failed := rfl
@[simp] theorem State.srAdvance_corrected (s : State) (q n : Nat) : (s.srAdvance q n).corrected = s.corrected := rfl
@[simp] theorem State.srAdvance_correctedAt (s : State) (q n : Nat) : (s.srAdvance q n).correctedAt = s.correctedAt := rfl
@[simp] theorem State.srAdvance_l1 (s : State) (q n : Nat) : (s.srAdvance q n).l1 = s.l1 := rfl
@[simp] theorem State.srAdvance_fills (s : State) (q n : Nat) : (s.srAdvance q n).fills = s.fills := rfl
@[simp] theorem State.srAdvance_tags (s : State) (q n : Nat) : (s.srAdvance q n).tags = s.tags := rfl
@[simp] theorem State.srAdvance_decayAt (s : State) (q n : Nat) : (s.srAdvance q n).decayAt = s.decayAt := rfl
@[simp] theorem State.srAdvance_throttle (s : State) (q n : Nat) : (s.srAdvance q n).throttle = s.throttle := rfl
@[simp] theorem State.srAdvance_tlb (s : State) (q n : Nat) : (s.srAdvance q n).tlb = s.tlb := rfl
@[simp] theorem State.srAdvance_warps (s : State) (q n : Nat) : (s.srAdvance q n).warps = s.warps := rfl
@[simp] theorem State.srAdvance_blocks (s : State) (q n : Nat) : (s.srAdvance q n).blocks = s.blocks := rfl
@[simp] theorem State.srAdvance_clusters (s : State) (q n : Nat) : (s.srAdvance q n).clusters = s.clusters := rfl
@[simp] theorem State.srAdvance_launches (s : State) (q n : Nat) : (s.srAdvance q n).launches = s.launches := rfl
@[simp] theorem State.srAdvance_gens (s : State) (q n : Nat) : (s.srAdvance q n).gens = s.gens := rfl
@[simp] theorem State.srAdvance_sr (s : State) (q n : Nat) : (s.srAdvance q n).sr = Store.set 1 s.sr q (srSteps n (s.srState q)) := rfl
@[simp] theorem State.srAdvance_draws (s : State) (q n : Nat) : (s.srAdvance q n).draws = s.draws := rfl
@[simp] theorem State.srAdvance_seeds (s : State) (q n : Nat) : (s.srAdvance q n).seeds = s.seeds := rfl
@[simp] theorem State.srAdvance_engines (s : State) (q n : Nat) : (s.srAdvance q n).engines = s.engines := rfl
@[simp] theorem State.srAdvance_loads (s : State) (q n : Nat) : (s.srAdvance q n).loads = s.loads := rfl
@[simp] theorem State.srAdvance_acks (s : State) (q n : Nat) : (s.srAdvance q n).acks = s.acks := rfl
@[simp] theorem State.srAdvance_chases (s : State) (q n : Nat) : (s.srAdvance q n).chases = s.chases := rfl
@[simp] theorem State.srAdvance_cmds (s : State) (q n : Nat) : (s.srAdvance q n).cmds = s.cmds := rfl
@[simp] theorem State.srAdvance_qops (s : State) (q n : Nat) : (s.srAdvance q n).qops = s.qops := rfl
@[simp] theorem State.srAdvance_homes (s : State) (q n : Nat) : (s.srAdvance q n).homes = s.homes := rfl
@[simp] theorem State.srAdvance_barWaits (s : State) (q n : Nat) : (s.srAdvance q n).barWaits = s.barWaits := rfl
@[simp] theorem State.srAdvance_ctxs (s : State) (q n : Nat) : (s.srAdvance q n).ctxs = s.ctxs := rfl
@[simp] theorem State.srAdvance_comps (s : State) (q n : Nat) : (s.srAdvance q n).comps = s.comps := rfl
@[simp] theorem State.srAdvance_rkeys (s : State) (q n : Nat) : (s.srAdvance q n).rkeys = s.rkeys := rfl
@[simp] theorem State.srAdvance_hostOut (s : State) (q n : Nat) : (s.srAdvance q n).hostOut = s.hostOut := rfl
@[simp] theorem State.srAdvance_conns (s : State) (q n : Nat) : (s.srAdvance q n).conns = s.conns := rfl
@[simp] theorem State.srAdvance_ownModule (s : State) (q n : Nat) : (s.srAdvance q n).ownModule = s.ownModule := rfl
@[simp] theorem State.srAdvance_members (s : State) (q n : Nat) : (s.srAdvance q n).members = s.members := rfl
@[simp] theorem State.srAdvance_planeMap (s : State) (q n : Nat) : (s.srAdvance q n).planeMap = s.planeMap := rfl
@[simp] theorem State.srAdvance_deadPlanes (s : State) (q n : Nat) : (s.srAdvance q n).deadPlanes = s.deadPlanes := rfl
@[simp] theorem State.srAdvance_quiesced (s : State) (q n : Nat) : (s.srAdvance q n).quiesced = s.quiesced := rfl
@[simp] theorem State.srAdvance_delayed (s : State) (q n : Nat) : (s.srAdvance q n).delayed = s.delayed := rfl
@[simp] theorem State.srAdvance_remoteLog (s : State) (q n : Nat) : (s.srAdvance q n).remoteLog = s.remoteLog := rfl
@[simp] theorem State.srAdvance_downLinks (s : State) (q n : Nat) : (s.srAdvance q n).downLinks = s.downLinks := rfl
@[simp] theorem State.srAdvance_coreDie (s : State) (q n : Nat) : (s.srAdvance q n).coreDie = s.coreDie := rfl
@[simp] theorem State.srAdvance_reports (s : State) (q n : Nat) : (s.srAdvance q n).reports = s.reports := rfl
@[simp] theorem State.srAdvance_reportAt (s : State) (q n : Nat) : (s.srAdvance q n).reportAt = s.reportAt := rfl
@[simp] theorem State.srAdvance_chosen (s : State) (q n : Nat) : (s.srAdvance q n).chosen = s.chosen := rfl
@[simp] theorem State.srAdvance_pipes (s : State) (q n : Nat) : (s.srAdvance q n).pipes = s.pipes := rfl
@[simp] theorem State.srAdvance_throttled (s : State) (q n : Nat) : (s.srAdvance q n).throttled = s.throttled := rfl
@[simp] theorem State.srAdvance_image (s : State) (q n : Nat) : (s.srAdvance q n).image = s.image := rfl
@[simp] theorem State.srAdvance_flash (s : State) (q n : Nat) : (s.srAdvance q n).flash = s.flash := rfl
@[simp] theorem State.srAdvance_torn (s : State) (q n : Nat) : (s.srAdvance q n).torn = s.torn := rfl
@[simp] theorem State.srAdvance_staged (s : State) (q n : Nat) : (s.srAdvance q n).staged = s.staged := rfl
@[simp] theorem State.srAdvance_fuseMin (s : State) (q n : Nat) : (s.srAdvance q n).fuseMin = s.fuseMin := rfl
@[simp] theorem State.srAdvance_peers (s : State) (q n : Nat) : (s.srAdvance q n).peers = s.peers := rfl

set_option maxRecDepth 20000

/-! ### Updates of a warp -/

@[simp] theorem Warp.setV_core (w : Warp) (r : Nat) (m : Mask) (f : Nat → Word) : (w.setV r m f).core = w.core := rfl
@[simp] theorem Warp.setV_quarter (w : Warp) (r : Nat) (m : Mask) (f : Nat → Word) : (w.setV r m f).quarter
    = w.quarter := rfl
@[simp] theorem Warp.setV_slot (w : Warp) (r : Nat) (m : Mask) (f : Nat → Word) : (w.setV r m f).slot = w.slot := rfl
@[simp] theorem Warp.setV_block (w : Warp) (r : Nat) (m : Mask) (f : Nat → Word) : (w.setV r m f).block = w.block := rfl
@[simp] theorem Warp.setV_widx (w : Warp) (r : Nat) (m : Mask) (f : Nat → Word) : (w.setV r m f).widx = w.widx := rfl
@[simp] theorem Warp.setV_twin (w : Warp) (r : Nat) (m : Mask) (f : Nat → Word) : (w.setV r m f).twin = w.twin := rfl
@[simp] theorem Warp.setV_formed (w : Warp) (r : Nat) (m : Mask) (f : Nat → Word) : (w.setV r m f).formed = w.formed := rfl
@[simp] theorem Warp.setV_cmp (w : Warp) (r : Nat) (m : Mask) (f : Nat → Word) : (w.setV r m f).cmp = w.cmp := rfl
@[simp] theorem Warp.setV_ctx (w : Warp) (r : Nat) (m : Mask) (f : Nat → Word) : (w.setV r m f).ctx = w.ctx := rfl
@[simp] theorem Warp.setV_super (w : Warp) (r : Nat) (m : Mask) (f : Nat → Word) : (w.setV r m f).super = w.super := rfl
@[simp] theorem Warp.setV_phase (w : Warp) (r : Nat) (m : Mask) (f : Nat → Word) : (w.setV r m f).phase = w.phase := rfl
@[simp] theorem Warp.setV_swapped (w : Warp) (r : Nat) (m : Mask) (f : Nat → Word) : (w.setV r m f).swapped
    = w.swapped := rfl
@[simp] theorem Warp.setV_killed (w : Warp) (r : Nat) (m : Mask) (f : Nat → Word) : (w.setV r m f).killed = w.killed := rfl
@[simp] theorem Warp.setV_wait (w : Warp) (r : Nat) (m : Mask) (f : Nat → Word) : (w.setV r m f).wait = w.wait := rfl
@[simp] theorem Warp.setV_mask (w : Warp) (r : Nat) (m : Mask) (f : Nat → Word) : (w.setV r m f).mask = w.mask := rfl
@[simp] theorem Warp.setV_wids (w : Warp) (r : Nat) (m : Mask) (f : Nat → Word) : (w.setV r m f).wids = w.wids := rfl
@[simp] theorem Warp.setV_pc (w : Warp) (r : Nat) (m : Mask) (f : Nat → Word) : (w.setV r m f).pc = w.pc := rfl
@[simp] theorem Warp.setV_ix (w : Warp) (r : Nat) (m : Mask) (f : Nat → Word) : (w.setV r m f).ix = w.ix := rfl
@[simp] theorem Warp.setV_fetched (w : Warp) (r : Nat) (m : Mask) (f : Nat → Word) : (w.setV r m f).fetched
    = w.fetched := rfl
@[simp] theorem Warp.setV_hdr (w : Warp) (r : Nat) (m : Mask) (f : Nat → Word) : (w.setV r m f).hdr = w.hdr := rfl
@[simp] theorem Warp.setV_words (w : Warp) (r : Nat) (m : Mask) (f : Nat → Word) : (w.setV r m f).words = w.words := rfl
@[simp] theorem Warp.setV_full (w : Warp) (r : Nat) (m : Mask) (f : Nat → Word) : (w.setV r m f).full = w.full := rfl
@[simp] theorem Warp.setV_va (w : Warp) (r : Nat) (m : Mask) (f : Nat → Word) : (w.setV r m f).va = w.va := rfl
@[simp] theorem Warp.setV_ka (w : Warp) (r : Nat) (m : Mask) (f : Nat → Word) : (w.setV r m f).ka = w.ka := rfl
@[simp] theorem Warp.setV_ta (w : Warp) (r : Nat) (m : Mask) (f : Nat → Word) : (w.setV r m f).ta = w.ta := rfl
@[simp] theorem Warp.setV_v (w : Warp) (r : Nat) (m : Mask) (f : Nat → Word) : (w.setV r m f).v
    = Store.setBlock 0 w.v (r * 128) 128 fun t => if m.getLsbD t then f t else w.vr r t := rfl
@[simp] theorem Warp.setV_e (w : Warp) (r : Nat) (m : Mask) (f : Nat → Word) : (w.setV r m f).e = w.e := rfl
@[simp] theorem Warp.setV_k (w : Warp) (r : Nat) (m : Mask) (f : Nat → Word) : (w.setV r m f).k = w.k := rfl
@[simp] theorem Warp.setV_p (w : Warp) (r : Nat) (m : Mask) (f : Nat → Word) : (w.setV r m f).p = w.p := rfl
@[simp] theorem Warp.setV_acc (w : Warp) (r : Nat) (m : Mask) (f : Nat → Word) : (w.setV r m f).acc = w.acc := rfl
@[simp] theorem Warp.setV_lat (w : Warp) (r : Nat) (m : Mask) (f : Nat → Word) : (w.setV r m f).lat = w.lat := rfl
@[simp] theorem Warp.setV_latN (w : Warp) (r : Nat) (m : Mask) (f : Nat → Word) : (w.setV r m f).latN = w.latN := rfl
@[simp] theorem Warp.setV_slat (w : Warp) (r : Nat) (m : Mask) (f : Nat → Word) : (w.setV r m f).slat = w.slat := rfl
@[simp] theorem Warp.setV_d (w : Warp) (r : Nat) (m : Mask) (f : Nat → Word) : (w.setV r m f).d = w.d := rfl
@[simp] theorem Warp.setV_pendV (w : Warp) (r : Nat) (m : Mask) (f : Nat → Word) : (w.setV r m f).pendV = w.pendV := rfl
@[simp] theorem Warp.setV_pendE (w : Warp) (r : Nat) (m : Mask) (f : Nat → Word) : (w.setV r m f).pendE = w.pendE := rfl
@[simp] theorem Warp.setV_pendK (w : Warp) (r : Nat) (m : Mask) (f : Nat → Word) : (w.setV r m f).pendK = w.pendK := rfl
@[simp] theorem Warp.setV_markV (w : Warp) (r : Nat) (m : Mask) (f : Nat → Word) : (w.setV r m f).markV = w.markV := rfl
@[simp] theorem Warp.setV_markE (w : Warp) (r : Nat) (m : Mask) (f : Nat → Word) : (w.setV r m f).markE = w.markE := rfl
@[simp] theorem Warp.setV_markK (w : Warp) (r : Nat) (m : Mask) (f : Nat → Word) : (w.setV r m f).markK = w.markK := rfl
@[simp] theorem Warp.setV_markL (w : Warp) (r : Nat) (m : Mask) (f : Nat → Word) : (w.setV r m f).markL = w.markL := rfl
@[simp] theorem Warp.setV_markT (w : Warp) (r : Nat) (m : Mask) (f : Nat → Word) : (w.setV r m f).markT = w.markT := rfl
@[simp] theorem Warp.setV_markAddr (w : Warp) (r : Nat) (m : Mask) (f : Nat → Word) : (w.setV r m f).markAddr
    = w.markAddr := rfl
@[simp] theorem Warp.setV_fflags (w : Warp) (r : Nat) (m : Mask) (f : Nat → Word) : (w.setV r m f).fflags = w.fflags := rfl
@[simp] theorem Warp.setV_win (w : Warp) (r : Nat) (m : Mask) (f : Nat → Word) : (w.setV r m f).win = w.win := rfl
@[simp] theorem Warp.setV_xpc (w : Warp) (r : Nat) (m : Mask) (f : Nat → Word) : (w.setV r m f).xpc = w.xpc := rfl
@[simp] theorem Warp.setV_xcause (w : Warp) (r : Nat) (m : Mask) (f : Nat → Word) : (w.setV r m f).xcause = w.xcause := rfl
@[simp] theorem Warp.setV_xval (w : Warp) (r : Nat) (m : Mask) (f : Nat → Word) : (w.setV r m f).xval = w.xval := rfl
@[simp] theorem Warp.setV_xstat (w : Warp) (r : Nat) (m : Mask) (f : Nat → Word) : (w.setV r m f).xstat = w.xstat := rfl
@[simp] theorem Warp.setV_xscr0 (w : Warp) (r : Nat) (m : Mask) (f : Nat → Word) : (w.setV r m f).xscr0 = w.xscr0 := rfl
@[simp] theorem Warp.setV_xscr1 (w : Warp) (r : Nat) (m : Mask) (f : Nat → Word) : (w.setV r m f).xscr1 = w.xscr1 := rfl
@[simp] theorem Warp.setV_xarm (w : Warp) (r : Nat) (m : Mask) (f : Nat → Word) : (w.setV r m f).xarm = w.xarm := rfl
@[simp] theorem Warp.setV_out (w : Warp) (r : Nat) (m : Mask) (f : Nat → Word) : (w.setV r m f).out = w.out := rfl
@[simp] theorem Warp.setV_sfail (w : Warp) (r : Nat) (m : Mask) (f : Nat → Word) : (w.setV r m f).sfail = w.sfail := rfl
@[simp] theorem Warp.setV_prio (w : Warp) (r : Nat) (m : Mask) (f : Nat → Word) : (w.setV r m f).prio = w.prio := rfl
@[simp] theorem Warp.setV_boosted (w : Warp) (r : Nat) (m : Mask) (f : Nat → Word) : (w.setV r m f).boosted
    = w.boosted := rfl
@[simp] theorem Warp.setV_idleSince (w : Warp) (r : Nat) (m : Mask) (f : Nat → Word) : (w.setV r m f).idleSince
    = w.idleSince := rfl
@[simp] theorem Warp.setV_score (w : Warp) (r : Nat) (m : Mask) (f : Nat → Word) : (w.setV r m f).score = w.score := rfl
@[simp] theorem Warp.setV_yieldAt (w : Warp) (r : Nat) (m : Mask) (f : Nat → Word) : (w.setV r m f).yieldAt
    = w.yieldAt := rfl
@[simp] theorem Warp.setV_yieldFor (w : Warp) (r : Nat) (m : Mask) (f : Nat → Word) : (w.setV r m f).yieldFor
    = w.yieldFor := rfl
@[simp] theorem Warp.setV_acqAt (w : Warp) (r : Nat) (m : Mask) (f : Nat → Word) : (w.setV r m f).acqAt = w.acqAt := rfl
@[simp] theorem Warp.setV_age (w : Warp) (r : Nat) (m : Mask) (f : Nat → Word) : (w.setV r m f).age = w.age := rfl
@[simp] theorem Warp.setV_mgdN (w : Warp) (r : Nat) (m : Mask) (f : Nat → Word) : (w.setV r m f).mgdN = w.mgdN := rfl
@[simp] theorem Warp.setV_token (w : Warp) (r : Nat) (m : Mask) (f : Nat → Word) : (w.setV r m f).token = w.token := rfl
@[simp] theorem Warp.setV_susp (w : Warp) (r : Nat) (m : Mask) (f : Nat → Word) : (w.setV r m f).susp = w.susp := rfl
@[simp] theorem Warp.setV_xback (w : Warp) (r : Nat) (m : Mask) (f : Nat → Word) : (w.setV r m f).xback = w.xback := rfl
@[simp] theorem Warp.setV_walks (w : Warp) (r : Nat) (m : Mask) (f : Nat → Word) : (w.setV r m f).walks = w.walks := rfl

@[simp] theorem Warp.setK_core (w : Warp) (n : Nat) (x : DWord) : (w.setK n x).core = w.core := rfl
@[simp] theorem Warp.setK_quarter (w : Warp) (n : Nat) (x : DWord) : (w.setK n x).quarter = w.quarter := rfl
@[simp] theorem Warp.setK_slot (w : Warp) (n : Nat) (x : DWord) : (w.setK n x).slot = w.slot := rfl
@[simp] theorem Warp.setK_block (w : Warp) (n : Nat) (x : DWord) : (w.setK n x).block = w.block := rfl
@[simp] theorem Warp.setK_widx (w : Warp) (n : Nat) (x : DWord) : (w.setK n x).widx = w.widx := rfl
@[simp] theorem Warp.setK_twin (w : Warp) (n : Nat) (x : DWord) : (w.setK n x).twin = w.twin := rfl
@[simp] theorem Warp.setK_formed (w : Warp) (n : Nat) (x : DWord) : (w.setK n x).formed = w.formed := rfl
@[simp] theorem Warp.setK_cmp (w : Warp) (n : Nat) (x : DWord) : (w.setK n x).cmp = w.cmp := rfl
@[simp] theorem Warp.setK_ctx (w : Warp) (n : Nat) (x : DWord) : (w.setK n x).ctx = w.ctx := rfl
@[simp] theorem Warp.setK_super (w : Warp) (n : Nat) (x : DWord) : (w.setK n x).super = w.super := rfl
@[simp] theorem Warp.setK_phase (w : Warp) (n : Nat) (x : DWord) : (w.setK n x).phase = w.phase := rfl
@[simp] theorem Warp.setK_swapped (w : Warp) (n : Nat) (x : DWord) : (w.setK n x).swapped = w.swapped := rfl
@[simp] theorem Warp.setK_killed (w : Warp) (n : Nat) (x : DWord) : (w.setK n x).killed = w.killed := rfl
@[simp] theorem Warp.setK_wait (w : Warp) (n : Nat) (x : DWord) : (w.setK n x).wait = w.wait := rfl
@[simp] theorem Warp.setK_mask (w : Warp) (n : Nat) (x : DWord) : (w.setK n x).mask = w.mask := rfl
@[simp] theorem Warp.setK_wids (w : Warp) (n : Nat) (x : DWord) : (w.setK n x).wids = w.wids := rfl
@[simp] theorem Warp.setK_pc (w : Warp) (n : Nat) (x : DWord) : (w.setK n x).pc = w.pc := rfl
@[simp] theorem Warp.setK_ix (w : Warp) (n : Nat) (x : DWord) : (w.setK n x).ix = w.ix := rfl
@[simp] theorem Warp.setK_fetched (w : Warp) (n : Nat) (x : DWord) : (w.setK n x).fetched = w.fetched := rfl
@[simp] theorem Warp.setK_hdr (w : Warp) (n : Nat) (x : DWord) : (w.setK n x).hdr = w.hdr := rfl
@[simp] theorem Warp.setK_words (w : Warp) (n : Nat) (x : DWord) : (w.setK n x).words = w.words := rfl
@[simp] theorem Warp.setK_full (w : Warp) (n : Nat) (x : DWord) : (w.setK n x).full = w.full := rfl
@[simp] theorem Warp.setK_va (w : Warp) (n : Nat) (x : DWord) : (w.setK n x).va = w.va := rfl
@[simp] theorem Warp.setK_ka (w : Warp) (n : Nat) (x : DWord) : (w.setK n x).ka = w.ka := rfl
@[simp] theorem Warp.setK_ta (w : Warp) (n : Nat) (x : DWord) : (w.setK n x).ta = w.ta := rfl
@[simp] theorem Warp.setK_v (w : Warp) (n : Nat) (x : DWord) : (w.setK n x).v = w.v := rfl
@[simp] theorem Warp.setK_e (w : Warp) (n : Nat) (x : DWord) : (w.setK n x).e = w.e := rfl
@[simp] theorem Warp.setK_k (w : Warp) (n : Nat) (x : DWord) : (w.setK n x).k = Store.set 0 w.k n x := rfl
@[simp] theorem Warp.setK_p (w : Warp) (n : Nat) (x : DWord) : (w.setK n x).p = w.p := rfl
@[simp] theorem Warp.setK_acc (w : Warp) (n : Nat) (x : DWord) : (w.setK n x).acc = w.acc := rfl
@[simp] theorem Warp.setK_lat (w : Warp) (n : Nat) (x : DWord) : (w.setK n x).lat = w.lat := rfl
@[simp] theorem Warp.setK_latN (w : Warp) (n : Nat) (x : DWord) : (w.setK n x).latN = w.latN := rfl
@[simp] theorem Warp.setK_slat (w : Warp) (n : Nat) (x : DWord) : (w.setK n x).slat = w.slat := rfl
@[simp] theorem Warp.setK_d (w : Warp) (n : Nat) (x : DWord) : (w.setK n x).d = w.d := rfl
@[simp] theorem Warp.setK_pendV (w : Warp) (n : Nat) (x : DWord) : (w.setK n x).pendV = w.pendV := rfl
@[simp] theorem Warp.setK_pendE (w : Warp) (n : Nat) (x : DWord) : (w.setK n x).pendE = w.pendE := rfl
@[simp] theorem Warp.setK_pendK (w : Warp) (n : Nat) (x : DWord) : (w.setK n x).pendK = w.pendK := rfl
@[simp] theorem Warp.setK_markV (w : Warp) (n : Nat) (x : DWord) : (w.setK n x).markV = w.markV := rfl
@[simp] theorem Warp.setK_markE (w : Warp) (n : Nat) (x : DWord) : (w.setK n x).markE = w.markE := rfl
@[simp] theorem Warp.setK_markK (w : Warp) (n : Nat) (x : DWord) : (w.setK n x).markK = w.markK := rfl
@[simp] theorem Warp.setK_markL (w : Warp) (n : Nat) (x : DWord) : (w.setK n x).markL = w.markL := rfl
@[simp] theorem Warp.setK_markT (w : Warp) (n : Nat) (x : DWord) : (w.setK n x).markT = w.markT := rfl
@[simp] theorem Warp.setK_markAddr (w : Warp) (n : Nat) (x : DWord) : (w.setK n x).markAddr = w.markAddr := rfl
@[simp] theorem Warp.setK_fflags (w : Warp) (n : Nat) (x : DWord) : (w.setK n x).fflags = w.fflags := rfl
@[simp] theorem Warp.setK_win (w : Warp) (n : Nat) (x : DWord) : (w.setK n x).win = w.win := rfl
@[simp] theorem Warp.setK_xpc (w : Warp) (n : Nat) (x : DWord) : (w.setK n x).xpc = w.xpc := rfl
@[simp] theorem Warp.setK_xcause (w : Warp) (n : Nat) (x : DWord) : (w.setK n x).xcause = w.xcause := rfl
@[simp] theorem Warp.setK_xval (w : Warp) (n : Nat) (x : DWord) : (w.setK n x).xval = w.xval := rfl
@[simp] theorem Warp.setK_xstat (w : Warp) (n : Nat) (x : DWord) : (w.setK n x).xstat = w.xstat := rfl
@[simp] theorem Warp.setK_xscr0 (w : Warp) (n : Nat) (x : DWord) : (w.setK n x).xscr0 = w.xscr0 := rfl
@[simp] theorem Warp.setK_xscr1 (w : Warp) (n : Nat) (x : DWord) : (w.setK n x).xscr1 = w.xscr1 := rfl
@[simp] theorem Warp.setK_xarm (w : Warp) (n : Nat) (x : DWord) : (w.setK n x).xarm = w.xarm := rfl
@[simp] theorem Warp.setK_out (w : Warp) (n : Nat) (x : DWord) : (w.setK n x).out = w.out := rfl
@[simp] theorem Warp.setK_sfail (w : Warp) (n : Nat) (x : DWord) : (w.setK n x).sfail = w.sfail := rfl
@[simp] theorem Warp.setK_prio (w : Warp) (n : Nat) (x : DWord) : (w.setK n x).prio = w.prio := rfl
@[simp] theorem Warp.setK_boosted (w : Warp) (n : Nat) (x : DWord) : (w.setK n x).boosted = w.boosted := rfl
@[simp] theorem Warp.setK_idleSince (w : Warp) (n : Nat) (x : DWord) : (w.setK n x).idleSince = w.idleSince := rfl
@[simp] theorem Warp.setK_score (w : Warp) (n : Nat) (x : DWord) : (w.setK n x).score = w.score := rfl
@[simp] theorem Warp.setK_yieldAt (w : Warp) (n : Nat) (x : DWord) : (w.setK n x).yieldAt = w.yieldAt := rfl
@[simp] theorem Warp.setK_yieldFor (w : Warp) (n : Nat) (x : DWord) : (w.setK n x).yieldFor = w.yieldFor := rfl
@[simp] theorem Warp.setK_acqAt (w : Warp) (n : Nat) (x : DWord) : (w.setK n x).acqAt = w.acqAt := rfl
@[simp] theorem Warp.setK_age (w : Warp) (n : Nat) (x : DWord) : (w.setK n x).age = w.age := rfl
@[simp] theorem Warp.setK_mgdN (w : Warp) (n : Nat) (x : DWord) : (w.setK n x).mgdN = w.mgdN := rfl
@[simp] theorem Warp.setK_token (w : Warp) (n : Nat) (x : DWord) : (w.setK n x).token = w.token := rfl
@[simp] theorem Warp.setK_susp (w : Warp) (n : Nat) (x : DWord) : (w.setK n x).susp = w.susp := rfl
@[simp] theorem Warp.setK_xback (w : Warp) (n : Nat) (x : DWord) : (w.setK n x).xback = w.xback := rfl
@[simp] theorem Warp.setK_walks (w : Warp) (n : Nat) (x : DWord) : (w.setK n x).walks = w.walks := rfl

@[simp] theorem Warp.setE_core (w : Warp) (n : Nat) (f : Nat → Byte) : (w.setE n f).core = w.core := rfl
@[simp] theorem Warp.setE_quarter (w : Warp) (n : Nat) (f : Nat → Byte) : (w.setE n f).quarter = w.quarter := rfl
@[simp] theorem Warp.setE_slot (w : Warp) (n : Nat) (f : Nat → Byte) : (w.setE n f).slot = w.slot := rfl
@[simp] theorem Warp.setE_block (w : Warp) (n : Nat) (f : Nat → Byte) : (w.setE n f).block = w.block := rfl
@[simp] theorem Warp.setE_widx (w : Warp) (n : Nat) (f : Nat → Byte) : (w.setE n f).widx = w.widx := rfl
@[simp] theorem Warp.setE_twin (w : Warp) (n : Nat) (f : Nat → Byte) : (w.setE n f).twin = w.twin := rfl
@[simp] theorem Warp.setE_formed (w : Warp) (n : Nat) (f : Nat → Byte) : (w.setE n f).formed = w.formed := rfl
@[simp] theorem Warp.setE_cmp (w : Warp) (n : Nat) (f : Nat → Byte) : (w.setE n f).cmp = w.cmp := rfl
@[simp] theorem Warp.setE_ctx (w : Warp) (n : Nat) (f : Nat → Byte) : (w.setE n f).ctx = w.ctx := rfl
@[simp] theorem Warp.setE_super (w : Warp) (n : Nat) (f : Nat → Byte) : (w.setE n f).super = w.super := rfl
@[simp] theorem Warp.setE_phase (w : Warp) (n : Nat) (f : Nat → Byte) : (w.setE n f).phase = w.phase := rfl
@[simp] theorem Warp.setE_swapped (w : Warp) (n : Nat) (f : Nat → Byte) : (w.setE n f).swapped = w.swapped := rfl
@[simp] theorem Warp.setE_killed (w : Warp) (n : Nat) (f : Nat → Byte) : (w.setE n f).killed = w.killed := rfl
@[simp] theorem Warp.setE_wait (w : Warp) (n : Nat) (f : Nat → Byte) : (w.setE n f).wait = w.wait := rfl
@[simp] theorem Warp.setE_mask (w : Warp) (n : Nat) (f : Nat → Byte) : (w.setE n f).mask = w.mask := rfl
@[simp] theorem Warp.setE_wids (w : Warp) (n : Nat) (f : Nat → Byte) : (w.setE n f).wids = w.wids := rfl
@[simp] theorem Warp.setE_pc (w : Warp) (n : Nat) (f : Nat → Byte) : (w.setE n f).pc = w.pc := rfl
@[simp] theorem Warp.setE_ix (w : Warp) (n : Nat) (f : Nat → Byte) : (w.setE n f).ix = w.ix := rfl
@[simp] theorem Warp.setE_fetched (w : Warp) (n : Nat) (f : Nat → Byte) : (w.setE n f).fetched = w.fetched := rfl
@[simp] theorem Warp.setE_hdr (w : Warp) (n : Nat) (f : Nat → Byte) : (w.setE n f).hdr = w.hdr := rfl
@[simp] theorem Warp.setE_words (w : Warp) (n : Nat) (f : Nat → Byte) : (w.setE n f).words = w.words := rfl
@[simp] theorem Warp.setE_full (w : Warp) (n : Nat) (f : Nat → Byte) : (w.setE n f).full = w.full := rfl
@[simp] theorem Warp.setE_va (w : Warp) (n : Nat) (f : Nat → Byte) : (w.setE n f).va = w.va := rfl
@[simp] theorem Warp.setE_ka (w : Warp) (n : Nat) (f : Nat → Byte) : (w.setE n f).ka = w.ka := rfl
@[simp] theorem Warp.setE_ta (w : Warp) (n : Nat) (f : Nat → Byte) : (w.setE n f).ta = w.ta := rfl
@[simp] theorem Warp.setE_v (w : Warp) (n : Nat) (f : Nat → Byte) : (w.setE n f).v = w.v := rfl
@[simp] theorem Warp.setE_e (w : Warp) (n : Nat) (f : Nat → Byte) : (w.setE n f).e
    = Store.setBlock 0 w.e (n * 32) 32 f := rfl
@[simp] theorem Warp.setE_k (w : Warp) (n : Nat) (f : Nat → Byte) : (w.setE n f).k = w.k := rfl
@[simp] theorem Warp.setE_p (w : Warp) (n : Nat) (f : Nat → Byte) : (w.setE n f).p = w.p := rfl
@[simp] theorem Warp.setE_acc (w : Warp) (n : Nat) (f : Nat → Byte) : (w.setE n f).acc = w.acc := rfl
@[simp] theorem Warp.setE_lat (w : Warp) (n : Nat) (f : Nat → Byte) : (w.setE n f).lat = w.lat := rfl
@[simp] theorem Warp.setE_latN (w : Warp) (n : Nat) (f : Nat → Byte) : (w.setE n f).latN = w.latN := rfl
@[simp] theorem Warp.setE_slat (w : Warp) (n : Nat) (f : Nat → Byte) : (w.setE n f).slat = w.slat := rfl
@[simp] theorem Warp.setE_d (w : Warp) (n : Nat) (f : Nat → Byte) : (w.setE n f).d = w.d := rfl
@[simp] theorem Warp.setE_pendV (w : Warp) (n : Nat) (f : Nat → Byte) : (w.setE n f).pendV = w.pendV := rfl
@[simp] theorem Warp.setE_pendE (w : Warp) (n : Nat) (f : Nat → Byte) : (w.setE n f).pendE = w.pendE := rfl
@[simp] theorem Warp.setE_pendK (w : Warp) (n : Nat) (f : Nat → Byte) : (w.setE n f).pendK = w.pendK := rfl
@[simp] theorem Warp.setE_markV (w : Warp) (n : Nat) (f : Nat → Byte) : (w.setE n f).markV = w.markV := rfl
@[simp] theorem Warp.setE_markE (w : Warp) (n : Nat) (f : Nat → Byte) : (w.setE n f).markE = w.markE := rfl
@[simp] theorem Warp.setE_markK (w : Warp) (n : Nat) (f : Nat → Byte) : (w.setE n f).markK = w.markK := rfl
@[simp] theorem Warp.setE_markL (w : Warp) (n : Nat) (f : Nat → Byte) : (w.setE n f).markL = w.markL := rfl
@[simp] theorem Warp.setE_markT (w : Warp) (n : Nat) (f : Nat → Byte) : (w.setE n f).markT = w.markT := rfl
@[simp] theorem Warp.setE_markAddr (w : Warp) (n : Nat) (f : Nat → Byte) : (w.setE n f).markAddr = w.markAddr := rfl
@[simp] theorem Warp.setE_fflags (w : Warp) (n : Nat) (f : Nat → Byte) : (w.setE n f).fflags = w.fflags := rfl
@[simp] theorem Warp.setE_win (w : Warp) (n : Nat) (f : Nat → Byte) : (w.setE n f).win = w.win := rfl
@[simp] theorem Warp.setE_xpc (w : Warp) (n : Nat) (f : Nat → Byte) : (w.setE n f).xpc = w.xpc := rfl
@[simp] theorem Warp.setE_xcause (w : Warp) (n : Nat) (f : Nat → Byte) : (w.setE n f).xcause = w.xcause := rfl
@[simp] theorem Warp.setE_xval (w : Warp) (n : Nat) (f : Nat → Byte) : (w.setE n f).xval = w.xval := rfl
@[simp] theorem Warp.setE_xstat (w : Warp) (n : Nat) (f : Nat → Byte) : (w.setE n f).xstat = w.xstat := rfl
@[simp] theorem Warp.setE_xscr0 (w : Warp) (n : Nat) (f : Nat → Byte) : (w.setE n f).xscr0 = w.xscr0 := rfl
@[simp] theorem Warp.setE_xscr1 (w : Warp) (n : Nat) (f : Nat → Byte) : (w.setE n f).xscr1 = w.xscr1 := rfl
@[simp] theorem Warp.setE_xarm (w : Warp) (n : Nat) (f : Nat → Byte) : (w.setE n f).xarm = w.xarm := rfl
@[simp] theorem Warp.setE_out (w : Warp) (n : Nat) (f : Nat → Byte) : (w.setE n f).out = w.out := rfl
@[simp] theorem Warp.setE_sfail (w : Warp) (n : Nat) (f : Nat → Byte) : (w.setE n f).sfail = w.sfail := rfl
@[simp] theorem Warp.setE_prio (w : Warp) (n : Nat) (f : Nat → Byte) : (w.setE n f).prio = w.prio := rfl
@[simp] theorem Warp.setE_boosted (w : Warp) (n : Nat) (f : Nat → Byte) : (w.setE n f).boosted = w.boosted := rfl
@[simp] theorem Warp.setE_idleSince (w : Warp) (n : Nat) (f : Nat → Byte) : (w.setE n f).idleSince = w.idleSince := rfl
@[simp] theorem Warp.setE_score (w : Warp) (n : Nat) (f : Nat → Byte) : (w.setE n f).score = w.score := rfl
@[simp] theorem Warp.setE_yieldAt (w : Warp) (n : Nat) (f : Nat → Byte) : (w.setE n f).yieldAt = w.yieldAt := rfl
@[simp] theorem Warp.setE_yieldFor (w : Warp) (n : Nat) (f : Nat → Byte) : (w.setE n f).yieldFor = w.yieldFor := rfl
@[simp] theorem Warp.setE_acqAt (w : Warp) (n : Nat) (f : Nat → Byte) : (w.setE n f).acqAt = w.acqAt := rfl
@[simp] theorem Warp.setE_age (w : Warp) (n : Nat) (f : Nat → Byte) : (w.setE n f).age = w.age := rfl
@[simp] theorem Warp.setE_mgdN (w : Warp) (n : Nat) (f : Nat → Byte) : (w.setE n f).mgdN = w.mgdN := rfl
@[simp] theorem Warp.setE_token (w : Warp) (n : Nat) (f : Nat → Byte) : (w.setE n f).token = w.token := rfl
@[simp] theorem Warp.setE_susp (w : Warp) (n : Nat) (f : Nat → Byte) : (w.setE n f).susp = w.susp := rfl
@[simp] theorem Warp.setE_xback (w : Warp) (n : Nat) (f : Nat → Byte) : (w.setE n f).xback = w.xback := rfl
@[simp] theorem Warp.setE_walks (w : Warp) (n : Nat) (f : Nat → Byte) : (w.setE n f).walks = w.walks := rfl

@[simp] theorem Warp.setAcc_core (w : Warp) (t : Nat) (f : Nat → Word) : (w.setAcc t f).core = w.core := rfl
@[simp] theorem Warp.setAcc_quarter (w : Warp) (t : Nat) (f : Nat → Word) : (w.setAcc t f).quarter = w.quarter := rfl
@[simp] theorem Warp.setAcc_slot (w : Warp) (t : Nat) (f : Nat → Word) : (w.setAcc t f).slot = w.slot := rfl
@[simp] theorem Warp.setAcc_block (w : Warp) (t : Nat) (f : Nat → Word) : (w.setAcc t f).block = w.block := rfl
@[simp] theorem Warp.setAcc_widx (w : Warp) (t : Nat) (f : Nat → Word) : (w.setAcc t f).widx = w.widx := rfl
@[simp] theorem Warp.setAcc_twin (w : Warp) (t : Nat) (f : Nat → Word) : (w.setAcc t f).twin = w.twin := rfl
@[simp] theorem Warp.setAcc_formed (w : Warp) (t : Nat) (f : Nat → Word) : (w.setAcc t f).formed = w.formed := rfl
@[simp] theorem Warp.setAcc_cmp (w : Warp) (t : Nat) (f : Nat → Word) : (w.setAcc t f).cmp = w.cmp := rfl
@[simp] theorem Warp.setAcc_ctx (w : Warp) (t : Nat) (f : Nat → Word) : (w.setAcc t f).ctx = w.ctx := rfl
@[simp] theorem Warp.setAcc_super (w : Warp) (t : Nat) (f : Nat → Word) : (w.setAcc t f).super = w.super := rfl
@[simp] theorem Warp.setAcc_phase (w : Warp) (t : Nat) (f : Nat → Word) : (w.setAcc t f).phase = w.phase := rfl
@[simp] theorem Warp.setAcc_swapped (w : Warp) (t : Nat) (f : Nat → Word) : (w.setAcc t f).swapped = w.swapped := rfl
@[simp] theorem Warp.setAcc_killed (w : Warp) (t : Nat) (f : Nat → Word) : (w.setAcc t f).killed = w.killed := rfl
@[simp] theorem Warp.setAcc_wait (w : Warp) (t : Nat) (f : Nat → Word) : (w.setAcc t f).wait = w.wait := rfl
@[simp] theorem Warp.setAcc_mask (w : Warp) (t : Nat) (f : Nat → Word) : (w.setAcc t f).mask = w.mask := rfl
@[simp] theorem Warp.setAcc_wids (w : Warp) (t : Nat) (f : Nat → Word) : (w.setAcc t f).wids = w.wids := rfl
@[simp] theorem Warp.setAcc_pc (w : Warp) (t : Nat) (f : Nat → Word) : (w.setAcc t f).pc = w.pc := rfl
@[simp] theorem Warp.setAcc_ix (w : Warp) (t : Nat) (f : Nat → Word) : (w.setAcc t f).ix = w.ix := rfl
@[simp] theorem Warp.setAcc_fetched (w : Warp) (t : Nat) (f : Nat → Word) : (w.setAcc t f).fetched = w.fetched := rfl
@[simp] theorem Warp.setAcc_hdr (w : Warp) (t : Nat) (f : Nat → Word) : (w.setAcc t f).hdr = w.hdr := rfl
@[simp] theorem Warp.setAcc_words (w : Warp) (t : Nat) (f : Nat → Word) : (w.setAcc t f).words = w.words := rfl
@[simp] theorem Warp.setAcc_full (w : Warp) (t : Nat) (f : Nat → Word) : (w.setAcc t f).full = w.full := rfl
@[simp] theorem Warp.setAcc_va (w : Warp) (t : Nat) (f : Nat → Word) : (w.setAcc t f).va = w.va := rfl
@[simp] theorem Warp.setAcc_ka (w : Warp) (t : Nat) (f : Nat → Word) : (w.setAcc t f).ka = w.ka := rfl
@[simp] theorem Warp.setAcc_ta (w : Warp) (t : Nat) (f : Nat → Word) : (w.setAcc t f).ta = w.ta := rfl
@[simp] theorem Warp.setAcc_v (w : Warp) (t : Nat) (f : Nat → Word) : (w.setAcc t f).v = w.v := rfl
@[simp] theorem Warp.setAcc_e (w : Warp) (t : Nat) (f : Nat → Word) : (w.setAcc t f).e = w.e := rfl
@[simp] theorem Warp.setAcc_k (w : Warp) (t : Nat) (f : Nat → Word) : (w.setAcc t f).k = w.k := rfl
@[simp] theorem Warp.setAcc_p (w : Warp) (t : Nat) (f : Nat → Word) : (w.setAcc t f).p = w.p := rfl
@[simp] theorem Warp.setAcc_acc (w : Warp) (t : Nat) (f : Nat → Word) : (w.setAcc t f).acc
    = Store.setBlock 0 w.acc (t * 1024) 1024 f := rfl
@[simp] theorem Warp.setAcc_lat (w : Warp) (t : Nat) (f : Nat → Word) : (w.setAcc t f).lat = w.lat := rfl
@[simp] theorem Warp.setAcc_latN (w : Warp) (t : Nat) (f : Nat → Word) : (w.setAcc t f).latN = w.latN := rfl
@[simp] theorem Warp.setAcc_slat (w : Warp) (t : Nat) (f : Nat → Word) : (w.setAcc t f).slat = w.slat := rfl
@[simp] theorem Warp.setAcc_d (w : Warp) (t : Nat) (f : Nat → Word) : (w.setAcc t f).d = w.d := rfl
@[simp] theorem Warp.setAcc_pendV (w : Warp) (t : Nat) (f : Nat → Word) : (w.setAcc t f).pendV = w.pendV := rfl
@[simp] theorem Warp.setAcc_pendE (w : Warp) (t : Nat) (f : Nat → Word) : (w.setAcc t f).pendE = w.pendE := rfl
@[simp] theorem Warp.setAcc_pendK (w : Warp) (t : Nat) (f : Nat → Word) : (w.setAcc t f).pendK = w.pendK := rfl
@[simp] theorem Warp.setAcc_markV (w : Warp) (t : Nat) (f : Nat → Word) : (w.setAcc t f).markV = w.markV := rfl
@[simp] theorem Warp.setAcc_markE (w : Warp) (t : Nat) (f : Nat → Word) : (w.setAcc t f).markE = w.markE := rfl
@[simp] theorem Warp.setAcc_markK (w : Warp) (t : Nat) (f : Nat → Word) : (w.setAcc t f).markK = w.markK := rfl
@[simp] theorem Warp.setAcc_markL (w : Warp) (t : Nat) (f : Nat → Word) : (w.setAcc t f).markL = w.markL := rfl
@[simp] theorem Warp.setAcc_markT (w : Warp) (t : Nat) (f : Nat → Word) : (w.setAcc t f).markT = w.markT := rfl
@[simp] theorem Warp.setAcc_markAddr (w : Warp) (t : Nat) (f : Nat → Word) : (w.setAcc t f).markAddr = w.markAddr := rfl
@[simp] theorem Warp.setAcc_fflags (w : Warp) (t : Nat) (f : Nat → Word) : (w.setAcc t f).fflags = w.fflags := rfl
@[simp] theorem Warp.setAcc_win (w : Warp) (t : Nat) (f : Nat → Word) : (w.setAcc t f).win = w.win := rfl
@[simp] theorem Warp.setAcc_xpc (w : Warp) (t : Nat) (f : Nat → Word) : (w.setAcc t f).xpc = w.xpc := rfl
@[simp] theorem Warp.setAcc_xcause (w : Warp) (t : Nat) (f : Nat → Word) : (w.setAcc t f).xcause = w.xcause := rfl
@[simp] theorem Warp.setAcc_xval (w : Warp) (t : Nat) (f : Nat → Word) : (w.setAcc t f).xval = w.xval := rfl
@[simp] theorem Warp.setAcc_xstat (w : Warp) (t : Nat) (f : Nat → Word) : (w.setAcc t f).xstat = w.xstat := rfl
@[simp] theorem Warp.setAcc_xscr0 (w : Warp) (t : Nat) (f : Nat → Word) : (w.setAcc t f).xscr0 = w.xscr0 := rfl
@[simp] theorem Warp.setAcc_xscr1 (w : Warp) (t : Nat) (f : Nat → Word) : (w.setAcc t f).xscr1 = w.xscr1 := rfl
@[simp] theorem Warp.setAcc_xarm (w : Warp) (t : Nat) (f : Nat → Word) : (w.setAcc t f).xarm = w.xarm := rfl
@[simp] theorem Warp.setAcc_out (w : Warp) (t : Nat) (f : Nat → Word) : (w.setAcc t f).out = w.out := rfl
@[simp] theorem Warp.setAcc_sfail (w : Warp) (t : Nat) (f : Nat → Word) : (w.setAcc t f).sfail = w.sfail := rfl
@[simp] theorem Warp.setAcc_prio (w : Warp) (t : Nat) (f : Nat → Word) : (w.setAcc t f).prio = w.prio := rfl
@[simp] theorem Warp.setAcc_boosted (w : Warp) (t : Nat) (f : Nat → Word) : (w.setAcc t f).boosted = w.boosted := rfl
@[simp] theorem Warp.setAcc_idleSince (w : Warp) (t : Nat) (f : Nat → Word) : (w.setAcc t f).idleSince = w.idleSince := rfl
@[simp] theorem Warp.setAcc_score (w : Warp) (t : Nat) (f : Nat → Word) : (w.setAcc t f).score = w.score := rfl
@[simp] theorem Warp.setAcc_yieldAt (w : Warp) (t : Nat) (f : Nat → Word) : (w.setAcc t f).yieldAt = w.yieldAt := rfl
@[simp] theorem Warp.setAcc_yieldFor (w : Warp) (t : Nat) (f : Nat → Word) : (w.setAcc t f).yieldFor = w.yieldFor := rfl
@[simp] theorem Warp.setAcc_acqAt (w : Warp) (t : Nat) (f : Nat → Word) : (w.setAcc t f).acqAt = w.acqAt := rfl
@[simp] theorem Warp.setAcc_age (w : Warp) (t : Nat) (f : Nat → Word) : (w.setAcc t f).age = w.age := rfl
@[simp] theorem Warp.setAcc_mgdN (w : Warp) (t : Nat) (f : Nat → Word) : (w.setAcc t f).mgdN = w.mgdN := rfl
@[simp] theorem Warp.setAcc_token (w : Warp) (t : Nat) (f : Nat → Word) : (w.setAcc t f).token = w.token := rfl
@[simp] theorem Warp.setAcc_susp (w : Warp) (t : Nat) (f : Nat → Word) : (w.setAcc t f).susp = w.susp := rfl
@[simp] theorem Warp.setAcc_xback (w : Warp) (t : Nat) (f : Nat → Word) : (w.setAcc t f).xback = w.xback := rfl
@[simp] theorem Warp.setAcc_walks (w : Warp) (t : Nat) (f : Nat → Word) : (w.setAcc t f).walks = w.walks := rfl

@[simp] theorem Warp.latch_core (w : Warp) (f : Nat → DWord) : (w.latch f).core = w.core := rfl
@[simp] theorem Warp.latch_quarter (w : Warp) (f : Nat → DWord) : (w.latch f).quarter = w.quarter := rfl
@[simp] theorem Warp.latch_slot (w : Warp) (f : Nat → DWord) : (w.latch f).slot = w.slot := rfl
@[simp] theorem Warp.latch_block (w : Warp) (f : Nat → DWord) : (w.latch f).block = w.block := rfl
@[simp] theorem Warp.latch_widx (w : Warp) (f : Nat → DWord) : (w.latch f).widx = w.widx := rfl
@[simp] theorem Warp.latch_twin (w : Warp) (f : Nat → DWord) : (w.latch f).twin = w.twin := rfl
@[simp] theorem Warp.latch_formed (w : Warp) (f : Nat → DWord) : (w.latch f).formed = w.formed := rfl
@[simp] theorem Warp.latch_cmp (w : Warp) (f : Nat → DWord) : (w.latch f).cmp = w.cmp := rfl
@[simp] theorem Warp.latch_ctx (w : Warp) (f : Nat → DWord) : (w.latch f).ctx = w.ctx := rfl
@[simp] theorem Warp.latch_super (w : Warp) (f : Nat → DWord) : (w.latch f).super = w.super := rfl
@[simp] theorem Warp.latch_phase (w : Warp) (f : Nat → DWord) : (w.latch f).phase = w.phase := rfl
@[simp] theorem Warp.latch_swapped (w : Warp) (f : Nat → DWord) : (w.latch f).swapped = w.swapped := rfl
@[simp] theorem Warp.latch_killed (w : Warp) (f : Nat → DWord) : (w.latch f).killed = w.killed := rfl
@[simp] theorem Warp.latch_wait (w : Warp) (f : Nat → DWord) : (w.latch f).wait = w.wait := rfl
@[simp] theorem Warp.latch_mask (w : Warp) (f : Nat → DWord) : (w.latch f).mask = w.mask := rfl
@[simp] theorem Warp.latch_wids (w : Warp) (f : Nat → DWord) : (w.latch f).wids = w.wids := rfl
@[simp] theorem Warp.latch_pc (w : Warp) (f : Nat → DWord) : (w.latch f).pc = w.pc := rfl
@[simp] theorem Warp.latch_ix (w : Warp) (f : Nat → DWord) : (w.latch f).ix = w.ix := rfl
@[simp] theorem Warp.latch_fetched (w : Warp) (f : Nat → DWord) : (w.latch f).fetched = w.fetched := rfl
@[simp] theorem Warp.latch_hdr (w : Warp) (f : Nat → DWord) : (w.latch f).hdr = w.hdr := rfl
@[simp] theorem Warp.latch_words (w : Warp) (f : Nat → DWord) : (w.latch f).words = w.words := rfl
@[simp] theorem Warp.latch_full (w : Warp) (f : Nat → DWord) : (w.latch f).full = w.full := rfl
@[simp] theorem Warp.latch_va (w : Warp) (f : Nat → DWord) : (w.latch f).va = w.va := rfl
@[simp] theorem Warp.latch_ka (w : Warp) (f : Nat → DWord) : (w.latch f).ka = w.ka := rfl
@[simp] theorem Warp.latch_ta (w : Warp) (f : Nat → DWord) : (w.latch f).ta = w.ta := rfl
@[simp] theorem Warp.latch_v (w : Warp) (f : Nat → DWord) : (w.latch f).v = w.v := rfl
@[simp] theorem Warp.latch_e (w : Warp) (f : Nat → DWord) : (w.latch f).e = w.e := rfl
@[simp] theorem Warp.latch_k (w : Warp) (f : Nat → DWord) : (w.latch f).k = w.k := rfl
@[simp] theorem Warp.latch_p (w : Warp) (f : Nat → DWord) : (w.latch f).p = w.p := rfl
@[simp] theorem Warp.latch_acc (w : Warp) (f : Nat → DWord) : (w.latch f).acc = w.acc := rfl
@[simp] theorem Warp.latch_lat (w : Warp) (f : Nat → DWord) : (w.latch f).lat
    = Store.setBlock 0 [] 0 512 fun i => if i < 128 then f i else Store.get 0 w.lat (i - 128) := rfl
@[simp] theorem Warp.latch_latN (w : Warp) (f : Nat → DWord) : (w.latch f).latN = min 15 (w.latN + 1) := rfl
@[simp] theorem Warp.latch_slat (w : Warp) (f : Nat → DWord) : (w.latch f).slat = w.slat := rfl
@[simp] theorem Warp.latch_d (w : Warp) (f : Nat → DWord) : (w.latch f).d = w.d := rfl
@[simp] theorem Warp.latch_pendV (w : Warp) (f : Nat → DWord) : (w.latch f).pendV = w.pendV := rfl
@[simp] theorem Warp.latch_pendE (w : Warp) (f : Nat → DWord) : (w.latch f).pendE = w.pendE := rfl
@[simp] theorem Warp.latch_pendK (w : Warp) (f : Nat → DWord) : (w.latch f).pendK = w.pendK := rfl
@[simp] theorem Warp.latch_markV (w : Warp) (f : Nat → DWord) : (w.latch f).markV = w.markV := rfl
@[simp] theorem Warp.latch_markE (w : Warp) (f : Nat → DWord) : (w.latch f).markE = w.markE := rfl
@[simp] theorem Warp.latch_markK (w : Warp) (f : Nat → DWord) : (w.latch f).markK = w.markK := rfl
@[simp] theorem Warp.latch_markL (w : Warp) (f : Nat → DWord) : (w.latch f).markL = w.markL := rfl
@[simp] theorem Warp.latch_markT (w : Warp) (f : Nat → DWord) : (w.latch f).markT = w.markT := rfl
@[simp] theorem Warp.latch_markAddr (w : Warp) (f : Nat → DWord) : (w.latch f).markAddr = w.markAddr := rfl
@[simp] theorem Warp.latch_fflags (w : Warp) (f : Nat → DWord) : (w.latch f).fflags = w.fflags := rfl
@[simp] theorem Warp.latch_win (w : Warp) (f : Nat → DWord) : (w.latch f).win = w.win := rfl
@[simp] theorem Warp.latch_xpc (w : Warp) (f : Nat → DWord) : (w.latch f).xpc = w.xpc := rfl
@[simp] theorem Warp.latch_xcause (w : Warp) (f : Nat → DWord) : (w.latch f).xcause = w.xcause := rfl
@[simp] theorem Warp.latch_xval (w : Warp) (f : Nat → DWord) : (w.latch f).xval = w.xval := rfl
@[simp] theorem Warp.latch_xstat (w : Warp) (f : Nat → DWord) : (w.latch f).xstat = w.xstat := rfl
@[simp] theorem Warp.latch_xscr0 (w : Warp) (f : Nat → DWord) : (w.latch f).xscr0 = w.xscr0 := rfl
@[simp] theorem Warp.latch_xscr1 (w : Warp) (f : Nat → DWord) : (w.latch f).xscr1 = w.xscr1 := rfl
@[simp] theorem Warp.latch_xarm (w : Warp) (f : Nat → DWord) : (w.latch f).xarm = w.xarm := rfl
@[simp] theorem Warp.latch_out (w : Warp) (f : Nat → DWord) : (w.latch f).out = w.out := rfl
@[simp] theorem Warp.latch_sfail (w : Warp) (f : Nat → DWord) : (w.latch f).sfail = w.sfail := rfl
@[simp] theorem Warp.latch_prio (w : Warp) (f : Nat → DWord) : (w.latch f).prio = w.prio := rfl
@[simp] theorem Warp.latch_boosted (w : Warp) (f : Nat → DWord) : (w.latch f).boosted = w.boosted := rfl
@[simp] theorem Warp.latch_idleSince (w : Warp) (f : Nat → DWord) : (w.latch f).idleSince = w.idleSince := rfl
@[simp] theorem Warp.latch_score (w : Warp) (f : Nat → DWord) : (w.latch f).score = w.score := rfl
@[simp] theorem Warp.latch_yieldAt (w : Warp) (f : Nat → DWord) : (w.latch f).yieldAt = w.yieldAt := rfl
@[simp] theorem Warp.latch_yieldFor (w : Warp) (f : Nat → DWord) : (w.latch f).yieldFor = w.yieldFor := rfl
@[simp] theorem Warp.latch_acqAt (w : Warp) (f : Nat → DWord) : (w.latch f).acqAt = w.acqAt := rfl
@[simp] theorem Warp.latch_age (w : Warp) (f : Nat → DWord) : (w.latch f).age = w.age := rfl
@[simp] theorem Warp.latch_mgdN (w : Warp) (f : Nat → DWord) : (w.latch f).mgdN = w.mgdN := rfl
@[simp] theorem Warp.latch_token (w : Warp) (f : Nat → DWord) : (w.latch f).token = w.token := rfl
@[simp] theorem Warp.latch_susp (w : Warp) (f : Nat → DWord) : (w.latch f).susp = w.susp := rfl
@[simp] theorem Warp.latch_xback (w : Warp) (f : Nat → DWord) : (w.latch f).xback = w.xback := rfl
@[simp] theorem Warp.latch_walks (w : Warp) (f : Nat → DWord) : (w.latch f).walks = w.walks := rfl

@[simp] theorem Warp.raise_core (w : Warp) (fl : FFlags) : (w.raise fl).core = w.core := rfl
@[simp] theorem Warp.raise_quarter (w : Warp) (fl : FFlags) : (w.raise fl).quarter = w.quarter := rfl
@[simp] theorem Warp.raise_slot (w : Warp) (fl : FFlags) : (w.raise fl).slot = w.slot := rfl
@[simp] theorem Warp.raise_block (w : Warp) (fl : FFlags) : (w.raise fl).block = w.block := rfl
@[simp] theorem Warp.raise_widx (w : Warp) (fl : FFlags) : (w.raise fl).widx = w.widx := rfl
@[simp] theorem Warp.raise_twin (w : Warp) (fl : FFlags) : (w.raise fl).twin = w.twin := rfl
@[simp] theorem Warp.raise_formed (w : Warp) (fl : FFlags) : (w.raise fl).formed = w.formed := rfl
@[simp] theorem Warp.raise_cmp (w : Warp) (fl : FFlags) : (w.raise fl).cmp = w.cmp := rfl
@[simp] theorem Warp.raise_ctx (w : Warp) (fl : FFlags) : (w.raise fl).ctx = w.ctx := rfl
@[simp] theorem Warp.raise_super (w : Warp) (fl : FFlags) : (w.raise fl).super = w.super := rfl
@[simp] theorem Warp.raise_phase (w : Warp) (fl : FFlags) : (w.raise fl).phase = w.phase := rfl
@[simp] theorem Warp.raise_swapped (w : Warp) (fl : FFlags) : (w.raise fl).swapped = w.swapped := rfl
@[simp] theorem Warp.raise_killed (w : Warp) (fl : FFlags) : (w.raise fl).killed = w.killed := rfl
@[simp] theorem Warp.raise_wait (w : Warp) (fl : FFlags) : (w.raise fl).wait = w.wait := rfl
@[simp] theorem Warp.raise_mask (w : Warp) (fl : FFlags) : (w.raise fl).mask = w.mask := rfl
@[simp] theorem Warp.raise_wids (w : Warp) (fl : FFlags) : (w.raise fl).wids = w.wids := rfl
@[simp] theorem Warp.raise_pc (w : Warp) (fl : FFlags) : (w.raise fl).pc = w.pc := rfl
@[simp] theorem Warp.raise_ix (w : Warp) (fl : FFlags) : (w.raise fl).ix = w.ix := rfl
@[simp] theorem Warp.raise_fetched (w : Warp) (fl : FFlags) : (w.raise fl).fetched = w.fetched := rfl
@[simp] theorem Warp.raise_hdr (w : Warp) (fl : FFlags) : (w.raise fl).hdr = w.hdr := rfl
@[simp] theorem Warp.raise_words (w : Warp) (fl : FFlags) : (w.raise fl).words = w.words := rfl
@[simp] theorem Warp.raise_full (w : Warp) (fl : FFlags) : (w.raise fl).full = w.full := rfl
@[simp] theorem Warp.raise_va (w : Warp) (fl : FFlags) : (w.raise fl).va = w.va := rfl
@[simp] theorem Warp.raise_ka (w : Warp) (fl : FFlags) : (w.raise fl).ka = w.ka := rfl
@[simp] theorem Warp.raise_ta (w : Warp) (fl : FFlags) : (w.raise fl).ta = w.ta := rfl
@[simp] theorem Warp.raise_v (w : Warp) (fl : FFlags) : (w.raise fl).v = w.v := rfl
@[simp] theorem Warp.raise_e (w : Warp) (fl : FFlags) : (w.raise fl).e = w.e := rfl
@[simp] theorem Warp.raise_k (w : Warp) (fl : FFlags) : (w.raise fl).k = w.k := rfl
@[simp] theorem Warp.raise_p (w : Warp) (fl : FFlags) : (w.raise fl).p = w.p := rfl
@[simp] theorem Warp.raise_acc (w : Warp) (fl : FFlags) : (w.raise fl).acc = w.acc := rfl
@[simp] theorem Warp.raise_lat (w : Warp) (fl : FFlags) : (w.raise fl).lat = w.lat := rfl
@[simp] theorem Warp.raise_latN (w : Warp) (fl : FFlags) : (w.raise fl).latN = w.latN := rfl
@[simp] theorem Warp.raise_slat (w : Warp) (fl : FFlags) : (w.raise fl).slat = w.slat := rfl
@[simp] theorem Warp.raise_d (w : Warp) (fl : FFlags) : (w.raise fl).d = w.d := rfl
@[simp] theorem Warp.raise_pendV (w : Warp) (fl : FFlags) : (w.raise fl).pendV = w.pendV := rfl
@[simp] theorem Warp.raise_pendE (w : Warp) (fl : FFlags) : (w.raise fl).pendE = w.pendE := rfl
@[simp] theorem Warp.raise_pendK (w : Warp) (fl : FFlags) : (w.raise fl).pendK = w.pendK := rfl
@[simp] theorem Warp.raise_markV (w : Warp) (fl : FFlags) : (w.raise fl).markV = w.markV := rfl
@[simp] theorem Warp.raise_markE (w : Warp) (fl : FFlags) : (w.raise fl).markE = w.markE := rfl
@[simp] theorem Warp.raise_markK (w : Warp) (fl : FFlags) : (w.raise fl).markK = w.markK := rfl
@[simp] theorem Warp.raise_markL (w : Warp) (fl : FFlags) : (w.raise fl).markL = w.markL := rfl
@[simp] theorem Warp.raise_markT (w : Warp) (fl : FFlags) : (w.raise fl).markT = w.markT := rfl
@[simp] theorem Warp.raise_markAddr (w : Warp) (fl : FFlags) : (w.raise fl).markAddr = w.markAddr := rfl
@[simp] theorem Warp.raise_fflags (w : Warp) (fl : FFlags) : (w.raise fl).fflags = w.fflags ||| fl := rfl
@[simp] theorem Warp.raise_win (w : Warp) (fl : FFlags) : (w.raise fl).win = w.win := rfl
@[simp] theorem Warp.raise_xpc (w : Warp) (fl : FFlags) : (w.raise fl).xpc = w.xpc := rfl
@[simp] theorem Warp.raise_xcause (w : Warp) (fl : FFlags) : (w.raise fl).xcause = w.xcause := rfl
@[simp] theorem Warp.raise_xval (w : Warp) (fl : FFlags) : (w.raise fl).xval = w.xval := rfl
@[simp] theorem Warp.raise_xstat (w : Warp) (fl : FFlags) : (w.raise fl).xstat = w.xstat := rfl
@[simp] theorem Warp.raise_xscr0 (w : Warp) (fl : FFlags) : (w.raise fl).xscr0 = w.xscr0 := rfl
@[simp] theorem Warp.raise_xscr1 (w : Warp) (fl : FFlags) : (w.raise fl).xscr1 = w.xscr1 := rfl
@[simp] theorem Warp.raise_xarm (w : Warp) (fl : FFlags) : (w.raise fl).xarm = w.xarm := rfl
@[simp] theorem Warp.raise_out (w : Warp) (fl : FFlags) : (w.raise fl).out = w.out := rfl
@[simp] theorem Warp.raise_sfail (w : Warp) (fl : FFlags) : (w.raise fl).sfail = w.sfail := rfl
@[simp] theorem Warp.raise_prio (w : Warp) (fl : FFlags) : (w.raise fl).prio = w.prio := rfl
@[simp] theorem Warp.raise_boosted (w : Warp) (fl : FFlags) : (w.raise fl).boosted = w.boosted := rfl
@[simp] theorem Warp.raise_idleSince (w : Warp) (fl : FFlags) : (w.raise fl).idleSince = w.idleSince := rfl
@[simp] theorem Warp.raise_score (w : Warp) (fl : FFlags) : (w.raise fl).score = w.score := rfl
@[simp] theorem Warp.raise_yieldAt (w : Warp) (fl : FFlags) : (w.raise fl).yieldAt = w.yieldAt := rfl
@[simp] theorem Warp.raise_yieldFor (w : Warp) (fl : FFlags) : (w.raise fl).yieldFor = w.yieldFor := rfl
@[simp] theorem Warp.raise_acqAt (w : Warp) (fl : FFlags) : (w.raise fl).acqAt = w.acqAt := rfl
@[simp] theorem Warp.raise_age (w : Warp) (fl : FFlags) : (w.raise fl).age = w.age := rfl
@[simp] theorem Warp.raise_mgdN (w : Warp) (fl : FFlags) : (w.raise fl).mgdN = w.mgdN := rfl
@[simp] theorem Warp.raise_token (w : Warp) (fl : FFlags) : (w.raise fl).token = w.token := rfl
@[simp] theorem Warp.raise_susp (w : Warp) (fl : FFlags) : (w.raise fl).susp = w.susp := rfl
@[simp] theorem Warp.raise_xback (w : Warp) (fl : FFlags) : (w.raise fl).xback = w.xback := rfl
@[simp] theorem Warp.raise_walks (w : Warp) (fl : FFlags) : (w.raise fl).walks = w.walks := rfl

@[simp] theorem Warp.woken_core (w : Warp) : (w.woken).core = w.core := rfl
@[simp] theorem Warp.woken_quarter (w : Warp) : (w.woken).quarter = w.quarter := rfl
@[simp] theorem Warp.woken_slot (w : Warp) : (w.woken).slot = w.slot := rfl
@[simp] theorem Warp.woken_block (w : Warp) : (w.woken).block = w.block := rfl
@[simp] theorem Warp.woken_widx (w : Warp) : (w.woken).widx = w.widx := rfl
@[simp] theorem Warp.woken_twin (w : Warp) : (w.woken).twin = w.twin := rfl
@[simp] theorem Warp.woken_formed (w : Warp) : (w.woken).formed = w.formed := rfl
@[simp] theorem Warp.woken_cmp (w : Warp) : (w.woken).cmp = w.cmp := rfl
@[simp] theorem Warp.woken_ctx (w : Warp) : (w.woken).ctx = w.ctx := rfl
@[simp] theorem Warp.woken_super (w : Warp) : (w.woken).super = w.super := rfl
@[simp] theorem Warp.woken_phase (w : Warp) : (w.woken).phase = w.phase := rfl
@[simp] theorem Warp.woken_swapped (w : Warp) : (w.woken).swapped = w.swapped := rfl
@[simp] theorem Warp.woken_killed (w : Warp) : (w.woken).killed = w.killed := rfl
@[simp] theorem Warp.woken_wait (w : Warp) : (w.woken).wait = none := rfl
@[simp] theorem Warp.woken_mask (w : Warp) : (w.woken).mask = w.mask := rfl
@[simp] theorem Warp.woken_wids (w : Warp) : (w.woken).wids = w.wids := rfl
@[simp] theorem Warp.woken_pc (w : Warp) : (w.woken).pc = w.pc := rfl
@[simp] theorem Warp.woken_ix (w : Warp) : (w.woken).ix = w.ix := rfl
@[simp] theorem Warp.woken_fetched (w : Warp) : (w.woken).fetched = w.fetched := rfl
@[simp] theorem Warp.woken_hdr (w : Warp) : (w.woken).hdr = w.hdr := rfl
@[simp] theorem Warp.woken_words (w : Warp) : (w.woken).words = w.words := rfl
@[simp] theorem Warp.woken_full (w : Warp) : (w.woken).full = w.full := rfl
@[simp] theorem Warp.woken_va (w : Warp) : (w.woken).va = w.va := rfl
@[simp] theorem Warp.woken_ka (w : Warp) : (w.woken).ka = w.ka := rfl
@[simp] theorem Warp.woken_ta (w : Warp) : (w.woken).ta = w.ta := rfl
@[simp] theorem Warp.woken_v (w : Warp) : (w.woken).v = w.v := rfl
@[simp] theorem Warp.woken_e (w : Warp) : (w.woken).e = w.e := rfl
@[simp] theorem Warp.woken_k (w : Warp) : (w.woken).k = w.k := rfl
@[simp] theorem Warp.woken_p (w : Warp) : (w.woken).p = w.p := rfl
@[simp] theorem Warp.woken_acc (w : Warp) : (w.woken).acc = w.acc := rfl
@[simp] theorem Warp.woken_lat (w : Warp) : (w.woken).lat = w.lat := rfl
@[simp] theorem Warp.woken_latN (w : Warp) : (w.woken).latN = w.latN := rfl
@[simp] theorem Warp.woken_slat (w : Warp) : (w.woken).slat = w.slat := rfl
@[simp] theorem Warp.woken_d (w : Warp) : (w.woken).d = w.d := rfl
@[simp] theorem Warp.woken_pendV (w : Warp) : (w.woken).pendV = w.pendV := rfl
@[simp] theorem Warp.woken_pendE (w : Warp) : (w.woken).pendE = w.pendE := rfl
@[simp] theorem Warp.woken_pendK (w : Warp) : (w.woken).pendK = w.pendK := rfl
@[simp] theorem Warp.woken_markV (w : Warp) : (w.woken).markV = w.markV := rfl
@[simp] theorem Warp.woken_markE (w : Warp) : (w.woken).markE = w.markE := rfl
@[simp] theorem Warp.woken_markK (w : Warp) : (w.woken).markK = w.markK := rfl
@[simp] theorem Warp.woken_markL (w : Warp) : (w.woken).markL = w.markL := rfl
@[simp] theorem Warp.woken_markT (w : Warp) : (w.woken).markT = w.markT := rfl
@[simp] theorem Warp.woken_markAddr (w : Warp) : (w.woken).markAddr = w.markAddr := rfl
@[simp] theorem Warp.woken_fflags (w : Warp) : (w.woken).fflags = w.fflags := rfl
@[simp] theorem Warp.woken_win (w : Warp) : (w.woken).win = w.win := rfl
@[simp] theorem Warp.woken_xpc (w : Warp) : (w.woken).xpc = w.xpc := rfl
@[simp] theorem Warp.woken_xcause (w : Warp) : (w.woken).xcause = w.xcause := rfl
@[simp] theorem Warp.woken_xval (w : Warp) : (w.woken).xval = w.xval := rfl
@[simp] theorem Warp.woken_xstat (w : Warp) : (w.woken).xstat = w.xstat := rfl
@[simp] theorem Warp.woken_xscr0 (w : Warp) : (w.woken).xscr0 = w.xscr0 := rfl
@[simp] theorem Warp.woken_xscr1 (w : Warp) : (w.woken).xscr1 = w.xscr1 := rfl
@[simp] theorem Warp.woken_xarm (w : Warp) : (w.woken).xarm = w.xarm := rfl
@[simp] theorem Warp.woken_out (w : Warp) : (w.woken).out = w.out := rfl
@[simp] theorem Warp.woken_sfail (w : Warp) : (w.woken).sfail = w.sfail := rfl
@[simp] theorem Warp.woken_prio (w : Warp) : (w.woken).prio = w.prio := rfl
@[simp] theorem Warp.woken_boosted (w : Warp) : (w.woken).boosted = w.boosted := rfl
@[simp] theorem Warp.woken_idleSince (w : Warp) : (w.woken).idleSince = w.idleSince := rfl
@[simp] theorem Warp.woken_score (w : Warp) : (w.woken).score = w.score := rfl
@[simp] theorem Warp.woken_yieldAt (w : Warp) : (w.woken).yieldAt = w.yieldAt := rfl
@[simp] theorem Warp.woken_yieldFor (w : Warp) : (w.woken).yieldFor = w.yieldFor := rfl
@[simp] theorem Warp.woken_acqAt (w : Warp) : (w.woken).acqAt = w.acqAt := rfl
@[simp] theorem Warp.woken_age (w : Warp) : (w.woken).age = w.age := rfl
@[simp] theorem Warp.woken_mgdN (w : Warp) : (w.woken).mgdN = w.mgdN := rfl
@[simp] theorem Warp.woken_token (w : Warp) : (w.woken).token = w.token := rfl
@[simp] theorem Warp.woken_susp (w : Warp) : (w.woken).susp = w.susp := rfl
@[simp] theorem Warp.woken_xback (w : Warp) : (w.woken).xback = w.xback := rfl
@[simp] theorem Warp.woken_walks (w : Warp) : (w.woken).walks = w.walks := rfl

@[simp] theorem Warp.incD_core (w : Warp) (n : Nat) : (w.incD n).core = w.core := rfl
@[simp] theorem Warp.incD_quarter (w : Warp) (n : Nat) : (w.incD n).quarter = w.quarter := rfl
@[simp] theorem Warp.incD_slot (w : Warp) (n : Nat) : (w.incD n).slot = w.slot := rfl
@[simp] theorem Warp.incD_block (w : Warp) (n : Nat) : (w.incD n).block = w.block := rfl
@[simp] theorem Warp.incD_widx (w : Warp) (n : Nat) : (w.incD n).widx = w.widx := rfl
@[simp] theorem Warp.incD_twin (w : Warp) (n : Nat) : (w.incD n).twin = w.twin := rfl
@[simp] theorem Warp.incD_formed (w : Warp) (n : Nat) : (w.incD n).formed = w.formed := rfl
@[simp] theorem Warp.incD_cmp (w : Warp) (n : Nat) : (w.incD n).cmp = w.cmp := rfl
@[simp] theorem Warp.incD_ctx (w : Warp) (n : Nat) : (w.incD n).ctx = w.ctx := rfl
@[simp] theorem Warp.incD_super (w : Warp) (n : Nat) : (w.incD n).super = w.super := rfl
@[simp] theorem Warp.incD_phase (w : Warp) (n : Nat) : (w.incD n).phase = w.phase := rfl
@[simp] theorem Warp.incD_swapped (w : Warp) (n : Nat) : (w.incD n).swapped = w.swapped := rfl
@[simp] theorem Warp.incD_killed (w : Warp) (n : Nat) : (w.incD n).killed = w.killed := rfl
@[simp] theorem Warp.incD_wait (w : Warp) (n : Nat) : (w.incD n).wait = w.wait := rfl
@[simp] theorem Warp.incD_mask (w : Warp) (n : Nat) : (w.incD n).mask = w.mask := rfl
@[simp] theorem Warp.incD_wids (w : Warp) (n : Nat) : (w.incD n).wids = w.wids := rfl
@[simp] theorem Warp.incD_pc (w : Warp) (n : Nat) : (w.incD n).pc = w.pc := rfl
@[simp] theorem Warp.incD_ix (w : Warp) (n : Nat) : (w.incD n).ix = w.ix := rfl
@[simp] theorem Warp.incD_fetched (w : Warp) (n : Nat) : (w.incD n).fetched = w.fetched := rfl
@[simp] theorem Warp.incD_hdr (w : Warp) (n : Nat) : (w.incD n).hdr = w.hdr := rfl
@[simp] theorem Warp.incD_words (w : Warp) (n : Nat) : (w.incD n).words = w.words := rfl
@[simp] theorem Warp.incD_full (w : Warp) (n : Nat) : (w.incD n).full = w.full := rfl
@[simp] theorem Warp.incD_va (w : Warp) (n : Nat) : (w.incD n).va = w.va := rfl
@[simp] theorem Warp.incD_ka (w : Warp) (n : Nat) : (w.incD n).ka = w.ka := rfl
@[simp] theorem Warp.incD_ta (w : Warp) (n : Nat) : (w.incD n).ta = w.ta := rfl
@[simp] theorem Warp.incD_v (w : Warp) (n : Nat) : (w.incD n).v = w.v := rfl
@[simp] theorem Warp.incD_e (w : Warp) (n : Nat) : (w.incD n).e = w.e := rfl
@[simp] theorem Warp.incD_k (w : Warp) (n : Nat) : (w.incD n).k = w.k := rfl
@[simp] theorem Warp.incD_p (w : Warp) (n : Nat) : (w.incD n).p = w.p := rfl
@[simp] theorem Warp.incD_acc (w : Warp) (n : Nat) : (w.incD n).acc = w.acc := rfl
@[simp] theorem Warp.incD_lat (w : Warp) (n : Nat) : (w.incD n).lat = w.lat := rfl
@[simp] theorem Warp.incD_latN (w : Warp) (n : Nat) : (w.incD n).latN = w.latN := rfl
@[simp] theorem Warp.incD_slat (w : Warp) (n : Nat) : (w.incD n).slat = w.slat := rfl
@[simp] theorem Warp.incD_d (w : Warp) (n : Nat) : (w.incD n).d = Store.set 0 w.d n (w.dn n + 1) := rfl
@[simp] theorem Warp.incD_pendV (w : Warp) (n : Nat) : (w.incD n).pendV = w.pendV := rfl
@[simp] theorem Warp.incD_pendE (w : Warp) (n : Nat) : (w.incD n).pendE = w.pendE := rfl
@[simp] theorem Warp.incD_pendK (w : Warp) (n : Nat) : (w.incD n).pendK = w.pendK := rfl
@[simp] theorem Warp.incD_markV (w : Warp) (n : Nat) : (w.incD n).markV = w.markV := rfl
@[simp] theorem Warp.incD_markE (w : Warp) (n : Nat) : (w.incD n).markE = w.markE := rfl
@[simp] theorem Warp.incD_markK (w : Warp) (n : Nat) : (w.incD n).markK = w.markK := rfl
@[simp] theorem Warp.incD_markL (w : Warp) (n : Nat) : (w.incD n).markL = w.markL := rfl
@[simp] theorem Warp.incD_markT (w : Warp) (n : Nat) : (w.incD n).markT = w.markT := rfl
@[simp] theorem Warp.incD_markAddr (w : Warp) (n : Nat) : (w.incD n).markAddr = w.markAddr := rfl
@[simp] theorem Warp.incD_fflags (w : Warp) (n : Nat) : (w.incD n).fflags = w.fflags := rfl
@[simp] theorem Warp.incD_win (w : Warp) (n : Nat) : (w.incD n).win = w.win := rfl
@[simp] theorem Warp.incD_xpc (w : Warp) (n : Nat) : (w.incD n).xpc = w.xpc := rfl
@[simp] theorem Warp.incD_xcause (w : Warp) (n : Nat) : (w.incD n).xcause = w.xcause := rfl
@[simp] theorem Warp.incD_xval (w : Warp) (n : Nat) : (w.incD n).xval = w.xval := rfl
@[simp] theorem Warp.incD_xstat (w : Warp) (n : Nat) : (w.incD n).xstat = w.xstat := rfl
@[simp] theorem Warp.incD_xscr0 (w : Warp) (n : Nat) : (w.incD n).xscr0 = w.xscr0 := rfl
@[simp] theorem Warp.incD_xscr1 (w : Warp) (n : Nat) : (w.incD n).xscr1 = w.xscr1 := rfl
@[simp] theorem Warp.incD_xarm (w : Warp) (n : Nat) : (w.incD n).xarm = w.xarm := rfl
@[simp] theorem Warp.incD_out (w : Warp) (n : Nat) : (w.incD n).out = w.out := rfl
@[simp] theorem Warp.incD_sfail (w : Warp) (n : Nat) : (w.incD n).sfail = w.sfail := rfl
@[simp] theorem Warp.incD_prio (w : Warp) (n : Nat) : (w.incD n).prio = w.prio := rfl
@[simp] theorem Warp.incD_boosted (w : Warp) (n : Nat) : (w.incD n).boosted = w.boosted := rfl
@[simp] theorem Warp.incD_idleSince (w : Warp) (n : Nat) : (w.incD n).idleSince = w.idleSince := rfl
@[simp] theorem Warp.incD_score (w : Warp) (n : Nat) : (w.incD n).score = w.score := rfl
@[simp] theorem Warp.incD_yieldAt (w : Warp) (n : Nat) : (w.incD n).yieldAt = w.yieldAt := rfl
@[simp] theorem Warp.incD_yieldFor (w : Warp) (n : Nat) : (w.incD n).yieldFor = w.yieldFor := rfl
@[simp] theorem Warp.incD_acqAt (w : Warp) (n : Nat) : (w.incD n).acqAt = w.acqAt := rfl
@[simp] theorem Warp.incD_age (w : Warp) (n : Nat) : (w.incD n).age = w.age := rfl
@[simp] theorem Warp.incD_mgdN (w : Warp) (n : Nat) : (w.incD n).mgdN = w.mgdN := rfl
@[simp] theorem Warp.incD_token (w : Warp) (n : Nat) : (w.incD n).token = w.token := rfl
@[simp] theorem Warp.incD_susp (w : Warp) (n : Nat) : (w.incD n).susp = w.susp := rfl
@[simp] theorem Warp.incD_xback (w : Warp) (n : Nat) : (w.incD n).xback = w.xback := rfl
@[simp] theorem Warp.incD_walks (w : Warp) (n : Nat) : (w.incD n).walks = w.walks := rfl

@[simp] theorem Warp.decD_core (w : Warp) (n : Nat) : (w.decD n).core = w.core := rfl
@[simp] theorem Warp.decD_quarter (w : Warp) (n : Nat) : (w.decD n).quarter = w.quarter := rfl
@[simp] theorem Warp.decD_slot (w : Warp) (n : Nat) : (w.decD n).slot = w.slot := rfl
@[simp] theorem Warp.decD_block (w : Warp) (n : Nat) : (w.decD n).block = w.block := rfl
@[simp] theorem Warp.decD_widx (w : Warp) (n : Nat) : (w.decD n).widx = w.widx := rfl
@[simp] theorem Warp.decD_twin (w : Warp) (n : Nat) : (w.decD n).twin = w.twin := rfl
@[simp] theorem Warp.decD_formed (w : Warp) (n : Nat) : (w.decD n).formed = w.formed := rfl
@[simp] theorem Warp.decD_cmp (w : Warp) (n : Nat) : (w.decD n).cmp = w.cmp := rfl
@[simp] theorem Warp.decD_ctx (w : Warp) (n : Nat) : (w.decD n).ctx = w.ctx := rfl
@[simp] theorem Warp.decD_super (w : Warp) (n : Nat) : (w.decD n).super = w.super := rfl
@[simp] theorem Warp.decD_phase (w : Warp) (n : Nat) : (w.decD n).phase = w.phase := rfl
@[simp] theorem Warp.decD_swapped (w : Warp) (n : Nat) : (w.decD n).swapped = w.swapped := rfl
@[simp] theorem Warp.decD_killed (w : Warp) (n : Nat) : (w.decD n).killed = w.killed := rfl
@[simp] theorem Warp.decD_wait (w : Warp) (n : Nat) : (w.decD n).wait = w.wait := rfl
@[simp] theorem Warp.decD_mask (w : Warp) (n : Nat) : (w.decD n).mask = w.mask := rfl
@[simp] theorem Warp.decD_wids (w : Warp) (n : Nat) : (w.decD n).wids = w.wids := rfl
@[simp] theorem Warp.decD_pc (w : Warp) (n : Nat) : (w.decD n).pc = w.pc := rfl
@[simp] theorem Warp.decD_ix (w : Warp) (n : Nat) : (w.decD n).ix = w.ix := rfl
@[simp] theorem Warp.decD_fetched (w : Warp) (n : Nat) : (w.decD n).fetched = w.fetched := rfl
@[simp] theorem Warp.decD_hdr (w : Warp) (n : Nat) : (w.decD n).hdr = w.hdr := rfl
@[simp] theorem Warp.decD_words (w : Warp) (n : Nat) : (w.decD n).words = w.words := rfl
@[simp] theorem Warp.decD_full (w : Warp) (n : Nat) : (w.decD n).full = w.full := rfl
@[simp] theorem Warp.decD_va (w : Warp) (n : Nat) : (w.decD n).va = w.va := rfl
@[simp] theorem Warp.decD_ka (w : Warp) (n : Nat) : (w.decD n).ka = w.ka := rfl
@[simp] theorem Warp.decD_ta (w : Warp) (n : Nat) : (w.decD n).ta = w.ta := rfl
@[simp] theorem Warp.decD_v (w : Warp) (n : Nat) : (w.decD n).v = w.v := rfl
@[simp] theorem Warp.decD_e (w : Warp) (n : Nat) : (w.decD n).e = w.e := rfl
@[simp] theorem Warp.decD_k (w : Warp) (n : Nat) : (w.decD n).k = w.k := rfl
@[simp] theorem Warp.decD_p (w : Warp) (n : Nat) : (w.decD n).p = w.p := rfl
@[simp] theorem Warp.decD_acc (w : Warp) (n : Nat) : (w.decD n).acc = w.acc := rfl
@[simp] theorem Warp.decD_lat (w : Warp) (n : Nat) : (w.decD n).lat = w.lat := rfl
@[simp] theorem Warp.decD_latN (w : Warp) (n : Nat) : (w.decD n).latN = w.latN := rfl
@[simp] theorem Warp.decD_slat (w : Warp) (n : Nat) : (w.decD n).slat = w.slat := rfl
@[simp] theorem Warp.decD_d (w : Warp) (n : Nat) : (w.decD n).d = Store.set 0 w.d n (w.dn n - 1) := rfl
@[simp] theorem Warp.decD_pendV (w : Warp) (n : Nat) : (w.decD n).pendV = w.pendV := rfl
@[simp] theorem Warp.decD_pendE (w : Warp) (n : Nat) : (w.decD n).pendE = w.pendE := rfl
@[simp] theorem Warp.decD_pendK (w : Warp) (n : Nat) : (w.decD n).pendK = w.pendK := rfl
@[simp] theorem Warp.decD_markV (w : Warp) (n : Nat) : (w.decD n).markV = w.markV := rfl
@[simp] theorem Warp.decD_markE (w : Warp) (n : Nat) : (w.decD n).markE = w.markE := rfl
@[simp] theorem Warp.decD_markK (w : Warp) (n : Nat) : (w.decD n).markK = w.markK := rfl
@[simp] theorem Warp.decD_markL (w : Warp) (n : Nat) : (w.decD n).markL = w.markL := rfl
@[simp] theorem Warp.decD_markT (w : Warp) (n : Nat) : (w.decD n).markT = w.markT := rfl
@[simp] theorem Warp.decD_markAddr (w : Warp) (n : Nat) : (w.decD n).markAddr = w.markAddr := rfl
@[simp] theorem Warp.decD_fflags (w : Warp) (n : Nat) : (w.decD n).fflags = w.fflags := rfl
@[simp] theorem Warp.decD_win (w : Warp) (n : Nat) : (w.decD n).win = w.win := rfl
@[simp] theorem Warp.decD_xpc (w : Warp) (n : Nat) : (w.decD n).xpc = w.xpc := rfl
@[simp] theorem Warp.decD_xcause (w : Warp) (n : Nat) : (w.decD n).xcause = w.xcause := rfl
@[simp] theorem Warp.decD_xval (w : Warp) (n : Nat) : (w.decD n).xval = w.xval := rfl
@[simp] theorem Warp.decD_xstat (w : Warp) (n : Nat) : (w.decD n).xstat = w.xstat := rfl
@[simp] theorem Warp.decD_xscr0 (w : Warp) (n : Nat) : (w.decD n).xscr0 = w.xscr0 := rfl
@[simp] theorem Warp.decD_xscr1 (w : Warp) (n : Nat) : (w.decD n).xscr1 = w.xscr1 := rfl
@[simp] theorem Warp.decD_xarm (w : Warp) (n : Nat) : (w.decD n).xarm = w.xarm := rfl
@[simp] theorem Warp.decD_out (w : Warp) (n : Nat) : (w.decD n).out = w.out := rfl
@[simp] theorem Warp.decD_sfail (w : Warp) (n : Nat) : (w.decD n).sfail = w.sfail := rfl
@[simp] theorem Warp.decD_prio (w : Warp) (n : Nat) : (w.decD n).prio = w.prio := rfl
@[simp] theorem Warp.decD_boosted (w : Warp) (n : Nat) : (w.decD n).boosted = w.boosted := rfl
@[simp] theorem Warp.decD_idleSince (w : Warp) (n : Nat) : (w.decD n).idleSince = w.idleSince := rfl
@[simp] theorem Warp.decD_score (w : Warp) (n : Nat) : (w.decD n).score = w.score := rfl
@[simp] theorem Warp.decD_yieldAt (w : Warp) (n : Nat) : (w.decD n).yieldAt = w.yieldAt := rfl
@[simp] theorem Warp.decD_yieldFor (w : Warp) (n : Nat) : (w.decD n).yieldFor = w.yieldFor := rfl
@[simp] theorem Warp.decD_acqAt (w : Warp) (n : Nat) : (w.decD n).acqAt = w.acqAt := rfl
@[simp] theorem Warp.decD_age (w : Warp) (n : Nat) : (w.decD n).age = w.age := rfl
@[simp] theorem Warp.decD_mgdN (w : Warp) (n : Nat) : (w.decD n).mgdN = w.mgdN := rfl
@[simp] theorem Warp.decD_token (w : Warp) (n : Nat) : (w.decD n).token = w.token := rfl
@[simp] theorem Warp.decD_susp (w : Warp) (n : Nat) : (w.decD n).susp = w.susp := rfl
@[simp] theorem Warp.decD_xback (w : Warp) (n : Nat) : (w.decD n).xback = w.xback := rfl
@[simp] theorem Warp.decD_walks (w : Warp) (n : Nat) : (w.decD n).walks = w.walks := rfl

end Sys2Proof.Machine
end

