-- ==== Sys2Proof/Laws/Store.lean ====
section
/-! SUPPORT. The canonical stores: what a read returns after a write, and that every write keeps the canonical form. -/

namespace Sys2Proof.Machine

variable {α : Type} {d : α}

/-! ### Reads -/

@[simp] theorem Store.get_nil (a : Nat) : Store.get d [] a = d := rfl

theorem Store.get_cons (k : Nat) (x : α) (m : Store α) (a : Nat) :
    Store.get d ((k, x) :: m) a = if k = a then x else Store.get d m a := rfl

theorem Store.get_eq_default {m : Store α} {a : Nat} (h : ∀ p ∈ m, p.1 ≠ a) : Store.get d m a = d := by
  induction m with
  | nil => rfl
  | cons p r ih =>
    rw [show p = (p.1, p.2) from rfl, Store.get_cons, if_neg (h p (by simp)), ih fun q hq => h q (by simp [hq])]

theorem Store.get_append_right {m r : Store α} {a : Nat} (h : ∀ p ∈ m, p.1 ≠ a) :
    Store.get d (m ++ r) a = Store.get d r a := by
  induction m with
  | nil => rfl
  | cons p q ih =>
    rw [List.cons_append, show p = (p.1, p.2) from rfl, Store.get_cons, if_neg (h p (by simp)),
      ih fun x hx => h x (by simp [hx])]

theorem Store.get_append_left {m r : Store α} {a : Nat} (h : ∀ p ∈ r, p.1 ≠ a) :
    Store.get d (m ++ r) a = Store.get d m a := by
  induction m with
  | nil => exact Store.get_eq_default h
  | cons p q ih => rw [List.cons_append, show p = (p.1, p.2) from rfl, Store.get_cons, Store.get_cons, ih]

theorem Store.get_filter (m : Store α) (P : Nat → Bool) (a : Nat) :
    Store.get d (m.filter fun p => P p.1) a = if P a then Store.get d m a else d := by
  induction m with
  | nil => simp
  | cons p r ih =>
    obtain ⟨k, x⟩ := p
    by_cases hk : k = a
    · subst hk
      by_cases hP : P k <;> simp [hP, Store.get_cons, ih]
    · by_cases hP : P k <;> simp [hP, Store.get_cons, ih, hk]

variable [DecidableEq α]

theorem Store.block_succ (b n : Nat) (f : Nat → α) :
    Store.block d b (n + 1) f = Store.block d b n f ++ if f n = d then [] else [(b + n, f n)] := by
  simp only [Store.block, List.range_succ, List.filterMap_append]
  by_cases h : f n = d <;> simp [h]

theorem Store.mem_block {b n : Nat} {f : Nat → α} {p : Nat × α} :
    p ∈ Store.block d b n f ↔ ∃ i < n, f i ≠ d ∧ p = (b + i, f i) := by
  simp only [Store.block, List.mem_filterMap, List.mem_range]
  constructor
  · rintro ⟨i, hi, h⟩
    by_cases hd : f i = d
    · simp [hd] at h
    · rw [if_neg hd] at h
      exact ⟨i, hi, hd, (Option.some.inj h).symm⟩
  · rintro ⟨i, hi, hd, rfl⟩
    exact ⟨i, hi, by rw [if_neg hd]⟩

theorem Store.block_keys {b n : Nat} {f : Nat → α} {p : Nat × α} (hp : p ∈ Store.block d b n f) :
    b ≤ p.1 ∧ p.1 < b + n := by
  obtain ⟨i, hi, -, rfl⟩ := Store.mem_block.1 hp
  exact ⟨by simp, by simp; omega⟩

theorem Store.get_block (b n : Nat) (f : Nat → α) (a : Nat) :
    Store.get d (Store.block d b n f) a = if b ≤ a ∧ a < b + n then f (a - b) else d := by
  induction n with
  | zero => rw [if_neg (by omega)]; rfl
  | succ n ih =>
    rw [Store.block_succ]
    by_cases h : a = b + n
    · subst h
      rw [Store.get_append_right fun p hp => by have := Store.block_keys hp; omega,
        if_pos (show b ≤ b + n ∧ b + n < b + (n + 1) from ⟨by omega, by omega⟩), Nat.add_sub_cancel_left]
      by_cases hd : f n = d
      · rw [if_pos hd, hd]; rfl
      · rw [if_neg hd, Store.get_cons, if_pos rfl]
    · rw [Store.get_append_left fun p hp => ?_, ih]
      · by_cases hb : b ≤ a ∧ a < b + n
        · rw [if_pos hb, if_pos ⟨hb.1, by omega⟩]
        · rw [if_neg hb, if_neg (by omega)]
      · by_cases hd : f n = d
        · simp [hd] at hp
        · rw [if_neg hd, List.mem_singleton] at hp
          subst hp
          exact fun e => h e.symm

/-- What a read returns after a block of keys was set. -/
theorem Store.get_setBlock (m : Store α) (b n : Nat) (f : Nat → α) (a : Nat) :
    Store.get d (Store.setBlock d m b n f) a = if b ≤ a ∧ a < b + n then f (a - b) else Store.get d m a := by
  have lo : ∀ p ∈ m.filter (fun p => p.1 < b), p.1 < b := fun p hp => by simpa using (List.mem_filter.1 hp).2
  have hi : ∀ p ∈ m.filter (fun p => b + n ≤ p.1), b + n ≤ p.1 := fun p hp => by simpa using (List.mem_filter.1 hp).2
  have mid : ∀ p ∈ Store.block d b n f, b ≤ p.1 ∧ p.1 < b + n := fun p hp => Store.block_keys hp
  unfold Store.setBlock
  by_cases h : b ≤ a ∧ a < b + n
  · rw [if_pos h, Store.get_append_left fun p hp => by have := hi p hp; omega,
      Store.get_append_right fun p hp => by have := lo p hp; omega, Store.get_block, if_pos h]
  · rw [if_neg h]
    by_cases hb : a < b
    · rw [Store.get_append_left fun p hp => by have := hi p hp; omega,
        Store.get_append_left fun p hp => by have := mid p hp; omega,
        Store.get_filter m (fun k => decide (k < b)) a, if_pos (by simpa using hb)]
    · rw [List.append_assoc, Store.get_append_right fun p hp => by have := lo p hp; omega,
        Store.get_append_right fun p hp => by have := mid p hp; omega,
        Store.get_filter m (fun k => decide (b + n ≤ k)) a, if_pos (by simp; omega)]

/-- What a read returns after one key was set. -/
theorem Store.get_set (m : Store α) (b : Nat) (x : α) (a : Nat) :
    Store.get d (Store.set d m b x) a = if a = b then x else Store.get d m a := by
  unfold Store.set
  rw [Store.get_setBlock]
  by_cases h : a = b
  · rw [if_pos h, if_pos (by omega)]
  · rw [if_neg h, if_neg (by omega)]

/-- A later write of the same keys hides an earlier one. -/
theorem Store.setBlock_setBlock (m : Store α) (b n : Nat) (f g : Nat → α) :
    Store.setBlock d (Store.setBlock d m b n f) b n g = Store.setBlock d m b n g := by
  have mid : ∀ p ∈ Store.block d b n f, b ≤ p.1 ∧ p.1 < b + n := fun p hp => Store.block_keys hp
  have lo : (Store.setBlock d m b n f).filter (fun p => p.1 < b) = m.filter fun p => p.1 < b := by
    simp only [Store.setBlock, List.filter_append, List.filter_filter, Bool.and_self]
    rw [(List.filter_eq_nil_iff (l := Store.block d b n f)).2 fun p hp => by have := mid p hp; simp; omega,
      (List.filter_eq_nil_iff (l := m) (p := fun a => decide (a.1 < b) && decide (b + n ≤ a.1))).2
        fun p _ => by simp; omega, List.append_nil, List.append_nil]
  have hi : (Store.setBlock d m b n f).filter (fun p => b + n ≤ p.1) = m.filter fun p => b + n ≤ p.1 := by
    simp only [Store.setBlock, List.filter_append, List.filter_filter, Bool.and_self]
    rw [(List.filter_eq_nil_iff (l := Store.block d b n f)).2 fun p hp => by have := mid p hp; simp; omega,
      (List.filter_eq_nil_iff (l := m) (p := fun a => decide (b + n ≤ a.1) && decide (a.1 < b))).2
        fun p _ => by simp; omega, List.append_nil, List.nil_append]
  rw [show Store.setBlock d (Store.setBlock d m b n f) b n g = (Store.setBlock d m b n f).filter (fun p => p.1 < b)
    ++ Store.block d b n g ++ (Store.setBlock d m b n f).filter (fun p => b + n ≤ p.1) from rfl, lo, hi]
  rfl

/-- A later write of the same key hides an earlier one. -/
theorem Store.set_set (m : Store α) (a : Nat) (x y : α) : Store.set d (Store.set d m a x) a y = Store.set d m a y :=
  Store.setBlock_setBlock m a 1 _ _

/-! ### The canonical form -/

theorem Store.wf_iff {m : Store α} :
    Store.wf d m = true ↔ (m.Pairwise fun p q => p.1 < q.1) ∧ ∀ p ∈ m, p.2 ≠ d := by
  simp [Store.wf]

@[simp] theorem Store.wf_nil : Store.wf d ([] : Store α) = true := by simp [Store.wf]

theorem Store.block_sorted (b n : Nat) (f : Nat → α) : (Store.block d b n f).Pairwise fun p q => p.1 < q.1 := by
  induction n with
  | zero => simp [Store.block]
  | succ n ih =>
    rw [Store.block_succ, List.pairwise_append]
    refine ⟨ih, ?_, fun p hp q hq => ?_⟩
    · by_cases h : f n = d <;> simp [h]
    · have := Store.block_keys hp
      by_cases h : f n = d
      · simp [h] at hq
      · rw [if_neg h, List.mem_singleton] at hq
        subst hq
        exact this.2

theorem Store.wf_filter {m : Store α} (P : Nat × α → Bool) (h : Store.wf d m = true) :
    Store.wf d (m.filter P) = true := by
  rw [Store.wf_iff] at h ⊢
  exact ⟨h.1.filter P, fun p hp => h.2 p (List.mem_filter.1 hp).1⟩

/-- Setting a block of keys keeps the canonical form. -/
theorem Store.wf_setBlock {m : Store α} (h : Store.wf d m = true) (b n : Nat) (f : Nat → α) :
    Store.wf d (Store.setBlock d m b n f) = true := by
  rw [Store.wf_iff] at h ⊢
  unfold Store.setBlock
  constructor
  · rw [List.pairwise_append, List.pairwise_append]
    refine ⟨⟨h.1.filter _, Store.block_sorted b n f, fun p hp q hq => ?_⟩, h.1.filter _, fun p hp q hq => ?_⟩
    · have := Store.block_keys hq
      have hl : p.1 < b := by simpa using (List.mem_filter.1 hp).2
      omega
    · have hh : b + n ≤ q.1 := by simpa using (List.mem_filter.1 hq).2
      rcases List.mem_append.1 hp with hp | hp
      · have hl : p.1 < b := by simpa using (List.mem_filter.1 hp).2
        omega
      · have := Store.block_keys hp
        omega
  · intro p hp
    rcases List.mem_append.1 hp with hp | hp
    · rcases List.mem_append.1 hp with hp | hp
      · exact h.2 p (List.mem_filter.1 hp).1
      · obtain ⟨i, -, hd, rfl⟩ := Store.mem_block.1 hp
        exact hd
    · exact h.2 p (List.mem_filter.1 hp).1

/-- Setting a key keeps the canonical form. -/
theorem Store.wf_set {m : Store α} (h : Store.wf d m = true) (a : Nat) (x : α) : Store.wf d (Store.set d m a x) = true :=
  Store.wf_setBlock h a 1 _

/-- Setting keys one by one keeps the canonical form. -/
theorem Store.wf_foldl_set {β : Type} (l : List β) (key : β → Nat) (val : Store α → β → α) {m : Store α}
    (h : Store.wf d m = true) : Store.wf d (l.foldl (fun m p => Store.set d m (key p) (val m p)) m) = true := by
  induction l generalizing m with
  | nil => exact h
  | cons p r ih => exact ih (Store.wf_set h _ _)

/-! ### Tables -/

theorem Table.find_put (m : Table α) (n : Nat) (x : α) (a : Nat) :
    Table.find (Table.put m n x) a = if a = n then some x else Table.find m a := Store.get_set m n (some x) a

theorem Table.find_erase (m : Table α) (n a : Nat) :
    Table.find (Table.erase m n) a = if a = n then none else Table.find m a := Store.get_set m n none a

@[simp] theorem Table.find_put_self (m : Table α) (n : Nat) (x : α) : Table.find (Table.put m n x) n = some x := by
  rw [Table.find_put, if_pos rfl]

@[simp] theorem Table.put_put (m : Table α) (n : Nat) (x y : α) :
    Table.put (Table.put m n x) n y = Table.put m n y := Store.set_set m n (some x) (some y)

end Sys2Proof.Machine
end

