-- ==== Sys2Proof/Laws/Issue.lean ====
section
/-! SUPPORT. What issuing and retiring an instruction can do, said once: the claims about single instructions rest on
`issue_next` and `retires_advance`. -/

namespace Sys2Proof.Machine

/-! ### Warps of a state -/

theorem State.warp_putWarp (s : State) (id : Nat) (w : Warp) (j : Nat) :
    (s.putWarp id w).warp j = if j = id then some w else s.warp j := Table.find_put s.warps id w j

@[simp] theorem State.warp_putWarp_self (s : State) (id : Nat) (w : Warp) : (s.putWarp id w).warp id = some w := by
  rw [State.warp_putWarp, if_pos rfl]

theorem State.warp_putWarp_other (s : State) (id : Nat) (w : Warp) {j : Nat} (h : j ≠ id) :
    (s.putWarp id w).warp j = s.warp j := by rw [State.warp_putWarp, if_neg h]

@[simp] theorem State.putWarp_putWarp (s : State) (id : Nat) (w x : Warp) :
    (s.putWarp id w).putWarp id x = s.putWarp id x := by
  unfold State.putWarp
  simp

/-! ### Issue -/

theorem State.readied_eq (s : State) (w : Warp) : s.readied w = { s with warps := (s.readied w).warps } := by
  unfold State.readied
  split <;> rfl

@[simp] theorem State.readied_cur (s : State) (w : Warp) : (s.readied w).cur = s.cur := by
  unfold State.readied
  split <;> rfl

theorem State.readied_warp {s : State} {w : Warp} (h : s.warp s.cur = some w) :
    (s.readied w).warp s.cur = some w.woken := by
  unfold State.readied
  split
  · rename_i e
    have e : w.wait = none := by simpa using e
    rw [h]
    obtain ⟨⟩ := w
    cases e
    rfl
  · simp

theorem State.readied_other {s : State} {w : Warp} {j : Nat} (h : j ≠ s.cur) : (s.readied w).warp j = s.warp j := by
  unfold State.readied
  split
  · rfl
  · exact State.warp_putWarp_other s _ _ h

@[simp] theorem State.readied_put (s : State) (w x : Warp) : (s.readied w).putWarp s.cur x = s.putWarp s.cur x := by
  unfold State.readied
  split <;> simp

theorem Ref.ok_woken (r : Ref) (w : Warp) : r.ok w.woken = r.ok w := by cases r <;> rfl

theorem Ref.pending_woken (r : Ref) (w : Warp) : r.pending w.woken = r.pending w := rfl

theorem firstMark_woken (w : Warp) (l : List Ref) : firstMark w.woken l = firstMark w l := rfl

/-- An instruction that issues has its effect (R34, R37, R76, R78, R264). -/
theorem issue_next {s : State} {w : Warp} {i : Instr} {refs : Warp → List Ref} {eff : State → Warp → Res}
    (h : Issues s w (refs w)) : s.issue i refs eff = .next (State.finish s.cur (eff (s.readied w) w.woken)) := by
  unfold State.issue
  simp only [h.warp, h.may, if_true]
  unfold State.gate
  have hw : w.woken.waitMet = true := h.waits
  have ho : ((refs w).any fun r => !r.ok w.woken) = false := by
    rw [List.any_eq_false]
    intro r hr
    rw [Ref.ok_woken, h.ok r hr]
    simp
  have hp : ((refs w).any fun r => r.pending w.woken) = false := by
    rw [List.any_eq_false]
    intro r hr
    rw [Ref.pending_woken, h.free r hr]
    simp
  rw [hw, ho, hp, firstMark_woken, h.clean]
  rfl

/-! ### Retirement -/

theorem State.advance_cases {s : State} {id : Nat} {w : Warp} (h : s.warp id = some w) :
    ∃ w', s.advance id = { s with warps := (s.advance id).warps }
      ∧ (∀ j, j ≠ id → (s.advance id).warp j = s.warp j) ∧ (s.advance id).warp id = some w' ∧ MovedOn s w w' := by
  unfold State.advance
  simp only [h]
  by_cases hc : (!w.fetched || decide (w.ix + 1 < w.hdr.n.toNat)) = true
  · rw [if_pos hc]
    refine ⟨_, rfl, fun j hj => State.warp_putWarp_other _ _ _ hj, State.warp_putWarp_self _ _ _, ?_⟩
    unfold MovedOn
    rw [if_neg ?_]
    simp only [Bool.or_eq_true, Bool.not_eq_true', decide_eq_true_eq] at hc
    simp only [Bool.and_eq_true, decide_eq_true_eq, not_and, not_le]
    intro hf
    rcases hc with hc | hc
    · simp [hf] at hc
    · exact hc
  · rw [if_neg hc]
    have hm : (w.fetched && decide (w.hdr.n.toNat ≤ w.ix + 1)) = true := by
      simp only [Bool.or_eq_true, Bool.not_eq_true', decide_eq_true_eq, not_or, Bool.not_eq_false, not_lt] at hc
      simp [hc.1, hc.2]
    have hj : s.jump id w.nextClause =
        if w.hdr.y then (s.putWarp id { w.enter w.nextClause with idleSince := s.clock, boosted := false }).yieldWarp id
        else s.putWarp id { w.enter w.nextClause with idleSince := s.clock, boosted := false } := by
      unfold State.jump
      simp only [h]
    rw [hj]
    by_cases hy : w.hdr.y = true
    · rw [if_pos hy]
      generalize hA : ({ w.enter w.nextClause with idleSince := s.clock, boosted := false } : Warp) = A
      have hyw : (s.putWarp id A).yieldWarp id = (s.putWarp id A).putWarp id
          { A with yieldAt := some s.clock, yieldFor := (s.putWarp id A).peersOf id A } := by
        unfold State.yieldWarp
        simp only [State.warp_putWarp_self]
        rfl
      rw [hyw, State.putWarp_putWarp]
      refine ⟨_, rfl, fun j hj => State.warp_putWarp_other _ _ _ hj, State.warp_putWarp_self _ _ _, ?_⟩
      unfold MovedOn
      rw [if_pos hm]
      simp only [hy, if_true]
      rw [← hA]
    · rw [if_neg hy]
      refine ⟨_, rfl, fun j hj => State.warp_putWarp_other _ _ _ hj, State.warp_putWarp_self _ _ _, ?_⟩
      unfold MovedOn
      rw [if_pos hm]
      simp only [hy]
      rfl

/-- An instruction whose effect leaves `u` beside the warps and `w1` as its warp, and that goes to the next
instruction, retires (R208). -/
theorem retires_advance {s x u : State} {w1 : Warp} (hx : x = { u with warps := x.warps })
    (hw : x.warp s.cur = some w1) (ho : ∀ j, j ≠ s.cur → x.warp j = s.warp j) (hc : u.clock = s.clock) :
    Retires s u (x.advance s.cur) w1 := by
  obtain ⟨w', h1, h2, h3, h4⟩ := State.advance_cases hw
  have hr : x.advance s.cur = { u with warps := (x.advance s.cur).warps } := by
    rw [h1, hx]
  refine ⟨hr, fun a => by rw [hr]; rfl, fun j hj => (h2 j hj).trans (ho j hj), w', h3, ?_⟩
  have hxc : x.clock = s.clock := by rw [hx]; exact hc
  unfold MovedOn at h4 ⊢
  rw [hxc] at h4
  exact h4

/-- The common case: the effect is the warp alone. -/
theorem retires_put (s : State) (w1 : Warp) : Retires s s ((s.putWarp s.cur w1).advance s.cur) w1 :=
  retires_advance rfl (State.warp_putWarp_self _ _ _) (fun _ hj => State.warp_putWarp_other _ _ _ hj) rfl

/-- No effect: the warp is as it was readied. -/
theorem retires_readied {s : State} {w : Warp} (h : s.warp s.cur = some w) :
    Retires s s ((s.readied w).advance s.cur) w.woken :=
  retires_advance (s.readied_eq w) (State.readied_warp h) (fun _ hj => State.readied_other hj) rfl

end Sys2Proof.Machine
end

