-- ==== Sys2Proof/Laws/Alu.lean ====
section
/-! SUPPORT. What the register updates write, and what the shared shapes of ALU instructions do when they issue. -/

set_option maxRecDepth 20000

namespace Sys2Proof.Machine

/-! ### Registers -/

theorem key_inj {r s p q n : Nat} (hp : p < n) (hq : q < n) (h : r * n + p = s * n + q) : r = s ∧ p = q := by
  have hn : 0 < n := by omega
  have h1 := congrArg (· / n) h
  have h2 := congrArg (· % n) h
  simp only [Nat.mul_comm r n, Nat.mul_comm s n, Nat.mul_add_div hn, Nat.div_eq_of_lt hp, Nat.div_eq_of_lt hq,
    Nat.mul_add_mod, Nat.mod_eq_of_lt hp, Nat.mod_eq_of_lt hq, Nat.add_zero] at h1 h2
  exact ⟨h1, h2⟩

theorem in_block {r d p n : Nat} (hp : p < n) : (d * n ≤ r * n + p ∧ r * n + p < d * n + n) ↔ r = d := by
  constructor
  · rintro ⟨h1, h2⟩
    have h : r * n + p = d * n + (r * n + p - d * n) := by omega
    exact (key_inj hp (by omega) h).1
  · rintro rfl
    omega

theorem Warp.vr_setV (w : Warp) (d : Nat) (m : Mask) (f : Nat → Word) (r p : Nat) (hp : p < 128) :
    (w.setV d m f).vr r p = if r = d ∧ m.getLsbD p then f p else w.vr r p := by
  show Store.get 0 (w.setV d m f).v (r * 128 + p) = _
  rw [Warp.setV_v, Store.get_setBlock]
  by_cases h : r = d
  · subst h
    rw [if_pos ((in_block hp).2 rfl), Nat.add_sub_cancel_left]
    by_cases hm : m.getLsbD p = true <;> simp [hm]
  · rw [if_neg (fun e => h ((in_block hp).1 e)), if_neg (fun e => h e.1)]
    rfl

theorem vWritten_setV (w : Warp) (d : Nat) (m : Mask) (f : Nat → Word) : VWritten w (w.setV d m f) d m f :=
  fun r p hp => w.vr_setV d m f r p hp

theorem vPairWritten_setVP (w : Warp) (d : Nat) (m : Mask) (f : Nat → DWord) :
    VPairWritten w (w.setVP d m f) d m f := by
  intro r p hp
  unfold Warp.setVP
  rw [Warp.vr_setV _ _ _ _ _ _ hp, Warp.vr_setV _ _ _ _ _ _ hp]
  by_cases h1 : r = d
  · subst h1
    simp
  · simp [h1]

theorem kWritten_setK (w : Warp) (d : Nat) (x : DWord) : KWritten w (w.setK d x) d x :=
  fun r => Store.get_set w.k d x r

theorem eWritten_setE (w : Warp) (d : Nat) (f : Nat → Byte) : EWritten w (w.setE d f) d f := by
  intro r i hi
  show Store.get 0 (w.setE d f).e (r * 32 + i) = _
  rw [Warp.setE_e, Store.get_setBlock]
  by_cases h : r = d
  · subst h
    rw [if_pos ((in_block hi).2 rfl), Nat.add_sub_cancel_left, if_pos rfl]
  · rw [if_neg (fun e => h ((in_block hi).1 e)), if_neg h]
    rfl

theorem foldr_bits (f : Nat → Bool) (l : List Nat) (j : Nat) :
    (l.foldr (fun t n => n * 2 + (if f t then 1 else 0)) 0).testBit j = (l[j]?.map f).getD false := by
  induction l generalizing j with
  | nil => simp
  | cons t r ih =>
    cases j with
    | zero =>
      rw [List.foldr_cons, Nat.testBit_zero]
      cases h : f t <;> simp [h] <;> omega
    | succ j =>
      rw [List.foldr_cons, Nat.testBit_succ]
      have : ∀ n, (n * 2 + (if f t then 1 else 0)) / 2 = n := by intro n; cases f t <;> simp <;> omega
      rw [this, ih]
      simp

/-- Bit `p` of a mask given by a function. -/
theorem maskOf_bit (f : Nat → Bool) (p : Nat) (hp : p < 128) : (maskOf f).getLsbD p = f p := by
  unfold maskOf
  rw [BitVec.getLsbD_ofNat, foldr_bits]
  simp [hp]

theorem pWritten_setP (w : Warp) (d : Nat) (m x : Mask) : PWritten w (w.setP d m x) d m fun p => x.getLsbD p := by
  intro r p hp
  unfold Warp.setP
  by_cases hd : d = 0
  · rw [if_pos hd, if_neg (by omega)]
  · rw [if_neg hd]
    by_cases h : r = d
    · subst h
      simp only [Warp.pr, hd, if_false, Store.get_set, if_true, BitVec.getLsbD_or, BitVec.getLsbD_and, BitVec.getLsbD_not, hp,
        decide_true, Bool.true_and, ne_eq, not_false_eq_true, true_and]
      by_cases hm : m.getLsbD p = true <;> simp [hm]
    · rw [if_neg (fun e => h e.1)]
      simp only [Warp.pr, Store.get_set, if_neg h]

theorem latched_latch (w : Warp) (f : Nat → DWord) : Latched w (w.latch f) f := by
  refine ⟨rfl, fun p hp => ⟨?_, fun n hn => ?_⟩⟩
  · show Store.get 0 (w.latch f).lat (0 * 128 + p) = _
    rw [Warp.latch_lat, Store.get_setBlock, if_pos (by omega), if_pos (by omega)]
    congr 1
    omega
  · show Store.get 0 (w.latch f).lat ((n + 1) * 128 + p) = Store.get 0 w.lat (n * 128 + p)
    rw [Warp.latch_lat, Store.get_setBlock, if_pos (by omega), if_neg (by omega)]
    congr 1
    omega

theorem kWritten_same (w w1 : Warp) (d : Nat) (h : w1.k = w.k) : KWritten w w1 d (w.kr d) := by
  intro r
  unfold Warp.kr
  rw [h]
  split
  · rename_i e
    rw [e]
  · rfl

/-! ### Results -/

/-- What `Warp.result` changes. -/
theorem Warp.result_spec (w : Warp) (nw : Bool) (d : Nat) (m : Mask) (f : Nat → Word) :
    w.result nw d m f = { w with v := (w.result nw d m f).v, lat := (w.result nw d m f).lat, latN := (w.result nw d m f).latN }
      ∧ (if nw then (w.result nw d m f).v = w.v else VWritten w (w.result nw d m f) d m f)
      ∧ Latched w (w.result nw d m f) fun p =>
          if m.getLsbD p then (f p).zeroExtend 64 else if nw then 0 else (w.vr d p).zeroExtend 64 := by
  cases nw
  · exact ⟨rfl, vWritten_setV w d m f, latched_latch _ _⟩
  · exact ⟨rfl, rfl, latched_latch _ _⟩

/-- What `Warp.resultPair` changes. -/
theorem Warp.resultPair_spec (w : Warp) (nw : Bool) (d : Nat) (m : Mask) (f : Nat → DWord) :
    w.resultPair nw d m f =
        { w with v := (w.resultPair nw d m f).v, lat := (w.resultPair nw d m f).lat, latN := (w.resultPair nw d m f).latN }
      ∧ (if nw then (w.resultPair nw d m f).v = w.v else VPairWritten w (w.resultPair nw d m f) d m f)
      ∧ Latched w (w.resultPair nw d m f) fun p => if m.getLsbD p then f p else if nw then 0 else w.vp d p := by
  cases nw
  · exact ⟨rfl, vPairWritten_setVP w d m f, latched_latch _ _⟩
  · exact ⟨rfl, rfl, latched_latch _ _⟩

/-! ### Shapes -/

theorem alu_next {s : State} {w : Warp} {i : Instr} {refs : List Ref} {u nw : Bool} {d : BitVec 7} {g : Option Guard}
    {vec : Warp → Nat → Word} {uni : Warp → DWord} (h : Issues s w (refs ++ refD u nw d)) :
    ∃ t, s.alu i refs u nw d g vec uni = .next t
      ∧ AluResult s w t u nw d.toNat (w.exec g) (vec w.woken) (uni w.woken) 0 := by
  refine ⟨_, issue_next h, ?_⟩
  show AluResult s w (State.advance _ s.cur) u nw d.toNat (w.exec g) (vec w.woken) (uni w.woken) 0
  show AluResult s w (State.advance (if u then (if w.exec g = 0 then s.readied w
    else (s.readied w).putWarp (s.readied w).cur (w.woken.setK d.toNat (uni w.woken)))
    else (s.readied w).putWarp (s.readied w).cur (w.woken.result nw d.toNat (w.exec g) (vec w.woken))) s.cur) u nw d.toNat
    (w.exec g) (vec w.woken) (uni w.woken) 0
  rw [State.readied_cur, State.readied_put, State.readied_put]
  unfold AluResult
  cases u
  · refine ⟨_, retires_put s _, ?_⟩
    obtain ⟨h1, h2, h3⟩ := w.woken.result_spec nw d.toNat (w.exec g) (vec w.woken)
    refine ⟨?_, h2, h3⟩
    refine h1.trans ?_
    simp [Warp.woken]
  · by_cases hm : w.exec g = 0
    · rw [hm]
      exact ⟨_, retires_readied h.warp, rfl, kWritten_same w _ _ rfl⟩
    · simp only [if_neg hm, if_true]
      refine ⟨_, retires_put s _, ?_, kWritten_setK w.woken _ _⟩
      simp [Warp.woken, Warp.setK]

theorem aluPair_next {s : State} {w : Warp} {i : Instr} {refs : List Ref} {u nw : Bool} {d : BitVec 7} {g : Option Guard}
    {vec : Warp → Nat → DWord} {uni : Warp → DWord} (h : Issues s w (refs ++ refPairD u nw d)) :
    ∃ t, s.aluPair i refs u nw d g vec uni = .next t
      ∧ PairResult s w t u nw d.toNat (w.exec g) (vec w.woken) (uni w.woken) := by
  refine ⟨_, issue_next h, ?_⟩
  show PairResult s w (State.advance (if u then (if w.exec g = 0 then s.readied w
    else (s.readied w).putWarp (s.readied w).cur (w.woken.setK d.toNat (uni w.woken)))
    else (s.readied w).putWarp (s.readied w).cur (w.woken.resultPair nw d.toNat (w.exec g) (vec w.woken))) s.cur) u nw d.toNat
    (w.exec g) (vec w.woken) (uni w.woken)
  rw [State.readied_cur, State.readied_put, State.readied_put]
  unfold PairResult
  cases u
  · refine ⟨_, retires_put s _, ?_⟩
    obtain ⟨h1, h2, h3⟩ := w.woken.resultPair_spec nw d.toNat (w.exec g) (vec w.woken)
    refine ⟨?_, h2, h3⟩
    refine h1.trans ?_
    simp [Warp.woken]
  · by_cases hm : w.exec g = 0
    · rw [hm]
      exact ⟨_, retires_readied h.warp, rfl, kWritten_same w _ _ rfl⟩
    · simp only [if_neg hm, if_true]
      refine ⟨_, retires_put s _, ?_, kWritten_setK w.woken _ _⟩
      simp [Warp.woken, Warp.setK]

theorem aluF_next {s : State} {w : Warp} {i : Instr} {refs : List Ref} {u nw : Bool} {d : BitVec 7} {g : Option Guard}
    {vec : Warp → Nat → Word × FFlags} {uni : Warp → Word × FFlags} (h : Issues s w (refs ++ refD u nw d)) :
    ∃ t, s.aluF i refs u nw d g vec uni = .next t
      ∧ AluResult s w t u nw d.toNat (w.exec g) (fun p => (vec w.woken p).1) ((uni w.woken).1.zeroExtend 64)
        (if u then (uni w.woken).2 else flagsOver (w.exec g) fun p => (vec w.woken p).2) := by
  refine ⟨_, issue_next h, ?_⟩
  show AluResult s w (State.advance (if u then (if w.exec g = 0 then s.readied w
    else (s.readied w).putWarp (s.readied w).cur ((w.woken.setK d.toNat ((uni w.woken).1.zeroExtend 64)).raise (uni w.woken).2))
    else (s.readied w).putWarp (s.readied w).cur ((w.woken.result nw d.toNat (w.exec g) fun t => (vec w.woken t).1).raise
      (flagsOver (w.exec g) fun t => (vec w.woken t).2))) s.cur) u nw d.toNat (w.exec g) _ _ _
  rw [State.readied_cur, State.readied_put, State.readied_put]
  unfold AluResult
  cases u
  · refine ⟨_, retires_put s _, ?_⟩
    obtain ⟨h1, h2, h3⟩ := w.woken.result_spec nw d.toNat (w.exec g) fun t => (vec w.woken t).1
    refine ⟨?_, h2, h3⟩
    unfold Warp.raise
    rw [h1]
    simp [Warp.woken]
  · by_cases hm : w.exec g = 0
    · rw [hm]
      exact ⟨_, retires_readied h.warp, rfl, kWritten_same w _ _ rfl⟩
    · simp only [if_neg hm, if_true]
      refine ⟨_, retires_put s _, ?_, kWritten_setK w.woken _ _⟩
      simp [Warp.woken, Warp.setK, Warp.raise]

end Sys2Proof.Machine
end

