-- ==== Sys2Proof/Laws/Formats.lean ====
section
/-! SUPPORT. Every format and second word is read back from its packing (Tables 8.2 to 8.10). -/

set_option linter.all false

namespace Sys2Proof

theorem slice_high {m n : Nat} (a : BitVec m) (b : BitVec n) (i k : Nat) (h : n ≤ i) :
    (a ++ b).extractLsb' i k = a.extractLsb' (i - n) k := by
  ext j hj
  simp only [BitVec.getElem_extractLsb', BitVec.getLsbD_append]
  rw [if_neg (by omega), show i + j - n = i - n + j by omega]

theorem slice_low {m n : Nat} (a : BitVec m) (b : BitVec n) (i k : Nat) (h : i + k ≤ n) :
    (a ++ b).extractLsb' i k = b.extractLsb' i k := by
  ext j hj
  simp only [BitVec.getElem_extractLsb', BitVec.getLsbD_append]
  rw [if_pos (by omega)]

theorem slice_self {n : Nat} (a : BitVec n) : a.extractLsb' 0 n = a := by
  ext j hj
  simp

theorem bit_high {m n : Nat} (a : BitVec m) (b : BitVec n) (i : Nat) (h : n ≤ i) :
    (a ++ b).getLsbD i = a.getLsbD (i - n) := by rw [BitVec.getLsbD_append, if_neg (by omega)]

theorem bit_low {m n : Nat} (a : BitVec m) (b : BitVec n) (i : Nat) (h : i < n) :
    (a ++ b).getLsbD i = b.getLsbD i := by rw [BitVec.getLsbD_append, if_pos h]

theorem bit_ofBool (b : Bool) : (BitVec.ofBool b).getLsbD 0 = b := by cases b <;> rfl

/-! ### First words -/

theorem FmtA.op_pack (f : FmtA) (op : BitVec 6) : opOf (f.pack op) = op.toNat := by
  rw [opOf, FmtA.pack, slice_low _ _ _ _ (by decide), slice_self]

theorem FmtA.parse_pack (f : FmtA) (op : BitVec 6) : FmtA.parse (f.pack op) = f := by
  unfold FmtA.parse FmtA.pack
  rw [FmtA.mk.injEq]
  refine ⟨?_, ?_, ?_, ?_, ?_, ?_⟩ <;>
    (
      repeat first
        | rw [slice_high _ _ _ _ (by decide)]
        | rw [slice_low _ _ _ _ (by decide)]
        | rw [bit_high _ _ _ (by decide)]
        | rw [bit_low _ _ _ (by decide)]
      first | exact slice_self _ | exact bit_ofBool _)

theorem FmtI.op_pack (f : FmtI) (op : BitVec 6) : opOf (f.pack op) = op.toNat := by
  rw [opOf, FmtI.pack, slice_low _ _ _ _ (by decide), slice_self]

theorem FmtI.parse_pack (f : FmtI) (op : BitVec 6) : FmtI.parse (f.pack op) = f := by
  unfold FmtI.parse FmtI.pack
  rw [FmtI.mk.injEq]
  refine ⟨?_, ?_, ?_, ?_, ?_⟩ <;>
    (
      repeat first
        | rw [slice_high _ _ _ _ (by decide)]
        | rw [slice_low _ _ _ _ (by decide)]
        | rw [bit_high _ _ _ (by decide)]
        | rw [bit_low _ _ _ (by decide)]
      first | exact slice_self _ | exact bit_ofBool _)

theorem FmtM.op_pack (f : FmtM) (op : BitVec 6) : opOf (f.pack op) = op.toNat := by
  rw [opOf, FmtM.pack, slice_low _ _ _ _ (by decide), slice_self]

theorem FmtM.parse_pack (f : FmtM) (op : BitVec 6) : FmtM.parse (f.pack op) = f := by
  unfold FmtM.parse FmtM.pack
  rw [FmtM.mk.injEq]
  refine ⟨?_, ?_, ?_, ?_, ?_, ?_, ?_⟩ <;>
    (
      repeat first
        | rw [slice_high _ _ _ _ (by decide)]
        | rw [slice_low _ _ _ _ (by decide)]
        | rw [bit_high _ _ _ (by decide)]
        | rw [bit_low _ _ _ (by decide)]
      first | exact slice_self _ | exact bit_ofBool _)

theorem FmtE.op_pack (f : FmtE) (op : BitVec 6) : opOf (f.pack op) = op.toNat := by
  rw [opOf, FmtE.pack, slice_low _ _ _ _ (by decide), slice_self]

theorem FmtE.parse_pack (f : FmtE) (op : BitVec 6) : FmtE.parse (f.pack op) = f := by
  unfold FmtE.parse FmtE.pack
  rw [FmtE.mk.injEq]
  refine ⟨?_, ?_, ?_, ?_, ?_⟩ <;>
    (
      repeat first
        | rw [slice_high _ _ _ _ (by decide)]
        | rw [slice_low _ _ _ _ (by decide)]
        | rw [bit_high _ _ _ (by decide)]
        | rw [bit_low _ _ _ (by decide)]
      first | exact slice_self _ | exact bit_ofBool _)

theorem FmtQ.op_pack (f : FmtQ) (op : BitVec 6) : opOf (f.pack op) = op.toNat := by
  rw [opOf, FmtQ.pack, slice_low _ _ _ _ (by decide), slice_self]

theorem FmtQ.parse_pack (f : FmtQ) (op : BitVec 6) : FmtQ.parse (f.pack op) = f := by
  unfold FmtQ.parse FmtQ.pack
  rw [FmtQ.mk.injEq]
  refine ⟨?_, ?_, ?_, ?_, ?_, ?_⟩ <;>
    (
      repeat first
        | rw [slice_high _ _ _ _ (by decide)]
        | rw [slice_low _ _ _ _ (by decide)]
        | rw [bit_high _ _ _ (by decide)]
        | rw [bit_low _ _ _ (by decide)]
      first | exact slice_self _ | exact bit_ofBool _)

theorem FmtC.op_pack (f : FmtC) (op : BitVec 6) : opOf (f.pack op) = op.toNat := by
  rw [opOf, FmtC.pack, slice_low _ _ _ _ (by decide), slice_self]

theorem FmtC.parse_pack (f : FmtC) (op : BitVec 6) : FmtC.parse (f.pack op) = f := by
  unfold FmtC.parse FmtC.pack
  rw [FmtC.mk.injEq]
  refine ⟨?_, ?_, ?_, ?_⟩ <;>
    (
      repeat first
        | rw [slice_high _ _ _ _ (by decide)]
        | rw [slice_low _ _ _ _ (by decide)]
        | rw [bit_high _ _ _ (by decide)]
        | rw [bit_low _ _ _ (by decide)]
      first | exact slice_self _ | exact bit_ofBool _)

theorem FmtS.op_pack (f : FmtS) (op : BitVec 6) : opOf (f.pack op) = op.toNat := by
  rw [opOf, FmtS.pack, slice_low _ _ _ _ (by decide), slice_self]

theorem FmtS.parse_pack (f : FmtS) (op : BitVec 6) : FmtS.parse (f.pack op) = f := by
  unfold FmtS.parse FmtS.pack
  rw [FmtS.mk.injEq]
  refine ⟨?_, ?_, ?_⟩ <;>
    (
      repeat first
        | rw [slice_high _ _ _ _ (by decide)]
        | rw [slice_low _ _ _ _ (by decide)]
        | rw [bit_high _ _ _ (by decide)]
        | rw [bit_low _ _ _ (by decide)]
      first | exact slice_self _ | exact bit_ofBool _)

theorem FmtM.top_pack (f : FmtM) (op : BitVec 6) : (f.pack op)[31] = false := by
  rw [← BitVec.getLsbD_eq_getElem]
  unfold FmtM.pack
  repeat first
    | rw [slice_high _ _ _ _ (by decide)]
    | rw [slice_low _ _ _ _ (by decide)]
    | rw [bit_high _ _ _ (by decide)]
    | rw [bit_low _ _ _ (by decide)]
  rfl

theorem FmtC.top_pack (f : FmtC) (op : BitVec 6) : (f.pack op)[31] = false := by
  rw [← BitVec.getLsbD_eq_getElem]
  unfold FmtC.pack
  repeat first
    | rw [slice_high _ _ _ _ (by decide)]
    | rw [slice_low _ _ _ _ (by decide)]
    | rw [bit_high _ _ _ (by decide)]
    | rw [bit_low _ _ _ (by decide)]
  rfl

/-! ### Second words -/

theorem Guard.parse_pack_word {n : Nat} (g : Guard) (b : BitVec n) (w : Word) (hn : n = 27)
    (h : w.extractLsb' 27 5 = g.pack) : Guard.parse w = g := by
  have e : ∀ i, i < 5 → w.getLsbD (27 + i) = g.pack.getLsbD i := by
    intro i hi
    rw [← h, BitVec.getLsbD_extractLsb']
    simp [hi]
  have e3 : w.extractLsb' 28 3 = g.pack.extractLsb' 1 3 := by
    ext j hj
    simp only [BitVec.getElem_extractLsb']
    rw [show 28 + j = 27 + (1 + j) by omega, e _ (by omega)]
  unfold Guard.parse
  rw [show w.getLsbD 31 = _ from e 4 (by decide), show w.getLsbD 27 = _ from e 0 (by decide), e3]
  unfold Guard.pack
  obtain ⟨gn, gp, ge⟩ := g
  rw [Guard.mk.injEq]
  refine ⟨?_, ?_, ?_⟩ <;>
    (
      repeat first
        | rw [slice_high _ _ _ _ (by decide)]
        | rw [slice_low _ _ _ _ (by decide)]
        | rw [bit_high _ _ _ (by decide)]
        | rw [bit_low _ _ _ (by decide)]
      first | exact slice_self _ | exact bit_ofBool _)

theorem XR.parse_pack (x : XR) : XR.parse x.pack = x := by
  have g : Guard.parse x.pack = x.g := by
    refine Guard.parse_pack_word x.g (0 : BitVec 27) _ rfl ?_
    unfold XR.pack
    repeat first
      | rw [slice_high _ _ _ _ (by decide)]
      | rw [slice_low _ _ _ _ (by decide)]
      | rw [bit_high _ _ _ (by decide)]
      | rw [bit_low _ _ _ (by decide)]
    exact slice_self _
  unfold XR.parse
  rw [g]
  unfold XR.pack
  obtain ⟨xg, m2, kc, kb, c, pb, pa⟩ := x
  rw [XR.mk.injEq]
  refine ⟨rfl, ?_, ?_, ?_, ?_, ?_, ?_⟩ <;>
    (
      repeat first
        | rw [slice_high _ _ _ _ (by decide)]
        | rw [slice_low _ _ _ _ (by decide)]
        | rw [bit_high _ _ _ (by decide)]
        | rw [bit_low _ _ _ (by decide)]
      first | exact slice_self _ | exact bit_ofBool _)

theorem XT.parse_pack (x : XT) : XT.parse x.pack = .ok x := by
  have g : Guard.parse x.pack = x.g := by
    refine Guard.parse_pack_word x.g (0 : BitVec 27) _ rfl ?_
    unfold XT.pack
    repeat first
      | rw [slice_high _ _ _ _ (by decide)]
      | rw [slice_low _ _ _ _ (by decide)]
      | rw [bit_high _ _ _ (by decide)]
      | rw [bit_low _ _ _ (by decide)]
    exact slice_self _
  have z : (BitVec.extractLsb' 23 4 x.pack) = 0 := by
    unfold XT.pack
    repeat first
      | rw [slice_high _ _ _ _ (by decide)]
      | rw [slice_low _ _ _ _ (by decide)]
      | rw [bit_high _ _ _ (by decide)]
      | rw [bit_low _ _ _ (by decide)]
    first | exact slice_self _ | rfl
  unfold XT.parse
  rw [if_pos z, g]
  unfold XT.pack
  obtain ⟨xg, c, sel, sat, rnd, t2, t1⟩ := x
  rw [Except.ok.injEq, XT.mk.injEq]
  refine ⟨rfl, ?_, ?_, ?_, ?_, ?_, ?_⟩ <;>
    (
      repeat first
        | rw [slice_high _ _ _ _ (by decide)]
        | rw [slice_low _ _ _ _ (by decide)]
        | rw [bit_high _ _ _ (by decide)]
        | rw [bit_low _ _ _ (by decide)]
      first | exact slice_self _ | exact bit_ofBool _)

theorem XM.parse_pack (x : XM) : XM.parse x.pack = .ok x := by
  have g : Guard.parse x.pack = x.g := by
    refine Guard.parse_pack_word x.g (0 : BitVec 27) _ rfl ?_
    unfold XM.pack
    repeat first
      | rw [slice_high _ _ _ _ (by decide)]
      | rw [slice_low _ _ _ _ (by decide)]
      | rw [bit_high _ _ _ (by decide)]
      | rw [bit_low _ _ _ (by decide)]
    exact slice_self _
  have z : x.pack.getLsbD 26 = false := by
    unfold XM.pack
    repeat first
      | rw [slice_high _ _ _ _ (by decide)]
      | rw [slice_low _ _ _ _ (by decide)]
      | rw [bit_high _ _ _ (by decide)]
      | rw [bit_low _ _ _ (by decide)]
    first | exact slice_self _ | rfl
  unfold XM.parse
  rw [if_pos z, g]
  unfold XM.pack
  obtain ⟨xg, scope, order, off⟩ := x
  rw [Except.ok.injEq, XM.mk.injEq]
  refine ⟨rfl, ?_, ?_, ?_⟩ <;>
    (
      repeat first
        | rw [slice_high _ _ _ _ (by decide)]
        | rw [slice_low _ _ _ _ (by decide)]
        | rw [bit_high _ _ _ (by decide)]
        | rw [bit_low _ _ _ (by decide)]
      first | exact slice_self _ | exact bit_ofBool _)

theorem XG.parse_pack (x : XG) : XG.parse x.pack = .ok x := by
  have g : Guard.parse x.pack = x.g := by
    refine Guard.parse_pack_word x.g (0 : BitVec 27) _ rfl ?_
    unfold XG.pack
    repeat first
      | rw [slice_high _ _ _ _ (by decide)]
      | rw [slice_low _ _ _ _ (by decide)]
      | rw [bit_high _ _ _ (by decide)]
      | rw [bit_low _ _ _ (by decide)]
    exact slice_self _
  have z : x.pack.getLsbD 26 = false := by
    unfold XG.pack
    repeat first
      | rw [slice_high _ _ _ _ (by decide)]
      | rw [slice_low _ _ _ _ (by decide)]
      | rw [bit_high _ _ _ (by decide)]
      | rw [bit_low _ _ _ (by decide)]
    first | exact slice_self _ | rfl
  unfold XG.parse
  rw [if_pos z, g]
  unfold XG.pack
  obtain ⟨xg, scope, order, off, shift, base⟩ := x
  rw [Except.ok.injEq, XG.mk.injEq]
  refine ⟨rfl, ?_, ?_, ?_, ?_, ?_⟩ <;>
    (
      repeat first
        | rw [slice_high _ _ _ _ (by decide)]
        | rw [slice_low _ _ _ _ (by decide)]
        | rw [bit_high _ _ _ (by decide)]
        | rw [bit_low _ _ _ (by decide)]
      first | exact slice_self _ | exact bit_ofBool _)

theorem XH.parse_pack (x : XH) : XH.parse x.pack = .ok x := by
  have g : Guard.parse x.pack = x.g := by
    refine Guard.parse_pack_word x.g (0 : BitVec 27) _ rfl ?_
    unfold XH.pack
    repeat first
      | rw [slice_high _ _ _ _ (by decide)]
      | rw [slice_low _ _ _ _ (by decide)]
      | rw [bit_high _ _ _ (by decide)]
      | rw [bit_low _ _ _ (by decide)]
    exact slice_self _
  have z : (BitVec.extractLsb' 7 20 x.pack) = 0 := by
    unfold XH.pack
    repeat first
      | rw [slice_high _ _ _ _ (by decide)]
      | rw [slice_low _ _ _ _ (by decide)]
      | rw [bit_high _ _ _ (by decide)]
      | rw [bit_low _ _ _ (by decide)]
    first | exact slice_self _ | rfl
  unfold XH.parse
  rw [if_pos z, g]
  unfold XH.pack
  obtain ⟨xg, ks⟩ := x
  rw [Except.ok.injEq, XH.mk.injEq]
  refine ⟨rfl, ?_⟩ <;>
    (
      repeat first
        | rw [slice_high _ _ _ _ (by decide)]
        | rw [slice_low _ _ _ _ (by decide)]
        | rw [bit_high _ _ _ (by decide)]
        | rw [bit_low _ _ _ (by decide)]
      first | exact slice_self _ | exact bit_ofBool _)

theorem XQ.parse_pack (x : XQ) : XQ.parse x.pack = .ok x := by
  have g : Guard.parse x.pack = x.g := by
    refine Guard.parse_pack_word x.g (0 : BitVec 27) _ rfl ?_
    unfold XQ.pack
    repeat first
      | rw [slice_high _ _ _ _ (by decide)]
      | rw [slice_low _ _ _ _ (by decide)]
      | rw [bit_high _ _ _ (by decide)]
      | rw [bit_low _ _ _ (by decide)]
    exact slice_self _
  have z : (BitVec.extractLsb' 20 7 x.pack) = 0 := by
    unfold XQ.pack
    repeat first
      | rw [slice_high _ _ _ _ (by decide)]
      | rw [slice_low _ _ _ _ (by decide)]
      | rw [bit_high _ _ _ (by decide)]
      | rw [bit_low _ _ _ (by decide)]
    first | exact slice_self _ | rfl
  unfold XQ.parse
  rw [if_pos z, g]
  unfold XQ.pack
  obtain ⟨xg, rnd, k, t2, share, btype⟩ := x
  rw [Except.ok.injEq, XQ.mk.injEq]
  refine ⟨rfl, ?_, ?_, ?_, ?_, ?_⟩ <;>
    (
      repeat first
        | rw [slice_high _ _ _ _ (by decide)]
        | rw [slice_low _ _ _ _ (by decide)]
        | rw [bit_high _ _ _ (by decide)]
        | rw [bit_low _ _ _ (by decide)]
      first | exact slice_self _ | exact bit_ofBool _)

theorem XD.parse_pack (x : XD) : XD.parse x.pack = .ok x := by
  have z : (BitVec.extractLsb' 12 20 x.pack) = 0 := by
    unfold XD.pack
    repeat first
      | rw [slice_high _ _ _ _ (by decide)]
      | rw [slice_low _ _ _ _ (by decide)]
      | rw [bit_high _ _ _ (by decide)]
      | rw [bit_low _ _ _ (by decide)]
    first | exact slice_self _ | rfl
  unfold XD.parse
  rw [if_pos z]
  unfold XD.pack
  obtain ⟨m, l⟩ := x
  rw [Except.ok.injEq, XD.mk.injEq]
  refine ⟨?_, ?_⟩ <;>
    (
      repeat first
        | rw [slice_high _ _ _ _ (by decide)]
        | rw [slice_low _ _ _ _ (by decide)]
        | rw [bit_high _ _ _ (by decide)]
        | rw [bit_low _ _ _ (by decide)]
      exact slice_self _)

end Sys2Proof
end

