-- ==== Sys2Proof/Laws/Memory.lean ====
section
/-! SUPPORT. Memory: a byte read after a write, and the canonical form that every memory operation and every shared
operation of `Mem`, `Home` and `Ops` keeps. -/

namespace Sys2Proof.Machine

/-! ### A byte after a write -/

/-- R117: a byte read after a write of raw bytes is the byte written, and every other byte is as before. -/
theorem State.byte_wrRaw (s : State) (a : Nat) (l : List Byte) (b : Nat) :
    (s.wrRaw a l).byte b = if a ≤ b ∧ b < a + l.length then l.getD (b - a) 0 else s.byte b :=
  Store.get_setBlock s.mem a l.length (fun i => l.getD i 0) b

@[simp] theorem State.byte_keepStale (s : State) (a n b : Nat) : (s.keepStale a n).byte b = s.byte b := by
  unfold State.keepStale; split <;> rfl

/-- R119: a byte read after a write at its home. -/
theorem State.byte_wrBytes (s : State) (a : Nat) (l : List Byte) (b : Nat) :
    (s.wrBytes a l).byte b = if a ≤ b ∧ b < a + l.length then l.getD (b - a) 0 else s.byte b := by
  rw [State.wrBytes, State.byte_wrRaw, State.byte_keepStale]

theorem State.byte_wrAt (s : State) (t : Trans) (l : List Byte) (b : Nat) :
    (s.wrAt t l).byte b = if t.key ≤ b ∧ b < t.key + l.length then l.getD (b - t.key) 0 else s.byte b := by
  unfold State.wrAt; split
  · exact State.byte_wrRaw s t.key l b
  · exact State.byte_wrBytes s t.key l b

/-- A write leaves every byte outside it. -/
theorem State.byte_wrRaw_other {s : State} {a : Nat} {l : List Byte} {b : Nat} (h : b < a ∨ a + l.length ≤ b) :
    (s.wrRaw a l).byte b = s.byte b := by
  rw [State.byte_wrRaw, if_neg (by omega)]

/-! ### The canonical form -/

theorem State.memWf_iff {s : State} : s.memWf = true ↔ Store.wf 0 s.mem = true ∧ Store.wf 0 s.side = true := by
  simp [State.memWf, Memory.wf]

/-- An update that touches neither memory nor sidebands keeps the form. -/
theorem State.memWf_same {s t : State} (hm : t.mem = s.mem) (hs : t.side = s.side) : t.memWf = s.memWf := by
  simp [State.memWf, hm, hs]

theorem State.memWf_ite {c : Prop} [Decidable c] {s t : State} (hs : s.memWf = true) (ht : t.memWf = true) :
    (if c then s else t).memWf = true := by split <;> assumption

theorem State.memWf_qops {s : State} (h : s.memWf = true) (q : Table QOp) : ({ s with qops := q } : State).memWf = true := h

theorem State.memWf_homes {s : State} (h : s.memWf = true) (q : Table QHome) : ({ s with homes := q } : State).memWf = true := h

theorem State.memWf_fresh {s : State} (h : s.memWf = true) (n : Nat) : ({ s with fresh := n } : State).memWf = true := h

theorem State.reset_memWf : State.reset.memWf = true := by decide

theorem State.memWf_wrRaw {s : State} (h : s.memWf = true) (a : Nat) (l : List Byte) : (s.wrRaw a l).memWf = true := by
  rw [State.memWf_iff] at h ⊢
  exact ⟨Store.wf_setBlock h.1 _ _ _, h.2⟩

theorem State.memWf_keepStale {s : State} (h : s.memWf = true) (a n : Nat) : (s.keepStale a n).memWf = true := by
  unfold State.keepStale; split <;> exact h

theorem State.memWf_wrBytes {s : State} (h : s.memWf = true) (a : Nat) (l : List Byte) : (s.wrBytes a l).memWf = true :=
  State.memWf_wrRaw (State.memWf_keepStale h _ _) _ _

theorem State.memWf_wrNum {s : State} (h : s.memWf = true) (a n x : Nat) : (s.wrNum a n x).memWf = true :=
  State.memWf_wrBytes h _ _

theorem State.memWf_wrSide {s : State} (h : s.memWf = true) (a : Nat) (l : List (Nat × Byte)) :
    (s.wrSide a l).memWf = true := by
  rw [State.memWf_iff] at h ⊢
  exact ⟨h.1, Store.wf_foldl_set l (fun p => a / 128 * 8 + p.1) (fun _ p => p.2) h.2⟩

theorem State.memWf_l2Clean {s : State} (h : s.memWf = true) (lo hi : Nat) : (s.l2Clean lo hi).memWf = true := h

theorem State.memWf_l2Drop {s : State} (h : s.memWf = true) (lo hi : Nat) : (s.l2Drop lo hi).memWf = true := by
  rw [State.memWf_iff] at h
  refine State.memWf_l2Clean (State.memWf_iff.2 ⟨?_, ?_⟩) lo hi
  · exact Store.wf_foldl_set _ (fun p : Nat × Byte => p.1) (fun _ p => p.2) h.1
  · exact Store.wf_foldl_set _ (fun p : Nat × Byte => p.1) (fun _ p => p.2) h.2

theorem State.memWf_clearFailed {s : State} (h : s.memWf = true) (a : Nat) : (s.clearFailed a).memWf = true := h

/-- A fold of operations that keep the form keeps it. -/
theorem State.memWf_foldl {β : Type} (f : State → β → State) (hf : ∀ s b, s.memWf = true → (f s b).memWf = true)
    (l : List β) {s : State} (h : s.memWf = true) : (l.foldl f s).memWf = true := by
  induction l generalizing s with
  | nil => exact h
  | cons b r ih => exact ih (hf s b h)

theorem State.memWf_l1 {s : State} (h : s.memWf = true) (m : Table (Byte × DWord)) : ({ s with l1 := m } : State).memWf = true := h

theorem State.memWf_dropLoose {s : State} (h : s.memWf = true) (who : Nat → Bool) (lo hi : Nat) :
    (s.dropLoose who lo hi).memWf = true := h

theorem State.memWf_writeBack {s : State} (h : s.memWf = true) (who : Nat → Bool) (lo hi : Nat) :
    (s.writeBack who lo hi).memWf = true :=
  State.memWf_l1 (State.memWf_foldl _ (fun _ _ hs => State.memWf_wrBytes hs _ _) _ h) _

theorem State.memWf_tlb {s : State} (h : s.memWf = true) (m : List TlbEntry) : ({ s with tlb := m } : State).memWf = true := h

theorem State.memWf_touch {s : State} (h : s.memWf = true) (t : Trans) (wr : Bool) : (s.touch t wr).memWf = true := by
  unfold State.touch
  dsimp only
  refine State.memWf_ite h ?_
  exact State.memWf_tlb (State.memWf_wrNum (State.memWf_writeBack h _ _ _) _ _ _) _

theorem State.memWf_writeAt {s : State} (h : s.memWf = true) (slot : Nat) (t : Trans) (va : DWord) (plain : Bool)
    (l : List Byte) : (s.writeAt slot t va plain l).memWf = true := by
  unfold State.writeAt
  split
  · exact h
  · split
    · exact State.memWf_wrRaw h _ _
    · exact State.memWf_wrBytes h _ _

theorem State.memWf_wrAt {s : State} (h : s.memWf = true) (t : Trans) (l : List Byte) : (s.wrAt t l).memWf = true := by
  unfold State.wrAt
  split
  · exact State.memWf_wrRaw h _ _
  · exact State.memWf_wrBytes h _ _

theorem State.memWf_writeUnits (l : List Trans) {s : State} (h : s.memWf = true) (b : List Byte) :
    (s.writeUnits l b).memWf = true := by
  induction l generalizing s b with
  | nil => exact h
  | cons t r ih => exact ih (State.memWf_wrAt (State.memWf_touch h _ _) _ _) _

theorem State.memWf_touchAll (l : List Trans) {s : State} (h : s.memWf = true) (wr : Bool) : (s.touchAll l wr).memWf = true :=
  State.memWf_foldl _ (fun s t hs => State.memWf_touch hs t wr) l h

/-! ### Operations on warps, blocks and compartments -/

theorem State.memWf_putWarp {s : State} (h : s.memWf = true) (id : Nat) (w : Warp) : (s.putWarp id w).memWf = true := h

theorem State.memWf_mapWarp {s : State} (h : s.memWf = true) (id : Nat) (f : Warp → Warp) : (s.mapWarp id f).memWf = true := by
  unfold State.mapWarp; split <;> exact h

theorem State.memWf_mapBlock {s : State} (h : s.memWf = true) (id : Nat) (f : Block → Block) :
    (s.mapBlock id f).memWf = true := by
  unfold State.mapBlock; split <;> exact h

theorem State.memWf_mapComp {s : State} (h : s.memWf = true) (c : Nat) (f : Comp → Comp) : (s.mapComp c f).memWf = true := h

theorem State.memWf_mapCtx {s : State} (h : s.memWf = true) (cmp ctx : Nat) (f : Ctx → Ctx) :
    (s.mapCtx cmp ctx f).memWf = true := by
  unfold State.mapCtx; split <;> exact h

theorem State.memWf_tick1 {s : State} (h : s.memWf = true) : s.tick1.memWf = true := h

theorem State.memWf_bumpGen {s : State} (h : s.memWf = true) (slot : Nat) : (s.bumpGen slot).memWf = true := h

theorem State.memWf_block {s : State} (h : s.memWf = true) (id : Nat) (why : Wait) : (s.block id why).memWf = true :=
  State.memWf_mapWarp h _ _

theorem State.memWf_countDrop {s : State} (h : s.memWf = true) (slot : Nat) : (s.countDrop slot).memWf = true := by
  unfold State.countDrop
  exact h

theorem State.memWf_yieldWarp {s : State} (h : s.memWf = true) (id : Nat) : (s.yieldWarp id).memWf = true := by
  unfold State.yieldWarp; split <;> exact h

theorem State.memWf_jump {s : State} (h : s.memWf = true) (id : Nat) (pc : DWord) : (s.jump id pc).memWf = true := by
  unfold State.jump
  split
  · exact h
  · exact State.memWf_ite (State.memWf_yieldWarp (State.memWf_putWarp h _ _) _) (State.memWf_putWarp h _ _)

theorem State.memWf_advance {s : State} (h : s.memWf = true) (id : Nat) : (s.advance id).memWf = true := by
  unfold State.advance
  split
  · exact h
  · split
    · exact h
    · exact State.memWf_jump h _ _

/-! ### Homes of queues and barriers -/

theorem State.memWf_qput {s : State} (h : s.memWf = true) (k off n x : Nat) : (s.qput k off n x).memWf = true :=
  State.memWf_wrRaw h _ _

theorem State.memWf_qbreak {s : State} (h : s.memWf = true) (k : Nat) : (s.qbreak k).memWf = true :=
  State.memWf_qput (State.memWf_qput h _ _ _ _) _ _ _ _

theorem State.memWf_putHome {s : State} (h : s.memWf = true) (k : Nat) (x : QHome) : (s.putHome k x).memWf = true :=
  State.memWf_qput (State.memWf_qput (s := { s with homes := s.homes.put k x }) h _ _ _ _) _ _ _ _

theorem State.memWf_qjoin {s : State} (h : s.memWf = true) (k id : Nat) (op : QOp) : (s.qjoin k id op).memWf = true :=
  State.memWf_putHome (s := { s with qops := s.qops.put id op }) h _ _

theorem State.memWf_qleave {s : State} (h : s.memWf = true) (k id : Nat) : (s.qleave k id).memWf = true :=
  State.memWf_putHome (s := { s with qops := s.qops.erase id }) h _ _

theorem State.memWf_qline {s : State} (h : s.memWf = true) (k id : Nat) (op : QOp) : (s.qline k id op).memWf = true :=
  State.memWf_putHome (s := { s with qops := s.qops.put id op }) h _ _

theorem State.memWf_wrSlot (k : Nat) (l : List (Nat × Bool)) {s : State} (h : s.memWf = true) (b : List Byte) :
    (s.wrSlot k l b).memWf = true := by
  induction l generalizing s b with
  | nil => exact h
  | cons p r ih => exact ih (State.memWf_ite h (State.memWf_ite (State.memWf_wrRaw h _ _) (State.memWf_wrBytes h _ _))) _

theorem State.memWf_qinit {s : State} (h : s.memWf = true) (k : Nat) (img : List DWord) : (s.qinit k img).memWf = true := by
  unfold State.qinit
  refine State.memWf_putHome ?_ _ _
  refine State.memWf_fresh ?_ _
  iterate 7 refine State.memWf_qput ?_ _ _ _ _
  exact State.memWf_wrRaw h _ _

/-- What a home answers, whichever way, keeps the form (R153 to R158). -/
def QRes.KeepsMem : QRes → Prop
  | .refuse _ _ s => s.memWf = true
  | .wait | .held => True
  | .served s => s.memWf = true

theorem QRes.keepsMem_ite {c : Prop} [Decidable c] {a b : QRes} (ha : a.KeepsMem) (hb : b.KeepsMem) :
    (if c then a else b).KeepsMem := by split <;> assumption

theorem State.memWf_slotsHome {s : State} (h : s.memWf = true) (op : QOp) (l : List Trans) : (s.slotsHome op l).memWf = true := by
  unfold State.slotsHome
  split
  · exact State.memWf_foldl _ (fun s t hs => State.memWf_writeBack hs _ _ _) _ h
  · exact h

theorem State.memWf_qperform {s : State} (h : s.memWf = true) (k id : Nat) (op : QOp) (may late : Bool) :
    (s.qperform k id op may late).KeepsMem := by
  unfold State.qperform
  dsimp only
  split
  · rename_i b _
    cases b
    · exact h
    · exact State.memWf_qbreak h _
  · refine QRes.keepsMem_ite h (QRes.keepsMem_ite h (QRes.keepsMem_ite trivial ?_))
    split
    · exact QRes.keepsMem_ite trivial h
    · refine QRes.keepsMem_ite trivial (QRes.keepsMem_ite trivial ?_)
      have ht := fun l (u : State) (hu : u.memWf = true) wr => State.memWf_touchAll l (State.memWf_slotsHome hu op l) wr
      exact State.memWf_putHome (State.memWf_qops (State.memWf_qput (State.memWf_ite
        (State.memWf_qput (ht _ _ h _) _ _ _ _) (State.memWf_qput (ht _ _ h _) _ _ _ _)) _ _ _ _) _) _ _

theorem State.memWf_qserve {s : State} (h : s.memWf = true) (k id : Nat) (op : QOp) (may : Bool) :
    (s.qserve k id op may).KeepsMem := State.memWf_qperform h _ _ _ _ _

theorem State.memWf_served {s u : State} (h : s.memWf = true) {k id : Nat} {op : QOp} {may : Bool}
    (e : s.qserve k id op may = .served u) : u.memWf = true := by
  have := State.memWf_qserve h k id op may
  rwa [e] at this

theorem State.memWf_refused {s u : State} (h : s.memWf = true) {k id : Nat} {op : QOp} {may : Bool} {c : Fail} {v : DWord}
    (e : s.qserve k id op may = .refuse c v u) : u.memWf = true := by
  have := State.memWf_qserve h k id op may
  rwa [e] at this

theorem State.memWf_answerModule {s : State} (h : s.memWf = true) (src ident : Nat) (data : Option (List Byte)) :
    (s.answerModule src ident data).memWf = true := h

theorem State.memWf_barWake {s : State} (h : s.memWf = true) (k phase : Nat) : (s.barWake k phase).memWf = true := by
  unfold State.barWake
  refine State.memWf_foldl _ (fun s p hs => ?_) _ h
  have h1 : ({ s with barWaits := s.barWaits.erase p.1 } : State).memWf = true := hs
  split
  · exact State.memWf_advance (State.memWf_mapWarp h1 _ _) _
  · exact State.memWf_ite hs hs
  · exact State.memWf_answerModule h1 _ _ _

theorem State.memWf_barSpoil {s : State} (h : s.memWf = true) (k : Nat) : (s.barSpoil k).memWf = true := by
  unfold State.barSpoil
  refine State.memWf_foldl _ (fun s p hs => ?_) _ h
  split
  · exact State.memWf_ite hs hs
  · exact hs

def BRes.KeepsMem : BRes → Prop
  | .corrupt s => s.memWf = true
  | .done _ s => s.memWf = true

theorem State.memWf_barDo {s : State} (h : s.memWf = true) (t : Trans) (op : BarOp) : (s.barDo t op).KeepsMem := by
  unfold State.barDo
  dsimp only
  split
  · exact State.memWf_barSpoil h _
  · split
    · exact h
    · rename_i y ovr fin _
      cases fin
      · exact State.memWf_wrAt (State.memWf_touch h _ _) _ _
      · exact State.memWf_barWake (State.memWf_wrAt (State.memWf_touch h _ _) _ _) _ _

/-! ### Records, ends of warps, traps -/

theorem State.memWf_eventLost {s : State} (h : s.memWf = true) (cmp source : Nat) : (s.eventLost cmp source).memWf = true := h

theorem State.memWf_touchBlock {s : State} (h : s.memWf = true) (op : QOp) : (s.touchBlock op).memWf = true := by
  unfold State.touchBlock
  split
  · exact State.memWf_touch h _ _
  · exact h

theorem State.memWf_eventAt {s u : State} (h : s.memWf = true) {k id : Nat} {op : QOp} {source : Nat}
    (e : s.eventAt k id op source = some u) : u.memWf = true := by
  unfold State.eventAt at e
  dsimp only at e
  split at e <;> cases e
  · rename_i e1; exact State.memWf_eventLost (State.memWf_refused h e1) _ _
  · exact State.memWf_eventLost h _ _
  · rename_i e1; exact State.memWf_mapComp (State.memWf_touchBlock (State.memWf_served h e1) _) _ _

theorem State.memWf_postLater {s : State} (h : s.memWf = true) (id : Nat) (op : QOp) : (s.postLater id op).memWf = true := h

theorem State.memWf_sendEvent {s : State} (h : s.memWf = true) (id : Nat) (op : QOp) (source : Nat) :
    (s.sendEvent id op source).memWf = true := by
  unfold State.sendEvent
  refine State.memWf_ite (State.memWf_postLater h _ _) ?_
  split
  · exact State.memWf_ite (State.memWf_postLater h _ _) (State.memWf_eventLost h _ _)
  · split
    · split
      · rename_i e; exact State.memWf_eventAt h e
      · exact State.memWf_qline h _ _ _
    · exact State.memWf_qline h _ _ _

theorem State.memWf_postEvent {s : State} (h : s.memWf = true) (cmp kind source : Nat) (subject detail : DWord) :
    (s.postEvent cmp kind source subject detail).memWf = true := by
  unfold State.postEvent
  dsimp only
  split
  · exact State.memWf_eventLost (State.memWf_mapComp h _ _) _ _
  · exact State.memWf_sendEvent (State.memWf_tick1 (State.memWf_mapComp h _ _)) _ _ _

theorem State.memWf_postEventAll {s : State} (h : s.memWf = true) (kind source : Nat) (detail : DWord) :
    (s.postEventAll kind source detail).memWf = true :=
  State.memWf_foldl _ (fun s c hs => State.memWf_postEvent hs _ _ _ _ _) _ h

theorem State.memWf_faultLost {s : State} (h : s.memWf = true) (cmp cause : Nat) (cluster : DWord) :
    (s.faultLost cmp cause cluster).memWf = true := State.memWf_postEvent h _ _ _ _ _

theorem State.memWf_sendFault {s : State} (h : s.memWf = true) (id : Nat) (op : QOp) : (s.sendFault id op).1.memWf = true := by
  unfold State.sendFault
  split
  · exact State.memWf_postLater h _ _
  · split
    · exact State.memWf_ite (State.memWf_postLater h _ _) h
    · split
      · split
        · rename_i e; exact State.memWf_refused h e
        · exact State.memWf_qjoin (State.memWf_touch h _ _) _ _ _
        · exact State.memWf_qline h _ _ _
        · rename_i e; exact State.memWf_touch (State.memWf_served h e) _ _
      · exact State.memWf_qline h _ _ _

theorem State.memWf_postFault {s : State} (h : s.memWf = true) (r : FaultRec) (agent : QAgent) :
    (s.postFault r agent).1.memWf = true := by
  unfold State.postFault
  dsimp only
  split
  · exact State.memWf_faultLost h _ _ _
  · have hs := fun op => State.memWf_sendFault (State.memWf_tick1 h) s.nextId op
    split
    · exact State.memWf_mapComp (hs _) _ _
    · exact State.memWf_faultLost (hs _) _ _ _

/-! ### Loose bytes going home (R134, R398) -/

theorem State.memWf_storeFail {s : State} (h : s.memWf = true) (id : Nat) (w : Warp) (pos : Option Nat) (addr : DWord) :
    (s.storeFail id w pos addr).memWf = true := State.memWf_mapWarp (State.memWf_postFault h _ _) _ _

theorem State.memWf_failSlot {s : State} (h : s.memWf = true) (slot : Nat) (va : DWord) :
    (s.failSlot slot va).memWf = true := by
  unfold State.failSlot
  split
  · exact State.memWf_storeFail h _ _ _ _
  · exact h

theorem State.memWf_sendHome {s : State} (h : s.memWf = true) (who : Nat → Bool) (lo hi : Nat) :
    (s.sendHome who lo hi).memWf = true := by
  unfold State.sendHome
  dsimp only
  exact State.memWf_dropLoose (State.memWf_writeBack
    (State.memWf_foldl _ (fun s p hs => State.memWf_failSlot hs p.slot p.va) _ h) _ _ _) _ _ _

theorem State.memWf_sendOwn {s : State} (h : s.memWf = true) (w : Warp) : (s.sendOwn w).memWf = true :=
  State.memWf_sendHome h _ _ _

theorem State.memWf_blockBarTest {s : State} (h : s.memWf = true) (b : Nat) : (s.blockBarTest b).memWf = true := by
  unfold State.blockBarTest
  split
  · exact h
  · split
    · exact State.memWf_foldl _ (fun s p hs => State.memWf_advance hs _) _ (State.memWf_mapBlock h _ _)
    · exact h

theorem State.memWf_withdraw {s : State} (h : s.memWf = true) (id : Nat) : (s.withdraw id).memWf = true := by
  unfold State.withdraw
  split
  · exact h
  · split
    · split
      · exact State.memWf_qleave h _ _
      · exact h
    · exact h
    · exact State.memWf_mapBlock h _ _
    · exact h
    · exact h

theorem State.memWf_discardChases {s : State} (h : s.memWf = true) (id : Nat) (l : List (Nat × Chase)) :
    (s.discardChases id l).memWf = true :=
  State.memWf_foldl _ (fun s p hs => State.memWf_mapWarp (s := { s with chases := s.chases.erase p.1 }) hs _ _) _ h

theorem State.memWf_dropHeld {s : State} (h : s.memWf = true) (id : Nat) : (s.dropHeld id).memWf = true :=
  State.memWf_discardChases h _ _

theorem State.memWf_endWarp {s : State} (h : s.memWf = true) (id : Nat) (publish : Bool) : (s.endWarp id publish).memWf = true := by
  unfold State.endWarp
  split
  · exact h
  · exact State.memWf_dropHeld (State.memWf_putWarp (State.memWf_mapBlock (State.memWf_ite (State.memWf_sendOwn h _) h) _ _) _ _) _

theorem State.memWf_endThreads {s : State} (h : s.memWf = true) (id : Nat) (m : Mask) : (s.endThreads id m).memWf = true := by
  unfold State.endThreads
  split
  · exact h
  · exact State.memWf_blockBarTest (State.memWf_mapBlock (State.memWf_putWarp h _ _) _ _) _

theorem State.memWf_killOnly {s : State} (h : s.memWf = true) (id : Nat) : (s.killOnly id).memWf = true :=
  State.memWf_endWarp (State.memWf_endThreads (State.memWf_withdraw h _) _ _) _ _

theorem State.memWf_wakeFutures {s : State} (h : s.memWf = true) (cmp ctx : Nat) (handle : DWord) (status : Nat) :
    (s.wakeFutures cmp ctx handle status).memWf = true := by
  unfold State.wakeFutures
  refine State.memWf_foldl _ (fun s p hs => ?_) _ h
  split
  · split
    · exact State.memWf_advance (State.memWf_mapWarp hs _ _) _
    · exact hs
  · exact hs

theorem State.memWf_endCmd {s : State} (h : s.memWf = true) (id status : Nat) : (s.endCmd id status).memWf = true := by
  unfold State.endCmd
  split
  · exact h
  · rename_i c _
    have h1 := State.memWf_wakeFutures (s := { s with cmds := s.cmds.put id { c with status := status } }) h c.cmp c.ctx c.handle status
    dsimp only
    split
    · exact State.memWf_countDrop h1 _
    · exact State.memWf_putWarp h1 _ _

theorem State.memWf_fence {s : State} (h : s.memWf = true) (cmp ctx : Nat) : (s.fence cmp ctx).memWf = true := by
  unfold State.fence
  refine State.memWf_postEvent ?_ _ _ _ _ _
  refine State.memWf_foldl _ (fun s p hs => State.memWf_endCmd hs _ _) _ ?_
  exact State.memWf_foldl _ (fun s p hs => State.memWf_killOnly hs _) _ (State.memWf_mapCtx h _ _ _)

theorem State.memWf_doubleTrap {s : State} (h : s.memWf = true) (w : Warp) (t : Trap) : (s.doubleTrap w t).memWf = true :=
  State.memWf_fence (State.memWf_postFault h _ _) _ _

theorem State.memWf_enterHandler {s : State} (h : s.memWf = true) (id : Nat) (w : Warp) (t : Trap) :
    (s.enterHandler id w t).memWf = true := by
  unfold State.enterHandler
  exact State.memWf_ite (State.memWf_doubleTrap h _ _) (State.memWf_putWarp h _ _)

theorem State.memWf_newToken {s : State} (h : s.memWf = true) (cmp ctx : Nat) (who : Waiter) :
    (s.newToken cmp ctx who).1.memWf = true := h

/-- Taking a trap keeps the form (R335 to R337). -/
theorem State.memWf_takeTrap {s : State} (h : s.memWf = true) (id : Nat) (t : Trap) : (s.takeTrap id t).memWf = true := by
  unfold State.takeTrap
  split
  · exact h
  · refine State.memWf_ite h (State.memWf_ite (State.memWf_ite (State.memWf_putWarp ?_ _ _)
      (State.memWf_enterHandler (State.memWf_mapComp ?_ _ _) _ _ _)) (State.memWf_enterHandler h _ _ _))
    all_goals exact State.memWf_postFault (State.memWf_newToken h _ _ _) _ _

theorem State.memWf_twinGone {s : State} (h : s.memWf = true) (id : Nat) (w : Warp) : (s.twinGone id w).memWf = true := by
  unfold State.twinGone
  split
  · exact State.memWf_ite (State.memWf_takeTrap (State.memWf_withdraw h _) _ _) h
  · exact h

/-- What a release or a fence finds keeps the form (R137). -/
def Retire.KeepsMem : Retire → Prop
  | .waits => True
  | .fails _ s => s.memWf = true
  | .retires s _ => s.memWf = true

theorem State.memWf_retire {s : State} (h : s.memWf = true) (id : Nat) (w : Warp) (scope : Nat) :
    (s.retire id w scope).KeepsMem := by
  have h1 := State.memWf_sendOwn h w
  unfold State.retire
  split
  · exact h
  · split
    · trivial
    · dsimp only
      split
      · exact State.memWf_putWarp h1 _ _
      · exact h1

theorem State.memWf_resumeBy {s : State} (h : s.memWf = true) (id cause : Nat) : (s.resumeBy id cause).memWf = true := by
  unfold State.resumeBy
  split
  · exact State.memWf_mapWarp h _ _
  · split
    · split
      · exact h
      · rename_i n c _
        exact State.memWf_mapWarp (s := { s with chases := s.chases.put n c.resend }) h _ _
    · exact h

/-- Returning from a trap keeps the form (R317). -/
theorem State.memWf_returnTrap {s : State} (h : s.memWf = true) (id : Nat) : (s.returnTrap id).memWf = true := by
  unfold State.returnTrap
  split
  · exact h
  · dsimp only
    split
    · exact State.memWf_resumeBy (State.memWf_putWarp h _ _) _ _
    · exact h

/-! ### Issue -/

def Res.KeepsMem : Res → Prop
  | .done s | .moved s | .stay s | .trap _ s => s.memWf = true

theorem State.memWf_finish (id : Nat) {r : Res} (h : r.KeepsMem) : (State.finish id r).memWf = true := by
  cases r with
  | done s => exact State.memWf_advance h _
  | moved s => exact h
  | stay s => exact h
  | trap t s => exact State.memWf_takeTrap h _ _

/-- What the gate answers keeps the form when the effect behind it does. -/
theorem State.memWf_gate {s : State} (h : s.memWf = true) (id : Nat) (w : Warp) (i : Instr) (refs : List Ref)
    (eff : State → Warp → Res) (he : (eff s w).KeepsMem) : (s.gate id w i refs eff).KeepsMem := by
  unfold State.gate
  split
  · exact h
  · split
    · exact h
    · split
      · exact h
      · split
        · exact h
        · exact he

/-- An instruction whose effect keeps the form keeps it: the lemma by which each meaning is closed. -/
theorem memWf_issue {s t : State} {i : Instr} {refs : Warp → List Ref} {eff : State → Warp → Res}
    (he : ∀ u w, u.memWf = true → (eff u w).KeepsMem) (h : s.memWf = true) (ht : s.issue i refs eff = .next t) :
    t.memWf = true := by
  unfold State.issue at ht
  split at ht
  · cases ht
  · split at ht
    · cases ht
      refine State.memWf_finish _ (State.memWf_gate ?_ _ _ _ _ _ (he _ _ ?_))
      all_goals split <;> exact h
    · cases ht
      exact h

end Sys2Proof.Machine
end

