-- ==== Sys2Proof/Laws/PerInstr.lean ====
section
/-! SUPPORT. The per-instruction family RoundTrip: what the encoder writes for a well-formed instruction, the decoder
reads as that instruction (Tables 8.2 to 8.16). -/

set_option linter.all false
set_option Elab.async false

namespace Sys2Proof

/-- The decoder reads an instruction back from its encoding. -/
def Laws.RoundTrip.Statement (i : Instr) : Prop :=
  ∀ e, i.wf = true → encode i = some e → decode e.cls e.w0 e.w1 = .ok i

theorem decode_ok {c : Class} {w : Word} {x : Option Word} {i : Instr} (h : decodeRaw c w x = .ok i) (hw : i.wf = true) :
    decode c w x = .ok i := by
  have : i.problems = [] := by simpa [Instr.wf] using hw
  simp [decode, h, this]

/-- What has no encoding (Table 1.1: events) has nothing to be read back. -/
theorem no_word {i : Instr} (h : encode i = none) : Laws.RoundTrip.Statement i := fun e _ he => by
  rw [h] at he
  exact nomatch he

/-- An instruction whose words the decoder of its class reads as it is read back once it is well formed. -/
theorem read_back {i : Instr} {c : Class} {w : Word} {x : Option Word} (he : encode i = some ⟨c, w, x⟩)
    (h : i.problems = [] → decodeRaw c w x = .ok i) : Laws.RoundTrip.Statement i := fun e hw h1 => by
  rw [he] at h1
  obtain rfl := Option.some.inj h1
  exact decode_ok (h (by simpa [Instr.wf] using hw)) hw

theorem field_low {b : BitVec 10} (h : b.toNat < 6) : b[3] = false := by
  rw [← BitVec.getLsbD_eq_getElem, BitVec.getLsbD, Nat.testBit, Nat.shiftRight_eq_div_pow]
  simp; omega

theorem field_high {b : BitVec 10} (h1 : 8 ≤ b.toNat) (h2 : b.toNat < 14) : b[3] = true := by
  rw [← BitVec.getLsbD_eq_getElem, BitVec.getLsbD, Nat.testBit, Nat.shiftRight_eq_div_pow]
  simp; omega

theorem Laws.RoundTrip.clauseDecode : Laws.RoundTrip.Statement (.clauseDecode) := no_word rfl

theorem Laws.RoundTrip.iadd (f : FmtA) (x : Option XR) : Laws.RoundTrip.Statement (.iadd f x) :=
  read_back rfl fun _ => by cases x <;> simp [decodeRaw, decodeAlu, FmtA.op_pack, FmtA.parse_pack, one, two, either, XR.read, XR.parse_pack]

theorem Laws.RoundTrip.isub (f : FmtA) (x : Option XR) : Laws.RoundTrip.Statement (.isub f x) :=
  read_back rfl fun _ => by cases x <;> simp [decodeRaw, decodeAlu, FmtA.op_pack, FmtA.parse_pack, one, two, either, XR.read, XR.parse_pack]

theorem Laws.RoundTrip.imul (f : FmtA) (x : Option XR) : Laws.RoundTrip.Statement (.imul f x) :=
  read_back rfl fun _ => by cases x <;> simp [decodeRaw, decodeAlu, FmtA.op_pack, FmtA.parse_pack, one, two, either, XR.read, XR.parse_pack]

theorem Laws.RoundTrip.imulh (f : FmtA) (x : Option XR) : Laws.RoundTrip.Statement (.imulh f x) :=
  read_back rfl fun _ => by cases x <;> simp [decodeRaw, decodeAlu, FmtA.op_pack, FmtA.parse_pack, one, two, either, XR.read, XR.parse_pack]

theorem Laws.RoundTrip.imulhu (f : FmtA) (x : Option XR) : Laws.RoundTrip.Statement (.imulhu f x) :=
  read_back rfl fun _ => by cases x <;> simp [decodeRaw, decodeAlu, FmtA.op_pack, FmtA.parse_pack, one, two, either, XR.read, XR.parse_pack]

theorem Laws.RoundTrip.imad (f : FmtA) (x : XR) : Laws.RoundTrip.Statement (.imad f x) :=
  read_back rfl fun _ => by simp [decodeRaw, decodeAlu, FmtA.op_pack, FmtA.parse_pack, one, two, either, XR.read, XR.parse_pack]

theorem Laws.RoundTrip.iadd64 (f : FmtA) (x : Option XR) : Laws.RoundTrip.Statement (.iadd64 f x) :=
  read_back rfl fun _ => by cases x <;> simp [decodeRaw, decodeAlu, FmtA.op_pack, FmtA.parse_pack, one, two, either, XR.read, XR.parse_pack]

theorem Laws.RoundTrip.imin (f : FmtA) (x : Option XR) : Laws.RoundTrip.Statement (.imin f x) :=
  read_back rfl fun _ => by cases x <;> simp [decodeRaw, decodeAlu, FmtA.op_pack, FmtA.parse_pack, one, two, either, XR.read, XR.parse_pack]

theorem Laws.RoundTrip.imax (f : FmtA) (x : Option XR) : Laws.RoundTrip.Statement (.imax f x) :=
  read_back rfl fun _ => by cases x <;> simp [decodeRaw, decodeAlu, FmtA.op_pack, FmtA.parse_pack, one, two, either, XR.read, XR.parse_pack]

theorem Laws.RoundTrip.umin (f : FmtA) (x : Option XR) : Laws.RoundTrip.Statement (.umin f x) :=
  read_back rfl fun _ => by cases x <;> simp [decodeRaw, decodeAlu, FmtA.op_pack, FmtA.parse_pack, one, two, either, XR.read, XR.parse_pack]

theorem Laws.RoundTrip.umax (f : FmtA) (x : Option XR) : Laws.RoundTrip.Statement (.umax f x) :=
  read_back rfl fun _ => by cases x <;> simp [decodeRaw, decodeAlu, FmtA.op_pack, FmtA.parse_pack, one, two, either, XR.read, XR.parse_pack]

theorem Laws.RoundTrip.andR (f : FmtA) (x : Option XR) : Laws.RoundTrip.Statement (.andR f x) :=
  read_back rfl fun _ => by cases x <;> simp [decodeRaw, decodeAlu, FmtA.op_pack, FmtA.parse_pack, one, two, either, XR.read, XR.parse_pack]

theorem Laws.RoundTrip.orR (f : FmtA) (x : Option XR) : Laws.RoundTrip.Statement (.orR f x) :=
  read_back rfl fun _ => by cases x <;> simp [decodeRaw, decodeAlu, FmtA.op_pack, FmtA.parse_pack, one, two, either, XR.read, XR.parse_pack]

theorem Laws.RoundTrip.xorR (f : FmtA) (x : Option XR) : Laws.RoundTrip.Statement (.xorR f x) :=
  read_back rfl fun _ => by cases x <;> simp [decodeRaw, decodeAlu, FmtA.op_pack, FmtA.parse_pack, one, two, either, XR.read, XR.parse_pack]

theorem Laws.RoundTrip.andn (f : FmtA) (x : Option XR) : Laws.RoundTrip.Statement (.andn f x) :=
  read_back rfl fun _ => by cases x <;> simp [decodeRaw, decodeAlu, FmtA.op_pack, FmtA.parse_pack, one, two, either, XR.read, XR.parse_pack]

theorem Laws.RoundTrip.shl (f : FmtA) (x : Option XR) : Laws.RoundTrip.Statement (.shl f x) :=
  read_back rfl fun _ => by cases x <;> simp [decodeRaw, decodeAlu, FmtA.op_pack, FmtA.parse_pack, one, two, either, XR.read, XR.parse_pack]

theorem Laws.RoundTrip.shr (f : FmtA) (x : Option XR) : Laws.RoundTrip.Statement (.shr f x) :=
  read_back rfl fun _ => by cases x <;> simp [decodeRaw, decodeAlu, FmtA.op_pack, FmtA.parse_pack, one, two, either, XR.read, XR.parse_pack]

theorem Laws.RoundTrip.sar (f : FmtA) (x : Option XR) : Laws.RoundTrip.Statement (.sar f x) :=
  read_back rfl fun _ => by cases x <;> simp [decodeRaw, decodeAlu, FmtA.op_pack, FmtA.parse_pack, one, two, either, XR.read, XR.parse_pack]

theorem Laws.RoundTrip.rotl (f : FmtA) (x : Option XR) : Laws.RoundTrip.Statement (.rotl f x) :=
  read_back rfl fun _ => by cases x <;> simp [decodeRaw, decodeAlu, FmtA.op_pack, FmtA.parse_pack, one, two, either, XR.read, XR.parse_pack]

theorem Laws.RoundTrip.lea (f : FmtA) (x : XR) : Laws.RoundTrip.Statement (.lea f x) :=
  read_back rfl fun _ => by simp [decodeRaw, decodeAlu, FmtA.op_pack, FmtA.parse_pack, one, two, either, XR.read, XR.parse_pack]

theorem Laws.RoundTrip.shli (f : FmtI) : Laws.RoundTrip.Statement (.shli f) :=
  read_back rfl fun _ => by simp [decodeRaw, decodeAlu, FmtI.op_pack, FmtI.parse_pack, one, two, either]

theorem Laws.RoundTrip.shri (f : FmtI) : Laws.RoundTrip.Statement (.shri f) :=
  read_back rfl fun _ => by simp [decodeRaw, decodeAlu, FmtI.op_pack, FmtI.parse_pack, one, two, either]

theorem Laws.RoundTrip.sari (f : FmtI) : Laws.RoundTrip.Statement (.sari f) :=
  read_back rfl fun _ => by simp [decodeRaw, decodeAlu, FmtI.op_pack, FmtI.parse_pack, one, two, either]

theorem Laws.RoundTrip.mov (f : FmtA) (x : Option XR) : Laws.RoundTrip.Statement (.mov f x) :=
  read_back rfl fun _ => by cases x <;> simp [decodeRaw, decodeAlu, FmtA.op_pack, FmtA.parse_pack, one, two, either, XR.read, XR.parse_pack]

theorem Laws.RoundTrip.bfx (f : FmtI) : Laws.RoundTrip.Statement (.bfx f) :=
  read_back rfl fun _ => by simp [decodeRaw, decodeAlu, FmtI.op_pack, FmtI.parse_pack, one, two, either]

theorem Laws.RoundTrip.bfi (f : FmtI) : Laws.RoundTrip.Statement (.bfi f) :=
  read_back rfl fun _ => by simp [decodeRaw, decodeAlu, FmtI.op_pack, FmtI.parse_pack, one, two, either]

theorem Laws.RoundTrip.clz (f : FmtA) (x : Option XR) : Laws.RoundTrip.Statement (.clz f x) := read_back rfl fun hp => by
  simp [Instr.problems, chk, sclForm, plainT] at hp
  cases x <;> simp [decodeRaw, decodeAlu, FmtA.op_pack, FmtA.parse_pack, one, two, either, XR.read, XR.parse_pack, hp]

theorem Laws.RoundTrip.popc (f : FmtA) (x : Option XR) : Laws.RoundTrip.Statement (.popc f x) := read_back rfl fun hp => by
  simp [Instr.problems, chk, sclForm, plainT] at hp
  cases x <;> simp [decodeRaw, decodeAlu, FmtA.op_pack, FmtA.parse_pack, one, two, either, XR.read, XR.parse_pack, hp]

theorem Laws.RoundTrip.brev (f : FmtA) (x : Option XR) : Laws.RoundTrip.Statement (.brev f x) := read_back rfl fun hp => by
  simp [Instr.problems, chk, sclForm, plainT] at hp
  cases x <;> simp [decodeRaw, decodeAlu, FmtA.op_pack, FmtA.parse_pack, one, two, either, XR.read, XR.parse_pack, hp]

theorem Laws.RoundTrip.iabs (f : FmtA) (x : Option XR) : Laws.RoundTrip.Statement (.iabs f x) := read_back rfl fun hp => by
  simp [Instr.problems, chk, sclForm, plainT] at hp
  cases x <;> simp [decodeRaw, decodeAlu, FmtA.op_pack, FmtA.parse_pack, one, two, either, XR.read, XR.parse_pack, hp]

theorem Laws.RoundTrip.notR (f : FmtA) (x : Option XR) : Laws.RoundTrip.Statement (.notR f x) := read_back rfl fun hp => by
  simp [Instr.problems, chk, sclForm, plainT] at hp
  cases x <;> simp [decodeRaw, decodeAlu, FmtA.op_pack, FmtA.parse_pack, one, two, either, XR.read, XR.parse_pack, hp]

theorem Laws.RoundTrip.sext8 (f : FmtA) (x : Option XR) : Laws.RoundTrip.Statement (.sext8 f x) := read_back rfl fun hp => by
  simp [Instr.problems, chk, sclForm, plainT] at hp
  cases x <;> simp [decodeRaw, decodeAlu, FmtA.op_pack, FmtA.parse_pack, one, two, either, XR.read, XR.parse_pack, hp]

theorem Laws.RoundTrip.sext16 (f : FmtA) (x : Option XR) : Laws.RoundTrip.Statement (.sext16 f x) :=
  read_back rfl fun hp => by
    simp [Instr.problems, chk, sclForm, plainT] at hp
    cases x <;> simp [decodeRaw, decodeAlu, FmtA.op_pack, FmtA.parse_pack, one, two, either, XR.read, XR.parse_pack, hp]

theorem Laws.RoundTrip.zext8 (f : FmtA) (x : Option XR) : Laws.RoundTrip.Statement (.zext8 f x) := read_back rfl fun hp => by
  simp [Instr.problems, chk, sclForm, plainT] at hp
  cases x <;> simp [decodeRaw, decodeAlu, FmtA.op_pack, FmtA.parse_pack, one, two, either, XR.read, XR.parse_pack, hp]

theorem Laws.RoundTrip.zext16 (f : FmtA) (x : Option XR) : Laws.RoundTrip.Statement (.zext16 f x) :=
  read_back rfl fun hp => by
    simp [Instr.problems, chk, sclForm, plainT] at hp
    cases x <;> simp [decodeRaw, decodeAlu, FmtA.op_pack, FmtA.parse_pack, one, two, either, XR.read, XR.parse_pack, hp]

theorem Laws.RoundTrip.fadd (f : FmtA) (x : Option XR) : Laws.RoundTrip.Statement (.fadd f x) :=
  read_back rfl fun _ => by cases x <;> simp [decodeRaw, decodeAlu, FmtA.op_pack, FmtA.parse_pack, one, two, either, XR.read, XR.parse_pack]

theorem Laws.RoundTrip.fsub (f : FmtA) (x : Option XR) : Laws.RoundTrip.Statement (.fsub f x) :=
  read_back rfl fun _ => by cases x <;> simp [decodeRaw, decodeAlu, FmtA.op_pack, FmtA.parse_pack, one, two, either, XR.read, XR.parse_pack]

theorem Laws.RoundTrip.fmul (f : FmtA) (x : Option XR) : Laws.RoundTrip.Statement (.fmul f x) :=
  read_back rfl fun _ => by cases x <;> simp [decodeRaw, decodeAlu, FmtA.op_pack, FmtA.parse_pack, one, two, either, XR.read, XR.parse_pack]

theorem Laws.RoundTrip.ffma (f : FmtA) (x : XR) : Laws.RoundTrip.Statement (.ffma f x) :=
  read_back rfl fun _ => by simp [decodeRaw, decodeAlu, FmtA.op_pack, FmtA.parse_pack, one, two, either, XR.read, XR.parse_pack]

theorem Laws.RoundTrip.fmin (f : FmtA) (x : Option XR) : Laws.RoundTrip.Statement (.fmin f x) :=
  read_back rfl fun _ => by cases x <;> simp [decodeRaw, decodeAlu, FmtA.op_pack, FmtA.parse_pack, one, two, either, XR.read, XR.parse_pack]

theorem Laws.RoundTrip.fmax (f : FmtA) (x : Option XR) : Laws.RoundTrip.Statement (.fmax f x) :=
  read_back rfl fun _ => by cases x <;> simp [decodeRaw, decodeAlu, FmtA.op_pack, FmtA.parse_pack, one, two, either, XR.read, XR.parse_pack]

theorem Laws.RoundTrip.fdiv (f : FmtA) (x : Option XR) : Laws.RoundTrip.Statement (.fdiv f x) :=
  read_back rfl fun _ => by cases x <;> simp [decodeRaw, decodeAlu, FmtA.op_pack, FmtA.parse_pack, one, two, either, XR.read, XR.parse_pack]

theorem Laws.RoundTrip.fneg (f : FmtA) (x : Option XR) : Laws.RoundTrip.Statement (.fneg f x) := read_back rfl fun hp => by
  simp [Instr.problems, chk, sclForm, plainT] at hp
  cases x <;> simp [decodeRaw, decodeAlu, FmtA.op_pack, FmtA.parse_pack, one, two, either, XR.read, XR.parse_pack, hp]

theorem Laws.RoundTrip.fabs (f : FmtA) (x : Option XR) : Laws.RoundTrip.Statement (.fabs f x) := read_back rfl fun hp => by
  simp [Instr.problems, chk, sclForm, plainT] at hp
  cases x <;> simp [decodeRaw, decodeAlu, FmtA.op_pack, FmtA.parse_pack, one, two, either, XR.read, XR.parse_pack, hp]

theorem Laws.RoundTrip.frcp (f : FmtA) (x : Option XR) : Laws.RoundTrip.Statement (.frcp f x) := read_back rfl fun hp => by
  simp [Instr.problems, chk, sclForm, plainT] at hp
  cases x <;> simp [decodeRaw, decodeAlu, FmtA.op_pack, FmtA.parse_pack, one, two, either, XR.read, XR.parse_pack, hp]

theorem Laws.RoundTrip.frsqrt (f : FmtA) (x : Option XR) : Laws.RoundTrip.Statement (.frsqrt f x) :=
  read_back rfl fun hp => by
    simp [Instr.problems, chk, sclForm, plainT] at hp
    cases x <;> simp [decodeRaw, decodeAlu, FmtA.op_pack, FmtA.parse_pack, one, two, either, XR.read, XR.parse_pack, hp]

theorem Laws.RoundTrip.fsqrt (f : FmtA) (x : Option XR) : Laws.RoundTrip.Statement (.fsqrt f x) := read_back rfl fun hp => by
  simp [Instr.problems, chk, sclForm, plainT] at hp
  cases x <;> simp [decodeRaw, decodeAlu, FmtA.op_pack, FmtA.parse_pack, one, two, either, XR.read, XR.parse_pack, hp]

theorem Laws.RoundTrip.fexp2 (f : FmtA) (x : Option XR) : Laws.RoundTrip.Statement (.fexp2 f x) := read_back rfl fun hp => by
  simp [Instr.problems, chk, sclForm, plainT] at hp
  cases x <;> simp [decodeRaw, decodeAlu, FmtA.op_pack, FmtA.parse_pack, one, two, either, XR.read, XR.parse_pack, hp]

theorem Laws.RoundTrip.flog2 (f : FmtA) (x : Option XR) : Laws.RoundTrip.Statement (.flog2 f x) := read_back rfl fun hp => by
  simp [Instr.problems, chk, sclForm, plainT] at hp
  cases x <;> simp [decodeRaw, decodeAlu, FmtA.op_pack, FmtA.parse_pack, one, two, either, XR.read, XR.parse_pack, hp]

theorem Laws.RoundTrip.ffloor (f : FmtA) (x : Option XR) : Laws.RoundTrip.Statement (.ffloor f x) :=
  read_back rfl fun hp => by
    simp [Instr.problems, chk, sclForm, plainT] at hp
    cases x <;> simp [decodeRaw, decodeAlu, FmtA.op_pack, FmtA.parse_pack, one, two, either, XR.read, XR.parse_pack, hp]

theorem Laws.RoundTrip.fceil (f : FmtA) (x : Option XR) : Laws.RoundTrip.Statement (.fceil f x) := read_back rfl fun hp => by
  simp [Instr.problems, chk, sclForm, plainT] at hp
  cases x <;> simp [decodeRaw, decodeAlu, FmtA.op_pack, FmtA.parse_pack, one, two, either, XR.read, XR.parse_pack, hp]

theorem Laws.RoundTrip.ftrunc (f : FmtA) (x : Option XR) : Laws.RoundTrip.Statement (.ftrunc f x) :=
  read_back rfl fun hp => by
    simp [Instr.problems, chk, sclForm, plainT] at hp
    cases x <;> simp [decodeRaw, decodeAlu, FmtA.op_pack, FmtA.parse_pack, one, two, either, XR.read, XR.parse_pack, hp]

theorem Laws.RoundTrip.frint (f : FmtA) (x : Option XR) : Laws.RoundTrip.Statement (.frint f x) := read_back rfl fun hp => by
  simp [Instr.problems, chk, sclForm, plainT] at hp
  cases x <;> simp [decodeRaw, decodeAlu, FmtA.op_pack, FmtA.parse_pack, one, two, either, XR.read, XR.parse_pack, hp]

theorem Laws.RoundTrip.hadd2 (f : FmtA) (x : XR) : Laws.RoundTrip.Statement (.hadd2 f x) :=
  read_back rfl fun _ => by simp [decodeRaw, decodeAlu, FmtA.op_pack, FmtA.parse_pack, one, two, either, XR.read, XR.parse_pack]

theorem Laws.RoundTrip.hmul2 (f : FmtA) (x : XR) : Laws.RoundTrip.Statement (.hmul2 f x) :=
  read_back rfl fun _ => by simp [decodeRaw, decodeAlu, FmtA.op_pack, FmtA.parse_pack, one, two, either, XR.read, XR.parse_pack]

theorem Laws.RoundTrip.hfma2 (f : FmtA) (x : XR) : Laws.RoundTrip.Statement (.hfma2 f x) :=
  read_back rfl fun _ => by simp [decodeRaw, decodeAlu, FmtA.op_pack, FmtA.parse_pack, one, two, either, XR.read, XR.parse_pack]

theorem Laws.RoundTrip.cvt (f : FmtA) (x : XT) : Laws.RoundTrip.Statement (.cvt f x) :=
  read_back rfl fun _ => by simp [decodeRaw, decodeAlu, FmtA.op_pack, FmtA.parse_pack, one, two, either, XT.parse_pack]

theorem Laws.RoundTrip.mxpack (f : FmtA) (x : XT) : Laws.RoundTrip.Statement (.mxpack f x) :=
  read_back rfl fun _ => by simp [decodeRaw, decodeAlu, FmtA.op_pack, FmtA.parse_pack, one, two, either, XT.parse_pack]

theorem Laws.RoundTrip.mxunpack (f : FmtA) (x : XT) : Laws.RoundTrip.Statement (.mxunpack f x) :=
  read_back rfl fun _ => by simp [decodeRaw, decodeAlu, FmtA.op_pack, FmtA.parse_pack, one, two, either, XT.parse_pack]

theorem Laws.RoundTrip.sget (f : FmtA) (x : XT) : Laws.RoundTrip.Statement (.sget f x) := read_back rfl fun hp => by
  simp [Instr.problems, chk, sclForm, plainT] at hp
  have hs : x.sel = 0#4 := BitVec.eq_of_toNat_eq hp.2.1
  simp [decodeRaw, decodeAlu, FmtA.op_pack, FmtA.parse_pack, one, two, either, XT.parse_pack, hs]

theorem Laws.RoundTrip.sput (f : FmtA) (x : XT) : Laws.RoundTrip.Statement (.sput f x) := read_back rfl fun hp => by
  simp [Instr.problems, chk, sclForm, plainT] at hp
  have hs : x.sel = 1#4 := BitVec.eq_of_toNat_eq hp.2.1
  simp [decodeRaw, decodeAlu, FmtA.op_pack, FmtA.parse_pack, one, two, either, XT.parse_pack, hs]

theorem Laws.RoundTrip.smov (f : FmtA) (x : XT) : Laws.RoundTrip.Statement (.smov f x) := read_back rfl fun hp => by
  simp [Instr.problems, chk, sclForm, plainT] at hp
  have hs : x.sel = 2#4 := BitVec.eq_of_toNat_eq hp.2.1
  simp [decodeRaw, decodeAlu, FmtA.op_pack, FmtA.parse_pack, one, two, either, XT.parse_pack, hs]

theorem Laws.RoundTrip.sadd (f : FmtA) (x : XT) : Laws.RoundTrip.Statement (.sadd f x) := read_back rfl fun hp => by
  simp [Instr.problems, chk, sclForm, plainT] at hp
  have hs : x.sel = 3#4 := BitVec.eq_of_toNat_eq hp.2.1
  simp [decodeRaw, decodeAlu, FmtA.op_pack, FmtA.parse_pack, one, two, either, XT.parse_pack, hs]

theorem Laws.RoundTrip.smax (f : FmtA) (x : XT) : Laws.RoundTrip.Statement (.smax f x) := read_back rfl fun hp => by
  simp [Instr.problems, chk, sclForm, plainT] at hp
  have hs : x.sel = 4#4 := BitVec.eq_of_toNat_eq hp.2.1
  simp [decodeRaw, decodeAlu, FmtA.op_pack, FmtA.parse_pack, one, two, either, XT.parse_pack, hs]

theorem Laws.RoundTrip.sfill (f : FmtA) (x : XT) : Laws.RoundTrip.Statement (.sfill f x) := read_back rfl fun hp => by
  simp [Instr.problems, chk, sclForm, plainT] at hp
  have hs : x.sel = 5#4 := BitVec.eq_of_toNat_eq hp.2.1
  simp [decodeRaw, decodeAlu, FmtA.op_pack, FmtA.parse_pack, one, two, either, XT.parse_pack, hs]

theorem Laws.RoundTrip.icmp (f : FmtA) (x : XT) : Laws.RoundTrip.Statement (.icmp f x) :=
  read_back rfl fun _ => by simp [decodeRaw, decodeAlu, FmtA.op_pack, FmtA.parse_pack, one, two, either, XT.parse_pack]

theorem Laws.RoundTrip.fcmp (f : FmtA) (x : XT) : Laws.RoundTrip.Statement (.fcmp f x) :=
  read_back rfl fun _ => by simp [decodeRaw, decodeAlu, FmtA.op_pack, FmtA.parse_pack, one, two, either, XT.parse_pack]

theorem Laws.RoundTrip.plog (f : FmtA) (x : XT) : Laws.RoundTrip.Statement (.plog f x) :=
  read_back rfl fun _ => by simp [decodeRaw, decodeAlu, FmtA.op_pack, FmtA.parse_pack, one, two, either, XT.parse_pack]

theorem Laws.RoundTrip.sel (f : FmtA) (x : XR) : Laws.RoundTrip.Statement (.sel f x) :=
  read_back rfl fun _ => by simp [decodeRaw, decodeAlu, FmtA.op_pack, FmtA.parse_pack, one, two, either, XR.read, XR.parse_pack]

theorem Laws.RoundTrip.pmovGet (f : FmtA) (x : XT) : Laws.RoundTrip.Statement (.pmovGet f x) := read_back rfl fun hp => by
  simp [Instr.problems, chk, sclForm, plainT] at hp
  simp [decodeRaw, decodeAlu, FmtA.op_pack, FmtA.parse_pack, one, two, either, XT.parse_pack, hp]

theorem Laws.RoundTrip.pmovPut (f : FmtA) (x : XT) : Laws.RoundTrip.Statement (.pmovPut f x) := read_back rfl fun hp => by
  simp [Instr.problems, chk, sclForm, plainT] at hp
  simp [decodeRaw, decodeAlu, FmtA.op_pack, FmtA.parse_pack, one, two, either, XT.parse_pack, hp]

theorem Laws.RoundTrip.voteAny (f : FmtA) (x : XT) : Laws.RoundTrip.Statement (.voteAny f x) := read_back rfl fun hp => by
  simp [Instr.problems, chk, sclForm, plainT] at hp
  simp [decodeRaw, decodeAlu, FmtA.op_pack, FmtA.parse_pack, one, two, either, XT.parse_pack, hp]

theorem Laws.RoundTrip.voteAll (f : FmtA) (x : XT) : Laws.RoundTrip.Statement (.voteAll f x) := read_back rfl fun hp => by
  simp [Instr.problems, chk, sclForm, plainT] at hp
  simp [decodeRaw, decodeAlu, FmtA.op_pack, FmtA.parse_pack, one, two, either, XT.parse_pack, hp]

theorem Laws.RoundTrip.voteBallot (f : FmtA) (x : XT) : Laws.RoundTrip.Statement (.voteBallot f x) :=
  read_back rfl fun hp => by
    simp [Instr.problems, chk, sclForm, plainT] at hp
    simp [decodeRaw, decodeAlu, FmtA.op_pack, FmtA.parse_pack, one, two, either, XT.parse_pack, hp]

theorem Laws.RoundTrip.voteCount (f : FmtA) (x : XT) : Laws.RoundTrip.Statement (.voteCount f x) :=
  read_back rfl fun hp => by
    simp [Instr.problems, chk, sclForm, plainT] at hp
    simp [decodeRaw, decodeAlu, FmtA.op_pack, FmtA.parse_pack, one, two, either, XT.parse_pack, hp]

theorem Laws.RoundTrip.shfl (f : FmtA) (x : Option XR) : Laws.RoundTrip.Statement (.shfl f x) :=
  read_back rfl fun _ => by cases x <;> simp [decodeRaw, decodeAlu, FmtA.op_pack, FmtA.parse_pack, one, two, either, XR.read, XR.parse_pack]

theorem Laws.RoundTrip.bcast (f : FmtI) : Laws.RoundTrip.Statement (.bcast f) :=
  read_back rfl fun _ => by simp [decodeRaw, decodeAlu, FmtI.op_pack, FmtI.parse_pack, one, two, either]

theorem Laws.RoundTrip.redux (f : FmtA) (x : XT) : Laws.RoundTrip.Statement (.redux f x) :=
  read_back rfl fun _ => by simp [decodeRaw, decodeAlu, FmtA.op_pack, FmtA.parse_pack, one, two, either, XT.parse_pack]

theorem Laws.RoundTrip.scan (f : FmtA) (x : XT) : Laws.RoundTrip.Statement (.scan f x) :=
  read_back rfl fun _ => by simp [decodeRaw, decodeAlu, FmtA.op_pack, FmtA.parse_pack, one, two, either, XT.parse_pack]

theorem Laws.RoundTrip.rds (f : FmtI) : Laws.RoundTrip.Statement (.rds f) :=
  read_back rfl fun _ => by simp [decodeRaw, decodeAlu, FmtI.op_pack, FmtI.parse_pack, one, two, either]

theorem Laws.RoundTrip.wrsFflags (f : FmtI) : Laws.RoundTrip.Statement (.wrsFflags f) := read_back rfl fun hp => by
  simp [Instr.problems, chk, sclForm, plainT] at hp
  simp [decodeRaw, decodeAlu, FmtI.op_pack, FmtI.parse_pack, one, two, either, hp]

theorem Laws.RoundTrip.wrsSrseed (f : FmtI) : Laws.RoundTrip.Statement (.wrsSrseed f) := read_back rfl fun hp => by
  simp [Instr.problems, chk, sclForm, plainT] at hp
  simp [decodeRaw, decodeAlu, FmtI.op_pack, FmtI.parse_pack, one, two, either, hp]

theorem Laws.RoundTrip.kget (f : FmtI) : Laws.RoundTrip.Statement (.kget f) :=
  read_back rfl fun _ => by simp [decodeRaw, decodeAlu, FmtI.op_pack, FmtI.parse_pack, one, two, either]

theorem Laws.RoundTrip.wfield (f : FmtI) : Laws.RoundTrip.Statement (.wfield f) := read_back rfl fun hp => by
  simp [Instr.problems, chk, sclForm, plainT] at hp
  have hf := field_low hp.2
  simp [decodeRaw, decodeAlu, FmtI.op_pack, FmtI.parse_pack, one, two, either, hp, hf]

theorem Laws.RoundTrip.wfieldExt (f : FmtI) : Laws.RoundTrip.Statement (.wfieldExt f) := read_back rfl fun hp => by
  simp [Instr.problems, chk, sclForm, plainT] at hp
  have hf := field_high hp.2.1.1 hp.2.1.2
  simp [decodeRaw, decodeAlu, FmtI.op_pack, FmtI.parse_pack, one, two, either, hp, hf]

theorem Laws.RoundTrip.gget (f : FmtA) (x : XT) : Laws.RoundTrip.Statement (.gget f x) := read_back rfl fun hp => by
  simp [Instr.problems, chk, sclForm, plainT] at hp
  simp [decodeRaw, decodeAlu, FmtA.op_pack, FmtA.parse_pack, one, two, either, XT.parse_pack, hp]

theorem Laws.RoundTrip.gput (f : FmtA) (x : XT) : Laws.RoundTrip.Statement (.gput f x) := read_back rfl fun hp => by
  simp [Instr.problems, chk, sclForm, plainT] at hp
  simp [decodeRaw, decodeAlu, FmtA.op_pack, FmtA.parse_pack, one, two, either, XT.parse_pack, hp]

theorem Laws.RoundTrip.gclaim (f : FmtA) (x : XT) : Laws.RoundTrip.Statement (.gclaim f x) := read_back rfl fun hp => by
  simp [Instr.problems, chk, sclForm, plainT] at hp
  simp [decodeRaw, decodeAlu, FmtA.op_pack, FmtA.parse_pack, one, two, either, XT.parse_pack, hp]

theorem Laws.RoundTrip.grel (f : FmtA) (x : XT) : Laws.RoundTrip.Statement (.grel f x) := read_back rfl fun hp => by
  simp [Instr.problems, chk, sclForm, plainT] at hp
  simp [decodeRaw, decodeAlu, FmtA.op_pack, FmtA.parse_pack, one, two, either, XT.parse_pack, hp]

theorem Laws.RoundTrip.ld (f : FmtM) (x : Option XM) : Laws.RoundTrip.Statement (.ld f x) :=
  read_back rfl fun _ => by cases x <;> simp [decodeRaw, decodeMem, FmtM.op_pack, FmtM.parse_pack, one, two, either, FmtM.top_pack, XM.parse_pack]

theorem Laws.RoundTrip.st (f : FmtM) (x : Option XM) : Laws.RoundTrip.Statement (.st f x) :=
  read_back rfl fun _ => by cases x <;> simp [decodeRaw, decodeMem, FmtM.op_pack, FmtM.parse_pack, one, two, either, FmtM.top_pack, XM.parse_pack]

theorem Laws.RoundTrip.lds (f : FmtM) (x : Option XM) : Laws.RoundTrip.Statement (.lds f x) :=
  read_back rfl fun _ => by cases x <;> simp [decodeRaw, decodeMem, FmtM.op_pack, FmtM.parse_pack, one, two, either, FmtM.top_pack, XM.parse_pack]

theorem Laws.RoundTrip.sts (f : FmtM) (x : Option XM) : Laws.RoundTrip.Statement (.sts f x) :=
  read_back rfl fun _ => by cases x <;> simp [decodeRaw, decodeMem, FmtM.op_pack, FmtM.parse_pack, one, two, either, FmtM.top_pack, XM.parse_pack]

theorem Laws.RoundTrip.ldp (f : FmtM) (x : Option XM) : Laws.RoundTrip.Statement (.ldp f x) :=
  read_back rfl fun _ => by cases x <;> simp [decodeRaw, decodeMem, FmtM.op_pack, FmtM.parse_pack, one, two, either, FmtM.top_pack, XM.parse_pack]

theorem Laws.RoundTrip.stp (f : FmtM) (x : Option XM) : Laws.RoundTrip.Statement (.stp f x) :=
  read_back rfl fun _ => by cases x <;> simp [decodeRaw, decodeMem, FmtM.op_pack, FmtM.parse_pack, one, two, either, FmtM.top_pack, XM.parse_pack]

theorem Laws.RoundTrip.ldx (f : FmtM) (x : XG) : Laws.RoundTrip.Statement (.ldx f x) :=
  read_back rfl fun _ => by simp [decodeRaw, decodeMem, FmtM.op_pack, FmtM.parse_pack, one, two, either, FmtM.top_pack, XG.parse_pack]

theorem Laws.RoundTrip.stx (f : FmtM) (x : XG) : Laws.RoundTrip.Statement (.stx f x) :=
  read_back rfl fun _ => by simp [decodeRaw, decodeMem, FmtM.op_pack, FmtM.parse_pack, one, two, either, FmtM.top_pack, XG.parse_pack]

theorem Laws.RoundTrip.ldmx (f : FmtM) (x : Option XM) : Laws.RoundTrip.Statement (.ldmx f x) :=
  read_back rfl fun _ => by cases x <;> simp [decodeRaw, decodeMem, FmtM.op_pack, FmtM.parse_pack, one, two, either, FmtM.top_pack, XM.parse_pack]

theorem Laws.RoundTrip.stmx (f : FmtM) (x : Option XM) : Laws.RoundTrip.Statement (.stmx f x) :=
  read_back rfl fun _ => by cases x <;> simp [decodeRaw, decodeMem, FmtM.op_pack, FmtM.parse_pack, one, two, either, FmtM.top_pack, XM.parse_pack]

theorem Laws.RoundTrip.atom (f : FmtM) (x : Option XM) : Laws.RoundTrip.Statement (.atom f x) :=
  read_back rfl fun _ => by cases x <;> simp [decodeRaw, decodeMem, FmtM.op_pack, FmtM.parse_pack, one, two, either, FmtM.top_pack, XM.parse_pack]

theorem Laws.RoundTrip.cas (f : FmtM) (x : XM) : Laws.RoundTrip.Statement (.cas f x) :=
  read_back rfl fun _ => by simp [decodeRaw, decodeMem, FmtM.op_pack, FmtM.parse_pack, one, two, either, FmtM.top_pack, XM.parse_pack]

theorem Laws.RoundTrip.chase (f : FmtM) (x : XH) : Laws.RoundTrip.Statement (.chase f x) :=
  read_back rfl fun _ => by simp [decodeRaw, decodeMem, FmtM.op_pack, FmtM.parse_pack, one, two, either, FmtM.top_pack, XH.parse_pack]

theorem Laws.RoundTrip.fence (f : FmtM) : Laws.RoundTrip.Statement (.fence f) :=
  read_back rfl fun _ => by simp [decodeRaw, decodeMem, FmtM.op_pack, FmtM.parse_pack, one, two, either, FmtM.top_pack]

theorem Laws.RoundTrip.pf (f : FmtM) (x : Option XM) : Laws.RoundTrip.Statement (.pf f x) :=
  read_back rfl fun _ => by cases x <;> simp [decodeRaw, decodeMem, FmtM.op_pack, FmtM.parse_pack, one, two, either, FmtM.top_pack, XM.parse_pack]

theorem Laws.RoundTrip.ipf (f : FmtM) (x : Option XM) : Laws.RoundTrip.Statement (.ipf f x) :=
  read_back rfl fun _ => by cases x <;> simp [decodeRaw, decodeMem, FmtM.op_pack, FmtM.parse_pack, one, two, either, FmtM.top_pack, XM.parse_pack]

theorem Laws.RoundTrip.cwb (f : FmtM) (x : Option XM) : Laws.RoundTrip.Statement (.cwb f x) :=
  read_back rfl fun _ => by cases x <;> simp [decodeRaw, decodeMem, FmtM.op_pack, FmtM.parse_pack, one, two, either, FmtM.top_pack, XM.parse_pack]

theorem Laws.RoundTrip.cmdw (f : FmtE) : Laws.RoundTrip.Statement (.cmdw f) :=
  read_back rfl fun _ => by simp [decodeRaw, decodeEng, FmtE.op_pack, FmtE.parse_pack, one, two, either]

theorem Laws.RoundTrip.go (f : FmtE) : Laws.RoundTrip.Statement (.go f) :=
  read_back rfl fun _ => by simp [decodeRaw, decodeEng, FmtE.op_pack, FmtE.parse_pack, one, two, either]

theorem Laws.RoundTrip.fTest (f : FmtE) : Laws.RoundTrip.Statement (.fTest f) :=
  read_back rfl fun _ => by simp [decodeRaw, decodeEng, FmtE.op_pack, FmtE.parse_pack, one, two, either]

theorem Laws.RoundTrip.fWait (f : FmtE) (x : BitVec 32) : Laws.RoundTrip.Statement (.fWait f x) :=
  read_back rfl fun _ => by simp [decodeRaw, decodeEng, FmtE.op_pack, FmtE.parse_pack, one, two, either, wordRead]

theorem Laws.RoundTrip.fCancel (f : FmtE) : Laws.RoundTrip.Statement (.fCancel f) :=
  read_back rfl fun _ => by simp [decodeRaw, decodeEng, FmtE.op_pack, FmtE.parse_pack, one, two, either]

theorem Laws.RoundTrip.qInit (f : FmtE) : Laws.RoundTrip.Statement (.qInit f) :=
  read_back rfl fun _ => by simp [decodeRaw, decodeEng, FmtE.op_pack, FmtE.parse_pack, one, two, either]

theorem Laws.RoundTrip.qEnq (f : FmtE) : Laws.RoundTrip.Statement (.qEnq f) :=
  read_back rfl fun _ => by simp [decodeRaw, decodeEng, FmtE.op_pack, FmtE.parse_pack, one, two, either]

theorem Laws.RoundTrip.qDeq (f : FmtE) : Laws.RoundTrip.Statement (.qDeq f) :=
  read_back rfl fun _ => by simp [decodeRaw, decodeEng, FmtE.op_pack, FmtE.parse_pack, one, two, either]

theorem Laws.RoundTrip.qInfo (f : FmtE) : Laws.RoundTrip.Statement (.qInfo f) :=
  read_back rfl fun _ => by simp [decodeRaw, decodeEng, FmtE.op_pack, FmtE.parse_pack, one, two, either]

theorem Laws.RoundTrip.barInit (f : FmtE) : Laws.RoundTrip.Statement (.barInit f) :=
  read_back rfl fun _ => by simp [decodeRaw, decodeEng, FmtE.op_pack, FmtE.parse_pack, one, two, either]

theorem Laws.RoundTrip.barArv (f : FmtE) : Laws.RoundTrip.Statement (.barArv f) :=
  read_back rfl fun _ => by simp [decodeRaw, decodeEng, FmtE.op_pack, FmtE.parse_pack, one, two, either]

theorem Laws.RoundTrip.barExp (f : FmtE) : Laws.RoundTrip.Statement (.barExp f) :=
  read_back rfl fun _ => by simp [decodeRaw, decodeEng, FmtE.op_pack, FmtE.parse_pack, one, two, either]

theorem Laws.RoundTrip.barWait (f : FmtE) (x : BitVec 32) : Laws.RoundTrip.Statement (.barWait f x) :=
  read_back rfl fun _ => by simp [decodeRaw, decodeEng, FmtE.op_pack, FmtE.parse_pack, one, two, either, wordRead]

theorem Laws.RoundTrip.barTest (f : FmtE) : Laws.RoundTrip.Statement (.barTest f) :=
  read_back rfl fun _ => by simp [decodeRaw, decodeEng, FmtE.op_pack, FmtE.parse_pack, one, two, either]

theorem Laws.RoundTrip.barBlk (f : FmtE) : Laws.RoundTrip.Statement (.barBlk f) :=
  read_back rfl fun _ => by simp [decodeRaw, decodeEng, FmtE.op_pack, FmtE.parse_pack, one, two, either]

theorem Laws.RoundTrip.barCmp (f : FmtE) : Laws.RoundTrip.Statement (.barCmp f) :=
  read_back rfl fun _ => by simp [decodeRaw, decodeEng, FmtE.op_pack, FmtE.parse_pack, one, two, either]

theorem Laws.RoundTrip.mma (f : FmtQ) (x : Option XQ) : Laws.RoundTrip.Statement (.mma f x) :=
  read_back rfl fun _ => by cases x <;> simp [decodeRaw, decodeMat, FmtQ.op_pack, FmtQ.parse_pack, one, two, either, XQ.parse_pack]

theorem Laws.RoundTrip.accz (f : FmtQ) : Laws.RoundTrip.Statement (.accz f) :=
  read_back rfl fun _ => by simp [decodeRaw, decodeMat, FmtQ.op_pack, FmtQ.parse_pack, one, two, either]

theorem Laws.RoundTrip.accld (f : FmtQ) : Laws.RoundTrip.Statement (.accld f) :=
  read_back rfl fun _ => by simp [decodeRaw, decodeMat, FmtQ.op_pack, FmtQ.parse_pack, one, two, either]

theorem Laws.RoundTrip.accst (f : FmtQ) : Laws.RoundTrip.Statement (.accst f) :=
  read_back rfl fun _ => by simp [decodeRaw, decodeMat, FmtQ.op_pack, FmtQ.parse_pack, one, two, either]

theorem Laws.RoundTrip.mrq (f : FmtQ) (x : Option XQ) : Laws.RoundTrip.Statement (.mrq f x) :=
  read_back rfl fun _ => by cases x <;> simp [decodeRaw, decodeMat, FmtQ.op_pack, FmtQ.parse_pack, one, two, either, XQ.parse_pack]

theorem Laws.RoundTrip.mgd (f : FmtQ) (x : XQ) : Laws.RoundTrip.Statement (.mgd f x) :=
  read_back rfl fun _ => by simp [decodeRaw, decodeMat, FmtQ.op_pack, FmtQ.parse_pack, one, two, either, XQ.parse_pack]

theorem Laws.RoundTrip.macc (f : FmtQ) (x : XQ) : Laws.RoundTrip.Statement (.macc f x) :=
  read_back rfl fun _ => by simp [decodeRaw, decodeMat, FmtQ.op_pack, FmtQ.parse_pack, one, two, either, XQ.parse_pack]

theorem Laws.RoundTrip.mscl (f : FmtQ) (x : XQ) : Laws.RoundTrip.Statement (.mscl f x) :=
  read_back rfl fun _ => by simp [decodeRaw, decodeMat, FmtQ.op_pack, FmtQ.parse_pack, one, two, either, XQ.parse_pack]

theorem Laws.RoundTrip.mplane (f : FmtQ) : Laws.RoundTrip.Statement (.mplane f) :=
  read_back rfl fun _ => by simp [decodeRaw, decodeMat, FmtQ.op_pack, FmtQ.parse_pack, one, two, either]

theorem Laws.RoundTrip.bra (f : FmtC) : Laws.RoundTrip.Statement (.bra f) :=
  read_back rfl fun _ => by simp [decodeRaw, decodeCtl, FmtC.op_pack, FmtC.parse_pack, one, two, either, FmtC.top_pack]

theorem Laws.RoundTrip.brd (f : FmtC) (x : XD) : Laws.RoundTrip.Statement (.brd f x) :=
  read_back rfl fun _ => by simp [decodeRaw, decodeCtl, FmtC.op_pack, FmtC.parse_pack, one, two, either, FmtC.top_pack, XD.parse_pack]

theorem Laws.RoundTrip.jmp (f : FmtC) : Laws.RoundTrip.Statement (.jmp f) :=
  read_back rfl fun _ => by simp [decodeRaw, decodeCtl, FmtC.op_pack, FmtC.parse_pack, one, two, either, FmtC.top_pack]

theorem Laws.RoundTrip.call (f : FmtC) : Laws.RoundTrip.Statement (.call f) :=
  read_back rfl fun _ => by simp [decodeRaw, decodeCtl, FmtC.op_pack, FmtC.parse_pack, one, two, either, FmtC.top_pack]

theorem Laws.RoundTrip.calli (f : FmtC) (x : XD) : Laws.RoundTrip.Statement (.calli f x) :=
  read_back rfl fun _ => by simp [decodeRaw, decodeCtl, FmtC.op_pack, FmtC.parse_pack, one, two, either, FmtC.top_pack, XD.parse_pack]

theorem Laws.RoundTrip.ret (f : FmtC) : Laws.RoundTrip.Statement (.ret f) :=
  read_back rfl fun _ => by simp [decodeRaw, decodeCtl, FmtC.op_pack, FmtC.parse_pack, one, two, either, FmtC.top_pack]

theorem Laws.RoundTrip.reti (f : FmtC) : Laws.RoundTrip.Statement (.reti f) :=
  read_back rfl fun _ => by simp [decodeRaw, decodeCtl, FmtC.op_pack, FmtC.parse_pack, one, two, either, FmtC.top_pack]

theorem Laws.RoundTrip.join (f : FmtC) (x : XD) : Laws.RoundTrip.Statement (.join f x) :=
  read_back rfl fun _ => by simp [decodeRaw, decodeCtl, FmtC.op_pack, FmtC.parse_pack, one, two, either, FmtC.top_pack, XD.parse_pack]

theorem Laws.RoundTrip.exit (f : FmtC) : Laws.RoundTrip.Statement (.exit f) :=
  read_back rfl fun _ => by simp [decodeRaw, decodeCtl, FmtC.op_pack, FmtC.parse_pack, one, two, either, FmtC.top_pack]

theorem Laws.RoundTrip.yield (f : FmtC) : Laws.RoundTrip.Statement (.yield f) :=
  read_back rfl fun _ => by simp [decodeRaw, decodeCtl, FmtC.op_pack, FmtC.parse_pack, one, two, either, FmtC.top_pack]

theorem Laws.RoundTrip.acquire (f : FmtC) : Laws.RoundTrip.Statement (.acquire f) :=
  read_back rfl fun _ => by simp [decodeRaw, decodeCtl, FmtC.op_pack, FmtC.parse_pack, one, two, either, FmtC.top_pack]

theorem Laws.RoundTrip.trap (f : FmtC) : Laws.RoundTrip.Statement (.trap f) :=
  read_back rfl fun _ => by simp [decodeRaw, decodeCtl, FmtC.op_pack, FmtC.parse_pack, one, two, either, FmtC.top_pack]

theorem Laws.RoundTrip.brk (f : FmtC) : Laws.RoundTrip.Statement (.brk f) :=
  read_back rfl fun _ => by simp [decodeRaw, decodeCtl, FmtC.op_pack, FmtC.parse_pack, one, two, either, FmtC.top_pack]

theorem Laws.RoundTrip.nop (f : FmtC) : Laws.RoundTrip.Statement (.nop f) :=
  read_back rfl fun _ => by simp [decodeRaw, decodeCtl, FmtC.op_pack, FmtC.parse_pack, one, two, either, FmtC.top_pack]

theorem Laws.RoundTrip.rdsp (f : FmtS) : Laws.RoundTrip.Statement (.rdsp f) :=
  read_back rfl fun _ => by simp [decodeRaw, decodeSys, FmtS.op_pack, FmtS.parse_pack, one, two, either]

theorem Laws.RoundTrip.wrsp (f : FmtS) : Laws.RoundTrip.Statement (.wrsp f) := read_back rfl fun hp => by
  simp [Instr.problems, chk, sclForm, plainT] at hp
  simp [decodeRaw, decodeSys, FmtS.op_pack, FmtS.parse_pack, one, two, either, hp]

theorem Laws.RoundTrip.wrspXpc (f : FmtS) : Laws.RoundTrip.Statement (.wrspXpc f) := read_back rfl fun hp => by
  simp [Instr.problems, chk, sclForm, plainT] at hp
  simp [decodeRaw, decodeSys, FmtS.op_pack, FmtS.parse_pack, one, two, either, hp]

theorem Laws.RoundTrip.wrspXdeleg (f : FmtS) : Laws.RoundTrip.Statement (.wrspXdeleg f) := read_back rfl fun hp => by
  simp [Instr.problems, chk, sclForm, plainT] at hp
  simp [decodeRaw, decodeSys, FmtS.op_pack, FmtS.parse_pack, one, two, either, hp]

theorem Laws.RoundTrip.eret (f : FmtS) : Laws.RoundTrip.Statement (.eret f) :=
  read_back rfl fun _ => by simp [decodeRaw, decodeSys, FmtS.op_pack, FmtS.parse_pack, one, two, either]

theorem Laws.RoundTrip.tlbi (f : FmtS) : Laws.RoundTrip.Statement (.tlbi f) :=
  read_back rfl fun _ => by simp [decodeRaw, decodeSys, FmtS.op_pack, FmtS.parse_pack, one, two, either]

theorem Laws.RoundTrip.cfl (f : FmtS) : Laws.RoundTrip.Statement (.cfl f) :=
  read_back rfl fun _ => by simp [decodeRaw, decodeSys, FmtS.op_pack, FmtS.parse_pack, one, two, either]

theorem Laws.RoundTrip.qdrain (f : FmtS) : Laws.RoundTrip.Statement (.qdrain f) :=
  read_back rfl fun _ => by simp [decodeRaw, decodeSys, FmtS.op_pack, FmtS.parse_pack, one, two, either]

theorem Laws.RoundTrip.ctxs (f : FmtS) : Laws.RoundTrip.Statement (.ctxs f) :=
  read_back rfl fun _ => by simp [decodeRaw, decodeSys, FmtS.op_pack, FmtS.parse_pack, one, two, either]

theorem Laws.RoundTrip.ctxr (f : FmtS) : Laws.RoundTrip.Statement (.ctxr f) :=
  read_back rfl fun _ => by simp [decodeRaw, decodeSys, FmtS.op_pack, FmtS.parse_pack, one, two, either]

theorem Laws.RoundTrip.halt (f : FmtS) : Laws.RoundTrip.Statement (.halt f) :=
  read_back rfl fun _ => by simp [decodeRaw, decodeSys, FmtS.op_pack, FmtS.parse_pack, one, two, either]

theorem Laws.RoundTrip.yieldExpiry (w : Nat) : Laws.RoundTrip.Statement (.yieldExpiry w) := no_word rfl

theorem Laws.RoundTrip.resumeElement (cmp : Nat) : Laws.RoundTrip.Statement (.resumeElement cmp) := no_word rfl

theorem Laws.RoundTrip.loadReturn (id : Nat) : Laws.RoundTrip.Statement (.loadReturn id) := no_word rfl

theorem Laws.RoundTrip.storeAck (id : Nat) : Laws.RoundTrip.Statement (.storeAck id) := no_word rfl

theorem Laws.RoundTrip.chaseStep (id t : Nat) : Laws.RoundTrip.Statement (.chaseStep id t) := no_word rfl

theorem Laws.RoundTrip.chaseReply (id : Nat) : Laws.RoundTrip.Statement (.chaseReply id) := no_word rfl

theorem Laws.RoundTrip.pageWalk (core ctx : Nat) (va : DWord) : Laws.RoundTrip.Statement (.pageWalk core ctx va) :=
  no_word rfl

theorem Laws.RoundTrip.copyTake (id : Nat) : Laws.RoundTrip.Statement (.copyTake id) := no_word rfl

theorem Laws.RoundTrip.serialCommandStart (id : Nat) : Laws.RoundTrip.Statement (.serialCommandStart id) := no_word rfl

theorem Laws.RoundTrip.copyComplete (id : Nat) : Laws.RoundTrip.Statement (.copyComplete id) := no_word rfl

theorem Laws.RoundTrip.matrixEngineStart (q : Nat) : Laws.RoundTrip.Statement (.matrixEngineStart q) := no_word rfl

theorem Laws.RoundTrip.matrixEngineComplete (q : Nat) : Laws.RoundTrip.Statement (.matrixEngineComplete q) := no_word rfl

theorem Laws.RoundTrip.mgdRendezvous (leader : Nat) : Laws.RoundTrip.Statement (.mgdRendezvous leader) := no_word rfl

theorem Laws.RoundTrip.queuePublish (home id : Nat) : Laws.RoundTrip.Statement (.queuePublish home id) := no_word rfl

theorem Laws.RoundTrip.queueDeliver (home id : Nat) : Laws.RoundTrip.Statement (.queueDeliver home id) := no_word rfl

theorem Laws.RoundTrip.queueWaiterServe (home : Nat) (enq : Bool) : Laws.RoundTrip.Statement (.queueWaiterServe home enq) :=
  no_word rfl

theorem Laws.RoundTrip.queueInitServe (home : Nat) : Laws.RoundTrip.Statement (.queueInitServe home) := no_word rfl

theorem Laws.RoundTrip.barWaitTimeout (w : Nat) : Laws.RoundTrip.Statement (.barWaitTimeout w) := no_word rfl

theorem Laws.RoundTrip.fWaitTimeout (w : Nat) : Laws.RoundTrip.Statement (.fWaitTimeout w) := no_word rfl

theorem Laws.RoundTrip.warpFormation (block rec slot : Nat) : Laws.RoundTrip.Statement (.warpFormation block rec slot) :=
  no_word rfl

theorem Laws.RoundTrip.groupWaitExpiry (block rec slot : Nat) : Laws.RoundTrip.Statement (.groupWaitExpiry block rec slot) :=
  no_word rfl

theorem Laws.RoundTrip.acquireGrant (q : Nat) : Laws.RoundTrip.Statement (.acquireGrant q) := no_word rfl

theorem Laws.RoundTrip.admissionThrottle (core : Nat) : Laws.RoundTrip.Statement (.admissionThrottle core) := no_word rfl

theorem Laws.RoundTrip.gclaimGrant (block g : Nat) : Laws.RoundTrip.Statement (.gclaimGrant block g) := no_word rfl

theorem Laws.RoundTrip.allotmentReturn (w : Nat) : Laws.RoundTrip.Statement (.allotmentReturn w) := no_word rfl

theorem Laws.RoundTrip.launchDequeue (cmp q : Nat) : Laws.RoundTrip.Statement (.launchDequeue cmp q) := no_word rfl

theorem Laws.RoundTrip.dependenceRelease (launch : Nat) : Laws.RoundTrip.Statement (.dependenceRelease launch) := no_word rfl

theorem Laws.RoundTrip.clusterPlacement (launch : Nat) (cores : List Nat) (rot : Nat)
    : Laws.RoundTrip.Statement (.clusterPlacement launch cores rot) :=
  no_word rfl

theorem Laws.RoundTrip.resourceReport (die : Nat) : Laws.RoundTrip.Statement (.resourceReport die) := no_word rfl

theorem Laws.RoundTrip.launchComplete (launch : Nat) : Laws.RoundTrip.Statement (.launchComplete launch) := no_word rfl

theorem Laws.RoundTrip.priorityBoost (w : Nat) : Laws.RoundTrip.Statement (.priorityBoost w) := no_word rfl

theorem Laws.RoundTrip.scoreDecay (q : Nat) : Laws.RoundTrip.Statement (.scoreDecay q) := no_word rfl

theorem Laws.RoundTrip.softErrorCorrection (cmp unit : Nat) : Laws.RoundTrip.Statement (.softErrorCorrection cmp unit) :=
  no_word rfl

theorem Laws.RoundTrip.correctedError (cmp unit : Nat) : Laws.RoundTrip.Statement (.correctedError cmp unit) := no_word rfl

theorem Laws.RoundTrip.linkDown (die link : Nat) : Laws.RoundTrip.Statement (.linkDown die link) := no_word rfl

theorem Laws.RoundTrip.planeDead (plane : Nat) : Laws.RoundTrip.Statement (.planeDead plane) := no_word rfl

theorem Laws.RoundTrip.remoteRequest (r : RemoteReq) : Laws.RoundTrip.Statement (.remoteRequest r) := no_word rfl

theorem Laws.RoundTrip.rdmaWrite (h : RdmaHdr) (va : DWord) (data : List Byte)
    : Laws.RoundTrip.Statement (.rdmaWrite h va data) :=
  no_word rfl

theorem Laws.RoundTrip.rdmaRead (h : RdmaHdr) (va : DWord) (len : Nat)
    : Laws.RoundTrip.Statement (.rdmaRead h va len) :=
  no_word rfl

theorem Laws.RoundTrip.hostWindowWrite (h : RdmaHdr) (data : List Byte)
    : Laws.RoundTrip.Statement (.hostWindowWrite h data) :=
  no_word rfl

theorem Laws.RoundTrip.syncSummary (h : MgmtHdr) : Laws.RoundTrip.Statement (.syncSummary h) := no_word rfl

theorem Laws.RoundTrip.compartmentSet (h : MgmtHdr) (coreGroups : BitVec 48) (stackGroups : BitVec 8)
    : Laws.RoundTrip.Statement (.compartmentSet h coreGroups stackGroups) :=
  no_word rfl

theorem Laws.RoundTrip.contextCreate (h : MgmtHdr) (ctx : BitVec 16) (ptroot xvec : DWord)
    : Laws.RoundTrip.Statement (.contextCreate h ctx ptroot xvec) :=
  no_word rfl

theorem Laws.RoundTrip.contextDestroy (h : MgmtHdr) (ctx : BitVec 16) : Laws.RoundTrip.Statement (.contextDestroy h ctx) :=
  no_word rfl

theorem Laws.RoundTrip.queueSet (h : MgmtHdr) (what : QueueSetArg) : Laws.RoundTrip.Statement (.queueSet h what) :=
  no_word rfl

theorem Laws.RoundTrip.windowMap (h : MgmtHdr) (block : DWord) (ctx : BitVec 16)
    : Laws.RoundTrip.Statement (.windowMap h block ctx) :=
  no_word rfl

theorem Laws.RoundTrip.regionRegister (h : MgmtHdr) (ctx : BitVec 16) (base : DWord) (len : Nat) (rd wr side : Bool)
    : Laws.RoundTrip.Statement (.regionRegister h ctx base len rd wr side) :=
  no_word rfl

theorem Laws.RoundTrip.throttleSet (h : MgmtHdr) (table : List Nat) : Laws.RoundTrip.Statement (.throttleSet h table) :=
  no_word rfl

theorem Laws.RoundTrip.quiesce (h : MgmtHdr) : Laws.RoundTrip.Statement (.quiesce h) := no_word rfl

theorem Laws.RoundTrip.planeMap (h : MgmtHdr) (entries : List Nat) : Laws.RoundTrip.Statement (.planeMap h entries) :=
  no_word rfl

theorem Laws.RoundTrip.release (h : MgmtHdr) : Laws.RoundTrip.Statement (.release h) := no_word rfl

theorem Laws.RoundTrip.attest (h : MgmtHdr) (nonce : List Byte) : Laws.RoundTrip.Statement (.attest h nonce) := no_word rfl

theorem Laws.RoundTrip.attestCertificateChain (h : MgmtHdr) : Laws.RoundTrip.Statement (.attestCertificateChain h) :=
  no_word rfl

theorem Laws.RoundTrip.firmwareWrite (h : MgmtHdr) (off : Nat) (data : List Byte)
    : Laws.RoundTrip.Statement (.firmwareWrite h off data) :=
  no_word rfl

theorem Laws.RoundTrip.firmwareCommit (h : MgmtHdr) : Laws.RoundTrip.Statement (.firmwareCommit h) := no_word rfl

theorem Laws.RoundTrip.reset : Laws.RoundTrip.Statement (.reset) := no_word rfl

theorem Laws.RoundTrip.thermalLimit : Laws.RoundTrip.Statement (.thermalLimit) := no_word rfl

theorem Laws.RoundTrip.thermalRestore : Laws.RoundTrip.Statement (.thermalRestore) := no_word rfl

theorem Laws.RoundTrip.criticalTemperature : Laws.RoundTrip.Statement (.criticalTemperature) := no_word rfl

theorem Laws.RoundTrip.powerRemoval : Laws.RoundTrip.Statement (.powerRemoval) := no_word rfl

theorem Laws.RoundTrip.managementBadOpcode (h : MgmtHdr) (operands : List Byte)
    : Laws.RoundTrip.Statement (.managementBadOpcode h operands) :=
  no_word rfl

end Sys2Proof
end

