-- ==== Sys2Proof/Tests/Slice0.lean ====
section
/-! SUPPORT. The author's own checks: ill-formed terms that WellFormed refuses, the words of the spec's encodings that
decode to their instructions, small steps with results worked out by hand from the rules, and for every statement with
hypotheses a state and operands that meet them. -/

set_option maxRecDepth 20000

namespace Sys2Proof.Machine.Tests

set_option Elab.async false

/-! ### Well-formedness: each check refuses a term -/

theorem test_wf_unassigned : decode .mem 0x00000000 none = .error .unassigned := by decide +kernel
theorem test_wf_longBit : decode .ctl 0x0000000E (some 0) = .error .longBit := by decide +kernel
theorem test_wf_zeroField : (Instr.exit ⟨false, false, 0, 1⟩).problems = [.zeroField] := by decide +kernel
theorem test_wf_uniform : (Instr.hadd2 ⟨false, true, 0, 1, 2, 3⟩ ⟨⟨false, 0, false⟩, 0, false, false, 0, 0, 0⟩).problems =
  [.uniform] := by decide +kernel
theorem test_wf_latch : (Instr.sget ⟨true, false, 0, 0, 2, 0⟩ ⟨⟨false, 0, false⟩, 0, 0, false, 0, 0, 0⟩).problems = [.latch] := by
  decide +kernel
theorem test_wf_permute : (Instr.iadd ⟨false, false, 0, 1, 2, 3⟩ (some ⟨⟨false, 0, false⟩, 0, false, false, 0, 0x50, 0⟩)).problems =
  [.permute] := by decide +kernel
theorem test_wf_reserved : (Instr.ld ⟨false, 0, false, 0, 5, 1, 2⟩ none).problems = [.reserved] := by decide +kernel
theorem test_wf_subOperation : .subOperation ∈ (Instr.halt ⟨2, 0, 0⟩).problems := by decide +kernel
theorem test_wf_order : (Instr.st ⟨false, 0, false, 0, 2, 1, 2⟩ (some ⟨⟨false, 0, false⟩, 0, 2, 0⟩)).problems = [.order] := by
  decide +kernel
theorem test_wf_mixedTypes : (Instr.mma ⟨false, false, 0, 1, 2, 3⟩ (some ⟨⟨false, 0, false⟩, 0, 0, 0, false, 6⟩)).problems =
  [.mixedTypes] := by decide +kernel
theorem test_wf_guarded : (Instr.mgd ⟨false, false, 0, 0, 0, 3⟩ ⟨⟨false, 0, true⟩, 0, 1, 0, false, 0⟩).problems = [.guarded] := by
  decide +kernel

/-! ### Decoding: words written out from Tables 8.1 to 8.16 and the opcode table -/

/-- Field by field, one word of each class: iadd, ld, go, mma, brd, wrsp. -/
theorem test_decode_fields :
    decode .alu (0#1 ++ 0#1 ++ 2#3 ++ 33#7 ++ 17#7 ++ 5#7 ++ 1#6) none = .ok (.iadd ⟨false, false, 2, 33, 17, 5⟩ none) ∧
    decode .mem (0#1 ++ 1#1 ++ 0#4 ++ 0#1 ++ 3#2 ++ 3#3 ++ 9#7 ++ 8#7 ++ 1#6) none =
      .ok (.ld ⟨true, 0, false, 3, 3, 9, 8⟩ none) ∧
    decode .eng (1#3 ++ 2#2 ++ 0#7 ++ 5#7 ++ 4#7 ++ 2#6) none = .ok (.go ⟨1, 2, 0, 5, 4⟩) ∧
    decode .mat (0#1 ++ 1#1 ++ 7#3 ++ 1#7 ++ 8#7 ++ 2#7 ++ 1#6) none = .ok (.mma ⟨false, true, 7, 1, 8, 2⟩ none) ∧
    decode .ctl (0#1 ++ 1#1 ++ 0#1 ++ 7#3 ++ 5#20 ++ 2#6) (some (0#20 ++ 1#5 ++ 2#7)) = .ok (.brd ⟨true, false, 7, 5⟩ ⟨1, 2⟩) ∧
    decode .sys (10#12 ++ 3#7 ++ 0#7 ++ 2#6) none = .ok (.wrsp ⟨10, 3, 0⟩) := by
  decide +kernel

theorem test_header : Header.parse (1#1 ++ 2#3 ++ 1#1 ++ 1#1 ++ 5#4 ++ 5#15 ++ 1#3 ++ 3#4) =
    some ⟨true, 2, true, true, 5, 5, .mem, 3⟩ ∧
    (Header.parse (0#1 ++ 0#3 ++ 0#1 ++ 0#1 ++ 0#4 ++ 5#15 ++ 1#3 ++ 3#4)).map (fun h => (h.body, h.wordIndex 2)) =
      some (5, 3) ∧
    Header.parse (0#1 ++ 0#3 ++ 0#1 ++ 0#1 ++ 0#4 ++ 8#15 ++ 1#3 ++ 3#4) = none ∧
    Header.parse (0#1 ++ 0#3 ++ 0#1 ++ 0#1 ++ 0#4 ++ 0#15 ++ 1#3 ++ 0#4) = none ∧
    Header.parse (1#1 ++ 0#3 ++ 0#1 ++ 0#1 ++ 0#4 ++ 0#15 ++ 1#3 ++ 1#4) = none ∧
    Header.parse (0#1 ++ 0#3 ++ 1#1 ++ 0#1 ++ 0#4 ++ 0#15 ++ 3#3 ++ 1#4) = none := by
  decide +kernel

theorem test_decode_alu_1 :
    decode .alu 0x12122141 none = .ok (.iadd ⟨false, false, 2, 33, 17, 5⟩ none) ∧
    decode .alu 0x12122142 none = .ok (.isub ⟨false, false, 2, 33, 17, 5⟩ none) ∧
    decode .alu 0x12122143 none = .ok (.imul ⟨false, false, 2, 33, 17, 5⟩ none) ∧
    decode .alu 0x12122144 none = .ok (.imulh ⟨false, false, 2, 33, 17, 5⟩ none) ∧
    decode .alu 0x12122145 none = .ok (.imulhu ⟨false, false, 2, 33, 17, 5⟩ none) ∧
    decode .alu 0x02122146 (some 0xE84D0013) = .ok (.imad ⟨false, false, 0, 33, 17, 5⟩ ⟨⟨true, 6, true⟩, 0, false, false, 77, 0, 19⟩) ∧
    decode .alu 0x82122007 (some 0xE8004113) = .ok (.iadd64 ⟨true, false, 0, 33, 17, 0⟩ (some ⟨⟨true, 6, true⟩, 0, false, false, 0, 65, 19⟩)) ∧
    decode .alu 0x02122148 (some 0xE8000013) = .ok (.imin ⟨false, false, 0, 33, 17, 5⟩ (some ⟨⟨true, 6, true⟩, 0, false, false, 0, 0, 19⟩)) ∧
    decode .alu 0x82122009 (some 0xE8000013) = .ok (.imax ⟨true, false, 0, 33, 17, 0⟩ (some ⟨⟨true, 6, true⟩, 0, false, false, 0, 0, 19⟩)) ∧
    decode .alu 0x0212214A (some 0xE8004113) = .ok (.umin ⟨false, false, 0, 33, 17, 5⟩ (some ⟨⟨true, 6, true⟩, 0, false, false, 0, 65, 19⟩)) ∧
    decode .alu 0x8212200B (some 0xE8004113) = .ok (.umax ⟨true, false, 0, 33, 17, 0⟩ (some ⟨⟨true, 6, true⟩, 0, false, false, 0, 65, 19⟩)) ∧
    decode .alu 0x0212214C (some 0xE8000013) = .ok (.andR ⟨false, false, 0, 33, 17, 5⟩ (some ⟨⟨true, 6, true⟩, 0, false, false, 0, 0, 19⟩)) ∧
    decode .alu 0x8212200D (some 0xE8000013) = .ok (.orR ⟨true, false, 0, 33, 17, 0⟩ (some ⟨⟨true, 6, true⟩, 0, false, false, 0, 0, 19⟩)) ∧
    decode .alu 0x0212214E (some 0xE8004113) = .ok (.xorR ⟨false, false, 0, 33, 17, 5⟩ (some ⟨⟨true, 6, true⟩, 0, false, false, 0, 65, 19⟩)) ∧
    decode .alu 0x8212200F (some 0xE8004113) = .ok (.andn ⟨true, false, 0, 33, 17, 0⟩ (some ⟨⟨true, 6, true⟩, 0, false, false, 0, 65, 19⟩)) ∧
    decode .alu 0x02122150 (some 0xE8000013) = .ok (.shl ⟨false, false, 0, 33, 17, 5⟩ (some ⟨⟨true, 6, true⟩, 0, false, false, 0, 0, 19⟩)) ∧
    decode .alu 0x82122011 (some 0xE8000013) = .ok (.shr ⟨true, false, 0, 33, 17, 0⟩ (some ⟨⟨true, 6, true⟩, 0, false, false, 0, 0, 19⟩)) ∧
    decode .alu 0x02122152 (some 0xE8004113) = .ok (.sar ⟨false, false, 0, 33, 17, 5⟩ (some ⟨⟨true, 6, true⟩, 0, false, false, 0, 65, 19⟩)) := by
  decide +kernel

theorem test_decode_alu_2 :
    decode .alu 0x82122013 (some 0xE8004113) = .ok (.rotl ⟨true, false, 0, 33, 17, 0⟩ (some ⟨⟨true, 6, true⟩, 0, false, false, 0, 65, 19⟩)) ∧
    decode .alu 0x00022154 (some 0x89ABCDEF) = .ok (.iaddi ⟨false, false, 0, 17, 5⟩ (some 0x89ABCDEF)) ∧
    decode .alu 0x00022155 (some 0x89ABCDEF) = .ok (.andi ⟨false, false, 0, 17, 5⟩ (some 0x89ABCDEF)) ∧
    decode .alu 0x00022156 (some 0x89ABCDEF) = .ok (.ori ⟨false, false, 0, 17, 5⟩ (some 0x89ABCDEF)) ∧
    decode .alu 0x00022157 (some 0x89ABCDEF) = .ok (.xori ⟨false, false, 0, 17, 5⟩ (some 0x89ABCDEF)) ∧
    decode .alu 0x43F22158 none = .ok (.shli ⟨false, true, 63, 17, 5⟩) ∧
    decode .alu 0x43F22159 none = .ok (.shri ⟨false, true, 63, 17, 5⟩) ∧
    decode .alu 0x43F2215A none = .ok (.sari ⟨false, true, 63, 17, 5⟩) ∧
    decode .alu 0x3FF0015B none = .ok (.movi ⟨false, false, 1023, 0, 5⟩ none) ∧
    decode .alu 0x1A10015C none = .ok (.mov ⟨false, false, 3, 33, 0, 5⟩ none) ∧
    decode .alu 0x0212215D (some 0xEE800013) = .ok (.lea ⟨false, false, 0, 33, 17, 5⟩ ⟨⟨true, 6, true⟩, 3, false, true, 0, 0, 19⟩) ∧
    decode .alu 0x0002215E none = .ok (.clz ⟨false, false, 0, 0, 17, 5⟩ none) ∧
    decode .alu 0x0012215E (some 0xE8000013) = .ok (.popc ⟨false, false, 0, 1, 17, 5⟩ (some ⟨⟨true, 6, true⟩, 0, false, false, 0, 0, 19⟩)) ∧
    decode .alu 0x0022215E none = .ok (.brev ⟨false, false, 0, 2, 17, 5⟩ none) ∧
    decode .alu 0x0032215E (some 0xE8000013) = .ok (.iabs ⟨false, false, 0, 3, 17, 5⟩ (some ⟨⟨true, 6, true⟩, 0, false, false, 0, 0, 19⟩)) ∧
    decode .alu 0x0042215E none = .ok (.notR ⟨false, false, 0, 4, 17, 5⟩ none) ∧
    decode .alu 0x0052215E (some 0xE8000013) = .ok (.sext8 ⟨false, false, 0, 5, 17, 5⟩ (some ⟨⟨true, 6, true⟩, 0, false, false, 0, 0, 19⟩)) ∧
    decode .alu 0x0062215E none = .ok (.sext16 ⟨false, false, 0, 6, 17, 5⟩ none) := by
  decide +kernel

theorem test_decode_alu_3 :
    decode .alu 0x0072215E (some 0xE8000013) = .ok (.zext8 ⟨false, false, 0, 7, 17, 5⟩ (some ⟨⟨true, 6, true⟩, 0, false, false, 0, 0, 19⟩)) ∧
    decode .alu 0x0082215E none = .ok (.zext16 ⟨false, false, 0, 8, 17, 5⟩ none) ∧
    decode .alu 0x2A52215F none = .ok (.bfx ⟨false, false, 677, 17, 5⟩) ∧
    decode .alu 0x15A2216F none = .ok (.bfi ⟨false, false, 346, 17, 5⟩) ∧
    decode .alu 0x02122160 (some 0xEA000013) = .ok (.fadd ⟨false, false, 0, 33, 17, 5⟩ (some ⟨⟨true, 6, true⟩, 1, false, false, 0, 0, 19⟩)) ∧
    decode .alu 0x02122161 (some 0xEA000013) = .ok (.fsub ⟨false, false, 0, 33, 17, 5⟩ (some ⟨⟨true, 6, true⟩, 1, false, false, 0, 0, 19⟩)) ∧
    decode .alu 0x02122162 (some 0xEA000013) = .ok (.fmul ⟨false, false, 0, 33, 17, 5⟩ (some ⟨⟨true, 6, true⟩, 1, false, false, 0, 0, 19⟩)) ∧
    decode .alu 0x42122163 (some 0xEE0C0000) = .ok (.ffma ⟨false, true, 0, 33, 17, 5⟩ ⟨⟨true, 6, true⟩, 3, false, false, 12, 0, 0⟩) ∧
    decode .alu 0x02122164 none = .ok (.fmin ⟨false, false, 0, 33, 17, 5⟩ none) ∧
    decode .alu 0x02122165 none = .ok (.fmax ⟨false, false, 0, 33, 17, 5⟩ none) ∧
    decode .alu 0x02122166 (some 0xEC000013) = .ok (.fdiv ⟨false, false, 0, 33, 17, 5⟩ (some ⟨⟨true, 6, true⟩, 2, false, false, 0, 0, 19⟩)) ∧
    decode .alu 0x00022167 none = .ok (.fneg ⟨false, false, 0, 0, 17, 5⟩ none) ∧
    decode .alu 0x00122167 none = .ok (.fabs ⟨false, false, 0, 1, 17, 5⟩ none) ∧
    decode .alu 0x00222167 none = .ok (.frcp ⟨false, false, 0, 2, 17, 5⟩ none) ∧
    decode .alu 0x00322167 none = .ok (.frsqrt ⟨false, false, 0, 3, 17, 5⟩ none) ∧
    decode .alu 0x00422167 none = .ok (.fsqrt ⟨false, false, 0, 4, 17, 5⟩ none) ∧
    decode .alu 0x00522167 none = .ok (.fexp2 ⟨false, false, 0, 5, 17, 5⟩ none) ∧
    decode .alu 0x00622167 none = .ok (.flog2 ⟨false, false, 0, 6, 17, 5⟩ none) := by
  decide +kernel

theorem test_decode_alu_4 :
    decode .alu 0x00722167 none = .ok (.ffloor ⟨false, false, 0, 7, 17, 5⟩ none) ∧
    decode .alu 0x00822167 none = .ok (.fceil ⟨false, false, 0, 8, 17, 5⟩ none) ∧
    decode .alu 0x00922167 none = .ok (.ftrunc ⟨false, false, 0, 9, 17, 5⟩ none) ∧
    decode .alu 0x00A22167 none = .ok (.frint ⟨false, false, 0, 10, 17, 5⟩ none) ∧
    decode .alu 0x02122168 (some 0xEA000013) = .ok (.hadd2 ⟨false, false, 0, 33, 17, 5⟩ ⟨⟨true, 6, true⟩, 1, false, false, 0, 0, 19⟩) ∧
    decode .alu 0x02122169 (some 0xEA000013) = .ok (.hmul2 ⟨false, false, 0, 33, 17, 5⟩ ⟨⟨true, 6, true⟩, 1, false, false, 0, 0, 19⟩) ∧
    decode .alu 0x0212216A (some 0xE9090013) = .ok (.hfma2 ⟨false, false, 0, 33, 17, 5⟩ ⟨⟨true, 6, true⟩, 0, true, false, 9, 0, 19⟩) ∧
    decode .alu 0x0002216B (some 0xE8000C52) = .ok (.cvt ⟨false, false, 0, 0, 17, 5⟩ ⟨⟨true, 6, true⟩, 0, 0, true, 4, 5, 2⟩) ∧
    decode .alu 0x0002216C (some 0xE8001892) = .ok (.mxpack ⟨false, false, 0, 0, 17, 5⟩ ⟨⟨true, 6, true⟩, 0, 1, true, 0, 9, 2⟩) ∧
    decode .alu 0x0002216D (some 0xE8000029) = .ok (.mxunpack ⟨false, false, 0, 0, 17, 5⟩ ⟨⟨true, 6, true⟩, 0, 0, false, 0, 2, 9⟩) ∧
    decode .alu 0x0002216E (some 0xE8030000) = .ok (.sget ⟨false, false, 0, 0, 17, 5⟩ ⟨⟨true, 6, true⟩, 3, 0, false, 0, 0, 0⟩) ∧
    decode .alu 0x0002216E (some 0xE8021000) = .ok (.sput ⟨false, false, 0, 0, 17, 5⟩ ⟨⟨true, 6, true⟩, 2, 1, false, 0, 0, 0⟩) ∧
    decode .alu 0x0002216E (some 0xE8002000) = .ok (.smov ⟨false, false, 0, 0, 17, 5⟩ ⟨⟨true, 6, true⟩, 0, 2, false, 0, 0, 0⟩) ∧
    decode .alu 0x0212216E (some 0xE8003000) = .ok (.sadd ⟨false, false, 0, 33, 17, 5⟩ ⟨⟨true, 6, true⟩, 0, 3, false, 0, 0, 0⟩) ∧
    decode .alu 0x0212216E (some 0xE8004000) = .ok (.smax ⟨false, false, 0, 33, 17, 5⟩ ⟨⟨true, 6, true⟩, 0, 4, false, 0, 0, 0⟩) ∧
    decode .alu 0x0002216E (some 0xE8005000) = .ok (.sfill ⟨false, false, 0, 0, 17, 5⟩ ⟨⟨true, 6, true⟩, 0, 5, false, 0, 0, 0⟩) ∧
    decode .alu 0x021220B0 (some 0xE8034001) = .ok (.icmp ⟨false, false, 0, 33, 17, 2⟩ ⟨⟨true, 6, true⟩, 3, 4, false, 0, 0, 1⟩) ∧
    decode .alu 0x021220B1 (some 0xE8037003) = .ok (.fcmp ⟨false, false, 0, 33, 17, 2⟩ ⟨⟨true, 6, true⟩, 3, 7, false, 0, 0, 3⟩) := by
  decide +kernel

theorem test_decode_alu_5 :
    decode .alu 0x004060B2 (some 0xE8003000) = .ok (.plog ⟨false, false, 0, 4, 3, 2⟩ ⟨⟨true, 6, true⟩, 0, 3, false, 0, 0, 0⟩) ∧
    decode .alu 0x02122173 (some 0xE8062113) = .ok (.sel ⟨false, false, 0, 33, 17, 5⟩ ⟨⟨true, 6, true⟩, 0, false, false, 6, 33, 19⟩) ∧
    decode .alu 0x000060B4 (some 0xE8000000) = .ok (.voteAny ⟨false, false, 0, 0, 3, 2⟩ ⟨⟨true, 6, true⟩, 0, 0, false, 0, 0, 0⟩) ∧
    decode .alu 0x000060B4 (some 0xE8001000) = .ok (.voteAll ⟨false, false, 0, 0, 3, 2⟩ ⟨⟨true, 6, true⟩, 0, 1, false, 0, 0, 0⟩) ∧
    decode .alu 0x000060B4 (some 0xE8002000) = .ok (.voteBallot ⟨false, false, 0, 0, 3, 2⟩ ⟨⟨true, 6, true⟩, 0, 2, false, 0, 0, 0⟩) ∧
    decode .alu 0x000060B4 (some 0xE8003000) = .ok (.voteCount ⟨false, false, 0, 0, 3, 2⟩ ⟨⟨true, 6, true⟩, 0, 3, false, 0, 0, 0⟩) ∧
    decode .alu 0x0A122175 none = .ok (.shfl ⟨false, false, 1, 33, 17, 5⟩ none) ∧
    decode .alu 0x07F22176 none = .ok (.bcast ⟨false, false, 127, 17, 5⟩) ∧
    decode .alu 0x00022177 (some 0xE8005001) = .ok (.redux ⟨false, false, 0, 0, 17, 5⟩ ⟨⟨true, 6, true⟩, 0, 5, false, 0, 0, 1⟩) ∧
    decode .alu 0x00022178 (some 0xE800A002) = .ok (.scan ⟨false, false, 0, 0, 17, 5⟩ ⟨⟨true, 6, true⟩, 0, 10, false, 0, 0, 2⟩) ∧
    decode .alu 0x00600179 none = .ok (.rds ⟨false, false, 6, 0, 5⟩) ∧
    decode .alu 0x40A2203A none = .ok (.wrsFflags ⟨false, true, 10, 17, 0⟩) ∧
    decode .alu 0x40B2203A none = .ok (.wrsSrseed ⟨false, true, 11, 17, 0⟩) ∧
    decode .alu 0x04D0017B none = .ok (.kget ⟨false, false, 77, 0, 5⟩) ∧
    decode .alu 0x0002217C (some 0xE8000000) = .ok (.gget ⟨false, false, 0, 0, 17, 5⟩ ⟨⟨true, 6, true⟩, 0, 0, false, 0, 0, 0⟩) ∧
    decode .alu 0x0002217C (some 0xE8001000) = .ok (.gput ⟨false, false, 0, 0, 17, 5⟩ ⟨⟨true, 6, true⟩, 0, 1, false, 0, 0, 0⟩) ∧
    decode .alu 0x0000017C (some 0xE8002000) = .ok (.gclaim ⟨false, false, 0, 0, 0, 5⟩ ⟨⟨true, 6, true⟩, 0, 2, false, 0, 0, 0⟩) ∧
    decode .alu 0x0000017C (some 0xE8003000) = .ok (.grel ⟨false, false, 0, 0, 0, 5⟩ ⟨⟨true, 6, true⟩, 0, 3, false, 0, 0, 0⟩) := by
  decide +kernel

theorem test_decode_alu_6 :
    decode .alu 0x0052217D none = .ok (.wfield ⟨false, false, 5, 17, 5⟩) ∧
    decode .alu 0x00D0017D none = .ok (.wfieldExt ⟨false, false, 13, 0, 5⟩) ∧
    decode .alu 0x0000617E (some 0xE8000000) = .ok (.pmovGet ⟨false, false, 0, 0, 3, 5⟩ ⟨⟨true, 6, true⟩, 0, 0, false, 0, 0, 0⟩) ∧
    decode .alu 0x000220FE (some 0xE8001000) = .ok (.pmovPut ⟨false, false, 0, 0, 17, 3⟩ ⟨⟨true, 6, true⟩, 0, 1, false, 0, 0, 0⟩) := by
  decide +kernel

theorem test_decode_mem_1 :
    decode .mem 0x03150201 (some 0xEA2FFFF8) = .ok (.ld ⟨false, 0, true, 2, 1, 40, 8⟩ (some ⟨⟨true, 6, true⟩, 4, 2, 1048568⟩)) ∧
    decode .mem 0x01450202 (some 0xEA3FFFF8) = .ok (.st ⟨false, 0, false, 2, 4, 40, 8⟩ (some ⟨⟨true, 6, true⟩, 4, 3, 1048568⟩)) ∧
    decode .mem 0x41350203 none = .ok (.lds ⟨true, 0, false, 2, 3, 40, 8⟩ none) ∧
    decode .mem 0x41250204 none = .ok (.sts ⟨true, 0, false, 2, 2, 40, 8⟩ none) ∧
    decode .mem 0x01250205 (some 0xE80FFFF8) = .ok (.ldp ⟨false, 0, false, 2, 2, 40, 8⟩ (some ⟨⟨true, 6, true⟩, 0, 0, 1048568⟩)) ∧
    decode .mem 0x01250206 none = .ok (.stp ⟨false, 0, false, 2, 2, 40, 8⟩ none) ∧
    decode .mem 0x01250207 (some 0xEA1FC189) = .ok (.ldx ⟨false, 0, false, 2, 2, 40, 8⟩ ⟨⟨true, 6, true⟩, 4, 1, 1008, 3, 9⟩) ∧
    decode .mem 0x01250208 (some 0xEA5FC189) = .ok (.stx ⟨false, 0, false, 2, 2, 40, 8⟩ ⟨⟨true, 6, true⟩, 4, 5, 1008, 3, 9⟩) ∧
    decode .mem 0x49050209 none = .ok (.ldmx ⟨true, 2, false, 2, 0, 40, 8⟩ none) ∧
    decode .mem 0x4505020A (some 0xEA0FFFF8) = .ok (.stmx ⟨true, 1, false, 2, 0, 40, 8⟩ (some ⟨⟨true, 6, true⟩, 4, 0, 1048568⟩)) ∧
    decode .mem 0x2535020B (some 0xEA4FFFF8) = .ok (.atom ⟨false, 9, false, 2, 3, 40, 8⟩ (some ⟨⟨true, 6, true⟩, 4, 4, 1048568⟩)) ∧
    decode .mem 0x0125020C (some 0xEA5FFFF8) = .ok (.cas ⟨false, 0, false, 2, 2, 40, 8⟩ ⟨⟨true, 6, true⟩, 4, 5, 1048568⟩) ∧
    decode .mem 0x1D35020D (some 0xE800000C) = .ok (.chase ⟨false, 7, false, 2, 3, 40, 8⟩ ⟨⟨true, 6, true⟩, 12⟩) ∧
    decode .mem 0x1560000E none = .ok (.fence ⟨false, 5, false, 2, 6, 0, 0⟩) ∧
    decode .mem 0x0105020F none = .ok (.pf ⟨false, 0, false, 2, 0, 40, 8⟩ none) ∧
    decode .mem 0x4D050210 none = .ok (.ipf ⟨true, 3, false, 2, 0, 40, 8⟩ none) ∧
    decode .mem 0x19050211 none = .ok (.cwb ⟨false, 6, false, 2, 0, 40, 8⟩ none) := by
  decide +kernel

theorem test_decode_eng_1 :
    decode .eng 0x68000101 none = .ok (.cmdw ⟨3, 1, 0, 0, 4⟩) ∧
    decode .eng 0x6860A102 none = .ok (.go ⟨3, 1, 6, 5, 4⟩) ∧
    decode .eng 0x0800A103 none = .ok (.fTest ⟨0, 1, 0, 5, 4⟩) ∧
    decode .eng 0x0800A104 (some 0xFFFFFFFE) = .ok (.fWait ⟨0, 1, 0, 5, 4⟩ 0xFFFFFFFE) ∧
    decode .eng 0x0800A105 none = .ok (.fCancel ⟨0, 1, 0, 5, 4⟩) ∧
    decode .eng 0x0860A106 none = .ok (.qInit ⟨0, 1, 6, 5, 4⟩) ∧
    decode .eng 0x4860A107 none = .ok (.qEnq ⟨2, 1, 6, 5, 4⟩) ∧
    decode .eng 0x2800A108 none = .ok (.qDeq ⟨1, 1, 0, 5, 4⟩) ∧
    decode .eng 0x0800A109 none = .ok (.qInfo ⟨0, 1, 0, 5, 4⟩) ∧
    decode .eng 0x0800A10A none = .ok (.barInit ⟨0, 1, 0, 5, 4⟩) ∧
    decode .eng 0x0800A10B none = .ok (.barArv ⟨0, 1, 0, 5, 4⟩) ∧
    decode .eng 0x0800A10C none = .ok (.barExp ⟨0, 1, 0, 5, 4⟩) ∧
    decode .eng 0x0860A10D (some 0x000003E8) = .ok (.barWait ⟨0, 1, 6, 5, 4⟩ 1000) ∧
    decode .eng 0x0800A10E none = .ok (.barTest ⟨0, 1, 0, 5, 4⟩) ∧
    decode .eng 0x0800000F none = .ok (.barBlk ⟨0, 1, 0, 0, 0⟩) ∧
    decode .eng 0x0800A110 none = .ok (.barCmp ⟨0, 1, 0, 5, 4⟩) := by
  decide +kernel

theorem test_decode_mat_1 :
    decode .mat 0x91010041 (some 0x0000000D) = .ok (.mma ⟨true, false, 2, 16, 8, 1⟩ (some ⟨⟨false, 0, false⟩, 0, 0, 0, true, 5⟩)) ∧
    decode .mat 0x00000042 none = .ok (.accz ⟨false, false, 0, 0, 0, 1⟩) ∧
    decode .mat 0x00010043 none = .ok (.accld ⟨false, false, 0, 0, 8, 1⟩) ∧
    decode .mat 0x00020044 none = .ok (.accst ⟨false, false, 0, 0, 16, 1⟩) ∧
    decode .mat 0x68010045 (some 0x00080000) = .ok (.mrq ⟨false, true, 5, 0, 8, 1⟩ (some ⟨⟨false, 0, false⟩, 4, 0, 0, false, 0⟩)) ∧
    decode .mat 0x00000046 (some 0x00002400) = .ok (.mgd ⟨false, false, 0, 0, 0, 1⟩ ⟨⟨false, 0, false⟩, 0, 9, 0, false, 0⟩) ∧
    decode .mat 0x00000047 (some 0x00000030) = .ok (.macc ⟨false, false, 0, 0, 0, 1⟩ ⟨⟨false, 0, false⟩, 0, 0, 3, false, 0⟩) ∧
    decode .mat 0x00000048 (some 0x00062400) = .ok (.mscl ⟨false, false, 0, 0, 0, 1⟩ ⟨⟨false, 0, false⟩, 3, 9, 0, false, 0⟩) ∧
    decode .mat 0x70710009 none = .ok (.mplane ⟨false, true, 6, 7, 8, 0⟩) := by
  decide +kernel

theorem test_decode_ctl_1 :
    decode .ctl 0x77FFFFC1 none = .ok (.bra ⟨true, true, 5, 1048575⟩) ∧
    decode .ctl 0x500001C2 (some 0x00000821) = .ok (.brd ⟨true, false, 4, 7⟩ ⟨16, 33⟩) ∧
    decode .ctl 0x02000003 none = .ok (.jmp ⟨false, false, 0, 524288⟩) ∧
    decode .ctl 0x00000044 none = .ok (.call ⟨false, false, 0, 1⟩) ∧
    decode .ctl 0x00001F85 (some 0x00000821) = .ok (.calli ⟨false, false, 0, 126⟩ ⟨16, 33⟩) ∧
    decode .ctl 0x00001FC6 none = .ok (.ret ⟨false, false, 0, 127⟩) ∧
    decode .ctl 0x00000007 none = .ok (.reti ⟨false, false, 0, 0⟩) ∧
    decode .ctl 0x00000008 (some 0x0000006F) = .ok (.join ⟨false, false, 0, 0⟩ ⟨0, 111⟩) ∧
    decode .ctl 0x00000009 none = .ok (.exit ⟨false, false, 0, 0⟩) ∧
    decode .ctl 0x0000000A none = .ok (.yield ⟨false, false, 0, 0⟩) ∧
    decode .ctl 0x0000000B none = .ok (.acquire ⟨false, false, 0, 0⟩) ∧
    decode .ctl 0x0002AF0C none = .ok (.trap ⟨false, false, 0, 2748⟩) ∧
    decode .ctl 0x0000000D none = .ok (.brk ⟨false, false, 0, 0⟩) ∧
    decode .ctl 0x0000000E none = .ok (.nop ⟨false, false, 0, 0⟩) := by
  decide +kernel

theorem test_decode_sys_1 :
    decode .sys 0x010001C1 none = .ok (.rdsp ⟨16, 0, 7⟩) ∧
    decode .sys 0x0050E002 none = .ok (.wrsp ⟨5, 7, 0⟩) ∧
    decode .sys 0x0010E002 none = .ok (.wrspXpc ⟨1, 7, 0⟩) ∧
    decode .sys 0x0070E002 none = .ok (.wrspXdeleg ⟨7, 7, 0⟩) ∧
    decode .sys 0x00000003 none = .ok (.eret ⟨0, 0, 0⟩) ∧
    decode .sys 0x00006084 none = .ok (.tlbi ⟨0, 3, 2⟩) ∧
    decode .sys 0x00606085 none = .ok (.cfl ⟨6, 3, 2⟩) ∧
    decode .sys 0x00100086 none = .ok (.qdrain ⟨1, 0, 2⟩) ∧
    decode .sys 0x00006087 none = .ok (.ctxs ⟨0, 3, 2⟩) ∧
    decode .sys 0x00006088 none = .ok (.ctxr ⟨0, 3, 2⟩) ∧
    decode .sys 0x00100089 none = .ok (.halt ⟨1, 0, 2⟩) := by
  decide +kernel
/-! ### A small machine: one warp (1) of one block (2) of one cluster (3) of one launch (4), in context 0 of compartment 0.
Pages 0 to 2 are released, page 1 holds MX lines, page 2 is loose; every leaf of them is cached in the two agents that use it. -/

/-- The cached leaf of page `p` for a core. -/
def leaf (core p : Nat) (kind mx : Nat) : TlbEntry :=
  ⟨core, 0, 0, 1, p, BitVec.ofNat 64 (0x100000 + 8 * p), BitVec.ofNat 64 (p * 0x8000 + 0x307 + 16 * kind + 128 * mx)⟩

def comp0 : Comp := { Comp.unowned with coreGroups := BitVec.allOnes 48, stackGroups := BitVec.allOnes 8 }

def ctx0 : Ctx := { ptroot := 0, xvec := 0x1000, xdeleg := 0, old := (0x1000, 0), wrote := none, fenced := false, engines := [], seqs := [] }

def hdr0 : LaunchHdr :=
  { prio := 0, coop := false, paired := false, entry := 0x1000, widths := [3, 4, 5, 0, 0, 0], extents := [8, 16, 32, 1, 1, 1],
    b := 1, c := 1, pv := 112, fv := 112, ka := 128, acc := 64, scratch := 0, privBytes := 0, arg := 0, regionBase := 0, spawn := 1,
    lmax := 16, mmax := 4, regions := 1, dep := none, comp := none }

def block0 : Block := { loadedBlock 4 3 with lmax := 16, mmax := 4, spawnBase := 0x2000, privBytes := 64, window := 16777216 }

def warp0 (c : Class) : Warp :=
  { Warp.blank with
    block := 2, phase := .running, mask := BitVec.allOnes 128, full := true, va := 112, ka := 128, ta := 64, fetched := true
    super := c == .sys, hdr := plainHeader c false, words := [0] }

def part (w : Warp) : State :=
  { State.reset with
    boot := .running, cur := 1, nextId := 10
    warps := [(1, some w)], blocks := [(2, some block0)], clusters := [(3, some ⟨1, 4, 0, 0, [2], false, none⟩)]
    launches := [(4, some ⟨0, 0, 0, false, 0, 0, hdr0, .placed, 1⟩)]
    comps := [(0, some comp0)], ctxs := [(0, some ctx0)]
    tlb := [leaf 0 0 0 0, leaf 0 1 0 1, leaf 0 2 2 0, leaf 4096 0 0 0, leaf 4096 1 0 1] }

/-- The conditions of `Issues`, as one test. -/
def issuesB (s : State) (w : Warp) (refs : List Ref) : Bool :=
  decide (s.warp s.cur = some w) && s.mayIssue w && w.waitMet && refs.all (·.ok w) && refs.all (fun r => !r.pending w)
    && decide (firstMark w refs = none)

theorem issues_of {s : State} {w : Warp} {refs : List Ref} (h : issuesB s w refs = true) : Issues s w refs := by
  simp only [issuesB, Bool.and_eq_true, decide_eq_true_eq, List.all_eq_true, Bool.not_eq_true'] at h
  obtain ⟨⟨⟨⟨⟨h1, h2⟩, h3⟩, h4⟩, h5⟩, h6⟩ := h
  exact ⟨h1, h2, h3, h4, h5, h6⟩

theorem issues_all {s : State} {w : Warp} {l : List (List Ref)} (h : l.all (issuesB s w) = true) :
    ∀ r ∈ l, Issues s w r := fun r hr => issues_of (List.all_eq_true.1 h r hr)

theorem issuesMem_of {s : State} {w : Warp} {dc : Nat} {refs : List Ref} (h : (issuesB s w refs && decide (w.dn dc ≤ 62)
    && (s.readied w).admits s.cur w.woken && !(s.readied w).mrqBusy s.cur w.woken) = true) : IssuesMem s w dc refs := by
  simp only [Bool.and_eq_true, decide_eq_true_eq, Bool.not_eq_true'] at h
  exact ⟨issues_of h.1.1.1, h.1.1.2, h.1.2, h.2⟩

theorem issuesEng_of {s : State} {w : Warp} {dc : Nat} {refs : List Ref} (h : (issuesB s w refs && decide (w.dn dc ≤ 62)
    && !(s.readied w).mrqBusy s.cur w.woken) = true) : IssuesEng s w dc refs := by
  simp only [Bool.and_eq_true, decide_eq_true_eq, Bool.not_eq_true'] at h
  exact ⟨issues_of h.1.1, h.1.2, h.2⟩

/-- What a computation that succeeds gives passes a test. -/
def okB {ε α : Type} (e : Except ε α) (p : α → Bool) : Bool := match e with | .ok a => p a | .error _ => false

theorem ok_of {ε α : Type} {e : Except ε α} {p : α → Bool} (h : okB e p = true) : ∃ a, e = .ok a ∧ p a = true := by
  cases e with
  | ok a => exact ⟨a, rfl, h⟩
  | error _ => cases h

def g0 : Guard := ⟨false, 0, false⟩
/-- The guard "not p1", true in every position where p1 is false, and "p1", true in none of them. -/
def gNone : Guard := ⟨false, 1, true⟩
def xr0 : XR := XR.default
def xt0 : XT := ⟨g0, 0, 0, false, 0, 0, 0⟩

/-! ### Every statement with hypotheses has states and operands that meet them -/

def fA : FmtA := ⟨false, false, 0, 34, 18, 6⟩
def fU : FmtA := ⟨false, true, 0, 34, 18, 6⟩
def fN : FmtA := ⟨true, false, 0, 34, 18, 0⟩
def fI : FmtI := ⟨false, false, 5, 18, 6⟩
def fIU : FmtI := ⟨false, true, 5, 18, 6⟩
def alu : Warp := warp0 .alu
def sAlu : State := part alu

/-- IntegerResults, ImmediateAndMoveResults, UnaryResults, FloatingPointResults: 32-bit, 64-bit, U and NW forms. -/
theorem test_witness_alu : ∀ r ∈ ([fA, fU, fN].flatMap fun f =>
      [[refA f, refB f xr0] ++ refD f.u f.nw f.d, [refA f, refB f xr0, refC f xr0] ++ refD f.u f.nw f.d,
       [refPairA f, refPairB f xr0] ++ refPairD f.u f.nw f.d, [refPairA f, refB f xr0] ++ refPairD f.u f.nw f.d,
       [refB f xr0] ++ refD f.u f.nw f.d, [refA f] ++ refD f.u f.nw f.d]) ++
      ([fI, fIU].flatMap fun f => [[if f.u then .k f.a.toNat else .src f.a] ++ refD f.u f.nw f.d, refD f.u f.nw f.d,
        (if f.u then [.k f.a.toNat, .k f.d.toNat] else [.src f.a, .both f.d]) ++ refD f.u f.nw f.d]),
    Issues sAlu alu r := issues_all (by decide +kernel)

/-- UnaryResults, ScaleRegisterResults, PredicatesAndVotes, CrossThreadResults: words that decode and words that are
refused. -/
theorem test_witness_words :
    (0x0000001E : Word).extractLsb' 0 6 = 0x1E ∧ (decode .alu 0x0000001E none).toBool = true ∧
    9 ≤ ((0x0090001E : Word).extractLsb' 20 7).toNat ∧ (0x0800001E : Word).extractLsb' 27 3 ≠ 0 ∧
    (0x00800000 : Word).getLsbD 23 = true ∧
    (0x0000002E : Word).extractLsb' 0 6 = 0x2E ∧ (decode .alu 0x0000002E (some 0)).toBool = true ∧
    6 ≤ ((0x00006000 : Word).extractLsb' 12 4).toNat ∧ (0x0010002E : Word).extractLsb' 20 7 ≠ 0 ∧
    (0x00000032 : Word).extractLsb' 0 6 = 0x32 ∧ (decode .alu 0x00000032 (some 0)).toBool = true ∧
    8 ≤ ((0x00000232 : Word).extractLsb' 6 7).toNat ∧
    (0x00000034 : Word).extractLsb' 0 6 = 0x34 ∧ (decode .alu 0x00000034 (some 0)).toBool = true ∧
    4 ≤ ((0x00004000 : Word).extractLsb' 12 4).toNat ∧
    (0x00000036 : Word).extractLsb' 0 6 = 0x36 ∧ (decode .alu 0x00000036 none).toBool = true ∧
    (0x08000036 : Word).extractLsb' 27 3 ≠ 0 := by decide +kernel

/-- ConversionResults: 32-bit, from a pair, to a pair, and under U. -/
theorem test_witness_cvt : ∀ r ∈ [fA, fU].flatMap fun f => [2, 14].flatMap fun (t1 : BitVec 4) => [2, 14].map fun (t2 : BitVec 4) =>
      ((if f.u then .k f.a.toNat else if t1 = 14 then .srcPair f.a else .src f.a)
        :: (if t2 = 14 then refPairD f.u f.nw f.d else refD f.u f.nw f.d) : List Ref),
    Issues sAlu alu r := issues_all (by decide +kernel)

/-- MxConversionResults: E4M3 both ways, the packing fresh and keeping the scale. -/
theorem test_witness_mx :
    ((Instr.mxpack ⟨false, false, 0, 0, 16, 6⟩ ⟨g0, 0, 0, false, 4, 5, 2⟩).wf = true ∧
    (Instr.mxpack ⟨false, false, 0, 0, 16, 6⟩ ⟨g0, 0, 1, true, 0, 5, 2⟩).wf = true ∧
    (Instr.mxunpack ⟨false, false, 0, 0, 6, 16⟩ ⟨g0, 0, 0, false, 0, 2, 5⟩).wf = true ∧
    alu.exec (some g0) = BitVec.allOnes 128) ∧
    ∀ r ∈ [[Ref.group 16 (mxEpl 5), .dst 6, .eDst 6], [.group 16 (mxEpl 5), .dst 6, .eDst 6, .e 6],
        [.src 6, .dst 6, .e 6, .groupDst 16 (mxEpl 5)]], Issues sAlu alu r :=
  ⟨by decide +kernel, issues_all (by decide +kernel)⟩

/-- The warp's stochastic instruction with `left` steps to take. -/
def sDraw (left : Nat) : State := { sAlu with draws := [⟨0, 0, 1, alu.point, left, 1, [1]⟩] }

/-- ConversionResults, MxConversionResults: an instruction that has not drawn, one whose steps are being taken and one whose steps
are done; a draw that takes its steps in a clock. -/
theorem test_witness_draws :
    sAlu.draws = [] ∧ ((sDraw 2).draws.find? fun d => d.isFor (sDraw 2).cur alu).any (fun d => decide (d.left ≠ 0)) = true ∧
    ((sDraw 0).draws.find? fun d => d.isFor (sDraw 0).cur alu) = some ⟨0, 0, 1, alu.point, 0, 1, [1]⟩ ∧
    (sDraw 2).draws[0]? = some ⟨0, 0, 1, alu.point, 2, 1, [1]⟩ ∧ (4 : BitVec 3) = 4 ∧
    (∀ s ∈ [sAlu, sDraw 2, sDraw 0], issuesB s alu [.src 18, .dst 6] = true) := by decide +kernel

/-- ScaleRegisterResults, CompareResults, PredicatesAndVotes, CrossThreadResults, SpecialRegisters, WorkIdentifierReads. -/
theorem test_witness_warp_wide : (∀ r ∈ [[Ref.e 18, .kDst 6], [.k 18, .eDst 6], [.e 18, .eDst 6], [.e 18, .k 34, .eDst 6],
      [.e 18, .e 34, .eDst 6], [.src 18, .src 34], [.srcPair 18, .srcPair 34], [.k 18, .k 34], [], [.kGroupDst 126 2],
      [.kGroup 126 2], [.kDst 6], [.src 18, refB fA xr0] ++ refD false false 6, [.src 18] ++ refD false true 0,
      [.srcPair 18, .kDst 6], .src 18 :: refD false false 6, .srcPair 18 :: refPairD false false 6, refPairD false false 6,
      refD true false 6, [.k 18], [.k 127] ++ refPairD false false 6, .k 18 :: refD true false 6, .srcPair 18 :: refD false false 6],
      Issues sAlu alu r) ∧
    (sAlu.matPending 1 alu = false ∧ sAlu.hdrOf alu = some hdr0 ∧ { alu with ka := 64 }.ka < (127 : BitVec 7).toNat + 2 ∧
    126 < (127 : BitVec 7).toNat ∧ alu.ka ≤ 128) :=
  ⟨issues_all (by decide +kernel), by decide +kernel⟩

/-- BlockUniformRegisters: g31 unowned, owned by the warp, owned by another and claimed by another; executed or not. -/
theorem test_witness_block_uniform :
    (sAlu.blocks.find alu.block = some block0 ∧ block0.gowner.find 31 = none ∧ (∀ p ∈ block0.claims, p.1 ≠ 31) ∧
    ({ block0 with gowner := [(31, some 1)] } : Block).gowner.find 31 = some sAlu.cur ∧
    ({ block0 with gowner := [(31, some 9)] } : Block).gowner.find 31 ≠ some sAlu.cur ∧
    ({ block0 with gowner := [(31, some 9)] } : Block).gowner.find 31 ≠ none ∧
    alu.once (some g0) = true ∧ alu.once (some gNone) = false) ∧
    ∀ r ∈ [[Ref.kDst 6], [.k 18], []], Issues sAlu alu r :=
  ⟨by decide +kernel, issues_all (by decide +kernel)⟩

/-! #### Memory -/

def mem : Warp := { warp0 .mem with k := [(18, 0x40)] }
/-- A position alone executes: position 127. -/
def mem1 : Warp := { mem with mask := 1#128 <<< 127, v := [(18 * 128 + 127, 0x48)] }
def sMem : State := part mem
def sMem1 : State := part mem1
def fM : FmtM := ⟨false, 0, false, 3, 3, 18, 6⟩
def fMU : FmtM := ⟨true, 0, false, 3, 4, 18, 6⟩
def x0 : XM := ⟨g0, 0, 0, 0⟩
def xNone : XM := ⟨gNone, 0, 0, 0⟩
def xRel : XM := ⟨g0, 4, 3, 8⟩
def gx : XG := ⟨g0, 0, 0, 0x3F8, 3, 19⟩

/-- The accesses of a form pass their checks, none is held up, and there is the given number of them. -/
def placesB (s : State) (w : Warp) (sp : Space) (f : FmtM) (need : Need) (g : Option Guard) (addr : Nat → DWord) (n : Nat) : Bool :=
  okB ((s.readied w).placeAll w sp (mBytes f) (mBytes f) f.u need false ((w.lanesOf f.u g).map fun p => (p, addr p)))
    fun l => !(s.readied w).heldUp (need == .write) l && decide (l.length = n)

/-- LoadsComplete, StoresComplete, AtomicsComplete: global, scratchpad, private and indexed accesses; with a position and
with none; a release at module scope with nothing outstanding. -/
theorem test_witness_accesses :
    (∀ r ∈ [addrRef fM true :: destRefs fM, addrRef fM false :: destRefs fM, [addrRef fM false, .k 19] ++ destRefs fM,
      addrRef fM true :: dataRefs fM, [addrRef fM true] ++ dataRefs fM ++ destRefs fM], IssuesMem sMem1 mem1 3 r) ∧
    IssuesMem sMem mem 3 (addrRef fMU true :: destRefs fMU) ∧ IssuesMem sMem mem 3 (addrRef fMU true :: dataRefs fMU) ∧
    ((∀ need ∈ [Need.read, .write],
      placesB sMem1 mem1 .glob fM need (some g0) (mem1.memAddr fM true 0) 1 = true ∧
      placesB sMem1 mem1 .glob fM need (some gNone) (mem1.memAddr fM true 0) 0 = true ∧
      placesB sMem1 mem1 .pad fM need none (mem1.memAddr fM true 0) 1 = true ∧
      placesB sMem1 mem1 .priv fM need none (mem1.memAddr fM false (0xFFFFFFFFFFFFFFF0)) 1 = true ∧
      placesB sMem1 mem1 .glob fM need (some g0) (mem1.gatherAddr fM { gx with off := 8 }) 1 = true ∧
      placesB sMem1 mem1 .either fM need (some g0) (mem1.memAddr fM true 0) 1 = true ∧
      placesB sMem mem .glob fMU need none (mem.memAddr fMU true 0) 1 = true) ∧
    releases xRel.order = true ∧ 4 ≤ xRel.scope.toNat ∧ mem1.out = 0 ∧ mem1.sfail = none ∧ mem1.out + 1 ≤ 65535 ∧
    okB (sMem1.placeAll mem1 .either 8 8 false .write false [(127, 0x48)])
      (fun l => l.all (fun c => !sMem1.accBroken mem1.core c) && decide (globalCount l = 1)) = true) :=
  ⟨List.forall_mem_cons.2 ⟨issuesMem_of (by decide +kernel), List.forall_mem_cons.2 ⟨issuesMem_of (by decide +kernel),
      List.forall_mem_cons.2 ⟨issuesMem_of (by decide +kernel), List.forall_mem_cons.2 ⟨issuesMem_of (by decide +kernel),
      List.forall_mem_cons.2 ⟨issuesMem_of (by decide +kernel), fun _ h => nomatch h⟩⟩⟩⟩⟩,
   issuesMem_of (by decide +kernel), issuesMem_of (by decide +kernel), by decide +kernel⟩

/-- AddressesAndLandedValues: a byte, a pair and a U group of sixteen bytes. -/
theorem test_witness_landed : ([0xFF#8] : List Byte).length = mBytes ⟨false, 0, true, 0, 0, 1, 2⟩ ∧
    (List.replicate 8 (0#8)).length = mBytes fM ∧ (List.replicate 16 (0#8)).length = mBytes fMU ∧
    fM.u = false ∧ fM.sx = false ∧ fM.size = 3 ∧ fMU.u = true ∧ fMU.size = 4 := by decide +kernel

def load0 : Load := ⟨1, 0, 0, some 3, [.v 111 [(127, 5)]], [(0, 111, 0x48)], none, false⟩
def sLoad : State := { sMem with
  loads := [(5, some load0), (6, some { load0 with gen := 63 })], acks := [(7, some ⟨1, 0, 0, some 0, 1, false⟩), (8, some ⟨1, 0, 0, some 0, 4, false⟩)] }

/-- ReturnsLand: a load and acknowledgements of the slot's generation, a load of an older one, one from another module, a warp that has
been killed, and a module that is quiesced. -/
theorem test_witness_returns :
    sLoad.loads.find 5 = some load0 ∧ sLoad.warp load0.warp = some mem ∧ mem.slotNo = load0.slot ∧
    sLoad.gen load0.slot = load0.gen ∧ mem.killed = false ∧ mem.swapped = false ∧ load0.far = false ∧ sLoad.quiesced = false ∧
    ({ load0 with far := true } : Load).far = true ∧ ({ sLoad with quiesced := true } : State).quiesced = true ∧
    ({ part { mem with killed := true } with loads := [(5, some load0)] } : State).loads.find 5 = some load0 ∧
    ((part { mem with killed := true }).warp 1).any (fun w => w.killed) = true ∧ load0.writes = [.v 111 [(127, 5)]] ∧
    sLoad.acks.find 7 = some ⟨1, 0, 0, some 0, 1, false⟩ ∧ sLoad.acks.find 8 = some ⟨1, 0, 0, some 0, 4, false⟩ ∧
    sLoad.loads.find 6 = some { load0 with gen := 63 } ∧ sLoad.gen 0 ≠ 63 ∧ sLoad.comps.find 0 = some comp0 := by
  decide +kernel

def tr0 : Trans := ⟨memKey 0 0 0x48, 0, false, false, 0x100000, 0x307, 0⟩

/-- StoresWriteTheirBytes: two positions that store to one place, the second the higher. -/
theorem test_witness_stores :
    let a : Acc := ⟨3, 0x48, [⟨tr0, 4, 0x48, none⟩]⟩
    let b : Acc := ⟨4, 0x48, [⟨tr0, 4, 0x48, none⟩]⟩
    (∀ c ∈ [a, b], sMem.accBroken mem.core c = false) ∧
    (∀ c ∈ [a, b], ∀ p ∈ c.pieces, p.priv = none ∧ (p.t.kind ≠ 2 ∨ true = false ∨ p.t.ms = true)) ∧
    [a, b] = [a] ++ b :: [] ∧ b.pieces = [⟨tr0, 4, 0x48, none⟩] ∧ (bytesOfNat 4 7).length = 4 := by decide +kernel

/-- StoresWriteTheirBytes, LoadsComplete: a private byte of position 3, dirty in the L1, whose home a global access of its warp covers. -/
def sOwn : State := { sMem with blocks := [(2, some { block0 with priv := [(1, some 7)] })] }

theorem test_witness_own_private : sOwn.ownPriv mem (memKey 0 0 1) = some (1, 7) ∧ sOwn.ownPriv mem (memKey 0 0 2) = none ∧
    sOwn.blocks.find mem.block = some { block0 with priv := [(1, some 7)] } ∧
    sOwn.accBroken 0 ⟨3, 0, [⟨{ tr0 with key := memKey 0 0 0 }, 4, 0, none⟩]⟩ = false := by decide +kernel

def mx : Warp := { warp0 .mem with k := [(18, 0x8200)] }
def sMx : State := part mx
def fX : FmtM := ⟨true, 1, false, 2, 0, 18, 6⟩

/-- MxLinesComplete: the second 512 bytes of an MX page, read and written, and a position mask that is empty. -/
theorem test_witness_mx_lines :
    IssuesMem sMx mx 2 [addrRef fX true, .dst 6, .eDst 6] ∧ IssuesMem sMx mx 2 [addrRef fX true, .dst 6, .src 6, .e 6] ∧
    (mx.once (some g0) = true ∧ mx.once (some gNone) = false ∧ (mx.memAddr fX true 0 0).toNat % 512 = 0 ∧
    (∀ need ∈ [Need.read, .write], okB ((sMx.readied mx).placeMx mx (mx.memAddr fX true 0 0) need) (fun l =>
      !(sMx.readied mx).heldUp (need == .write) l && l.all fun c => !(sMx.readied mx).accBroken mx.core c) = true) ∧ mx.out + 4 ≤ 65535 ∧
      sMx.recordRoom 1 (loadRecord 1) = true) :=
  ⟨issuesMem_of (by decide +kernel), issuesMem_of (by decide +kernel), by decide +kernel⟩

/-- CombinedAtomicsAreSerial: a group of two, the values at both ends of their range. -/
theorem test_witness_atomic : (0 : Nat) ≠ 1 ∧ (0xFFFFFFFF : Nat) < 2 ^ (8 * 4) ∧
    (∀ p ∈ [(0, 1), (127, 0xFFFFFFFF)], (p : Nat × Nat).2 < 2 ^ (8 * 4)) ∧ [(0, 1), (127, 0xFFFFFFFF)] ≠ ([] : List (Nat × Nat)) := by
  decide +kernel

def fF : FmtM := ⟨false, 5, false, 0, 4, 0, 0⟩

/-- FencesAndPrefetches: a module fence with nothing outstanding and with a store outstanding, and one that no position
executes; pf, ipf and cwb. -/
theorem test_witness_fences :
    IssuesMem sMem mem 0 [] ∧ IssuesMem (part { mem with out := 1 }) { mem with out := 1 } 0 [] ∧
    IssuesMem (part { mem with mask := 0 }) { mem with mask := 0 } 0 [] ∧
    (∀ r ∈ [addrRef fMU true, addrRef fMU (!fMU.sub.getLsbD 2)], IssuesMem sMem mem 3 [r]) ∧
    (({ mem with mask := 0 } : Warp).once none = false ∧ mem.once none = true ∧ 4 ≤ fF.size.toNat ∧
      sMem.backHeld (ofWarp mem) = false ∧ (sMem.loose (ofWarp mem) 0 (2 ^ 96)).filter sMem.looseCut = [] ∧ mem.sfail = none ∧ mem.out + 1 ≤ 65535) :=
  ⟨issuesMem_of (by decide +kernel), issuesMem_of (by decide +kernel), issuesMem_of (by decide +kernel),
   List.forall_mem_cons.2 ⟨issuesMem_of (by decide +kernel), List.forall_mem_cons.2 ⟨issuesMem_of (by decide +kernel), fun _ h => nomatch h⟩⟩,
   by decide +kernel⟩

/-- ReturnsLand and the rest: a loose byte of the warp whose home is another module's while it carries nothing: the release waits. -/
def heldBack (s : State) : State := { s with l1 := [(l1Key 0 (memKey 9 0 0x40), some 5)], quiesced := true }
/-- A state in which the warp's replay records fill their area (R376). -/
def fullRecords (s : State) : State :=
  { s with loads := s.loads ++ (List.range 36).map fun i => (100 + i, some { load0 with rep := some ⟨0, 1, 0, 0, 0, 0, List.replicate 124 (0, 0)⟩ }) }
/-- Every link of die 0 has failed (R398). -/
def cut (s : State) : State := { s with downLinks := (List.range 8).map fun l => (0, l) }

/-- FencesAndPrefetches, LoadsComplete, StoresComplete: a release that is held up, records without room, a place that is cut off. -/
theorem test_witness_holds : (heldBack sMem).backHeld (ofWarp mem) = true ∧ (fullRecords sMem).recordRoom 1 (loadRecord 1) = false ∧
    (fullRecords sMem).recordRoom 1 40 = false ∧ (fullRecords sMem1).recordRoom 1 (chaseRecord 1) = false := by decide +kernel

/-- A core without a translation whose tables lie in another module, which carries nothing. -/
def sAway : State := { sMem with
  tlb := [], members := [9], quiesced := true, ctxs := [(0, some { ctx0 with ptroot := 9 * 0x10000000000000 })] }

/-- FencesAndPrefetches, SystemMaintenance: an address whose line can be told and one whose line cannot; a line of a private area and one
of none. -/
theorem test_witness_lines :
    sAway.lineUnknown mem 0x40 = true ∧ sMem.lineUnknown mem 0x40 = false ∧ sMem.privLine mem 0x40 = true ∧ sMem.privLine mem 0x8000 = false ∧
    ({ sAway with blocks := sOwn.blocks } : State).privStuck 0 = true ∧ sOwn.privStuck 0 = false ∧
    (match sAway.xany (sAway.agentOf mem) 0x40 .write with | .error e => e.cause == heldCause | .ok _ => false) = true := by decide +kernel

def fC : FmtM := ⟨false, 0, false, 1, 3, 18, 6⟩
def packet0 : Packet := ⟨127, 0x40, 0, 0, none, false, .flying⟩
def chase0 : Chase :=
  { warp := 1, pc := 0x1000, super := false, trapped := false, held := false, slot := 0, gen := 0, dc := 1, dst := 6, steps := [8], cmp := 0, ctx := 0
    root := 0x10000, packets := [packet0], rep := ⟨0, 1, 0, 0, 0, 0, [(127, 0x40)]⟩ }
/-- A page table at 0x10000: the entries of its levels lead to a leaf of level 1 at va 0, of the page at 0x50000; the second entry
of level 3 is a leaf, and the third of level 1 is not well formed. -/
def tables (s : State) : State :=
  [(0x10000, 0x20001), (0x20000, 0x30001), (0x20008, 0x8000000000309), (0x30000, 0x40001), (0x40000, 0x50307), (0x40010, 0x50331)].foldl
    (fun s p => s.wrRaw (memKey 0 0 p.1) (bytesOfNat 8 p.2)) s
def trC : Trans := ⟨memKey 0 0 0x50048, 0, false, false, memKey 0 0 0x40000, 0x50307, 0⟩
def sChase (c : Chase) : State := { tables sMem1 with chases := [(5, some c)] }

/-- ChaseIssues, ChaseSteps: a chase of one step whose word is allowed, and one whose word is not; a packet that ends at its line,
which its owner translates, and the bounds of a packet that goes to another module. -/
theorem test_witness_chase :
    IssuesMem sMem1 mem1 1 [.srcPair fC.addr, .dstPair fC.data, .kGroup 19 1] ∧
    ((mem1.kr 19).extractLsb' 44 20 = 0 ∧ (0x100000000000 : DWord).extractLsb' 44 20 ≠ 0 ∧
      positions (mem1.exec (some g0)) ≠ [] ∧ positions (mem1.exec (some gNone)) = [] ∧ sMem1.recordRoom 1 (chaseRecord 1) = true ∧
      (sChase chase0).chases.find 5 = some chase0 ∧
      chase0.packets.find? (fun q => q.pos == 127 && q.st == .flying) = some packet0 ∧ packet0.ptr ≠ 0 ∧
      (packet0.ptr + 8).toNat % 8 = 0 ∧
      okB ((sChase chase0).chaseXlate chase0 (packet0.ptr + 8)) (fun t => decide (t = trC)) = true ∧ (sChase chase0).planeHeld trC.key = false ∧
      (sChase chase0).pathBroken 0 none (keyTag trC.key, stackDie (keyStack trC.key)) = false ∧
      (sChase chase0).lineFailed trC.key = false ∧ chase0.steps.length ≤ 8 ∧ packet0.step < 256 ∧ packet0.hops < 256) :=
  ⟨issuesMem_of (by decide +kernel), by decide +kernel⟩

/-- A packet of the chase at another pointer. -/
def sAt (ptr : DWord) (q : Packet → Packet) : State := sChase { chase0 with packets := [q { packet0 with ptr := ptr }] }

/-- ChaseSteps: a pointer that is null, misaligned, with bit 63 set, without a page and of a malformed entry; a seventeenth hop; a line of
another module while it carries nothing, and a leaf there; a line and a table that fail. -/
theorem test_witness_chase_steps :
    let c : Chase := chase0
    let err (s : State) (a : DWord) (p : Nat → Bool) : Bool := match s.chaseXlate c a with | .error e => p e.cause | .ok _ => false
    let bad (s : State) (k : Nat) : State := { s with failed := [(k / 128, BitVec.allOnes 136)] }
    (0x41 + 8 : DWord).toNat % 8 ≠ 0 ∧ ((0x8000000000000040 : DWord) + 8).getLsbD 63 = true ∧
    err (sChase c) 0x8048 (· == 6) = true ∧ err (sChase c) 0x10048 (· != heldCause) = true ∧
    err (bad (sChase c) (memKey 0 0 0x10000)) 0x48 (· == 0x15) = true ∧
    (16 < 16 + (match (some (0, 5) : Option (Nat × Nat)) with | none => 0 | some o => if o = (0, 0) then 0 else 1)) ∧
    (bad (sChase c) trC.key).runFailed trC.key 8 = true ∧ ({ sChase c with quiesced := true } : State).planeHeld (memKey 9 0 0x48) = true ∧
    ({ sChase c with quiesced := true } : State).leafHeld { trC with leaf := 7, leafAt := memKey 9 0 0x40000 } false = true ∧
    (sChase c).leafHeld trC false = false ∧
    (sAt 0 id).chases.find 5 = some { c with packets := [{ packet0 with ptr := 0 }] } ∧
    (sAt 0x40 fun q => { q with hops := 16, owner := some (0, 5) }).chases.find 5 =
      some { c with packets := [{ packet0 with hops := 16, owner := some (0, 5) }] } := by decide +kernel

/-- A page of module 9 in the tables, of a group that is not the compartment's. -/
def sRefused : State := { (sChase chase0).wrRaw (memKey 0 0 0x40018) (bytesOfNat 8 (9 * 2 ^ 52 + 0x50307)) with
  members := [9], comps := [(0, some { comp0 with group := Config.remoteGroup 9 0 + 1 })] }

/-- ChaseSteps: a line of another module that the packet may not read. -/
theorem test_witness_chase_refused :
    okB (sRefused.xlateFrom 0 0x10000 (fun _ => true) 0x18048 .read) (fun t => decide (t.key = memKey 10 0 0x50048)
      && !isLocal t.key && !sRefused.planeHeld t.key) = true ∧ ({ sRefused with quiesced := true } : State).planeHeld (memKey 10 0 0x50048) = true ∧
    sRefused.owns 0 (memKey 10 0 0x50048) = false := by
  refine ⟨by decide +kernel, by decide +kernel, ?_⟩
  show (Config.remoteGroup _ _ == Config.remoteGroup 9 0 + 1) = false
  rw [show sRefused.moduleOf (keyTag (memKey 10 0 0x50048)) = 9 by decide +kernel,
    show keyStack (memKey 10 0 0x50048) = 0 by decide +kernel]
  simp

/-- ChaseReplies: all done, one that met an error, one faulted after one done, one out of hops; a warp between two instructions, and a
slot whose generation has gone on; a warp that has ended, and one that was killed. -/
theorem test_witness_chase_reply :
    let done : Packet := { packet0 with st := .done 7 }
    let lost : Packet := { packet0 with pos := 1, st := .bad 0x48 }
    let fault : Packet := { packet0 with pos := 0, st := .fault 6 0x40 }
    let hop : Packet := { packet0 with pos := 0, st := .hop }
    sMem1.warp chase0.warp = some mem1 ∧ mem1.takesChase chase0.super = true ∧ chase0.held = false ∧ mem1.slotNo = chase0.slot ∧
    sMem1.gen chase0.slot = chase0.gen ∧ sMem1.gen chase0.slot ≠ { chase0 with gen := 63 }.gen ∧ mem1.phase ≠ .ended ∧ mem1.killed = false ∧
    ({ mem1 with phase := .ended } : Warp).phase = .ended ∧ ({ mem1 with killed := true } : Warp).killed = true ∧
    mem1.swapped = false ∧ (∀ l ∈ [[done], [done, lost], [done, fault], [done, hop]], ∀ p ∈ l, p.st ≠ .flying) ∧
    ([done, lost].Pairwise fun p q => p.pos ≠ q.pos) ∧ (∀ p ∈ [done, lost], p.pos < 128) ∧ done.st = .done 7 ∧ lost.st = .bad 0x48 ∧
    [done, fault] = [done] ++ fault :: [] ∧ fault.st = .fault 6 0x40 ∧ hop.st = .hop ∧ done.st ≠ .hop ∧ chase0.dst + 1 < 128 := by
  decide +kernel

/-! #### Commands, queues, barriers -/

def eng : Warp := { warp0 .eng with k := [(4, 0x100), (5, 0x200), (6, 0x0004000800000004)] }
def sEng : State := part eng
def fE : FmtE := ⟨3, 2, 6, 5, 4⟩
def engOff : Warp := { eng with mask := 0 }

def cmd0 : Cmd :=
  { warp := 1, slot := 0, gen := 0, cmp := 0, ctx := 0, block := 2, cluster := 3, launch := 4, core := 0, engine := 0,
    token := 5, seq := 0, handle := handleOf 0 5 0, w := [0x400, 0x800, 0xC00, 0], dc := 2, kreg := 4, barrier := none, status := 0,
    taken := false, started := false, table := [], gstate := 1 }

/-- The command table of one dimension of four bytes, element size 1. -/
def table0 : List Byte := [1, 1] ++ List.replicate 30 0 ++ bytesOfNat 4 4 ++ List.replicate 28 0

def sCmd (c : Cmd) : State := ({ sEng with cmds := [(7, some c)] } : State).wrRaw (memKey 0 0 0xC00) table0

/-- CommandWindowAndGo: cmdw, and go with room, with a full core, and with no position. -/
theorem test_witness_go :
    IssuesEng sEng eng 2 [.k 4] ∧ IssuesEng sEng eng 2 ([.kDst 4] ++ [.k 5] ++ [.kDst 6]) ∧
    IssuesEng (part engOff) engOff 2 ([.kDst 4] ++ [.k 5] ++ [.kDst 6]) ∧ (engOff.once none = false ∧ eng.once none = true ∧
    (sEng.coreCmds eng.core).length < 128 ∧ eng.out = 0 ∧ eng.sfail = none ∧
    128 ≤ (({ sEng with cmds := (List.range 128).map fun i => (i, some cmd0) } : State).coreCmds eng.core).length ∧
    fE.sub.getLsbD 0 = true ∧ fE.sub.getLsbD 1 = true) :=
  ⟨issuesEng_of (by decide +kernel), issuesEng_of (by decide +kernel), issuesEng_of (by decide +kernel), by decide +kernel⟩

/-- The engine token of engine 0 of context 0 is opaque; the context knows the engine and one command of it. -/
def sFuture (st : Nat) : State := { sEng with
  ctxs := [(0, some { ctx0 with engines := [(0, 0)], seqs := [(engineKey 0 0, 1)] })]
  cmds := [(7, some { cmd0 with token := Config.engineToken 0 0 0, handle := handleOf 0 (Config.engineToken 0 0 0) 0, status := st })] }

theorem handle_parts (a b : BitVec 16) (c : BitVec 32) : (a ++ b ++ c : BitVec 64).extractLsb' 48 16 = a ∧
    (a ++ b ++ c : BitVec 64).extractLsb' 32 16 = b ∧ (a ++ b ++ c : BitVec 64).extractLsb' 0 32 = c := by
  refine ⟨?_, ?_, ?_⟩ <;> apply BitVec.eq_of_getLsbD_eq <;> intro i hi <;>
    simp only [BitVec.getLsbD_extractLsb', BitVec.getLsbD_append, hi, decide_true, Bool.true_and]
  · rw [if_neg (by omega), if_neg (by omega)]
    congr 1
    omega
  · rw [if_neg (by omega), if_pos (by omega)]
    congr 1
    omega
  · rw [if_pos (by omega)]
    congr 1
    omega

theorem handleCmd_of {s : State} {cmp ctx n : Nat} {h : DWord} {c : Ctx} {x : BitVec 16} {y : BitVec 32} {p : Nat × Nat}
    (hc : s.ctxOf cmp ctx = some c) (h2 : h.extractLsb' 32 16 = x) (h3 : h.extractLsb' 0 32 = y)
    (h1 : h.extractLsb' 48 16 = Config.handleCheck (ctxid cmp ctx) x y) (hp : p ∈ c.engines)
    (ht : Config.engineToken (ctxid cmp ctx) p.1 p.2 = x) (hn : Store.get 0 c.seqs (engineKey p.1 p.2) = n)
    (hr : (n + 2 ^ 32 - 1 - y.toNat) % 2 ^ 32 < min 65536 n) :
    s.handleCmd cmp ctx h =
      s.cmds.all.reverse.find? fun p => p.2.cmp == cmp && p.2.ctx == ctx && p.2.token == x && p.2.seq == y := by
  unfold State.handleCmd
  simp only [hc, h2, h3, h1]
  rw [if_pos]
  simp only [beq_self_eq_true, Bool.true_and, List.any_eq_true]
  exact ⟨p, hp, by simp only [ht, beq_self_eq_true, Bool.true_and, hn, decide_eq_true_eq]; exact hr⟩

/-- FuturesAndTheirCommands: a handle that is accepted, whatever the free values are: of a command that runs, and of one that
has ended. -/
theorem test_witness_handle (st : Nat) : ((sFuture st).handleCmd 0 0 (handleOf 0 (Config.engineToken 0 0 0) 0)).map (·.2.status) =
    some st := by
  obtain ⟨h1, h2, h3⟩ := handle_parts (Config.handleCheck 0 (Config.engineToken 0 0 0) 0#32) (Config.engineToken 0 0 0) 0#32
  have h := handleCmd_of (s := sFuture st) (cmp := 0) (ctx := 0) (h := handleOf 0 (Config.engineToken 0 0 0) 0) (p := (0, 0))
    (n := 1) rfl h2 h3 h1 (by decide) rfl rfl (by decide)
  rw [h]
  simp [sFuture, Table.all, cmd0]

/-- FuturesAndTheirCommands: the k register that names the command, its end for the warp that issued it and for another that
waits on it, and a wait whose deadline has passed. -/
theorem test_witness_futures :
    let h := handleOf 0 (Config.engineToken 0 0 0) 0
    let w : Warp := { eng with k := [(5, h)] }
    let waiting : Warp := { eng with wait := some (.future h (some 3) 9) }
    (w.kr 5 = h ∧ (sFuture 0).warp cmd0.warp = some eng ∧ (sFuture 0).gen cmd0.slot = cmd0.gen ∧
      waiting.wait = some (.future h (some 3) 9) ∧ waiting.cmp = cmd0.cmp ∧ waiting.ctx = cmd0.ctx) ∧
    IssuesEng sEng eng 2 [.k 5, .kDst 4] ∧ 3 ≤ ({ sFuture 0 with clock := 3 } : State).clock ∧
    (w.once none = true ∧ engOff.once none = false ∧ eng.slotNo = cmd0.slot ∧ eng.killed = false ∧ eng.swapped = false ∧
      sEng.recordRoom 1 48 = true ∧ Store.wf none (sFuture 0).warps = true) :=
  ⟨⟨rfl, rfl, rfl, rfl, rfl, rfl⟩, issuesEng_of (by decide +kernel), by decide, by decide +kernel⟩

/-- CopyCommandsRun: a command that is taken, one whose words and one whose table are refused, one that is serial, and one that
completes, with and without a barrier; and an element of four bytes. -/
def cmdC : Cmd := { cmd0 with handle := 0 }

theorem test_witness_copy :
    (sCmd cmdC).cmds.find 7 = some cmdC ∧ cmdC.status = 0 ∧ cmdC.taken = false ∧
    (∀ e ∈ (sCmd cmdC).earlierCmds 7 cmdC, e.started = true) ∧
    wordsBad cmdC = none ∧ (wordsBad { cmdC with w := [0, 0, 4, 0] }).isSome = true ∧
    okB ((sCmd cmdC).readTable cmdC) (fun p => (copyOf (cmdC.word 3) p.1).ok p.1) = true ∧
    okB (({ sEng with cmds := [(7, some cmdC)] } : State).readTable cmdC) (fun p => !(copyOf (cmdC.word 3) p.1).ok p.1) = true ∧
    (sCmd cmdC).earlierCmds 7 cmdC = [] ∧ (sCmd cmdC).recordWaits 7 = false := by decide +kernel

theorem test_witness_copy_ends :
    let c : Cmd := { cmdC with taken := true, started := true, table := table0 }
    okB ((sCmd c).copyAll c (copyOf 0 table0)) (fun _ => true) = true ∧
    okB (({ sCmd c with tlb := [] } : State).copyAll c (copyOf 0 table0)) (fun _ => true) = false ∧
    (copyOf 0 table0).mode = 0 ∧ (copyOf 0 table0).dims = [⟨4, 0, 0, 1, 1, 0, 0, 0⟩] ∧ 0 < (copyOf 0 table0).eb ∧
    okB ((sCmd c).copyAt c (c.word 0) 1 false false 0) (fun t => t.leaf &&& 0x100 == 0x100) = true ∧
    okB ((sCmd c).copyAt c (c.word 1) 1 true false 0) (fun t => t.leaf &&& 0x300 == 0x300) = true := by decide +kernel

/-- CopyCommandsRun: a row on an MX page and one of two-byte elements, read and written; a tile in the scratchpad. -/
theorem test_witness_copy_rows :
    (∀ wr ∈ [true, false], okB (sEng.copyAt cmdC 0x8080 128 wr true 0) (fun t => t.leaf &&& 0x300 == 0x300 && decide (t.key % 128 = 0)
      && !sEng.lineFailed t.key) = true) ∧
    (∀ wr ∈ [true, false], okB (sEng.copyAt cmdC (0x400 + BitVec.ofNat 64 (2 * 63)) 2 wr false 0) (fun t => t.leaf &&& 0x300 == 0x300
      && !sEng.runFailed t.key 2) = true) ∧
    (0x8080 : DWord).toNat % 128 = 0 ∧ 15 < 2 ^ mxWidth 9 := by decide +kernel

/-! A queue at 0x100 of four elements of eight bytes in thread form at module scope, its ring at 0x200; two are visible. -/

def qbytes (head tail free resv : Nat) : List Byte :=
  let first := bytesOfNat 8 0x200 ++ bytesOfNat 8 0x000C000800000004
  first ++ bytesOfNat 4 head ++ bytesOfNat 4 tail ++ bytesOfNat 4 free ++ bytesOfNat 4 resv ++ List.replicate 16 0
    ++ bytesOfNat 2 0x51E0 ++ bytesOfNat 2 (onesSum first) ++ List.replicate 12 0

def kq : Nat := memKey 0 0 0x100
def sQueue (w : Warp) : State := (part w).wrRaw kq (qbytes 3 5 2 0)
def fQ : FmtE := ⟨3, 2, 6, 8, 4⟩
def fQw : FmtE := ⟨0, 2, 0, 8, 4⟩
def eng1 : Warp := { eng with mask := 3 }
def op0 (enq : Bool) : QOp :=
  { status := none, via := none, agent := .warp 1 0 0, enq := enq, threads := [0, 1], thr := true, span := 256, cmp := 0, ctx := 0, cluster := 3, addr := 0x100
    data := [List.replicate 256 7, List.replicate 256 8], dst := 8, dc := some 2, counters := [], slots := [], word := 0, init := [], drain := none }
def served : QRes → Option State | .served u => some u | _ => none
def refused : QRes → Bool | .refuse _ _ _ => true | _ => false
def waits : QRes → Bool | .wait => true | _ => false

/-- QueueInitAndInfo: a block that q.init accepts, one that it refuses, one that is misaligned; a home with nothing before the request
and homes where it waits. -/
theorem test_witness_qinit :
    IssuesEng sEng eng 2 [.k 4, .k 5, .k 6] ∧ IssuesEng sEng eng 2 [.k 4, .kGroupDst 8 3] ∧
    (eng.once none = true ∧ qinitOk false (eng.kr 5) (eng.kr 6 &&& 0xFFEFFFFFFFFFFFFF) = true ∧ qinitOk false (eng.kr 5) 5 = false ∧
      (eng.kr 4).toNat % 64 = 0 ∧ (0x120 : DWord).toNat % 64 ≠ 0 ∧ sEng.broken 0 kq = false ∧
      okB (sEng.xany (sEng.agentOf eng) (eng.kr 4) .write) (fun p => decide (p.key = kq) && !sEng.planeHeld p.key
        && ((sEng.writeBack 0 kq (kq + 128)).touch p true).homeIdle p.key) = true ∧ (sEng.home kq).busy = [] ∧
      okB (sEng.xany (sEng.agentOf eng) (eng.kr 4) .read) (fun p => !sEng.planeHeld p.key) = true ∧
      ({ sEng with homes := [(kq, some ⟨[], [], [], [12], true⟩)] } : State).homeIdle kq = false) :=
  ⟨issuesEng_of (by decide +kernel), issuesEng_of (by decide +kernel), by decide +kernel⟩

/-- QueueTransfers: the four forms; served, in vain, and refused at a block that holds no queue. -/
theorem test_witness_qtransfer :
    IssuesEng (sQueue eng1) eng1 2 (spanRefs fQ true eng1) ∧ IssuesEng (sQueue eng1) eng1 2 (spanRefs fQ false eng1) ∧
    IssuesEng (sQueue eng1) eng1 2 (spanRefs fQw true eng1) ∧
    (positions (eng1.exec none) ≠ [] ∧ positions (engOff.exec none) = [] ∧ (eng1.kr 4).toNat % 64 = 0 ∧
      (sQueue eng1).recordRoom 1 (op0 true).recordSize = true ∧ (sQueue eng1).broken 0 kq = false ∧
      ((sQueue eng1).writeBack 0 kq (kq + 128)).homeIdle kq = true ∧
      okB ((sQueue eng1).xany ((sQueue eng1).agentOf eng1) (eng1.kr 4) .write)
        (fun p => decide (p.key = kq) && !(sQueue eng1).planeHeld p.key) = true ∧
      (sQueue eng1).num (kq + 14) 2 % 8 = 4 ∧ eng1.out = 0 ∧ eng1.sfail = none ∧
      (served ((sQueue eng1).qserve kq 10 (op0 true) true)).isSome = true ∧
      (served ((sQueue eng1).qserve kq 10 (op0 false) true)).isSome = true ∧
      waits ((sQueue eng1).qserve kq 10 { op0 true with threads := [0, 1, 2] } true) = true ∧
      waits ((sQueue eng1).qserve kq 10 (op0 true) false) = true ∧
      refused ((sEng).qserve kq 10 (op0 true) true) = true) :=
  ⟨issuesEng_of (by decide +kernel), issuesEng_of (by decide +kernel), issuesEng_of (by decide +kernel), by decide +kernel⟩

/-- QueueHomesServe: a block that fails a check, one that is broken, too many threads, a span too short, slots that do not translate,
and room for exactly the elements asked for. -/
theorem test_witness_qserve :
    (sQueue eng1).qcheck kq true = none ∧ sEng.qcheck kq true = some true ∧ ((sQueue eng1).qbreak kq).qcheck kq true = some false ∧
    ((sQueue eng1).qblk kq).cap < (List.range 5).length ∧ 7 < ((sQueue eng1).qblk kq).size ∧
    okB ((sQueue eng1).qslots kq (op0 true) ((sQueue eng1).qblk kq) [5, 6]) (fun l => l.all fun x => x.all fun t =>
      t.leaf &&& 0x300 == 0x300) = true ∧
    okB (({ sQueue eng1 with tlb := [] } : State).qslots kq (op0 true) ((sQueue eng1).qblk kq) [5, 6]) (fun _ => true) = false ∧
    ((sQueue eng1).qblk kq).free = 2 ∧ ((sQueue eng1).qblk kq).visible = 2 := by decide +kernel

def sHome (enq : Bool) : State := (served ((sQueue eng1).qserve kq 10 (op0 enq) true)).getD sEng

/-- QueuesStaySound, QueueHomesProgress: an operation of two elements at the home, in either direction. -/
theorem test_witness_qmoves :
    (∀ enq ∈ [true, false], ((sHome enq).qfirst kq enq).isSome = true ∧ 1 ≤ ((sHome enq).qblk kq).resv ∧
      ((sHome enq).qfirst kq enq).all (fun p => decide (p.1 = 10) && !(sHome enq).slotHeld p.2 && decide (p.2.enq = enq)
        && !(sHome enq).slotFails kq (p.2.slots.headD []) && (p.2.slots.headD []).all (fun q => decide (q.1 + 8 ≤ kq ∨ kq + 64 ≤ q.1))
        && decide (p.2.counters.length = 2) && ((sHome enq).qwarp p.2).isSome && decide (p.2.threads.getD 0 0 < 128)) = true) ∧
    (sHome true).qcheck kq true = none ∧ (sHome false).qcheck kq true = none := by decide +kernel

/-- QueueHomesProgress: an element of 256 bytes, the longest (Table 6.2), whose slot of 32 words lies apart from its block. -/
theorem test_witness_qwide :
    let first := bytesOfNat 8 0x200 ++ bytesOfNat 8 0x000C010000000004
    let op : QOp := { op0 true with span := 256 }
    let s : State := (part eng1).wrRaw kq (first ++ bytesOfNat 8 0 ++ bytesOfNat 8 4 ++ List.replicate 16 0 ++ bytesOfNat 2 0x51E0
      ++ bytesOfNat 2 (onesSum first) ++ List.replicate 12 0)
    (served (s.qserve kq 10 op true)).any (fun u => (u.qfirst kq true).any fun p =>
      decide (((p.2.data.getD 0 []).take (u.qblk kq).size).length = 8 * (p.2.slots.headD []).length ∧ (p.2.slots.headD []).length = 32 ∧
        (p.2.slots.headD []).Pairwise fun x y => x.1 + 8 ≤ y.1 ∨ y.1 + 8 ≤ x.1) && (p.2.slots.headD []).all fun q =>
          decide (kq + 64 ≤ q.1) && !u.slotCut kq q.1) = true := by decide +kernel

/-- QueueHomesProgress: the oldest waiter of a direction, served, still waiting and refused, and a q.init or a qdrain that waits at a quiet
home, and at one that is not. -/
theorem test_witness_qwaiters :
    let w : Warp := { eng1 with wait := some (.queue 12) }
    let s : State := { sQueue w with qops := [(12, some (op0 true))], homes := [(kq, some ⟨[], [12], [], [], true⟩)] }
    let u : State := { s with homes := [(kq, some ⟨[], [], [], [12], true⟩)] }
    s.qops.find 12 = some (op0 true) ∧ s.warp 1 = some w ∧ w.wait = some (.queue 12) ∧ (s.home kq).enqW = 12 :: [] ∧
    (u.home kq).line = 12 :: [] ∧ (u.home kq).busy = [] ∧ u.qripe kq (u.home kq).enqW = false ∧ u.qripe kq (u.home kq).deqW = false ∧
    w.slotNo = 0 ∧ s.gen 0 = 0 ∧ w.killed = false ∧ w.swapped = false ∧ (op0 true).drain = none ∧
    ({ op0 true with drain := some 1 } : QOp).drain = some 1 ∧ ({ op0 true with init := [0x200, 0x000C000800000004] } : QOp).init ≠ [] ∧
    ((sHome true).home kq).busy ≠ [] ∧
    (served (s.qperform kq 12 (op0 true) true true)).isSome = true ∧
    waits (s.qperform kq 12 { op0 true with threads := [0, 1, 2] } true true) = true ∧
    refused (s.qperform kq 12 { op0 true with span := 4 } true true) = true := by decide +kernel

/-- QueueInitAndInfo, QueueTransfers, QueueHomesProgress: a queue in the memory of another module while it carries nothing, and its leaf; a
home where a q.init waits; the operations of a warp that has gone; a slot that fails; a request first in front of its home. -/
theorem test_witness_homes :
    let s : State := sQueue eng1
    let t : Trans := { tr0 with key := kq }
    let gone : State := { sHome true with gens := [(0, 1)] }
    let gone2 : State := { sHome false with gens := [(0, 1)] }
    let r : State := { s with qops := [(12, some (op0 true))], homes := [(kq, some ⟨[], [], [], [12], true⟩)] }
    let bad : State := { sHome false with failed := [((memKey 0 0 0x200) / 128, BitVec.allOnes 136)] }
    s.planeHeld t.key = false ∧ s.leafHeld t true = false ∧ s.leafHeld t false = false ∧
    ({ s with homes := [(kq, some ⟨[], [], [], [12], true⟩)] } : State).homeIdle kq = false ∧
    ((gone.qfirst kq true).any fun p => (gone.qwarp p.2).isNone && p.2.enq && !gone.slotHeld p.2 && decide (¬ p.2.counters.length ≤ 1)) = true ∧
    ((gone2.qfirst kq false).any fun p => (gone2.qwarp p.2).isNone && !p.2.enq && !gone2.slotHeld p.2) = true ∧
    ((bad.qfirst kq false).any fun p => (p.2.slots.headD []).any fun x => bad.runFailed x.1 8) = true ∧
    (r.home kq).line = 12 :: [] ∧ r.blockHeld (op0 true) = false ∧ r.qripe kq (r.home kq).enqW = false ∧ r.qripe kq (r.home kq).deqW = false ∧
    (op0 true).init = [] ∧ (served ((r.qleave kq 12).qserve kq 12 (op0 true) true)).isSome = true ∧
    waits ((r.qleave kq 12).qserve kq 12 { op0 true with threads := [0, 1, 2] } true) = true ∧
    refused ((r.qleave kq 12).qserve kq 12 { op0 true with span := 4 } true) = true := by decide +kernel

def obj0 : BitVec 128 := barFresh 0x400002
def kb : Nat := memKey 0 0 0x100
def sBar (w : Warp) : State := (part w).wrRaw kb (bytesOfNat 16 obj0.toNat)

/-- BarrierOperations, BarrierObjectsStep, BarrierWaits: a sound object of two arrivals, one with all arrivals but one, a
spoiled one, and bytes at the edges of their range. -/
theorem test_witness_barrier :
    (barOk obj0 = true ∧ barOk 0 = false ∧ (obj0.extractLsb' 20 20).toNat = 2 ∧
    ((barApply obj0 (.arrive 2)).any fun p => p.2.2) = true ∧ ((barApply obj0 (.arrive 3)).any fun p => p.2.1) = true ∧
    (barApply obj0 (.bytes (2 ^ 31))).isNone = true ∧ (barApply obj0 (.bytes (2 ^ 31 - 1))).isSome = true ∧
    (barApply obj0 (.bytes (-2 ^ 31))).isSome = true ∧ barPhase obj0 = 0 ∧ (sBar eng).barObj kb = obj0 ∧
    (sBar eng).lineFailed kb = false ∧ (obj0.extractLsb' 45 3).toNat = 4) ∧
    IssuesEng (sBar eng) eng 2 [.k 4, .k 5] ∧ IssuesEng (sBar eng) eng 2 [.k 4, .kGroupDst 8 2] ∧
    IssuesEng (sBar eng) eng 2 [.k 4, .k 5, .kDst 8] ∧ (eng.once none = true ∧ (eng.kr 4).toNat % 16 = 0 ∧
    (0x108 : DWord).toNat % 16 ≠ 0 ∧ (0 : DWord).extractLsb' 0 20 = 0 ∧ (0x400002 : DWord).extractLsb' 23 41 = 0 ∧
    (∀ need ∈ [Need.read, .write], okB ((sBar eng).xany ((sBar eng).agentOf eng) (eng.kr 4) need)
      (fun p => decide (p.key = kb) && !(sBar eng).planeHeld p.key && !(sBar eng).broken 0 p.key) = true) ∧
      (sBar eng).recordRoom 1 48 = true) :=
  ⟨by decide +kernel, issuesEng_of (by decide +kernel), issuesEng_of (by decide +kernel), issuesEng_of (by decide +kernel),
   by decide +kernel⟩

/-- BarrierObjectsStep, BarrierWaits, BlockBarrier: a warp and a launch that wait at an object, a deadline that has passed, and
a block whose last members arrive, or do not. -/
theorem test_witness_barrier_waits :
    let w : Warp := { eng with wait := some (.barrier 12) }
    let b : BWait := ⟨.warp 1, kb, 0, some 5, 8, none⟩
    let s : State := { sBar w with barWaits := [(12, some b), (13, some { b with who := .launch 4 })], clock := 5 }
    let x : BWait := { b with who := .module 9 1 }
    (s.barWaits.find 12 = some b ∧ s.warp 1 = some w ∧ s.barWaits.find 13 = some { b with who := .launch 4 } ∧
      ({ s with barWaits := [(12, some x)] } : State).barWaits.find 12 = some x) ∧
    (b.key = kb ∧ b.who = .warp 1 ∧ b.deadline = some 5 ∧ 5 ≤ s.clock ∧ Store.wf none s.barWaits = true) ∧ IssuesEng sEng eng 0 [] ∧
    (sEng.blocks.find eng.block = some block0 ∧ Store.wf none sEng.warps = true ∧
    block0.live = block0.arrived + count (eng.exec none) ∧ ({ block0 with live := 129 } : Block).live ≠ 0 + count (eng.exec none)) :=
  ⟨⟨rfl, rfl, rfl, rfl⟩, by decide +kernel, issuesEng_of (by decide +kernel), by decide +kernel⟩

/-! #### Matrix engines -/

def mat : Warp := { warp0 .mat with k := [(7, 0x400), (8, 0x600), (9, 0x80), (10, 0x8200)] }
def twinA : Warp := { mat with twin := 0 }
def twinB : Warp := { mat with twin := 1, slot := 1 }
def sMat : State := part mat
def sTwin : State := { part twinA with warps := [(1, some twinA), (5, some twinB)] }
def matOff : Warp := { mat with mask := BitVec.allOnes 128 >>> 1 }

/-- MatrixInstructionsIssue: the operands of every instruction, tiles in the scratchpad and lines in either space that pass
their checks, a place in the engine, every position active or the last one not, a twin that runs and one that has ended. -/
theorem test_witness_mat :
    (∀ r ∈ [[Ref.tileDst 63], [.group 104 8, .tileDst 1], [.groupDst 104 8, .tile 1], [.tile 1, .tile 2], [.tile 1, .k 9],
        [.tile 1, .kDst 9], groupRefs 16 (groupRegs 5) (matScaled 5) ++ [.k 8], [.k 7] ++ [.k 8, .tile 1],
        groupRefs 16 (groupRegs 6) (matScaled 6) ++ [.k 8, .tileDst 1], groupDstRefs 16 (mrqRegs 5) ++ [.tile 1],
        [.k 8, .tile 1]], Issues sMat mat r) ∧
    (∀ r ∈ [[Ref.tileDst 63], [.group 104 8, .tileDst 1]], Issues (part matOff) matOff r) ∧
    (mat.mask = BitVec.allOnes 128 ∧ matOff.mask ≠ BitVec.allOnes 128 ∧ (sMat.engine mat.quarterNo).held < 8 ∧
    sMat.mrqBusy 1 mat = false ∧
    (∀ p ∈ [[padPlace (mat.kr 7) 0 .read, padPlace (mat.kr 8) 5 .read], [padPlace (mat.kr 8) 7 .write],
        [⟨.either, mat.kr 10, mrqLines 0, .write⟩]],
      okB (sMat.placeTiles mat p) (fun l => !sMat.heldUp true l.flatten && decide (mat.out + (globalAcc l.flatten).length ≤ 65535))
        = true) ∧
    ((sTwin.twinOf 1 twinA).all fun p => decide (p.2.phase ≠ .ended)) = true ∧ (sTwin.twinOf 1 twinA).isSome = true ∧
    (({ sTwin with warps := [(1, some twinA), (5, some { twinB with phase := .ended })] } : State).twinOf 1 twinA).all
      (fun p => decide (p.2.phase = .ended)) = true) :=
  ⟨issues_all (by decide +kernel), issues_all (by decide +kernel), by decide +kernel⟩

def matOp (k : MatKind) : MatOp := ⟨1, 0, 0, k⟩
def sEngine (e : Engine) : State := { sTwin with engines := [(0, some e)] }

/-- MatrixEngineRuns: a queue whose head is no mgd and one whose head is, each kind running, and both twins' mgd. -/
theorem test_witness_engine :
    (∀ k ∈ [MatKind.mma 1 true false 5 5 0 [] [] [] [], .accz 1, .accld 1 [], .accst 1 104, .mrqReg 1 16 5 4, .mrqMem 1 5 0 [],
        .macc 1 2, .mscl 1 5 4], (sEngine ⟨[matOp k], some (matOp k), [], []⟩).engine 0 = ⟨[matOp k], some (matOp k), [], []⟩) ∧
    (sEngine ⟨[matOp (.mgd 1 5)], none, [], []⟩).engine 0 = ⟨[matOp (.mgd 1 5)], none, [], []⟩ ∧
    sTwin.warp 1 = some twinA ∧ sTwin.gen 0 = 0 ∧ twinA.twin = 0 ∧ sTwin.twinOf 1 twinA = some (5, twinB) ∧
    (let e : Engine := ⟨[], none, [matOp (.mgd 1 5), ⟨5, 1, 0, .mgd 2 6⟩], []⟩
     e.waiting 1 = some (1, 5) ∧ e.waiting 5 = some (2, 6)) := by decide +kernel

/-- MatrixEngineRuns: a running instruction whose warp is no more; a warp that stands, and one that was killed. -/
theorem test_witness_engine_gone :
    let s : State := { sEngine ⟨[], some (matOp (.accst 1 104)), [], []⟩ with warps := [] }
    (s.engine 0).run = some (matOp (.accst 1 104)) ∧ s.warp 1 = none ∧ s.matHeld (matOp (.accst 1 104)) = false ∧
    s.stepsTaken 0 (.accst 1 104) = some [] ∧ twinA.killed = false ∧ twinA.swapped = false ∧ twinA.slotNo = (matOp (.accz 1)).slot ∧
    ({ twinA with killed := true } : Warp).killed = true := by decide +kernel

/-- MatrixEngineRuns: an SR instruction whose steps are owed, being taken and done; one that owes none; lines that can be reached; an older
generation. -/
theorem test_witness_engine_steps :
    let k : MatKind := .mrqMem 1 5 4 [(memKey 0 0 0x8000, false, 0x8000)]
    let s (l : List Draw) : State := { sEngine ⟨[], some (matOp k), [], []⟩ with draws := l }
    (s []).stepsTaken 0 k = none ∧ (s [⟨0, 2, 0, 0, 3, 4, []⟩]).stepsTaken 0 k = none ∧
    (s [⟨0, 2, 0, 0, 0, 4, [7]⟩]).stepsTaken 0 k = some [7] ∧ (s []).stepsTaken 0 (.accz 1) = some [] ∧ (s []).matHeld (matOp k) = false ∧
    (s []).broken 0 (memKey 0 0 0x8000) = false ∧ ({ s [] with gens := [(0, 1)] } : State).gen 0 ≠ (matOp k).gen ∧
    ((s []).engine 0).run = some (matOp k) := by decide +kernel

/-- ChaseSteps, MatrixEngineRuns, QueueHomesProgress: where link 0 of die 0 joins die 1, a line of die 1 is beyond it. -/
theorem test_witness_cut (h : Config.linkPeer 0 0 = 1) : (cut sMem).linkFailed 0 1 = true := by
  simp [State.linkFailed, cut, List.range, List.range.loop, h]

/-- MatrixSumsAreExact, RoundingIsCorrect: elements of both signs, the smallest and largest scales, a finite accumulator, a
sum of zero and one that is not; a magnitude that is a multiple and a half. -/
theorem test_witness_sums :
    [(true, 3, (-2 : Int))].length = [(false, 5, (1 : Int))].length ∧ 0 < 255 ∧ 254 < 255 ∧
    fval 0x3F800000 = .fin false (2 ^ 23) (-23) ∧ (0 : Int) = 0 ∧ (7 : Int) ≠ 0 := by decide +kernel

/-! #### Control -/

def ctl : Warp := { warp0 .ctl with k := [(9, 0x1004), (10, 2)], p := [(4, 1)], pc := 0x1000 }
def sCtl : State := part ctl
def ctlOff : Warp := { ctl with hdr := { plainHeader .ctl false with ge := true, gp := 1 } }
/-- One thread, position 0, satisfies p4. -/
def fB : FmtC := ⟨true, false, 4, 3⟩

/-- ControlTransfers: a guard that holds in every thread, in none and in one; targets aligned and not; call and ret; a warp that
holds for others and whose bound has passed. -/
theorem test_witness_control :
    (∀ r ∈ [[], [Ref.kDst 127], [.k 9], [.k 10]], Issues sCtl ctl r) ∧ Issues (part ctlOff) ctlOff [] ∧
    (ctl.exec none = ctl.mask ∧ ctlOff.exec none = 0 ∧ ctl.mask &&& ctl.pr 4 &&& ctl.clauseGuard = 1 ∧
    (ctl.kr 9).extractLsb' 0 2 = 0 ∧ (ctl.kr 10).extractLsb' 0 2 ≠ 0 ∧ Store.wf none sCtl.warps = true ∧
    ({ ctl with yieldAt := some 4 } : Warp).yieldAt = some 4) :=
  ⟨issues_all (by decide +kernel), issues_of (by decide +kernel), by decide +kernel⟩

def xd0 : XD := ⟨4, 16⟩
def shedOk : ShedRes → Bool | .done _ => true | _ => false
def shedTraps : ShedRes → Bool | .trap _ => true | _ => false
def shedPool : ShedRes → Bool | .pool => true | _ => false
/-- Position 0 calls 0x2000 and every other position its pair's zero. -/
def ctl2 : Warp := { ctl with v := [(9 * 128 + 128, 0x2000), (110 * 128, 0x2000)] }

/-- DivergenceAndRecords: limits that hold and one that does not; a shed that is done, one whose records fault, and one that
finds no snapshot entry; calli and reti with one group and with two; join in a full warp and in one that is not. -/
theorem test_witness_diverge :
    (sCtl.blocks.find ctl.block = some block0 ∧ (xd0.l.toNat ≤ block0.lmax ∧ xd0.m.toNat ≤ block0.mmax ∧ 16 ≤ ctl.va ∧ 4 ≤ ctl.ka) ∧
    ¬ (17 ≤ block0.lmax) ∧ count (ctl.taken fB) ≤ count (ctl.mask &&& ~~~ ctl.taken fB) ∧ ctl.taken fB ≠ 0 ∧
    count (ctl.mask &&& ~~~ ctl.taken { fB with n := true }) < count (ctl.taken { fB with n := true }) ∧
    shedOk (sCtl.shed 1 ctl block0 16 0 [⟨0x100C, false, 1⟩]) = true ∧
    shedTraps (({ sCtl with tlb := [] } : State).shed 1 ctl block0 16 0 [⟨0x100C, false, 1⟩]) = true ∧
    (∀ q ∈ [Ref.group 0 16, .kGroup 0 4], q.ok ctl = true ∧ q.pending ctl = false) ∧ firstMark ctl [.group 0 16, .kGroup 0 4] = none ∧
    sCtl.mrqBusy 1 ctl = false) ∧
    Issues sCtl ctl [pairField 10, .groupDst 110 2] ∧ Issues sCtl ctl [.group 110 2] ∧ ((largest (ctl2.divide (ctl2.vp 10))).isSome = true ∧ (ctl.divide (ctl.vp 10)).length = 1 ∧
    (ctl2.divide (ctl2.vp 10)).length = 2 ∧ firstMisaligned (ctl2.divide (ctl2.vp 10)) = none ∧
    firstMisaligned [⟨0x1002, false, 1⟩] = some 0x1002 ∧ xd0.l.toNat + 2 ≤ 18 ∧
    ctl.once none = true ∧ ctlOff.once none = false ∧ ctl.mask = BitVec.allOnes 128 ∧ ({ ctl with mask := 1 } : Warp).mask ≠ BitVec.allOnes 128 ∧
    ctl.twin = 2 ∧ twinA.twin ≠ 2) :=
  ⟨by decide +kernel, issues_of (by decide +kernel), issues_of (by decide +kernel), by decide +kernel⟩

/-- DivergenceAndRecords: a reti whose block keeps more than the warp holds; a placed twin whose registers are settled and one with a pending
register; a shed that waits for a loose byte. -/
theorem test_witness_diverge_holds :
    let t : Warp := { twinA with mask := 1, va := 112 }
    ¬ (({ block0 with lmax := 120 } : Block).lmax ≤ ctl.va) ∧ t.twin ≠ 2 ∧ t.formed = false ∧
    (∀ q ∈ [Ref.kGroup 0 4, .groupDst 0 t.va], q.ok t = true ∧ q.pending t = false) ∧ firstMark t [.kGroup 0 4, .groupDst 0 t.va] = none ∧
    Ref.pending { t with pendK := 1 } (.kGroup 0 4) = true ∧ (heldBack sCtl).backHeld (ofWarp ctl) = true ∧
    (fullRecords sCtl).recordRoom 1 40 = false := by decide +kernel

/-- DivergenceAndRecords: the record of position 127 with the longest register image lies in one line, and so does a snapshot of two k
registers; an entry that a record names is shared, and without a free entry the shed waits. -/
theorem test_witness_record :
    let line (va : DWord) (n : Nat) : Bool := okB (sCtl.xspan (sCtl.agentOf ctl) va n .write) fun l => decide (l.length = 1)
      && l.all fun p => p.1.leaf &&& 0x300 == 0x300 && !sCtl.planeHeld p.1.key && !sCtl.broken 0 p.1.key && decide (p.2 = n)
    let b : Block := { block0 with recs := [⟨0, 2, some 0, 0x100C, false, false, 9, 0, 0, none⟩] }
    let p : State := ({ sCtl with blocks := [(2, some b)] } : State).wrRaw (memKey 0 0 (0x2000 + b.poolOffset 0)) (ctl.snapBytes 2)
    line (block0.recAddr (ctl.recSlot block0 127)) (ctl.recBytes block0 127 0x100C 0 16 false).length = true ∧
    line (block0.spawnBase + BitVec.ofNat 64 (block0.poolOffset 0)) (ctl.snapBytes 2).length = true ∧
    sCtl.warp 1 = some ctl ∧ sCtl.backHeld (ofWarp ctl) = false ∧ 127 < 128 ∧ 16 ≤ 110 ∧
    sCtl.snapFor (sCtl.agentOf ctl) block0 0 [] = .none ∧ sCtl.snapFor (sCtl.agentOf ctl) block0 2 (ctl.snapBytes 2) = .write 0 ∧
    p.snapFor (sCtl.agentOf ctl) b 2 (ctl.snapBytes 2) = .share 0 ∧
    sCtl.snapFor (sCtl.agentOf ctl)
      { b with recs := (List.range b.poolSize).map fun i => ⟨i, 1, some i, 0, false, false, 9, 0, 0, none⟩ } 2 [] = .full := by decide +kernel

/-- ExitAndAcquire: every thread, some and none; a warp that holds its full allotment and warps that do not, with and without
room; a block whose members have not all arrived; a g register that the warp owns. -/
theorem test_witness_exit :
    Issues sCtl ctl [] ∧ (ctl.exec none = ctl.mask ∧ ctl.exec none ≠ 0 ∧ sCtl.mrqBusy 1 ctl = false ∧
      sCtl.backHeld (ofWarp ctl) = false ∧ (sCtl.loose (ofWarp ctl) 0 (2 ^ 96)).filter sCtl.looseCut = []) ∧ (
    ({ ctl with mask := 1#128 } : Warp).exec (some ⟨true, 4, true⟩) = 0 ∧ ctl.full = true ∧
    (let w : Warp := { ctl with full := false, phase := .prologue, va := 8, ta := 0 }
     (part w).growthFits w.woken = true ∧ ((part w).acquirers w.core w.quarter).any (fun p => p.2.elder w.woken) = false ∧
     w.full = false) ∧
    block0.live - count (ctl.mask &&& 1) ≠ block0.arrived ∧
    ({ block0 with gowner := [(5, some 1)] } : Block).gowner.find 5 = some 1 ∧ Store.wf none [(5, some 1)] = true ∧
    sCtl.warp 1 = some ctl ∧ ctl.wait ≠ some .blockBar ∧ Store.wf none sCtl.warps = true ∧ block0.paired = false ∧ ctl.twin = 2 ∧
    (sCtl.trappedChases 1).filter (fun p => p.2.held) = []) :=
  ⟨issues_of (by decide +kernel), by decide +kernel, by decide +kernel⟩

/-! #### Clauses, system, traps -/

/-- A warp at a clause at 0x40 of the words given. -/
def dec (super : Bool) : Warp := { ctl with pc := 0x40, fetched := false, super := super }
def sDec (super : Bool) (l : List Nat) : State := (part (dec super)).wrRaw (memKey 0 0 0x40) (l.flatMap (bytesOfNat 4))

/-- ClauseDecoding: a misaligned pc; a page that is not there; a reserved class; a SYS clause in both modes; a transfer before
the end; an unassigned opcode; a nop. -/
theorem test_witness_decode :
    (0x42 : DWord).extractLsb' 0 2 ≠ 0 ∧ (dec false).pc.extractLsb' 0 2 = 0 ∧ (sDec false []).mayIssue (dec false) = true ∧
    okB ((sDec false []).fetchAt (dec false) 0x40) (fun p => !(sDec false []).planeHeld p.key) = true ∧
    okB (({ sDec false [] with tlb := [] } : State).fetchAt (dec false) 0x40) (fun _ => true) = false ∧
    Header.parse 0x00000061 = none ∧ (Header.parse 0x00000051).isSome = true ∧
    (Header.parse 0x00000042).any (fun h => misplacedFrom h [0x09, 0x0E] 0 == some 0) = true ∧
    (Header.parse 0x00000042).any (fun h => misplacedFrom h [0x0E, 0x0F] 0 == none && illegalFrom h [0x0E, 0x0F] 0 == some 1) = true ∧
    (Header.parse 0x00000041).any (fun h => misplacedFrom h [0x0E] 0 == none && illegalFrom h [0x0E] 0 == none
      && okB ((sDec false [0x41, 0x0E]).fetchBody (dec false) 0x44 h.body) fun l => decide (l.length = 1)) = true ∧
    (dec false).formed = false ∧ ({ dec false with formed := true, ix := 3 } : Warp).formed = true ∧
    ¬ (3 < 1) ∧ ({ block0 with paired := true } : Block).paired = true ∧
    okB ((sDec false []).fetchAt (dec false) 0x40) (fun p => !(sDec false []).leafHeld p false) = true := by decide +kernel

def sys : Warp := { warp0 .sys with k := [(2, 0x100), (3, 0x8000), (4, 0x10001), (5, 0x1000000000000000), (6, 0x1002)], xstat := 1 }
def sSys : State := part sys
def fS : FmtS := ⟨0, 3, 2⟩

/-- A block with a dirty private byte in the L1 of its core. -/
def sPriv : State := { sSys with blocks := [(2, some { block0 with priv := [(2, some 7)] })] }

/-- PrivilegedRegisters, TrapsTakenAndReturned, SystemMaintenance, ContextSwap: operands, values that are accepted and refused,
an interrupted state and none, contexts of the compartment and of another. -/
theorem test_witness_sys :
    (∀ r ∈ [[Ref.kDst 2], [.k 3], [], [.k 2], [.k 2, .k 3]], Issues sSys sys r) ∧
    (sys.once none = true ∧ ({ sys with mask := 0 } : Warp).once none = false ∧ sSys.ctxOf sys.cmp sys.ctx = some ctx0 ∧
      (sys.kr 5).extractLsb' 60 4 ≠ 0 ∧ (sys.kr 6).extractLsb' 60 4 = 0 ∧ (sys.kr 6).extractLsb' 0 2 ≠ 0 ∧
      (sys.kr 3).extractLsb' 0 2 = 0 ∧ sSys.chaseOf 1 = none ∧ (sChase { chase0 with held := true }).chaseOf 1 =
        some (5, { chase0 with held := true }) ∧ sys.xstat.getLsbD 0 = true ∧ ({ sys with xstat := 0 } : Warp).xstat.getLsbD 0 = false ∧
      sys.xarm = false ∧ ({ sys with xarm := true, xcause := 0x10 } : Warp).xcause.toNat ∈ [0x0F, 0x10]) ∧
    ((sys.kr 2).toNat / 65536 = sys.cmp ∧ (sys.kr 4).toNat / 65536 ≠ sys.cmp ∧ ({ sys with ka := 3 } : Warp).ka ≤ 3 ∧ 3 < sys.ka ∧
      sSys.backHeld (ofCore 0) = false ∧ (sSys.loose (ofCore 0) 0 (2 ^ 96)).filter sSys.looseCut = [] ∧ (sSys.privDirty 0).all (fun x => !sSys.planeHeld x.key) = true ∧
      okB (sSys.xany (sSys.agentOf sys) (sys.kr 2) .write) (fun p => !sSys.planeHeld p.key && !sSys.broken 0 p.key
        && decide ((sSys.home p.key).busy = [])) = true ∧
      ((sHome true).home kq).busy ≠ [] ∧ ({ sSys with blocks := [] } : State).blocks = []) :=
  ⟨issues_all (by decide +kernel), by decide +kernel, by decide +kernel⟩

/-- PrivilegedRegisters, TrapsTakenAndReturned, SystemMaintenance: a warp with a trapped chase, held or sent again, and one with none. -/
theorem test_witness_trapped :
    let c (held : Bool) : Chase := { chase0 with trapped := true, held := held }
    (sChase chase0).trappedChases 1 = [] ∧ (∀ h ∈ [true, false], (sChase (c h)).trappedChases 1 = [(5, c h)]) ∧
    (sChase chase0).chasesOf 1 = [(5, chase0)] ∧ sSys.chasesOf 1 = [] ∧
    Store.wf none (sChase (c true)).chases = true ∧ (heldBack sSys).backHeld (ofWarp sys) = true ∧
    (heldBack sSys).backHeld (ofCore 0) = true := by decide +kernel

/-- SystemMaintenance: a context that is fenced: its warp waits in a queue, a command of it runs and one has not been taken; another
context's command. -/
theorem test_witness_fence :
    let w : Warp := { eng1 with wait := some (.queue 8) }
    let s : State := { sQueue w with
      qops := [(8, some (op0 true))], homes := [(kq, some ⟨[], [8], [], [], true⟩)]
      cmds := [(5, some { cmdC with ctx := 1 }), (6, some cmdC), (7, some { cmdC with taken := true })], chases := [(5, some chase0)] }
    s.ctxOf 0 0 = some ctx0 ∧ s.warp 1 = some w ∧ w.cmp = 0 ∧ w.ctx = 0 ∧ w.swapped = false ∧ w.phase ≠ .ended ∧
    w.wait = some (.queue 8) ∧ 8 < s.nextId ∧ s.homeOf 8 = some kq ∧ Store.wf none s.warps = true ∧ Store.wf none s.cmds = true ∧
    Store.wf none s.chases = true ∧ s.cmds.find 7 = some { cmdC with taken := true } ∧ s.blocks.find 2 = some block0 ∧
    s.clusters.find block0.cluster = some ⟨1, 4, 0, 0, [2], false, none⟩ ∧ 8 ∈ (s.home kq).enqW := by decide +kernel

/-- SystemMaintenance: a state with a dirty private byte and loose bytes, whose stores are in form and which no failed link cuts. -/
theorem test_witness_cache : sPriv.privDirty 0 ≠ [] ∧ (sPriv.privDirty 0).all (fun x => !sPriv.broken 0 x.key) = true ∧
    (sPriv.loose (ofCore 0) 0 (2 ^ 96)).filter sPriv.looseCut = [] ∧ Store.wf none sPriv.l1 = true ∧ sPriv.memWf = true ∧ Store.wf none sPriv.stale = true ∧
    Store.wf none sPriv.staleSide = true ∧ sPriv.inRange 0 0 1 0 = true ∧ sPriv.inRange 0 0 1 1 = false ∧ sPriv.pinned 0 = false := by
  decide +kernel

/-- TrapsTakenAndReturned: user mode with a vector, without one, in supervisor mode, and a page fault that is delegated to a fault
queue that takes its record. -/
theorem test_witness_traps :
    sCtl.warp 1 = some ctl ∧ sCtl.ctxOf 0 0 = some ctx0 ∧ ctl.super = false ∧ ctx0.xvec ≠ 0 ∧ ctx0.xvec.extractLsb' 0 2 = 0 ∧
    (6 : Nat) ≠ heldCause ∧ ({ ctx0 with wrote := some (2, 0) } : Ctx).wrote = some (2, sCtl.clock) ∧
    ¬ (6 ∈ [6, 7, 0x0F, 0x10, 0x15, 0x16] ∧ ctx0.xdeleg.getLsbD 6 = true) ∧ sys.super = true ∧
    ({ ctx0 with xdeleg := 0x40 } : Ctx).xdeleg.getLsbD 6 = true ∧ (sCtl.comp 0).tokens.length < 4096 := by decide +kernel

def cluster8 : Cluster := ⟨9, 4, 0, 0, [], false, none⟩
/-- A cluster with no block beside the warp's own; and one whose slot's next generation has a return in flight. -/
def sSwap : State := { sSys with clusters := [(3, some ⟨1, 4, 0, 0, [2], false, none⟩), (8, some cluster8)] }
def sBusy : State := { sSwap with
  warps := sSwap.warps ++ [(6, some { ctl with block := 7, slot := 5 })], blocks := sSwap.blocks ++ [(7, some { block0 with cluster := 8 })]
  clusters := [(3, some ⟨1, 4, 0, 0, [2], false, none⟩), (8, some { cluster8 with blocks := [7] })], loads := [(9, some { load0 with warp := 77, slot := 5, gen := 1 })] }
/-- The cluster after `ctxs` with its area at the address in k2. -/
def sOut : State := (sSwap.saveCluster 8 cluster8 sys (sys.kr 2)).getD sSwap

/-- ContextSwap: the token of a cluster that is in and not the warp's own, and of one that is out; one that is saved and one whose
work has not ended; the area that was written is read back, and the cluster resumed. -/
theorem test_witness_swap :
    sSwap.clusterOf 0 9 = some (8, cluster8) ∧ sSwap.clusterOf 0 77 = none ∧ ¬ (cluster8.swapped = true ∨ sys.block ∈ cluster8.blocks) ∧
    (sys.kr 2).toNat % 64 = 0 ∧ okB (sSwap.xspan (sSwap.agentOf sys) (sys.kr 2) (sSwap.saveBound cluster8) .write)
      (fun l => l.all fun p => !sSwap.broken 0 p.1.key) = true ∧
    (sSwap.saveCluster 8 cluster8 sys (sys.kr 2)).isSome = true ∧
    (sBusy.saveCluster 8 { cluster8 with blocks := [7] } sys (sys.kr 2)).isNone = true ∧
    (let c : Cluster := { cluster8 with swapped := true }
     sOut.clusterOf 0 9 = some (8, c) ∧ sOut.ctxGone 0 0 = false ∧
     okB (sOut.xspan (sOut.agentOf sys) (sys.kr 2) 64 .read) (fun h => !sOut.spanBad 0 h && (h.all fun p => !sOut.planeHeld p.1.key)
       && headerOk c (sOut.clusterWarps c).length (sOut.readSpan h) && decide (64 ≤ bytesAt (sOut.readSpan h) 8 8)
       && decide (sOut.parseBlocks (sOut.clusterBlocks c) ((sOut.readSpan h).drop 64) = some [])) = true ∧
     (sOut.seatAll c).any (fun l => (sOut.resumeCluster l 8 c []).isSome) = true) := by decide +kernel

/-- ContextSwap: a warp within the bounds of its record, with a replay record. -/
theorem test_witness_restore :
    let w : Warp := { ctl with age := 5, latN := 3, ix := 1 }
    let r : SavedRec := ⟨1, 3, 1, 0x41, 0, 8, bytesOfNat 8 0x40⟩
    w.va < 256 ∧ w.ka ≤ 128 ∧ w.ta < 256 ∧ w.age < 2 ^ 64 ∧ w.twin < 4 ∧ w.latN < 16 ∧ w.ix < 16 ∧
    w.pc = w.pc &&& 0x0FFFFFFFFFFFFFFC ∧ [r].length < 2 ^ 32 ∧
    (1 ≤ r.kind ∧ r.kind ≤ 9 ∧ r.counter < 4 ∧ r.ix < 256 ∧ r.payload.length < 2 ^ 32) := by decide +kernel

/-- ContextSwap: a warp of the cluster that stays, and one that has ended; their slots differ. -/
theorem test_witness_swap_out : Store.wf none sBusy.warps = true ∧ Store.wf none sBusy.loads = true ∧ Store.wf none sBusy.chases = true ∧
    (sBusy.warp 6).any (fun x => x.block == 7 && x.phase != .ended) = true ∧ (sBusy.warp 1).any (fun x => x.block != 7) = true ∧
    (sBusy.warps.all.map fun p => p.2.slotNo).Nodup := by decide +kernel

/-! #### Warps formed, grants, launches -/

def rec0 : Rec := ⟨0, 0, none, 0x100C, false, false, 9, 0, 0, none⟩
def blockF : Block := { block0 with recs := [rec0] }
def cluster0 : Cluster := ⟨1, 4, 0, 0, [2], false, none⟩
/-- A block whose one record has waited 2,048 clocks, its warp gone; the record's bytes name no register. -/
def sForm : State := { sCtl with warps := [], blocks := [(2, some blockF)], clock := 2048 }

/-- FormerAndSchedulers: a record that may be formed, in a slot that is free, by quiet and by age, and its bytes. -/
theorem test_witness_form :
    sForm.blocks.find 2 = some blockF ∧ blockF.recs.find? (fun r => r.slot == 0) = some rec0 ∧
    sForm.clusters.find blockF.cluster = some cluster0 ∧ sForm.groupOf 2 blockF rec0 = [rec0] ∧ blockF.swapped = false ∧
    rec0.token = none ∧ sForm.formerSlot blockF 5 = true ∧ sForm.quiet 2 = true ∧ rec0.waited + 2048 ≤ sForm.clock ∧
    sCtl.quiet 2 = false ∧ ¬ 128 ≤ [rec0].length ∧ 112 ≤ blockF.fv ∧
    okB (sForm.readRecs ⟨0, 0, 0, 3⟩ blockF [rec0]) (fun p => match sortBy (fun x y => x.2.wid.toNat < y.2.wid.toNat) p.1 with
      | h :: _ => okB (p.2.readSnap ⟨0, 0, 0, 3⟩ blockF h.2.snap 0) (fun q => decide (q.2.blocks.find 2 = some blockF))
      | [] => false) = true ∧
    okB (sForm.xspan ⟨0, 0, 0, 3⟩ (blockF.recAddr 0) 24 .read) (fun l => decide (l.length = 1) && l.all fun p =>
      decide (p.2 = 24) && !sForm.planeHeld p.1.key && !sForm.lineFailed p.1.key && !sForm.broken 0 p.1.key) = true ∧
    okB (sForm.fetchSpan ⟨0, 0, 0, 3⟩ (blockF.recAddr 0) 24) (fun p => decide (p.1.length = 24)) = true ∧
    127 * (24 + 4 * blockF.lmax) + 24 + 4 * 16 + 8 ≤ blockF.poolOffset blockF.poolSize ∧ blockF.poolOffset blockF.poolSize < 2 ^ 64 ∧
    (match ({ sForm with tlb := [] } : State).fetchSpan ⟨0, 0, 0, 3⟩ 0x40 8 with | .error e => e.2.cause != heldCause | .ok _ => false) = true ∧
    okB (sForm.strayRuns ⟨0, 0, 0, 3⟩ []) (fun p => p.1 == []) = true := by decide +kernel

/-- FormerAndSchedulers: an acquire that fits and one that does not, a claim of an unowned register, an ended warp with nothing in
flight, a ready warp that has not started for 768 clocks. -/
theorem test_witness_grants :
    let w : Warp := { ctl with phase := .acquiring, full := false, va := 8, ta := 0, acqAt := some 0 }
    let e : Warp := { ctl with phase := .ended }
    let b : Block := { block0 with claims := [(31, 1)] }
    (part w).acquirers 0 0 = [(1, w)] ∧ (part w).warp 1 = some w ∧ (part w).growthFits w = true ∧
    (({ part w with warps := (1, some w) :: (List.range 31).map fun i => (i + 20, some { ctl with slot := i + 1 }) } : State).growthFits w = false) ∧
    ({ sCtl with blocks := [(2, some b)] } : State).blocks.find 2 = some b ∧ b.gowner.find 31 = none ∧
    b.claims.find? (fun p => p.1 == 31) = some (31, 1) ∧ e.phase = .ended ∧ (part e).inFlight 1 = false ∧ (part e).genFree e.slotNo = true ∧
    (part e).blocks.find e.block = some block0 ∧ ctl.ready = true ∧ ctl.held = false ∧ ctl.idleSince + 768 ≤ 768 := by decide +kernel

def lq0 : LaunchQueue := { block := 0x100, table := 0x4000, entries := 2, super := false, ctx := 0, root := 0, stopped := false }
def launch1 : Launch := ⟨0, 1, 0, false, 0, 0x4000, { hdr0 with comp := some 0x100 }, .waiting, 0⟩
/-- A launch queue at 0x100 with its table at 0x4000, and no launch. -/
def sDist : State := { sQueue ctl with
  launches := [], warps := [], blocks := [], clusters := [], comps := [(0, some { comp0 with queues := [(1, some lq0)] })] }
/-- The queue after the distributor's request has been served. -/
def sAsked : State := (served (sDist.tick1.qserve kq sDist.nextId (sDist.distRequest 0 1 lq0) (sDist.qempty kq false))).getD sDist

/-- LaunchesRun: a queue with a free entry, in a context and in one that is destroyed, served, waiting and refused; a header that is
refused; a launch that waits, whose phase has changed. -/
theorem test_witness_dequeue :
    sDist.launchQueue 0 1 = some lq0 ∧ sDist.freeEntry 0 1 lq0 = some 0 ∧ sDist.distOp 0 1 = none ∧ lq0.stopped = false ∧
    (sDist.ctxOf 0 lq0.ctx).isSome = true ∧ sDist.ctxOf 0 { lq0 with ctx := 9 }.ctx = none ∧
    okB (sDist.queueXlate 0 lq0 lq0.block .write) (fun t => decide (t.key = kq) && !sDist.planeHeld t.key && sDist.homeIdle t.key) = true ∧
    okB (units (fun x => sDist.queueXlate 0 lq0 x .write) lq0.table 128) (fun _ => true) = true ∧
    (served (sDist.tick1.qserve kq sDist.nextId (sDist.distRequest 0 1 lq0) (sDist.qempty kq false))).isSome = true ∧
    waits (sDist.tick1.qserve kq sDist.nextId (sDist.distRequest 0 1 lq0) false) = true ∧
    refused (({ sDist with mem := [] } : State).tick1.qserve kq sDist.nextId (sDist.distRequest 0 1 lq0) true) = true ∧
    sAsked.busyHome sDist.nextId = some kq ∧ (sAsked.qfirst kq false).any (fun p => p.1 == sDist.nextId && !sAsked.slotHeld p.2) = true ∧
    sDist.rejectFor 0 0 (List.replicate 128 0) = some 1 ∧
    (let s : State := { sDist with launches := [(4, some launch1)], barWaits := [(6, some ⟨.launch 4, 0, 0, none, 0, some 3⟩)] }
     s.launches.find 4 = some launch1 ∧ launch1.state = .waiting ∧ (s.depWait 4).any (fun p => p.2.woken == some 3) = true) := by
  decide +kernel

/-- LaunchesRun: a control block and a table that do not translate, and a launch whose cores hold back a byte. -/
theorem test_witness_dequeue_stops :
    let far : LaunchQueue := { lq0 with block := 0x40000000 }
    let away : LaunchQueue := { lq0 with table := 0x40000000 }
    let fails {α : Type} (e : Except Fail α) : Bool := match e with | .error e => e.cause != heldCause | .ok _ => false
    fails (sDist.queueXlate 0 far far.block .write) = true ∧ okB (sDist.queueXlate 0 away away.block .write) (fun t => !sDist.leafHeld t true) = true ∧
    okB (units (fun x => sDist.queueXlate 0 away x .write) away.table 128) (fun _ => true) = false ∧ far.stopped = false ∧
    (heldBack sCtl).backHeld (fun slot => [0].contains (slot / 128)) = true := by decide +kernel

/-- LaunchesRun: a launch that is placed on core 0, alone, and behind one of a higher priority; the first block of its cluster and its
first unit; a pair of units. -/
theorem test_witness_place :
    let h : LaunchHdr := { hdr0 with widths := [7, 4, 5, 0, 0, 0], extents := [128, 16, 32, 1, 1, 1] }
    let l : Launch := { launch1 with state := .active, hdr := h }
    let first : Launch := { l with hdr := { h with prio := 7 } }
    let s : State := { sDist with
      launches := [(4, some l)], reports := (List.range 4).map fun q => (q, some (sDist.reportOf 0 q)) }
    s.launches.find 4 = some l ∧ (∀ p ∈ s.launches.all, tried p (4, l) = false) ∧ tried (5, first) (4, l) = true ∧
    (s.tryPlace 4 l [0] 0).isSome = true ∧ ({ s with launches := [(4, some l), (5, some first)] } : State).placeable 5 first = true ∧
    ((s.newCluster 4 l).placeBlock 4 l s.nextId 0 (0, 0)).isSome = true ∧ (s.placeUnit l 2 block0 0 0).isSome = true ∧
    (s.placeUnit l 2 { block0 with paired := true } 0 0).isSome = true ∧ s.reportDue 3 = false ∧ s.reportDue 4 = false ∧
    ({ s with clock := 64 } : State).reportDue 3 = true ∧ ({ s with clock := 127, reportAt := [(3, 64)] } : State).reportDue 3 = false := by decide +kernel

/-- LaunchesRun: a launch that is done, with an object to arrive at and with none, whose cores hold nothing back; one that is not. -/
theorem test_witness_complete :
    let l : Launch := { launch1 with state := .placed }
    let s : State := { sBar ctl with launches := [(4, some l)], warps := [], blocks := [], clusters := [] }
    s.launches.find 4 = some l ∧ s.launchDone 4 l = true ∧ l.hdr.comp = some 0x100 ∧ hdr0.comp = none ∧ sCtl.launchDone 4 l = false ∧
    (s.launchCores 4).all (fun c => !s.backHeld c) = true ∧ (s.publish 4).isSome = true ∧
    okB (s.xlate (distAgent 0 0) 0x100 .write) (fun t => !s.planeHeld t.key) = true ∧
    okB (({ s with tlb := [] } : State).xlate (distAgent 0 0) 0x100 .write) (fun _ => true) = false ∧
    Store.wf none s.blocks = true ∧ Store.wf none s.clusters = true := by decide +kernel

/-! #### Translations, the outside, management -/

def sWalk : State := { tables sCtl with ctxs := [(0, some { ctx0 with ptroot := 0x10000 })] }
def found0 : Token := ⟨77, .warp 1, none⟩

/-- TranslationsAndErrors: at each level an entry that is a leaf or names a table, one that is not there and one that is malformed; a
page that is writable and one that is not executable. -/
theorem test_witness_walk :
    let entry (base va : DWord) (level : Nat) : Option Nat :=
      match sWalk.resolve (base + BitVec.ofNat 64 (8 * (va.toNat / 2 ^ (15 + 12 * (level - 1)) % 4096))) with
      | .ok a => if !sWalk.planeHeld a && !sWalk.lineFailed a && !sWalk.broken 0 a then some (sWalk.num a 8) else none
      | .error _ => none
    (entry 0x10000 0 4 = some 0x20001 ∧ entry 0x20000 0 3 = some 0x30001 ∧ entry 0x20000 (1 <<< 39) 3 = some 0x8000000000309 ∧
      entry 0x30000 0 2 = some 0x40001 ∧ entry 0x40000 0 1 = some 0x50307 ∧ entry 0x40000 0x8000 1 = some 0 ∧
      entry 0x40000 0x10000 1 = some 0x50331) ∧
    sWalk.compOf 0 = some 0 ∧ (sWalk.ctxOf 0 0).any (fun c => c.ptroot == 0x10000) = true ∧ (0 : DWord).getLsbD 63 = false ∧
    (sWalk.tlbHit ⟨0, 0, 9, 3⟩ 0).isNone = true ∧
    okB (sWalk.walk 9 0 4 0x10000) (fun p => decide (p.1 = 1) && p.2.2 == 0x50307) = true ∧
    okB (sWalk.walk 9 (1 <<< 39) 4 0x10000) (fun p => decide (p.1 = 3)) = true ∧
    okB (sWalk.walk 9 0x8000 4 0x10000) (fun _ => true) = false ∧
    okB (sWalk.resolve 0x50000) (fun k => sWalk.owns 0 k && !sWalk.owns 1 k) = true ∧
    okB (sWalk.xlate ⟨0, 0, 9, 3⟩ 0 .write) (fun t => decide (t.key = memKey 0 0 0x50000)) = true := by decide +kernel

/-- TranslationsAndErrors: tokens known and unknown; counts that are due. -/
theorem test_witness_errors :
    (let s : State := { part { ctl with wait := some .resume, token := some 77 } with comps := [(0, some { comp0 with tokens := [found0] })] }
     (s.comp 0).tokens.find? (fun t => t.token == 77 && t.noted.isNone && s.tokenLive t) = some found0 ∧
     (s.comp 0).tokens.find? (fun t => t.token == 78 && t.noted.isNone && s.tokenLive t) = none ∧ ctl.swapped = false) ∧
    (let s : State := { sCtl with corrected := [(5, 3)], correctedAt := [(5, some 0)], gtime := 1024 }
     Store.get 0 s.corrected 5 ≠ 0 ∧ s.correctedAt.find 5 = some 0 ∧ 0 + 1024 ≤ s.gtime ∧ s.correctedAt.find 6 = none) := by
  decide +kernel

/-- TranslationsAndErrors: the fault queue at 0x100 of elements of 16 bytes, its resume queue at 0x140 holding one. -/
def sResume : State :=
  let first := bytesOfNat 8 0x200 ++ bytesOfNat 8 0x0004001000000002
  { sCtl with comps := [(0, some { comp0 with qfault := some (0x100, 0) })] }.wrRaw (memKey 0 0 0x140)
    (first ++ bytesOfNat 8 0x100000000 ++ bytesOfNat 8 1 ++ List.replicate 16 0 ++ bytesOfNat 2 0x51E0 ++ bytesOfNat 2 (onesSum first)
      ++ List.replicate 12 0)

theorem test_witness_resume : (sResume.comp 0).qfault = some (0x100, 0) ∧
    okB (sResume.xany ⟨0, 0, 4096, 0⟩ (0x100 + 64) .write) (fun t => decide (sResume.num (t.key + 12) 2 = 16)
      && (sResume.qfirst t.key false).isNone && !sResume.planeHeld t.key && sResume.homeIdle t.key && (served (sResume.tick1.qserve t.key sResume.nextId
        { partEnqueue (.record none none) 0 0 (0x100 + 64) [] with enq := false, span := 16 }
        (sResume.qempty t.key false))).isSome) = true := by decide +kernel

/-- A part with a connection, regions over payload and over the sideband view, a window, and a member of the domain. -/
def sNet : State := { sQueue ctl with
  rkeys := [(3, some (.region 0 0 0x200 64 true true false)), (4, some (.window 0 0 0x100)), (5, some (.region 0 0 0x8000 128 true true true))]
  conns := [(5, some ⟨0, 9, [], false⟩)], members := [9], comps := [(0, some { comp0 with group := 2 })] }
/-- The same with a q.init in front of the queue: a window write must wait. -/
def sNetHeld : State := { sNet with homes := [(kq, some ⟨[], [], [], [12], true⟩)] }

/-- OutsideRequests: a connection that is idle, one whose window write waits, one with an operation that cannot be performed yet; ranges
at and past the end of a region; units of both views; a window whose element length is eight. -/
theorem test_witness_outside :
    let r : Region := ⟨0, 0, 0x200, 64, true, true, false⟩
    let side : Region := ⟨0, 0, 0x8000, 128, true, true, true⟩
    let ok (o : Option State) : Bool := o.isSome
    let done (a : Access) : Bool := match a with | .done _ _ => true | _ => false
    sNet.conns.find 4 = none ∧ sNet.conns.find 5 = some ⟨0, 9, [], false⟩ ∧ ok (sNet.hostOp 5 (.write 3 0x200 [1])) = true ∧
    ok (sNetHeld.hostOp 5 (.window 4 (bytesOfNat 8 1))) = false ∧ sNet.rkeys.find 2 = none ∧
    sNet.rkeys.find 4 = some (.window 0 0 0x100) ∧ sNet.rkeys.find 3 = some (.region 0 0 0x200 64 true true false) ∧
    r.covers 0x200 64 = true ∧ r.covers 0x200 65 = false ∧ r.covers 0x1FF 8 = false ∧ side.covers 0x8080 8 = true ∧
    done (sNet.writeRegion r (rdmaUnits 0x203 9) (List.replicate 9 7)) = true ∧ done (sNet.readRegion side (rdmaUnits 0x8080 8) []) = true ∧
    done (({ sNet with tlb := [] } : State).readRegion r (rdmaUnits 0x200 8) []) = false ∧
    okB (sNet.unitAt r 0x200 .write) (fun p => p.1.leaf &&& 0x300 == 0x300 && p.2.isNone && !sNet.planeHeld p.1.key) = true ∧
    okB (sNet.unitAt side 0x8080 .read) (fun p => p.2 == some 0 && !sNet.lineFailed p.1.key) = true ∧
    okB (sNet.xany ⟨0, 0, 4096, 0⟩ 0x100 .write) (fun t => decide (t.key = kq) && !sNet.planeHeld t.key
      && decide ((sNet.qblk t.key).size = 8) && sNet.homeIdle t.key) = true ∧
    (served (sNet.tick1.qserve kq sNet.nextId (partEnqueue (.window 5 4) 0 0 0x100 (bytesOfNat 8 1)) (sNet.qempty kq true))).isSome = true := by
  decide +kernel

/-- OutsideRequests: a member's request for a local address, one from a stranger, one that is kept and one that waits. -/
theorem test_witness_remote :
    let req (src : Nat) (op : RemoteOp) : RemoteReq := ⟨src, 1, 2, 0, 0x40, op⟩
    let does (r : RemoteReq) (s : State) : Nat := match s.remoteDo (memKey 0 0 0x40) r with | .later => 0 | .answer _ _ => 1 | .waits _ => 2
    sNet.remoteKey (req 9 (.read 8)) = some (memKey 0 0 0x40) ∧ sNet.remoteKey (req 8 (.read 8)) = none ∧
    (sNet.remoteLog.find? fun e => e.1 == 9 && e.2.1 == 1) = none ∧ sNet.remotePending 9 1 = false ∧
    ({ sNet with remoteLog := [(9, 1, none)] } : State).remoteLog.find? (fun e => e.1 == 9 && e.2.1 == 1) = some (9, 1, none) ∧
    sNet.lineFailed (memKey 0 0 0x40) = false ∧ sNet.num (memKey 0 0 0x40) 4 = 0 % 2 ^ (8 * 4) ∧
    [RemoteOp.read 8, .write [1], .readLine, .atomic 0 4 1, .cas 4 0 1, .writeLine [1] [2], .arrive 1].all
      (fun op => does (req 9 op) sNet == 1) = true ∧
    does (req 9 (.barrierWait 0)) (sNet.wrRaw (memKey 0 0 0x40) (bytesOfNat 16 obj0.toNat)) = 2 := by decide +kernel

/-- A window write whose element has its slot reserved. -/
def sWindow : State :=
  (served (sNet.tick1.qserve kq sNet.nextId (partEnqueue (.window 5 4) 0 0 0x100 (bytesOfNat 8 1)) (sNet.qempty kq true))).getD sNet

/-- OutsideRequests: a window write that is published, and units that fail. -/
theorem test_witness_window :
    (sWindow.qfirst kq true).any (fun p => decide (p.2.agent = .window 5 4) && p.2.enq && !sWindow.slotHeld p.2
      && decide (p.2.counters.length ≤ 1)) = true ∧ sWindow.conns.find 5 = some ⟨0, 9, [], false⟩ ∧
    (let s : State := { sNet with failed := [(0x200 / 128, BitVec.allOnes 136)] }
     okB (s.unitAt ⟨0, 0, 0x200, 64, true, true, false⟩ 0x200 .read) (fun p => s.unitFailed p.1 p.2 8 && !s.leafHeld p.1 false) = true) ∧
    okB (sNet.unitAt ⟨0, 0, 0x200, 64, true, true, false⟩ 0x200 .read) (fun p => !sNet.unitFailed p.1 p.2 8) = true := by decide +kernel

/-- ManagementCommands: a block that QUEUE-SET accepts and one that it refuses, a context that it names; opcode 0x0E with bytes that are
to be zero; a part without an event on its way. -/
theorem test_witness_blocks :
    (let first := bytesOfNat 8 0x200 ++ bytesOfNat 8 0x0006000800000004
     ((part eng1).wrRaw kq (first ++ bytesOfNat 8 0 ++ bytesOfNat 8 4 ++ List.replicate 16 0 ++ bytesOfNat 2 0x51E0 ++ bytesOfNat 2 (onesSum first)
      ++ List.replicate 12 0)).queueFits 0 0 0x100 8 true = true) ∧ (sQueue eng1).queueFits 0 0 0x100 64 true = false ∧
    (sQueue eng1).ctxOf 0 0 ≠ none ∧ (sQueue eng1).ctxOf 0 7 = none ∧ (sQueue eng1).delayed = [] ∧ (sQueue eng1).homes.all = [] ∧
    ((0x0E : Nat) = 0x0E ∧ (1 : Nat) ≠ 0) ∧ okB ((sQueue eng1).xany ⟨0, 0, 4096, 0⟩ 0x100 .write) (fun t => decide (t.key = kq)) = true ∧
    okB ((sQueue eng1).xany ⟨0, 0, 4096, 0⟩ 0x40000000 .write) (fun _ => true) = false := by decide +kernel

def mh : MgmtHdr := { conn := 5, opcode := 1, zero := 0, tag := 77, replyAddr := 0x40, replyRkey := 3, cmp := 7 }

/-- ManagementCommands: the states of the processor; a peer in the list and one that is not; opcodes at the edges of Table 18.3;
compartments 7 and 8; operands at the edges of their ranges. -/
theorem test_witness_management :
    State.reset.boot = .rom ∧ sNet.boot = .running ∧ sNet.conns.find mh.conn = some ⟨0, 9, [], false⟩ ∧ 9 ∉ sNet.peers ∧
    9 ∈ ({ sNet with peers := [9] } : State).peers ∧ (mh.opcode.toNat = 1 ∧ mh.zero = 0) ∧ ({ mh with opcode := 0x0F } : MgmtHdr).opcode.toNat > 0x0E ∧
    sNet.summaryReady = true ∧ ({ sHome true with comps := [(0, some { comp0 with qfault := some (0x100, 0) })] } : State).summaryReady = false ∧
    sNet.queueSetHeld 0 (.eventQueue 0x100 0) = false ∧ sAway.queueSetHeld 0 (.eventQueue 0x100 0) = true ∧
    sNet.homesRest = true ∧ ({ sHome true with comps := [(0, some { comp0 with qfault := some (0x100, 0) })] } : State).homesRest = false ∧ mh.cmp < 8 ∧ 8 ≤ ({ mh with cmp := 8 } : MgmtHdr).cmp ∧
    (List.replicate 224 (0 : Byte)).length ≤ 224 ∧ 224 < (List.replicate 225 (0 : Byte)).length ∧
    (List.replicate 32 (0 : Byte)).length = 32 ∧ (List.replicate 16 15).length = 16 ∧
    (∀ x ∈ List.replicate 16 15, x < 16) ∧ (∀ x ∈ List.replicate 16 32, 1 ≤ x ∧ x ≤ 32) ∧
    sCtl.groupsFree 7 0 0 = true ∧ sCtl.groupsFree 7 1 0 = false ∧ sCtl.hasWork 7 = false ∧ sCtl.hasWork 0 = true ∧
    sCtl.ctxOf 7 5 = none ∧ sCtl.ctxOf 0 0 ≠ none ∧ (0x40 : DWord).toNat % 64 = 0 ∧ ¬ (2 ^ 63 < (0x40 : DWord).toNat + 128) ∧
    sCtl.rkeys.find 12 = none ∧ sNet.remoteBusy = false ∧
    ¬ (2048 ≤ 2047 ∨ 65536 ≤ 65535 ∨ 28 < 1 ∨ ∃ p ∈ [(2047, 1)], 2048 < p.1 + p.2) := by decide +kernel

/-- ManagementCommands, ResetAndPower: whether an image verifies is a free value; either answer has its clause. -/
theorem test_witness_image (s : State) : s.imageOk s.flash = true ∨ s.imageOk s.flash = false := by
  cases s.imageOk s.flash <;> simp

/-- ResetAndPower, DecodingInvertsEncoding, MemoryStaysCanonical, StepRunsDecodedInstruction. -/
theorem test_witness_machine :
    ({ sCtl with issueStopped := true } : State).issueStopped = true ∧ ({ sCtl with power := false } : State).power = false ∧
    (Instr.brd ⟨true, true, 7, 0xFFFFF⟩ ⟨16, 111⟩).wf = true ∧ (encode (.brd ⟨true, true, 7, 0xFFFFF⟩ ⟨16, 111⟩)).isSome = true ∧
    sCtl.memWf = true ∧ (sBar eng).memWf = true ∧
    (let w : Warp := { ctl with words := [0x0E] }
     let s : State := { part w with agenda := [.warp 1] }
     s.power = true ∧ s.warp 1 = some w ∧ s.mayIssue w = true ∧ w.fetched = true ∧
     decode w.hdr.cls (w.hdr.instrWords w.words w.ix).1 (w.hdr.instrWords w.words w.ix).2 = .ok (.nop ⟨false, false, 0, 0⟩)) ∧
    sCtl.l1Load ≤ Config.l1Lines ∧ Store.wf none [(0, some (7 : Word))] = true ∧
    (let w : Warp := { ctl with yieldFor := [(5, 0), (6, 3)] }
     let s : State := { part w with warps := [(1, some w), (5, some { ctl with slot := 1 }), (6, some { ctl with slot := 2, ix := 1, words := [0, 0] })] }
     s.trim.warp 1 = some w ∧ (s.trim.warp 5).any (fun x => s.trim.starts 5 x && x.ix == 0) = true) ∧ sCtl.stale.length + sCtl.staleSide.length ≤ Config.sliceLines ∧
    encode (.resourceReport 0) = none ∧ Instr.resourceReport 0 ≠ .clauseDecode := by decide +kernel

/-! ### Single steps with results worked out by hand from the rules -/

/-- `exec` answers a next state that passes a test. -/
def runs (i : Instr) (s : State) (p : State → Bool) : Bool := match exec i s with | .next t => p t | _ => false

/-- The warp after a step passes a test. -/
def leaves (i : Instr) (w : Warp) (p : Warp → Bool) : Bool :=
  runs i (part w) fun t => match t.warp 1 with | some x => p x | none => false

/-- Position 3 alone, v[18] = `a`, v[34] = `b`, destination v[6]. -/
def ab (a b : Word) : Warp := { warp0 .alu with mask := 8, v := [(18 * 128 + 3, a), (34 * 128 + 3, b)] }
def d6 (x : Word) (w : Warp) : Bool := decide (w.vr 6 3 = x ∧ w.vr 6 4 = 0)

/-- R235: sums wrap, products keep one half, shifts count mod 32. -/
theorem test_integers :
    leaves (.iadd fA none) (ab 0xFFFFFFFF 2) (d6 1) ∧ leaves (.isub fA none) (ab 1 2) (d6 0xFFFFFFFF) ∧
    leaves (.imulh fA none) (ab 0xFFFFFFFF 2) (d6 0xFFFFFFFF) ∧ leaves (.imulhu fA none) (ab 0xFFFFFFFF 2) (d6 1) ∧
    leaves (.imin fA none) (ab 0x80000000 1) (d6 0x80000000) ∧ leaves (.umin fA none) (ab 0x80000000 1) (d6 1) ∧
    leaves (.andn fA none) (ab 0xF0 0x30) (d6 0xC0) ∧ leaves (.sar fA none) (ab 0x80000000 33) (d6 0xC0000000) ∧
    leaves (.shr fA none) (ab 0x80000000 32) (d6 0x80000000) ∧ leaves (.rotl fA none) (ab 0x80000001 4) (d6 0x18) := by
  decide +kernel

/-- R236, R237: a 10-bit immediate is sign-extended for iaddi and not for ori; clz of 0 is 32. -/
theorem test_immediates_and_unary :
    leaves (.iaddi ⟨false, false, 0x3FF, 18, 6⟩ none) (ab 5 0) (d6 4) ∧
    leaves (.ori ⟨false, false, 0x3FF, 18, 6⟩ none) (ab 0x400 0) (d6 0x7FF) ∧
    leaves (.clz ⟨false, false, 0, 0, 18, 6⟩ none) (ab 0 0) (d6 32) ∧
    leaves (.popc ⟨false, false, 0, 1, 18, 6⟩ none) (ab 0xF0F 0) (d6 8) ∧
    leaves (.brev ⟨false, false, 0, 2, 18, 6⟩ none) (ab 1 0) (d6 0x80000000) ∧
    leaves (.sext8 ⟨false, false, 0, 5, 18, 6⟩ none) (ab 0x180 0) (d6 0xFFFFFF80) := by decide +kernel

/-- R238 to R240: 1 + 2 = 3 exactly; 1 + 2^-24 ties to even; 1/0 is infinity with DZ (Table 5.2); sqrt of -1 is the
canonical NaN with NV. -/
theorem test_floats :
    leaves (.fadd fA none) (ab 0x3F800000 0x40000000) (fun w => d6 0x40400000 w && w.fflags == 0) ∧
    leaves (.fadd fA none) (ab 0x3F800000 0x33800000) (fun w => d6 0x3F800000 w && w.fflags != 0) ∧
    leaves (.fmul fA none) (ab 0x40400000 0xC0000000) (d6 0xC0C00000) ∧
    leaves (.fdiv fA none) (ab 0x3F800000 0) (fun w => d6 0x7F800000 w && w.fflags != 0) ∧
    leaves (.fdiv fA none) (ab 0x3F800000 0x40400000) (d6 0x3EAAAAAB) ∧
    leaves (.fsqrt ⟨false, false, 0, 4, 18, 6⟩ none) (ab 0xBF800000 0) (fun w => d6 0x7FC00000 w && w.fflags != 0) := by
  decide +kernel

/-- R251, R252: a shuffle reads another position; bcast gives every thread the chosen position's value. -/
theorem test_cross_thread :
    leaves (.bcast ⟨false, false, 3, 18, 6⟩) { ab 7 0 with mask := 0x18 } (fun w => w.vr 6 3 == 7 && w.vr 6 4 == 7) ∧
    leaves (.shfl fA none) { ab 7 0 with mask := 0x18, v := [(18 * 128 + 3, 7), (34 * 128 + 4, 3)] }
      (fun w => w.vr 6 4 == 7) := by decide +kernel

/-- R266, R75: a signed byte is read little-endian at once and lands when it returns. -/
theorem test_load_byte :
    let s : State := (part { warp0 .mem with mask := 8, v := [(18 * 128 + 3, 0x41)] }).wrRaw (memKey 0 0 0x40) [1, 0x80, 3]
    runs (.ld ⟨false, 0, true, 3, 0, 18, 6⟩ none) s (fun t => (t.loads.map fun p => p.2.map fun l => (l.dc, l.writes)) ==
      [some (some 3, [.v 6 [(3, 0xFFFFFF80)]])] && (t.warp 1).any fun w => w.dn 3 == 1 && w.vr 6 3 == 0) := by decide +kernel

/-- R266: a store writes its low bytes, the first at the address. -/
theorem test_store_half :
    runs (.st ⟨false, 0, false, 3, 1, 18, 6⟩ none)
      (part { warp0 .mem with mask := 8, v := [(6 * 128 + 3, 0xAABBCCDD), (18 * 128 + 3, 0x42)] })
      (fun t => t.bytes (memKey 0 0 0x41) 4 == [0, 0xDD, 0xCC, 0]) := by decide +kernel

/-- R271: two positions add to one word at its home; each may read an old value that no order rules out. -/
theorem test_atomic_add :
    runs (.atom ⟨false, 0, false, 3, 2, 18, 6⟩ none)
      (part { warp0 .mem with mask := 0x18, v := [(6 * 128 + 3, 5), (6 * 128 + 4, 6), (18 * 128 + 3, 0x40), (18 * 128 + 4, 0x40)] })
      (fun t => t.bytes (memKey 0 0 0x40) 4 == [11, 0, 0, 0]) := by decide +kernel

/-- R307: bra adds its offset, in words, to the clause's own address. -/
theorem test_branch :
    leaves (.bra ⟨false, false, 0, 0xFFFFF⟩) { warp0 .ctl with pc := 0x1000 } (fun w => w.pc == 0xFFC) ∧
    leaves (.call ⟨false, false, 0, 4⟩) { warp0 .ctl with pc := 0x1000 } (fun w => w.pc == 0x1010 && w.kr 127 == 0x1008) ∧
    leaves (.exit ⟨false, false, 0, 0⟩) { warp0 .ctl with mask := 1 } (fun w => w.phase == .ended) := by decide +kernel

/-- R314, Table 15.1: a trap saves its code in xval and enters the handler in supervisor mode. -/
theorem test_trap :
    runs (.trap ⟨false, false, 0, 0x123⟩)
      { part { warp0 .ctl with pc := 0x1000 } with ctxs := [(0, some { ctx0 with xvec := 0x4000 })] }
      (fun t => (t.warp 1).any fun w => w.super && w.pc == 0x4000 && w.xval == 0x123) := by decide +kernel

/-- R316: a special register written and read. -/
theorem test_special :
    leaves (.wrsp ⟨5, 3, 0⟩) { warp0 .sys with k := [(3, 0x77)] } (fun w => w.xscr0 == 0x77) ∧
    leaves (.rdsp ⟨5, 0, 3⟩) { warp0 .sys with xscr0 := 0x77 } (fun w => w.kr 3 == 0x77) := by decide +kernel

/-- Table 6.3: the object of two arrivals at scope 3 that bar.init writes. -/
theorem test_barrier :
    runs (.barInit ⟨0, 0, 0, 5, 4⟩) (part { warp0 .eng with k := [(4, 0x40), (5, 0x300002)] })
      (fun t => t.bytes (memKey 0 0 0x40) 16 == [2, 0, 0x20, 0, 0, 0x60, 0, 0, 0, 0, 0, 0, 0, 0, 0, 0xB7]) := by decide +kernel

/-- R298: accz empties a tile when the engine has run it. -/
theorem test_engine_queue :
    runs (.accz ⟨false, false, 0, 0, 0, 1⟩) (part { warp0 .mat with acc := [(1024, 9)] })
      (fun t => (t.engines.find 0).any fun e => e.queue.length == 1) := by decide +kernel

/-! ### The spec's worked examples -/

/-- The instruction of two words decodes, and `exec` of it answers a warp that passes a test. -/
def leaves2 (c : Class) (w0 w1 : Word) (w : Warp) (p : Warp → Bool) : Bool :=
  match decode c w0 (some w1) with | .ok i => leaves i w p | .error _ => false

/-- R151: the check of the queue of the example after R161. -/
theorem test_queue_check : onesSum (bytesOfNat 8 0x00007FFFF0000000 ++ bytesOfNat 8 0x000C002000000008) = 0x7034 := by
  decide +kernel

/-- Section 3, Tables 3.4 and 3.5: where thread 37 reads. -/
theorem test_permutes : permShort 1 37 = 42 ∧ permShort 4 37 = 33 ∧ permShort 7 37 = 32 ∧ permLong 0x23 37 = 40 ∧
    [0x41, 0x51, 0x62, 0x77].map (fun p => permLong p 37) = [38, 53, 69, 117] := by decide +kernel

/-- Section 4, R103, with the words of section 9: 0x3F80C000 to BF16 in SR by lanes 0 to 3 and 8; the one beat draws its words in
a clock between the issue and the result. -/
theorem test_stochastic :
    let w : Warp := { warp0 .alu with mask := 0x10F, v := [0, 1, 2, 3, 8].map fun t => (2 * 128 + t, 0x3F80C000) }
    (match decode .alu 0x0000412B (some 0x00000432) with
      | .ok i => runs i (part w) fun s => runs i s.drawClock fun t => (t.warp 1).any fun w =>
          [0, 1, 2, 3, 8].map (w.vr 4) == [0x3F80, 0x3F81, 0x3F80, 0x3F80, 0x3F80] && w.fflags == 0x10
      | .error _ => false) = true := by
  decide +kernel

/-- Section 9: the words of `mxpack.f32.e2m1 v20, v8:v15`, and what they pack. -/
theorem test_mxpack :
    leaves2 .alu 0x0001052C 0x00000092
      { warp0 .alu with v := [(8 * 128, 0x40400000), (9 * 128, 0xBF800000), (10 * 128, 0x3F333333), (13 * 128 + 2, 0x41200000)] }
      (fun w => w.vr 20 0 == 0x193 && w.vr 20 2 == 0x600000 && w.er 20 0 == 0x80 && w.fflags == 0x18) := by decide +kernel

/-- Section 5: four threads of a `cas` at one address, served in order of position. -/
theorem test_cas_chain :
    let s : State := (part { warp0 .mem with
      mask := 15
      v := [(6 * 128, 3), (6 * 128 + 1, 5), (6 * 128 + 2, 5), (6 * 128 + 3, 7), (7 * 128, 9), (7 * 128 + 1, 7), (7 * 128 + 2, 8), (7 * 128 + 3, 1)]
        ++ (List.range 4).map fun t => (18 * 128 + t, 0x40) }).wrRaw (memKey 0 0 0x40) [5, 0, 0, 0]
    runs (.cas ⟨false, 0, false, 3, 2, 18, 6⟩ ⟨g0, 4, 0, 0⟩) s (fun t => t.bytes (memKey 0 0 0x40) 4 == [1, 0, 0, 0] &&
      (t.loads.flatMap fun p => p.2.toList.flatMap fun l => l.writes) ==
        [.v 6 [(0, 5), (1, 5), (2, 7), (3, 7)]]) := by decide +kernel

/-- Section 4: FP32 values to E2M1 (type 9) without saturation, in RNE and RUP. -/
theorem test_convert :
    [(0x40200000, 4, 5), (0xC0A00000, 0xE, 0xE), (0x40E00000, 7, 7), (0x3E4CCCCD, 0, 1), (0x7F800000, 7, 7)].all
      (fun p => leaves (.cvt ⟨false, false, 0, 0, 18, 6⟩ ⟨g0, 0, 0, false, 0, 9, 2⟩) (ab p.1 0) (d6 p.2.1) &&
        leaves (.cvt ⟨false, false, 0, 0, 18, 6⟩ ⟨g0, 0, 0, false, 3, 9, 2⟩) (ab p.1 0) (d6 p.2.2)) := by decide +kernel

end Sys2Proof.Machine.Tests
end

section
/-! SUPPORT. The special registers read and written: R87, R103, R111, R255, R256, Table 3.6. -/

namespace Sys2Proof.Machine

/-! ### Issue -/

/-- Two instructions that issue with the same effect give the same answer. -/
theorem issue_congr {s : State} {w : Warp} {i j : Instr} {refs : Warp → List Ref} {eff eff' : State → Warp → Res}
    (h : Issues s w (refs w)) (he : eff (s.readied w) w.woken = eff' (s.readied w) w.woken) :
    s.issue i refs eff = s.issue j refs eff' := by
  rw [issue_next h, issue_next h, he]

@[simp] theorem State.matPending_readied (s : State) (w : Warp) :
    (s.readied w).matPending s.cur w.woken = s.matPending s.cur w := by
  rw [s.readied_eq w]
  rfl

/-! ### rds -/

/-- Table 3.6: the widths of the table are those of the model. -/
theorem specialTable_wide (s : State) (w : Warp) (p n : Nat) :
    ∀ e ∈ (Claims.specialTable s w p)[n]?, (e.1 = 64 ↔ specialWide n = true) := by
  intro e he
  obtain ⟨hn, rfl⟩ := List.getElem?_eq_some_iff.1 he
  replace hn : n < 16 := hn
  interval_cases n <;> simp [Claims.specialTable, specialWide]

/-- Table 3.6: a register as the model reads it is the row of the table. -/
theorem special_eq_table (s : State) (w : Warp) (n p : Nat) (hn : n ≤ 15) :
    s.special w n p = ((Claims.specialTable s w p).getD n (0, 0)).2 := by
  cases hb : s.blocks.find w.block <;> interval_cases n <;> simp [State.special, Claims.specialTable, hb, Warp.blkt]

@[simp] theorem State.special_readied (s : State) (w : Warp) : (s.readied w).special w.woken = s.special w := by
  rw [s.readied_eq w]
  rfl

/-- R87, Table 3.6: the numbers that rds may read. -/
def Readable (f : FmtI) : Prop := f.imm.toNat ≤ 15 ∧ ¬ (f.u = false ∧ (f.imm.toNat = 4 ∨ f.imm.toNat = 5))

/-- The references that rds checks (R37, R76). -/
def rdsRefs (f : FmtI) : List Ref :=
  if !f.u && specialWide f.imm.toNat then refPairD f.u f.nw f.d else refD f.u f.nw f.d

theorem rdsRefs_wide {f : FmtI} (h : specialWide f.imm.toNat = true) : rdsRefs f = refPairD f.u f.nw f.d := by
  unfold rdsRefs
  cases hu : f.u <;> simp [h, refD, refPairD]

theorem rdsRefs_narrow {f : FmtI} (h : specialWide f.imm.toNat = false) : rdsRefs f = refD f.u f.nw f.d := by
  simp [rdsRefs, h]

/-- R87: rds of a number that it may not read is an illegal operand. -/
theorem rds_illegal {f : FmtI} {s : State} {w : Warp} (h : Issues s w (rdsRefs f))
    (hn : 15 < f.imm.toNat ∨ (f.u = false ∧ (f.imm.toNat = 4 ∨ f.imm.toNat = 5))) :
    exec (.rds f) s = .next ((s.readied w).takeTrap s.cur (Trap.of 0x02 (firstWord (.rds f)))) := by
  refine (issue_next (refs := fun _ => rdsRefs f) h).trans ?_
  rw [if_pos (by simpa using hn)]
  rfl

/-- R255: rds of a register of 64 bits is an ALU instruction with a pair as its result. -/
theorem rds_wide {f : FmtI} {s : State} {w : Warp} (h : Issues s w (rdsRefs f)) (hr : Readable f)
    (hm : f.imm.toNat = 10 → s.matPending s.cur w = false) (hw : specialWide f.imm.toNat = true) :
    exec (.rds f) s = s.aluPair (.rds f) [] f.u f.nw f.d none (fun _ => s.special w f.imm.toNat)
      fun _ => s.special w f.imm.toNat w.lowest := by
  unfold State.aluPair
  rw [List.nil_append, ← rdsRefs_wide hw]
  refine issue_congr (refs := fun _ => rdsRefs f) h ?_
  dsimp only
  rw [if_neg (by simpa [Readable] using hr), if_neg (by simpa using hm), State.special_readied, if_pos hw]
  rfl

/-- R255: rds of a register of 32 bits is an ALU instruction with a word as its result. -/
theorem rds_narrow {f : FmtI} {s : State} {w : Warp} (h : Issues s w (rdsRefs f)) (hr : Readable f)
    (hm : f.imm.toNat = 10 → s.matPending s.cur w = false) (hw : specialWide f.imm.toNat = false) :
    exec (.rds f) s = s.alu (.rds f) [] f.u f.nw f.d none (fun _ p => (s.special w f.imm.toNat p).extractLsb' 0 32)
      fun _ => s.special w f.imm.toNat w.lowest := by
  unfold State.alu
  rw [List.nil_append, ← rdsRefs_narrow hw]
  refine issue_congr (refs := fun _ => rdsRefs f) h ?_
  dsimp only
  rw [if_neg (by simpa [Readable] using hr), if_neg (by simpa using hm), State.special_readied]
  simp only [hw, Bool.false_eq_true, if_false]
  rfl

theorem specialReads : Claims.specialReads := by
  intro f s w n wide row h
  have h : Issues s w (rdsRefs f) := h
  refine ⟨specialTable_wide s w 0 n, rds_illegal h, fun hn hu hm => ?_⟩
  have hrow : s.special w n = row := funext fun p => special_eq_table s w n p hn
  have hr : Readable f := ⟨hn, hu⟩
  change ∃ t, _ ∧ if specialWide n = true then _ else _
  cases hw : specialWide n
  · rw [rds_narrow h hr hm hw, hrow]
    exact alu_next (rdsRefs_narrow hw ▸ h)
  · rw [rds_wide h hr hm hw, hrow]
    exact aluPair_next (rdsRefs_wide hw ▸ h)

/-! ### wrs -/

/-- R256: wrs of fflags. -/
theorem wrsFflags_next {f : FmtI} {s : State} {w : Warp} (h : Issues s w [.k f.a.toNat])
    (hm : s.matPending s.cur w = false) :
    ∃ t, exec (.wrsFflags f) s = .next t ∧ Retires s s t { w with
      wait := none, fflags := if w.once none then (w.kr f.a.toNat).extractLsb' 0 5 else w.fflags } := by
  refine ⟨_, issue_next (refs := fun _ => [.k f.a.toNat]) h, ?_⟩
  rw [State.readied_cur, State.matPending_readied, hm, State.readied_put]
  change Retires s s (State.advance (if w.once none then _ else _) s.cur) _
  cases w.once none
  · exact retires_readied h.warp
  · exact retires_put s _

/-- R87: wrs of a number that is neither fflags nor srseed is an illegal operand. -/
theorem wrsSrseed_illegal {f : FmtI} {s : State} {w : Warp} (h : Issues s w [.k f.a.toNat]) (hn : f.imm ≠ 0x00B) :
    exec (.wrsSrseed f) s = .next ((s.readied w).takeTrap s.cur (Trap.of 0x02 (firstWord (.wrsSrseed f)))) := by
  refine (issue_next (refs := fun _ => [.k f.a.toNat]) h).trans ?_
  rw [if_pos hn]
  rfl

/-- R103, R256: the states that wait for the end of the clock once a warp has written srseed. -/
def newSeeds (s : State) (w : Warp) (f : FmtI) : Table Word :=
  if w.once none then s.seeds.put w.quarterNo (if w.kw f.a.toNat = 0 then 1 else w.kw f.a.toNat) else s.seeds

theorem find_newSeeds (s : State) (w : Warp) (f : FmtI) (q : Nat) :
    (newSeeds s w f).find q = if q = w.quarterNo ∧ w.once none = true then
      some (if w.kw f.a.toNat = 0 then 1 else w.kw f.a.toNat) else s.seeds.find q := by
  unfold newSeeds
  cases w.once none
  · simp
  · simp [Table.find_put]

/-- R256: what wrs of srseed does. -/
theorem wrsSrseed_next {f : FmtI} {s : State} {w : Warp} (h : Issues s w [.k f.a.toNat]) (hn : f.imm = 0x00B) :
    exec (.wrsSrseed f) s = .next (({ s.readied w with seeds := newSeeds s w f } : State).advance s.cur) := by
  have hs : (s.readied w).seeds = s.seeds := by rw [s.readied_eq w]
  refine (issue_next (refs := fun _ => [.k f.a.toNat]) h).trans ?_
  rw [if_neg (not_not.2 hn), newSeeds, ← hs]
  change Host.Outcome.next (State.advance (if w.once none then _ else _) s.cur) = _
  cases w.once none <;> rfl

theorem wrsSrseed_retires {s : State} {w : Warp} (h : s.warp s.cur = some w) (f : FmtI) :
    Retires s { s with seeds := newSeeds s w f } (({ s.readied w with seeds := newSeeds s w f } : State).advance s.cur)
      w.woken :=
  retires_advance (by rw [s.readied_eq w]) (State.readied_warp h) (fun _ hj => State.readied_other hj) rfl

/-- The states given to generators take the place of those that their steps left. -/
theorem get_foldl_set_all (m : Table Word) (hm : m.Pairwise fun p q => p.1 < q.1) (g : Store Word) (q : Nat) :
    Store.get 1 (m.all.foldl (fun g p => Store.set 1 g p.1 p.2) g) q = (m.find q).getD (Store.get 1 g q) := by
  induction m generalizing g with
  | nil => rfl
  | cons p r ih =>
    obtain ⟨k, x⟩ := p
    rw [List.pairwise_cons] at hm
    obtain ⟨hk, hr⟩ := hm
    have hnone : q = k → Table.find r q = none := fun e => Store.get_eq_default fun p hp => by
      have : k < p.1 := hk p hp
      omega
    rw [Table.find, Store.get_cons]
    cases x with
    | none =>
      refine (ih hr g).trans ?_
      split
      · rename_i e
        rw [hnone e.symm]
      · rfl
    | some x =>
      refine (ih hr (Store.set 1 g k x)).trans ?_
      rw [Store.get_set]
      by_cases e : q = k
      · rw [hnone e, if_pos e, if_pos e.symm]
        rfl
      · rw [if_neg e, if_neg (Ne.symm e)]
        rfl

/-- R104, R256: at the end of its clock a generator has the state that a wrs gave it, or the one that its steps left. -/
theorem drawClock_srState (s : State) (hs : Store.wf none s.seeds = true) (q : Nat) :
    s.drawClock.srState q = (s.seeds.find q).getD (({ s with seeds := [] } : State).drawClock.srState q) :=
  get_foldl_set_all s.seeds (Store.wf_iff.1 hs).1 _ q

theorem specialWrites : Claims.specialWrites := by
  intro f s w h
  refine ⟨fun hm => ?_, wrsSrseed_illegal h, fun hn => ?_, rfl, drawClock_srState s⟩
  · obtain ⟨t, ht, hr⟩ := wrsFflags_next h hm
    exact ⟨t, _, ht, hr, rfl⟩
  · have hr := wrsSrseed_retires h.warp f
    have hs := congrArg State.seeds hr.rest
    refine ⟨_, wrsSrseed_next h hn, hs ▸ hr, fun q => ?_⟩
    rw [hs]
    exact find_newSeeds s w f q

/-- Settles O12: an rds that issues is an ALU instruction whose result is a row of Table 3.6, and a wrs sets the sticky
flags or leaves a state that the generator takes when its clock ends. -/
theorem specialRegisters : Obligations.SpecialRegisters := ⟨specialReads, specialWrites⟩

end Sys2Proof.Machine
end

section
/-! SUPPORT. Rounding to a spacing (R101, R102, R105): what is kept of a magnitude and what is dropped. -/

namespace Sys2Proof.Machine

/-! ### Kept and dropped -/

/-- The whole multiples of `2^a` in a magnitude `m * 2^e`. -/
def keptUnits (m : Nat) (e a : Int) : Nat := m * 2 ^ (e - a).toNat / 2 ^ (a - e).toNat

/-- What the magnitude has above them, in units of `2^e` where `e` lies below `a`, else nothing. -/
def droppedPart (m : Nat) (e a : Int) : Nat := m * 2 ^ (e - a).toNat % 2 ^ (a - e).toNat

/-- The dropped part as a fraction of the spacing. -/
def droppedFrac (m : Nat) (e a : Int) : ℚ := droppedPart m e a / 2 ^ (a - e).toNat

theorem droppedPart_lt (m : Nat) (e a : Int) : droppedPart m e a < 2 ^ (a - e).toNat := Nat.mod_lt _ (by positivity)

theorem droppedFrac_nonneg (m : Nat) (e a : Int) : 0 ≤ droppedFrac m e a := by
  unfold droppedFrac
  positivity

theorem droppedFrac_lt_one (m : Nat) (e a : Int) : droppedFrac m e a < 1 := by
  rw [droppedFrac, div_lt_one (by positivity)]
  exact_mod_cast droppedPart_lt m e a

theorem droppedFrac_eq_zero_iff {m : Nat} {e a : Int} : droppedFrac m e a = 0 ↔ droppedPart m e a = 0 := by
  simp [droppedFrac]

theorem magnitude_eq_div (m : Nat) (e a : Int) :
    (m : ℚ) * (2 : ℚ) ^ (e - a) = ((m * 2 ^ (e - a).toNat : Nat) : ℚ) / ((2 ^ (a - e).toNat : Nat) : ℚ) := by
  have hexp : e - a = ((e - a).toNat : Int) - ((a - e).toNat : Int) := by omega
  push_cast
  rw [mul_div_assoc, ← zpow_natCast, ← zpow_natCast, ← zpow_sub₀ two_ne_zero, ← hexp]

/-- A magnitude is what is kept and the dropped fraction. -/
theorem magnitude_eq (m : Nat) (e a : Int) :
    (m : ℚ) * (2 : ℚ) ^ (e - a) = keptUnits m e a + droppedFrac m e a := by
  rw [magnitude_eq_div, keptUnits, droppedFrac, droppedPart, div_eq_iff (by positivity), add_mul]
  push_cast
  rw [div_mul_cancel₀ _ (by positivity)]
  exact_mod_cast (Nat.div_add_mod' _ _).symm

theorem droppedPart_of_le (m : Nat) {e a : Int} (h : a ≤ e) : droppedPart m e a = 0 := by
  rw [droppedPart, show (a - e).toNat = 0 by omega, pow_zero, Nat.mod_one]

theorem keptUnits_of_le (m : Nat) {e a : Int} (h : a ≤ e) : keptUnits m e a = m * 2 ^ (e - a).toNat := by
  rw [keptUnits, show (a - e).toNat = 0 by omega, pow_zero, Nat.div_one]

/-- A magnitude of nothing dropped is not rounded up. -/
theorem roundsUp_exact (mode : Nat) (word : Word) (neg : Bool) (n d : Nat) (h : mode ≤ 3 ∨ d = 0) :
    roundsUp mode word neg n 0 d false = false := by
  match mode with
  | 0 =>
    have hd : 0 ≠ 2 ^ d := (Nat.two_pow_pos d).ne
    simp [roundsUp, hd]
  | 1 => rfl
  | 2 => simp [roundsUp]
  | 3 => simp [roundsUp]
  | k + 4 =>
    obtain rfl : d = 0 := by omega
    simp [roundsUp, Nat.mod_one]

/-- Rounding an exact magnitude, in one form for a spacing above and below its least significant bit. -/
theorem roundUnits_exact (mode : Nat) (word : Word) (neg : Bool) (m : Nat) (e a : Int) :
    roundUnits mode word neg m e a false =
      (keptUnits m e a +
        (if roundsUp mode word neg (keptUnits m e a) (droppedPart m e a) (a - e).toNat false then 1 else 0),
        droppedPart m e a != 0) := by
  unfold roundUnits
  by_cases h : a ≤ e
  · rw [if_pos h, droppedPart_of_le m h, keptUnits_of_le m h, roundsUp_exact _ _ _ _ _ (.inr (by omega))]
    rfl
  · rw [if_neg h, keptUnits, droppedPart, show (e - a).toNat = 0 by omega, pow_zero, mul_one]
    simp only [Bool.or_false]

/-- A magnitude is a multiple of the spacing exactly when nothing is dropped. -/
theorem droppedPart_eq_zero_iff {m : Nat} {e a : Int} :
    droppedPart m e a = 0 ↔ ∃ n : Nat, (m : ℚ) * (2 : ℚ) ^ (e - a) = n := by
  rw [magnitude_eq, ← droppedFrac_eq_zero_iff]
  have h0 := droppedFrac_nonneg m e a
  have h1 := droppedFrac_lt_one m e a
  constructor
  · intro h
    exact ⟨_, by rw [h, add_zero]⟩
  · rintro ⟨n, hn⟩
    have hle : keptUnits m e a ≤ n := by
      have : (keptUnits m e a : ℚ) ≤ n := by linarith
      exact_mod_cast this
    have hge : n < keptUnits m e a + 1 := by
      have : (n : ℚ) < keptUnits m e a + 1 := by linarith
      exact_mod_cast this
    obtain rfl : n = keptUnits m e a := by omega
    linarith

/-! ### Each mode -/

/-- To nearest, even at exactly half (R101). -/
theorem roundsUp_nearest (word : Word) (neg : Bool) (n m : Nat) (e a : Int) :
    roundsUp 0 word neg n (droppedPart m e a) (a - e).toNat false = true ↔
      1 / 2 < droppedFrac m e a ∨ (droppedFrac m e a = 1 / 2 ∧ n % 2 = 1) := by
  have hlt : 1 / 2 < droppedFrac m e a ↔ 2 ^ (a - e).toNat < 2 * droppedPart m e a := by
    rw [droppedFrac, div_lt_div_iff₀ two_pos (by positivity), one_mul, mul_comm]
    exact_mod_cast Iff.rfl
  have heq : droppedFrac m e a = 1 / 2 ↔ 2 * droppedPart m e a = 2 ^ (a - e).toNat := by
    rw [droppedFrac, div_eq_div_iff (by positivity) two_ne_zero, one_mul, mul_comm]
    exact_mod_cast Iff.rfl
  rw [hlt, heq]
  simp [roundsUp]

/-- Toward the infinity of one sign: that sign is rounded away from zero (R101). -/
theorem roundsUp_directed {mode : Nat} (h : mode ∈ [2, 3]) (word : Word) (neg : Bool) (n rem d : Nat) :
    roundsUp mode word neg n rem d false = true ↔
      ((mode = 2 ∧ neg = true) ∨ (mode = 3 ∧ neg = false)) ∧ rem ≠ 0 := by
  rcases List.mem_pair.1 h with rfl | rfl <;> simp [roundsUp]

/-- Stochastically, the dropped fraction and the word's fraction reach one (R105). -/
theorem roundsUp_stochastic (word : Word) (neg : Bool) (n m : Nat) (e a : Int) :
    roundsUp 4 word neg n (droppedPart m e a) (a - e).toNat false = true ↔
      if (a - e).toNat ≤ 32
        then 1 ≤ droppedFrac m e a + ((word.toNat % 2 ^ (a - e).toNat : Nat) : ℚ) / 2 ^ (a - e).toNat
      else 2 ^ 32 ≤ ⌊droppedFrac m e a * 2 ^ 32⌋ + (word.toNat : Int) := by
  by_cases hd : (a - e).toNat ≤ 32
  · rw [if_pos hd, droppedFrac, ← add_div, one_le_div (by positivity)]
    simp only [roundsUp, hd, if_true, decide_eq_true_eq]
    exact_mod_cast Iff.rfl
  · have hpow : (2 : ℚ) ^ (a - e).toNat = (2 ^ ((a - e).toNat - 32) : Nat) * 2 ^ 32 := by
      push_cast
      rw [← pow_add, Nat.sub_add_cancel (by omega)]
    have hfloor : ⌊droppedFrac m e a * 2 ^ 32⌋ = ((droppedPart m e a / 2 ^ ((a - e).toNat - 32) : Nat) : Int) := by
      rw [droppedFrac, hpow, ← div_div, div_mul_cancel₀ _ (by norm_num), Int.floor_div_natCast, Int.floor_natCast]
      rfl
    rw [if_neg hd, hfloor]
    simp only [roundsUp, hd, if_false, decide_eq_true_eq]
    exact_mod_cast Iff.rfl

section Units
variable (word : Word) (neg : Bool) (m : Nat) (e a : Int)

/-- To nearest, the result is within half a unit, and at exactly half even. -/
theorem nearest_bound :
    let u := (roundUnits 0 word neg m e a false).1
    let x := (m : ℚ) * (2 : ℚ) ^ (e - a)
    2 * |(u : ℚ) - x| ≤ 1 ∧ (2 * |(u : ℚ) - x| = 1 → u % 2 = 0) := by
  have h0 := droppedFrac_nonneg m e a
  have h1 := droppedFrac_lt_one m e a
  have hup := roundsUp_nearest word neg (keptUnits m e a) m e a
  simp only [roundUnits_exact, magnitude_eq]
  by_cases h : roundsUp 0 word neg (keptUnits m e a) (droppedPart m e a) (a - e).toNat false = true
  · have hhalf : 1 / 2 ≤ droppedFrac m e a := by rcases hup.1 h with h | h <;> linarith
    rw [if_pos h, abs_of_nonneg (by push_cast; linarith)]
    refine ⟨by push_cast; linarith, fun heq => ?_⟩
    push_cast at heq
    rcases hup.1 h with h | h
    · linarith
    · omega
  · have hhalf : droppedFrac m e a ≤ 1 / 2 := by
      by_contra hc
      exact h (hup.2 (.inl (not_le.1 hc)))
    rw [if_neg h, add_zero, abs_of_nonpos (by linarith)]
    refine ⟨by linarith, fun heq => ?_⟩
    by_contra hodd
    exact h (hup.2 (.inr ⟨by linarith, by omega⟩))

/-- Toward zero, the result is the largest multiple not above. -/
theorem toward_zero_bound :
    let u := (roundUnits 1 word neg m e a false).1
    let x := (m : ℚ) * (2 : ℚ) ^ (e - a)
    (u : ℚ) ≤ x ∧ x < u + 1 := by
  have h0 := droppedFrac_nonneg m e a
  have h1 := droppedFrac_lt_one m e a
  simp only [roundUnits_exact, magnitude_eq, roundsUp, Bool.false_eq_true, if_false, add_zero]
  constructor <;> linarith

/-- Downward and upward, the result is the multiple next to the signed value on that side. -/
theorem directed_bound {mode : Nat} (hm : mode ∈ [2, 3]) :
    let u := (roundUnits mode word neg m e a false).1
    let x := (m : ℚ) * (2 : ℚ) ^ (e - a)
    if (mode = 2 ∧ neg = true) ∨ (mode = 3 ∧ neg = false) then x ≤ u ∧ (u : ℚ) < x + 1
    else (u : ℚ) ≤ x ∧ x < u + 1 := by
  have h0 := droppedFrac_nonneg m e a
  have h1 := droppedFrac_lt_one m e a
  simp only [roundUnits_exact, magnitude_eq, roundsUp_directed hm]
  by_cases h : (mode = 2 ∧ neg = true) ∨ (mode = 3 ∧ neg = false)
  · by_cases hz : droppedPart m e a = 0
    · have hf := droppedFrac_eq_zero_iff.2 hz
      simp [h, hz, hf]
    · have hf : 0 < droppedFrac m e a := lt_of_le_of_ne h0 fun hf => hz (droppedFrac_eq_zero_iff.1 hf.symm)
      simp only [h, hz, ne_eq, not_false_eq_true, and_self, if_true]
      push_cast
      constructor <;> linarith
  · simp only [h, false_and, if_false, add_zero]
    constructor <;> linarith

/-- A stochastic rounding of what lies below the spacing. -/
theorem stochastic_units :
    let x := (m : ℚ) * (2 : ℚ) ^ (e - a)
    let d := (a - e).toNat
    let up := if d ≤ 32 then 1 ≤ Int.fract x + ((word.toNat % 2 ^ d : Nat) : ℚ) / 2 ^ d
      else 2 ^ 32 ≤ ⌊Int.fract x * 2 ^ 32⌋ + (word.toNat : Int)
    ((roundUnits 4 word neg m e a false).1 : ℚ) = if a ≤ e then x else (⌊x⌋ : ℚ) + (if up then 1 else 0) := by
  have hfrac : Int.fract ((m : ℚ) * (2 : ℚ) ^ (e - a)) = droppedFrac m e a := by
    rw [magnitude_eq, Int.fract_natCast_add, Int.fract_eq_self]
    exact ⟨droppedFrac_nonneg m e a, droppedFrac_lt_one m e a⟩
  have hfloor : (⌊(m : ℚ) * (2 : ℚ) ^ (e - a)⌋ : ℚ) = keptUnits m e a := by
    rw [← Int.self_sub_fract, hfrac, magnitude_eq, add_sub_cancel_right]
  intro x d up
  rw [hfloor, roundUnits_exact]
  by_cases h : a ≤ e
  · have hx : x = keptUnits m e a := by
      rw [show x = _ from magnitude_eq m e a, droppedFrac_eq_zero_iff.2 (droppedPart_of_le m h), add_zero]
    rw [droppedPart_of_le m h, roundsUp_exact _ _ _ _ _ (.inr (by omega)), if_pos h, hx]
    simp
  · have hup : roundsUp 4 word neg (keptUnits m e a) (droppedPart m e a) (a - e).toNat false = true ↔ up := by
      rw [roundsUp_stochastic, ← hfrac]
    simp only [hup, if_neg h]
    push_cast
    rfl

end Units

/-- A rounding is inexact exactly when the magnitude is no multiple of the spacing. -/
theorem roundUnits_exact_iff (mode : Nat) (word : Word) (neg : Bool) (m : Nat) (e a : Int) :
    (roundUnits mode word neg m e a false).2 = false ↔ ∃ n : Nat, (m : ℚ) * (2 : ℚ) ^ (e - a) = n := by
  rw [roundUnits_exact, ← droppedPart_eq_zero_iff, bne_eq_false_iff_eq]

/-- A multiple of the spacing is its own rounding, in every mode but the stochastic. -/
theorem roundUnits_multiple {mode : Nat} (hm : mode ≤ 3) (word : Word) (neg : Bool) {m n : Nat} {e a : Int}
    (hn : (m : ℚ) * (2 : ℚ) ^ (e - a) = n) : (roundUnits mode word neg m e a false).1 = n := by
  have hz : droppedPart m e a = 0 := droppedPart_eq_zero_iff.2 ⟨n, hn⟩
  rw [magnitude_eq, droppedFrac_eq_zero_iff.2 hz, add_zero] at hn
  rw [roundUnits_exact, hz, roundsUp_exact _ _ _ _ _ (.inl hm)]
  exact_mod_cast hn

end Sys2Proof.Machine
end

section
/-! SUPPORT. Exact arithmetic on finite values (R5, R238). -/

namespace Sys2Proof.Machine

open Claims (value)

theorem value_pos (m : Nat) (e : Int) : value false m e = m * (2 : ℚ) ^ e := by simp [value]

theorem abs_value (n : Bool) (m : Nat) (e : Int) : |value n m e| = value false m e := by
  have h : (0 : ℚ) ≤ m * (2 : ℚ) ^ e := by positivity
  cases n <;> simp [value, abs_mul, abs_of_pos, zpow_pos]

/-- The value of a signed count of units. -/
theorem value_natAbs (s : Int) (a : Int) : value (decide (s < 0)) s.natAbs a = s * (2 : ℚ) ^ a := by
  by_cases h : s < 0
  · have : ((s.natAbs : Nat) : ℚ) = -s := by rw [Nat.cast_natAbs, abs_of_neg h, Int.cast_neg]
    simp [value, h, this]
  · have : ((s.natAbs : Nat) : ℚ) = s := by rw [Nat.cast_natAbs, abs_of_nonneg (not_lt.1 h)]
    simp [value, h, this]

theorem scaled_value (n : Bool) (m : Nat) {e a : Int} (h : a ≤ e) : (scaled n m e a : ℚ) * (2 : ℚ) ^ a = value n m e := by
  have hexp : (2 : ℚ) ^ e = 2 ^ (e - a).toNat * 2 ^ a := by
    rw [← zpow_natCast, ← zpow_add₀ two_ne_zero, Int.toNat_of_nonneg (by omega), sub_add_cancel]
  cases n <;> simp [scaled, value, hexp, mul_assoc]

theorem addExact_value (mode : Nat) (n1 n2 : Bool) (m1 m2 : Nat) (e1 e2 : Int) :
    let r := addExact mode n1 m1 e1 n2 m2 e2
    value r.1 r.2.1 r.2.2 = value n1 m1 e1 + value n2 m2 e2 := by
  rw [← scaled_value n1 m1 (min_le_left e1 e2), ← scaled_value n2 m2 (min_le_right e1 e2), ← add_mul, ← Int.cast_add]
  unfold addExact
  dsimp only
  by_cases h : scaled n1 m1 e1 (min e1 e2) + scaled n2 m2 e2 (min e1 e2) = 0
  · rw [if_pos h, h]
    simp [value]
  · rw [if_neg h]
    exact value_natAbs _ _

theorem fAdd_value (mode : Nat) (n1 n2 : Bool) (m1 m2 : Nat) (e1 e2 : Int) :
    ∃ n m e, fAdd mode (.fin n1 m1 e1) (.fin n2 m2 e2) = .fin n m e false ∧
      value n m e = value n1 m1 e1 + value n2 m2 e2 :=
  ⟨_, _, _, rfl, addExact_value mode n1 n2 m1 m2 e1 e2⟩

theorem mul_value (n1 n2 : Bool) (m1 m2 : Nat) (e1 e2 : Int) :
    value (n1 != n2) (m1 * m2) (e1 + e2) = value n1 m1 e1 * value n2 m2 e2 := by
  have hexp : (2 : ℚ) ^ (e1 + e2) = 2 ^ e1 * 2 ^ e2 := zpow_add₀ two_ne_zero e1 e2
  cases n1 <;> cases n2 <;> simp [value, hexp] <;> ring

theorem fFma_value (mode : Nat) (n1 n2 n3 : Bool) (m1 m2 m3 : Nat) (e1 e2 e3 : Int) :
    ∃ n m e, fFma mode (.fin n1 m1 e1) (.fin n2 m2 e2) (.fin n3 m3 e3) = .fin n m e false ∧
      value n m e = value n1 m1 e1 * value n2 m2 e2 + value n3 m3 e3 := by
  obtain ⟨n, m, e, h, hv⟩ := fAdd_value mode (n1 != n2) n3 (m1 * m2) m3 (e1 + e2) e3
  refine ⟨n, m, e, ?_, hv.trans (by rw [mul_value])⟩
  rw [← h]
  simp [fFma, FVal.isNan, fMul]

/-- A quotient is known to 64 bits below the exponents' difference, and whether it lies above. -/
theorem fDiv_value (n1 n2 : Bool) {m1 m2 : Nat} (e1 e2 : Int) (h2 : m2 ≠ 0) :
    ∃ m e st, fDiv (.fin n1 m1 e1) (.fin n2 m2 e2) = .fin (n1 != n2) m e st ∧
      value false m e ≤ |value n1 m1 e1 / value n2 m2 e2| ∧
      |value n1 m1 e1 / value n2 m2 e2| < value false (m + 1) e ∧
      (st = false ↔ value false m e = |value n1 m1 e1 / value n2 m2 e2|) := by
  set q := m1 * 2 ^ 64 / m2 with hq
  set r := m1 * 2 ^ 64 % m2 with hr
  have hpos : (0 : ℚ) < m2 := by exact_mod_cast Nat.pos_of_ne_zero h2
  have hunit : (0 : ℚ) < 2 ^ (e1 - e2 - 64) := by positivity
  have hlt : (r : ℚ) / m2 < 1 := by
    rw [div_lt_one hpos]
    exact_mod_cast Nat.mod_lt _ (Nat.pos_of_ne_zero h2)
  have hge : 0 ≤ (r : ℚ) / m2 := by positivity
  have hdiv : (m1 : ℚ) * 2 ^ 64 = q * m2 + r := by exact_mod_cast (Nat.div_add_mod' (m1 * 2 ^ 64) m2).symm
  have hquot : |value n1 m1 e1 / value n2 m2 e2| = (q + r / m2) * 2 ^ (e1 - e2 - 64) := by
    have hexp : (2 : ℚ) ^ e1 / 2 ^ e2 = 2 ^ 64 * 2 ^ (e1 - e2 - 64) := by
      rw [← zpow_sub₀ two_ne_zero, ← zpow_natCast, ← zpow_add₀ two_ne_zero]
      congr 1
      push_cast
      ring
    rw [abs_div, abs_value, abs_value, value_pos, value_pos, mul_div_mul_comm, hexp, ← mul_assoc]
    congr 1
    field_simp
    linarith
  refine ⟨q, e1 - e2 - 64, r != 0, ?_, ?_, ?_, ?_⟩
  · exact if_neg h2
  · rw [hquot, value_pos]
    gcongr
    linarith
  · rw [hquot, value_pos]
    gcongr
    push_cast
    linarith
  · rw [hquot, value_pos, mul_left_inj' hunit.ne', left_eq_add, div_eq_zero_iff]
    simp [h2]

end Sys2Proof.Machine
end

section
/-! SUPPORT. The codes of a floating-point format (R90 to R92) and the value that is delivered to one (R102, R106, R107). -/

namespace Sys2Proof.Machine

open Claims (value)

/-! ### Formats -/

/-- The formats of Table 4.1. -/
abbrev formats : List Fmt := [fp32, bf16, fp16, e5m2, e4m3, e3m2, e2m3, e2m1]

/-- The codes up to the largest finite one leave the sign bit, the infinities and the NaNs free. -/
structure Fmt.Sound (f : Fmt) : Prop where
  max_lt_signBit : f.maxCode < f.signBit
  max_lt_inf : f.nan = .ieee → f.maxCode < f.infCode
  max_lt_nan : f.nan = .e4m3 → f.maxCode < 0x7F

theorem formats_sound : ∀ f ∈ formats, f.Sound := by
  intro f hf
  fin_cases hf <;> constructor <;> decide

/-- A code's magnitude in units of the least spacing, as if the exponent range had no upper end (R102). -/
def Fmt.codeUnits (f : Fmt) (code : Nat) : Nat :=
  if code / 2 ^ f.mbits = 0 then code % 2 ^ f.mbits
  else (2 ^ f.mbits + code % 2 ^ f.mbits) * 2 ^ (code / 2 ^ f.mbits - 1)

theorem Fmt.codeUnits_mul_add (f : Fmt) (q : Nat) {r : Nat} (h : r < 2 ^ f.mbits) :
    f.codeUnits (q * 2 ^ f.mbits + r) = if q = 0 then r else (2 ^ f.mbits + r) * 2 ^ (q - 1) := by
  have hpos : 0 < 2 ^ f.mbits := by positivity
  have hq : (q * 2 ^ f.mbits + r) / 2 ^ f.mbits = q := by
    rw [mul_comm, Nat.mul_add_div hpos, Nat.div_eq_of_lt h, add_zero]
  rw [Fmt.codeUnits, hq, Nat.mul_add_mod', Nat.mod_eq_of_lt h]

/-- The code of `u` units of a spacing `2^k` times the least: the exponent field counts from `k`, and the units carry into
it. -/
theorem Fmt.codeUnits_shift (f : Fmt) {k u : Nat} (hlow : k ≠ 0 → 2 ^ f.mbits ≤ u) (hhigh : u ≤ 2 * 2 ^ f.mbits) :
    f.codeUnits (k * 2 ^ f.mbits + u) = u * 2 ^ k := by
  rcases Nat.lt_or_ge u (2 ^ f.mbits) with h | h
  · obtain rfl : k = 0 := by
      by_contra hk
      exact absurd (hlow hk) (by omega)
    rw [f.codeUnits_mul_add 0 h, if_pos rfl, pow_zero, mul_one]
  · obtain ⟨v, rfl⟩ := Nat.exists_eq_add_of_le h
    rcases Nat.lt_or_ge v (2 ^ f.mbits) with hv | hv
    · rw [← add_assoc, ← Nat.succ_mul, f.codeUnits_mul_add _ hv, if_neg k.succ_ne_zero, Nat.succ_sub_one]
    · obtain rfl : v = 2 ^ f.mbits := by omega
      rw [← add_assoc, ← Nat.succ_mul, ← Nat.succ_mul, ← add_zero (_ * _), f.codeUnits_mul_add _ (by positivity),
        if_neg (Nat.succ_ne_zero _), Nat.succ_sub_one, pow_succ]
      ring

theorem Fmt.codeUnits_lt_succ (f : Fmt) (c : Nat) : f.codeUnits c < f.codeUnits (c + 1) := by
  have hpos : 0 < 2 ^ f.mbits := by positivity
  obtain ⟨q, r, hr, rfl⟩ : ∃ q r, r < 2 ^ f.mbits ∧ c = q * 2 ^ f.mbits + r :=
    ⟨_, _, Nat.mod_lt c hpos, (Nat.div_add_mod' c _).symm⟩
  rw [f.codeUnits_mul_add q hr]
  rcases Nat.lt_or_ge (r + 1) (2 ^ f.mbits) with h | h
  · rw [add_assoc, f.codeUnits_mul_add q h]
    cases q with
    | zero => exact Nat.lt_succ_self r
    | succ q =>
      rw [if_neg q.succ_ne_zero, if_neg q.succ_ne_zero]
      gcongr
      exact Nat.lt_succ_self r
  · have hcarry : q * 2 ^ f.mbits + r + 1 = (q + 1) * 2 ^ f.mbits + 0 := by
      rw [Nat.succ_mul]
      omega
    rw [hcarry, f.codeUnits_mul_add (q + 1) hpos, if_neg q.succ_ne_zero]
    cases q with
    | zero => simpa using hr
    | succ q =>
      rw [if_neg q.succ_ne_zero, add_zero, Nat.add_sub_cancel, Nat.add_sub_cancel, pow_succ, mul_comm (2 ^ q) 2,
        ← mul_assoc]
      gcongr
      omega

theorem Fmt.codeUnits_strictMono (f : Fmt) : StrictMono f.codeUnits := strictMono_nat_of_lt_succ f.codeUnits_lt_succ

/-- A finite code with its sign decodes to its sign and its units (R90 to R92). -/
theorem Fmt.Sound.decode_signed {f : Fmt} (hf : f.Sound) (neg : Bool) {c : Nat} (hc : c ≤ f.maxCode) :
    ∃ m e, f.decode (f.signed neg c) = .fin neg m e ∧ value false m e = f.codeUnits c * (2 : ℚ) ^ f.minExp := by
  have hsign : f.signed neg c / f.signBit % 2 = 1 ↔ neg = true := by
    have := hf.max_lt_signBit
    cases neg
    · simp [Fmt.signed, Nat.div_eq_of_lt (show c < f.signBit by omega)]
    · simp [Fmt.signed, Nat.add_div_left _ (show 0 < f.signBit by omega), Nat.div_eq_of_lt (show c < f.signBit by omega)]
  have hmag : f.signed neg c % f.signBit = c := by
    have := hf.max_lt_signBit
    cases neg <;> simp [Fmt.signed, Nat.mod_eq_of_lt (show c < f.signBit by omega)]
  have hinf : ¬ (f.nan = .ieee ∧ c / 2 ^ f.mbits = 2 ^ f.ebits - 1) := by
    rintro ⟨hn, he⟩
    have := hf.max_lt_inf hn
    have := Nat.div_mul_le_self c (2 ^ f.mbits)
    rw [he] at this
    unfold Fmt.infCode at *
    omega
  have hnan : ¬ (f.nan = .e4m3 ∧ c = 0x7F) := by
    rintro ⟨hn, rfl⟩
    exact absurd (hf.max_lt_nan hn) (by omega)
  simp only [Fmt.decode, hsign, hmag, if_neg hinf, if_neg hnan, Bool.decide_eq_true]
  by_cases h : c / 2 ^ f.mbits = 0
  · rw [if_pos h]
    exact ⟨_, _, rfl, by rw [value_pos, Fmt.codeUnits, if_pos h]⟩
  · rw [if_neg h]
    refine ⟨_, _, rfl, ?_⟩
    rw [value_pos, Fmt.codeUnits, if_neg h, zpow_add₀ two_ne_zero, zpow_natCast]
    push_cast
    ring

/-! ### One rounding -/

/-- The spacing of a format at the size of a magnitude (R102). -/
def Fmt.spacing (f : Fmt) (m : Nat) (e : Int) : Int := max (e + (Nat.log2 m : Int) - f.mbits) f.minExp

section Round
variable (f : Fmt) (mode : Nat) (word : Word) (neg st : Bool) {m : Nat} (e : Int)

/-- The units after rounding are as many as a significand can hold, or one more at the top. -/
theorem roundUnits_le : (roundUnits mode word neg m e (f.spacing m e) st).1 ≤ 2 * 2 ^ f.mbits := by
  have hlog : m < 2 ^ (Nat.log2 m + 1) := Nat.lt_log2_self
  have ha : e + (Nat.log2 m : Int) - f.mbits ≤ f.spacing m e := le_max_left _ _
  rw [← pow_succ']
  unfold roundUnits
  split_ifs with h
  · calc m * 2 ^ (e - f.spacing m e).toNat ≤ 2 ^ (Nat.log2 m + 1) * 2 ^ (e - f.spacing m e).toNat := by gcongr
      _ = 2 ^ (Nat.log2 m + 1 + (e - f.spacing m e).toNat) := (pow_add _ _ _).symm
      _ ≤ 2 ^ (f.mbits + 1) := Nat.pow_le_pow_right two_pos (by omega)
  · have hkept : m / 2 ^ (f.spacing m e - e).toNat < 2 ^ (f.mbits + 1) := by
      rw [Nat.div_lt_iff_lt_mul (by positivity), ← pow_add]
      exact hlog.trans_le (Nat.pow_le_pow_right two_pos (by omega))
    dsimp only
    split_ifs <;> omega

/-- Above the least spacing a magnitude fills the significand. -/
theorem le_roundUnits (hm : m ≠ 0) (ha : f.minExp < f.spacing m e) :
    2 ^ f.mbits ≤ (roundUnits mode word neg m e (f.spacing m e) st).1 := by
  have hlog : 2 ^ Nat.log2 m ≤ m := Nat.log2_self_le hm
  have ha : f.spacing m e = e + (Nat.log2 m : Int) - f.mbits := by
    unfold Fmt.spacing at *
    omega
  unfold roundUnits
  split_ifs with h
  · calc 2 ^ f.mbits = 2 ^ Nat.log2 m * 2 ^ (e - f.spacing m e).toNat := by rw [← pow_add]; congr 1; omega
      _ ≤ m * 2 ^ (e - f.spacing m e).toNat := by gcongr
  · refine le_add_right ((Nat.le_div_iff_mul_le (by positivity)).2 ?_)
    rw [← pow_add]
    exact (Nat.pow_le_pow_right two_pos (by omega)).trans hlog

/-- The code of a rounded magnitude has its value (R102). -/
theorem codeUnits_round (hm : m ≠ 0) :
    (f.codeUnits (f.round mode word neg m e st).1 : ℚ) * (2 : ℚ) ^ f.minExp =
      value false (roundUnits mode word neg m e (f.spacing m e) st).1 (f.spacing m e) := by
  have hmin : f.minExp ≤ f.spacing m e := le_max_right _ _
  have hround : (f.round mode word neg m e st).1 = (f.spacing m e - f.minExp).toNat * 2 ^ f.mbits +
    (roundUnits mode word neg m e (f.spacing m e) st).1 := rfl
  have hexp : (2 : ℚ) ^ f.spacing m e = 2 ^ (f.spacing m e - f.minExp).toNat * 2 ^ f.minExp := by
    rw [← zpow_natCast, ← zpow_add₀ two_ne_zero, Int.toNat_of_nonneg (by omega), sub_add_cancel]
  rw [hround, f.codeUnits_shift (fun hk => le_roundUnits f mode word neg st e hm (by omega))
    (roundUnits_le f mode word neg st e), value_pos, hexp]
  push_cast
  ring

/-- A nonzero value that is in range is delivered as its rounded code with its sign. -/
theorem deliver_of_le (sat : Bool) (hm : m ≠ 0) (h : (f.round mode word neg m e st).1 ≤ f.maxCode) :
    let r := f.round mode word neg m e st
    f.deliver mode word sat neg m e st = (f.signed neg r.1,
      (if r.2 then fInexact else 0) ||| (if r.2 && r.1 != 0 && r.1 < 2 ^ f.mbits then fUnderflow else 0)) := by
  unfold Fmt.deliver
  rw [if_neg hm]
  exact if_neg (not_lt.2 h)

/-- A nonzero value that is not in range overflows. -/
theorem deliver_of_gt (sat : Bool) (hm : m ≠ 0) (h : f.maxCode < (f.round mode word neg m e st).1) :
    f.deliver mode word sat neg m e st = (f.overflow mode sat neg, fOverflow ||| fInexact) := by
  unfold Fmt.deliver
  rw [if_neg hm]
  exact if_pos h

/-- A nonzero value that is in range is delivered by one rounding. -/
theorem decode_deliver (hf : f.Sound) (sat : Bool) (hm : m ≠ 0) (h : (f.round mode word neg m e st).1 ≤ f.maxCode) :
    ∃ m1 e1, f.decode (f.deliver mode word sat neg m e st).1 = .fin neg m1 e1 ∧
      value false m1 e1 = value false (roundUnits mode word neg m e (f.spacing m e) st).1 (f.spacing m e) := by
  obtain ⟨m1, e1, hd, hv⟩ := hf.decode_signed neg h
  rw [deliver_of_le f mode word neg st e sat hm h]
  exact ⟨m1, e1, hd, hv.trans (codeUnits_round f mode word neg st e hm)⟩

end Round

end Sys2Proof.Machine
end

section
/-! SUPPORT. What MX elements widen to, what overflows, and what infinities and NaNs deliver (R90 to R92, R107, R109, R110). -/

namespace Sys2Proof.Machine

open Claims (value)

/-! ### Decoding -/

/-- A code decodes to its significand and the exponent of its least significant bit (R90 to R92). -/
theorem decode_fin {f : Fmt} {code : Nat} {n : Bool} {m : Nat} {e : Int} (h : f.decode code = .fin n m e) :
    m < 2 ^ (f.mbits + 1) ∧ f.minExp ≤ e ∧ (m < 2 ^ f.mbits → e = f.minExp) := by
  have hr : code % f.signBit % 2 ^ f.mbits < 2 ^ f.mbits := Nat.mod_lt _ (by positivity)
  rw [pow_succ']
  unfold Fmt.decode at h
  dsimp only at h
  split_ifs at h
  · obtain ⟨-, rfl, rfl⟩ := FVal.fin.inj h
    exact ⟨by omega, le_rfl, fun _ => rfl⟩
  · obtain ⟨-, rfl, rfl⟩ := FVal.fin.inj h
    exact ⟨by omega, by omega, fun hlt => by omega⟩

theorem roundsStochastically : Claims.roundsStochastically :=
  ⟨fun word neg m e a => stochastic_units word neg m e a, fun _ _ _ _ _ _ h => decode_fin h⟩

/-! ### Widening -/

/-- An MX element has few bits, and none far below one. -/
theorem mxValue_bounds {t : Nat} (ht : t ∈ [5, 6, 7, 8, 9, 10]) {code : Nat} {n : Bool} {m : Nat} {e : Int}
    (h : mxValue t code = .fin n m e) : m < 2 ^ 24 ∧ -22 ≤ e := by
  by_cases h10 : t = 10
  · subst h10
    obtain ⟨-, rfl, rfl⟩ := FVal.fin.inj h
    refine ⟨?_, by omega⟩
    simp only [intValue, intWidth, intSigned]
    split_ifs <;> omega
  · replace ht : t ∈ [5, 6, 7, 8, 9] := by simpa [h10] using ht
    rw [mxValue, if_neg h10] at h
    obtain ⟨hm, he, -⟩ := decode_fin h
    have hbits : 2 ^ ((fmtOf t).mbits + 1) ≤ 2 ^ 24 ∧ -22 ≤ (fmtOf t).minExp := by
      fin_cases ht <;> decide
    omega

/-- A value that a format can hold exactly and that does not overflow is delivered as it is. -/
theorem deliver_exact {f : Fmt} (mode : Nat) (word : Word) (sat neg : Bool) {m : Nat} {e : Int}
    (he : f.spacing m e ≤ e) (h : (f.deliver mode word sat neg m e false).2 &&& fOverflow = 0) :
    ∃ c ≤ f.maxCode, (f.deliver mode word sat neg m e false).1 = f.signed neg c ∧
      (f.codeUnits c : ℚ) * (2 : ℚ) ^ f.minExp = value false m e := by
  by_cases hm : m = 0
  · refine ⟨0, Nat.zero_le _, ?_, by simp [hm, value, Fmt.codeUnits]⟩
    rw [Fmt.deliver, if_pos hm]
  · by_cases hc : (f.round mode word neg m e false).1 ≤ f.maxCode
    · rw [deliver_of_le f mode word neg false e sat hm hc]
      refine ⟨_, hc, rfl, (codeUnits_round f mode word neg false e hm).trans ?_⟩
      rw [roundUnits, if_pos he, value_pos, value_pos]
      push_cast
      rw [mul_assoc, ← zpow_natCast, ← zpow_add₀ two_ne_zero, Int.toNat_of_nonneg (by omega), sub_add_cancel]
    · rw [deliver_of_gt f mode word neg false e sat hm (not_le.1 hc)] at h
      exact absurd h (show ¬ (fOverflow ||| fInexact) &&& fOverflow = 0 by decide)

theorem fval_signed (neg : Bool) {c : Nat} (hc : c ≤ fp32.maxCode) :
    fval (BitVec.ofNat 32 (fp32.signed neg c)) = fp32.decode (fp32.signed neg c) := by
  have : fp32.signed neg c < 2 ^ 32 := by
    have : c ≤ 0x7F7FFFFF := hc
    cases neg <;> simp [Fmt.signed, Fmt.signBit, fp32] <;> omega
  rw [fval, BitVec.toNat_ofNat, Nat.mod_eq_of_lt this]

theorem value_sign (n : Bool) (m : Nat) (e : Int) : value n m e = (if n then -1 else 1) * value false m e := by
  simp [value]

/-- The spacing of FP32 at a magnitude of few bits does not lie above its least significant bit. -/
theorem spacing_fp32_le {m : Nat} {e : Int} (hm : m < 2 ^ 24) (he : -149 ≤ e) : fp32.spacing m e ≤ e := by
  have hlog : Nat.log2 m < 24 := by
    rcases eq_or_ne m 0 with rfl | h0
    · decide
    · exact (Nat.log2_lt h0).2 hm
  have hmin : fp32.minExp = -149 := rfl
  have hbits : fp32.mbits = 23 := rfl
  unfold Fmt.spacing
  omega

/-- An MX element widens exactly, unless it overflows (R109). -/
theorem widen_exact {t : Nat} (ht : t ∈ [5, 6, 7, 8, 9, 10]) {code scale : Nat} {n : Bool} {m : Nat} {e : Int}
    (hs : scale < 255) (hv : mxValue t code = .fin n m e) (hfl : (widen t code scale).2 = 0) :
    ∃ n1 m1 e1, fval (widen t code scale).1 = .fin n1 m1 e1 ∧
      value n1 m1 e1 = value n m e * (2 : ℚ) ^ ((scale : Int) - 127) := by
  obtain ⟨hm, he⟩ := mxValue_bounds ht hv
  have hw : widen t code scale = (BitVec.ofNat 32 (fp32.deliver 0 0 false n m (e + (scale - 127)) false).1,
      if (fp32.deliver 0 0 false n m (e + (scale - 127)) false).2 &&& fOverflow = 0 then 0 else fOverflow) := by
    rw [widen, if_neg (by omega), hv]
    rfl
  have hin : (fp32.deliver 0 0 false n m (e + (scale - 127)) false).2 &&& fOverflow = 0 := by
    by_contra hov
    rw [hw, if_neg hov] at hfl
    exact absurd hfl (show fOverflow ≠ 0 by decide)
  obtain ⟨c, hc, hcode, hunits⟩ := deliver_exact 0 0 false n (spacing_fp32_le hm (by omega)) hin
  obtain ⟨m1, e1, hd, hval⟩ := (formats_sound fp32 (by decide)).decode_signed n hc
  refine ⟨n, m1, e1, by rw [hw, hcode, fval_signed n hc, hd], ?_⟩
  rw [value_sign, hval, hunits, value_sign n, mul_assoc, value_pos, value_pos, mul_assoc, ← zpow_add₀ two_ne_zero]

theorem valuesAreExact : Claims.valuesAreExact :=
  ⟨fun mode n1 n2 n3 m1 m2 m3 e1 e2 e3 => ⟨fAdd_value mode n1 n2 m1 m2 e1 e2, ⟨_, _, _, rfl, mul_value n1 n2 m1 m2 e1 e2⟩,
      fFma_value mode n1 n2 n3 m1 m2 m3 e1 e2 e3, fDiv_value n1 n2 e1 e2⟩,
    fun f hf mode word sat neg st _ e hm h => decode_deliver f mode word neg st e (formats_sound f hf) sat hm h,
    fun _ ht _ _ _ _ _ hs hv hfl => widen_exact ht hs hv hfl⟩

/-! ### Overflow -/

/-- R107: whether an overflow in a mode goes away from zero for a sign. -/
theorem overflowsToInf_iff {mode : Nat} (hm : mode ≤ 4) (neg : Bool) : overflowsToInf mode neg = true ↔
    mode = 0 ∨ mode = 4 ∨ (mode = 3 ∧ neg = false) ∨ (mode = 2 ∧ neg = true) := by
  interval_cases mode <;> simp [overflowsToInf]

/-- The first two rows of Table 4.11, as formats. -/
theorem nan_kinds : ∀ f ∈ formats,
    (f ∈ [fp32, bf16, fp16, e5m2] ↔ f.nan = .ieee) ∧ (f = e4m3 ↔ f.nan = .e4m3) := by
  intro f hf
  fin_cases hf <;> decide

theorem overflow_eq (f : Fmt) {mode : Nat} (hm : mode ≤ 4) (sat neg : Bool) :
    let away := sat = false ∧ (mode = 0 ∨ mode = 4 ∨ (mode = 3 ∧ neg = false) ∨ (mode = 2 ∧ neg = true))
    f.overflow mode sat neg = if f.nan = .ieee ∧ away then f.signed neg f.infCode
      else if f.nan = .e4m3 ∧ away then 0x7F else f.signed neg f.maxCode := by
  simp only [← overflowsToInf_iff hm neg]
  unfold Fmt.overflow
  cases f.nan <;> simp

section InRange
variable (f : Fmt) (mode : Nat) (word : Word) (neg st : Bool) {m : Nat} (e : Int) (hm : m ≠ 0)
include hm

/-- A rounded magnitude exceeds the value of a code exactly when its code does. -/
theorem code_value_lt_iff (c : Nat) : (f.codeUnits c : ℚ) * (2 : ℚ) ^ f.minExp <
      value false (roundUnits mode word neg m e (f.spacing m e) st).1 (f.spacing m e) ↔
    c < (f.round mode word neg m e st).1 := by
  rw [← codeUnits_round f mode word neg st e hm, mul_lt_mul_iff_of_pos_right (by positivity), Nat.cast_lt,
    f.codeUnits_strictMono.lt_iff_lt]

/-- A rounded magnitude lies below the value of a code exactly when its code does. -/
theorem value_lt_code_iff (c : Nat) :
    value false (roundUnits mode word neg m e (f.spacing m e) st).1 (f.spacing m e) <
      (f.codeUnits c : ℚ) * (2 : ℚ) ^ f.minExp ↔ (f.round mode word neg m e st).1 < c := by
  rw [← codeUnits_round f mode word neg st e hm, mul_lt_mul_iff_of_pos_right (by positivity), Nat.cast_lt,
    f.codeUnits_strictMono.lt_iff_lt]

/-- A rounded magnitude is nonzero and below the least normal value exactly when its code is a subnormal one. -/
theorem subnormal_iff : 0 < value false (roundUnits mode word neg m e (f.spacing m e) st).1 (f.spacing m e) ∧
      value false (roundUnits mode word neg m e (f.spacing m e) st).1 (f.spacing m e) < (2 : ℚ) ^ (f.minExp + f.mbits) ↔
      (f.round mode word neg m e st).1 ≠ 0 ∧ (f.round mode word neg m e st).1 < 2 ^ f.mbits := by
  have hzero : (0 : ℚ) = (f.codeUnits 0 : ℚ) * (2 : ℚ) ^ f.minExp := by simp [Fmt.codeUnits]
  have hnormal : (2 : ℚ) ^ (f.minExp + f.mbits) = (f.codeUnits (2 ^ f.mbits) : ℚ) * (2 : ℚ) ^ f.minExp := by
    rw [zpow_add₀ two_ne_zero, zpow_natCast, mul_comm]
    simp [Fmt.codeUnits]
  rw [hnormal, value_lt_code_iff f mode word neg st e hm, hzero, code_value_lt_iff f mode word neg st e hm,
    Nat.pos_iff_ne_zero]

end InRange

/-- The flags of a nonzero value in range (R110). -/
theorem deliver_flags (f : Fmt) (mode : Nat) (word : Word) (sat neg st : Bool) {m : Nat} (e : Int) (hm : m ≠ 0)
    (h : (f.round mode word neg m e st).1 ≤ f.maxCode) :
    let r := roundUnits mode word neg m e (f.spacing m e) st
    let v := value false r.1 (f.spacing m e)
    (f.deliver mode word sat neg m e st).2 = (if r.2 then fInexact else 0) |||
      (if r.2 = true ∧ 0 < v ∧ v < (2 : ℚ) ^ (f.minExp + f.mbits) then fUnderflow else 0) := by
  intro r v
  have hinexact : (f.round mode word neg m e st).2 = r.2 := rfl
  rw [deliver_of_le f mode word neg st e sat hm h]
  simp only [v, r, subnormal_iff f mode word neg st e hm, hinexact, Bool.and_eq_true, bne_iff_ne, decide_eq_true_eq, and_assoc]

/-- Table 4.11, an infinity. -/
theorem convert_inf (f : Fmt) (mode : Nat) (word : Word) (sat neg : Bool) : f.convert mode word sat (.inf neg) =
    if f.nan = .ieee then (if sat then f.signed neg f.maxCode else f.signed neg f.infCode, 0)
    else if f.nan = .e4m3 then (if sat then (f.signed neg f.maxCode, 0) else (0x7F, fInvalid))
    else (f.signed neg f.maxCode, fInvalid) := by
  unfold Fmt.convert
  cases f.nan <;> cases sat <;> rfl

/-- Table 4.11, a NaN. -/
theorem convert_nan (f : Fmt) (mode : Nat) (word : Word) (sat sig : Bool) : f.convert mode word sat (.nan sig) =
    if f.nan = .ieee then (f.infCode + 2 ^ (f.mbits - 1), if sig then fInvalid else 0)
    else if f.nan = .e4m3 then (0x7F, if sig then fInvalid else 0) else (0, fInvalid) := by
  unfold Fmt.convert Fmt.nanCode
  cases f.nan <;> simp

theorem signed_false (f : Fmt) (c : Nat) : f.signed false c = c := Nat.zero_add c

theorem overflows : Claims.overflows := by
  intro f hf mode word sat neg hmode ieee big inf away
  obtain ⟨hieee, he4m3⟩ := nan_kinds f hf
  simp only [ieee, hieee, he4m3]
  refine ⟨?_, convert_inf f mode word sat neg, fun sig => ?_⟩
  · intro m e hm
    obtain ⟨m1, e1, hd, hmax⟩ := (formats_sound f hf).decode_signed false le_rfl
    have hover := code_value_lt_iff f mode word neg false e hm f.maxCode
    refine ⟨m1, e1, signed_false f f.maxCode ▸ hd, ?_⟩
    rw [hmax]
    by_cases h : f.maxCode < (f.round mode word neg m e false).1
    · exact (if_pos (hover.2 h)).mpr ((deliver_of_gt f mode word neg false e sat hm h).trans
        (congrArg (·, fOverflow ||| fInexact) (overflow_eq f hmode sat neg)))
    · exact (if_neg (hover.not.2 h)).mpr (deliver_flags f mode word sat neg false e hm (not_lt.1 h))
  · have hinf : inf false = f.infCode := signed_false f f.infCode
    rw [hinf]
    exact convert_nan f mode word sat sig

/-! ### The statement -/

/-- `Claims.roundsToSpacing` with the multiples of its second clause whole numbers of units (R5, R101, R102). -/
def RoundsToWholeUnits : Prop :=
  ∀ (word : Word) (neg : Bool) (m : Nat) (e a : Int),
    let x : ℚ := (m : ℚ) * (2 : ℚ) ^ (e - a)
    let u (mode : Nat) : Nat := (roundUnits mode word neg m e a false).1
    (∀ mode, ((roundUnits mode word neg m e a false).2 = false ↔ ∃ n : Nat, x = n)) ∧
    (∀ mode (n : Nat), x = n → mode ≤ 3 → u mode = n) ∧
    (2 * |((u 0 : Nat) : ℚ) - x| ≤ 1 ∧ (2 * |((u 0 : Nat) : ℚ) - x| = 1 → u 0 % 2 = 0)) ∧
    (((u 1 : Nat) : ℚ) ≤ x ∧ x < (u 1 : ℚ) + 1) ∧
    ∀ mode ∈ [2, 3], if (mode = 2 ∧ neg = true) ∨ (mode = 3 ∧ neg = false) then x ≤ (u mode : ℚ) ∧ (u mode : ℚ) < x + 1
      else (u mode : ℚ) ≤ x ∧ x < (u mode : ℚ) + 1

theorem roundsToWholeUnits : RoundsToWholeUnits := fun word neg m e a =>
  ⟨fun mode => roundUnits_exact_iff mode word neg m e a, fun _ _ hn hm => roundUnits_multiple hm word neg hn,
    nearest_bound word neg m e a, toward_zero_bound word neg m e a, fun _ hm => directed_bound word neg m e a hm⟩

/-- To nearest, one half rounds to zero. -/
theorem half_rounds_to_zero : (roundUnits 0 0 false 1 (-1) 0 false).1 = 0 := by decide

/-- The clause that a multiple is its own rounding is about every rational `n`, not the whole ones alone (its `n` takes the
type of `(n : ℚ)`), so it says of one half that it rounds to itself. -/
theorem not_roundsToSpacing : ¬ Claims.roundsToSpacing := by
  intro h
  obtain ⟨-, hmultiple, -⟩ := h 0 false 1 (-1) 0
  have hhalf : ((roundUnits 0 0 false 1 (-1) 0 false).1 : ℚ) = 1 / 2 :=
    hmultiple 0 (1 / 2) (by norm_num) (by norm_num)
  rw [half_rounds_to_zero] at hhalf
  norm_num at hhalf

/-- Refutes O42: its clause "x = n implies that the rounding is n" quantifies over rational n, and 1 * 2^-1 rounded to
nearest at a spacing of 1 is 0, not 1/2. Every other clause holds: `roundingIsCorrect_wholeUnits`. -/
theorem not_roundingIsCorrect : ¬ Obligations.RoundingIsCorrect := fun h => not_roundsToSpacing h.1

/-- What the refutation leaves: with whole multiples in the one clause, the model meets all that the statement says. -/
theorem roundingIsCorrect_wholeUnits :
    RoundsToWholeUnits ∧ Claims.roundsStochastically ∧ Claims.valuesAreExact ∧ Claims.overflows :=
  ⟨roundsToWholeUnits, roundsStochastically, valuesAreExact, overflows⟩

end Sys2Proof.Machine
end

section
/-! SUPPORT. Reset, temperature and power (R399, R402), and what one step of the schedule runs (R203, R204, log 1). -/

namespace Sys2Proof.Machine

/-! ### Reset -/

theorem State.imageOk_afterReset (s : State) : s.afterReset.imageOk s.afterReset.flash = s.imageOk s.flash := rfl

/-- R399: the boot ROM finds an image that it may run. -/
theorem bootRom_runs {s : State} (ht : s.torn = false) (hi : s.imageOk s.flash = true) : s.bootRom = { s with
    boot := .running, image := s.flash, fuseMin := Config.imageVersion s.flash, peers := Config.imagePeers s.flash
    coreDie := bootDies s.flash } := if_pos (by simp [ht, hi])

/-- R399, R400: the boot ROM finds none. -/
theorem bootRom_recovers {s : State} (h : s.torn = true ∨ s.imageOk s.flash = false) :
    s.bootRom = { s with boot := .recovery } := if_neg (by rcases h with h | h <;> simp [h])

/-- R402: no warp issues once issue has stopped. -/
theorem mayIssue_stopped {s : State} (h : s.issueStopped = true) (w : Warp) : s.mayIssue w = false := by
  simp [State.mayIssue, h]

/-- R402: no step without power. -/
theorem step_powerless {s : State} (h : s.power = false) : step s = .fault .powerRemoved := if_neg (by simp [h])

/-- Settles O56: the state after reset is written out, a RESET is the boot ROM's choice between two states, and the other
events are their meanings. -/
theorem resetAndPower : Obligations.ResetAndPower := by
  refine ⟨fun _ => rfl, rfl, fun _ => rfl, rfl, State.reset_memWf, fun _ => rfl, fun s => ⟨fun ht hi => ?_, fun h => ?_,
    rfl, rfl, rfl, mayIssue_stopped, rfl, step_powerless⟩⟩
  · exact congrArg Host.Outcome.next (bootRom_runs (s := s.afterReset) ht (s.imageOk_afterReset.trans hi))
  · exact congrArg Host.Outcome.next (bootRom_recovers (s := s.afterReset) (h.imp_right s.imageOk_afterReset.trans))

/-! ### A move -/

theorem step_settled {s : State} (h : s.power = true) : step s = settled s.nextMove := if_pos h

theorem nextMove_cons {s : State} {m : Move} {rest : List Move} (h : s.agenda = m :: rest) :
    s.nextMove = State.move { s with agenda := rest } m := by
  unfold State.nextMove
  rw [h]

/-- R34, R203: a warp that may issue runs the instruction that it has decoded. -/
theorem warpMove_runs {s : State} {id : Nat} {w : Warp} {i : Instr} (hw : s.warp id = some w) (hm : s.mayIssue w = true)
    (hf : w.fetched = true) (hd : decode w.hdr.cls w.nextWords.1 w.nextWords.2 = .ok i) :
    s.warpMove id = exec i { s with cur := id } := by
  simp [State.warpMove, hw, hm, hf, hd]

/-- R204: a warp whose clause has not been decoded decodes it. -/
theorem warpMove_decodes {s : State} {id : Nat} {w : Warp} (hw : s.warp id = some w) (hm : s.mayIssue w = true)
    (hf : w.fetched = false) : s.warpMove id = exec .clauseDecode { s with cur := id } := by
  simp [State.warpMove, hw, hm, hf]

/-- An event that no instruction word stands for is its meaning. -/
theorem move_event {s : State} {i : Instr} (he : encode i = none) (hi : i ≠ .clauseDecode) :
    s.move (.event i) = exec i s := by
  simp [State.move, he, hi]

/-- A step is its move, settled. -/
theorem step_of_move {s : State} {m : Move} {rest : List Move} {o : Host.Outcome State Fault Refusal} (hp : s.power = true)
    (ha : s.agenda = m :: rest) (ho : State.move { s with agenda := rest } m = o) : step s = settled o := by
  rw [step_settled hp, nextMove_cons ha, ho]

/-- The three answers that a settled move gives. -/
theorem settled_cases {o p : Host.Outcome State Fault Refusal} (h : p = settled o) :
    (∀ t, o = .next t → p = .next t.tidy) ∧ (∀ f, o = .fault f → p = .fault f) ∧ ∀ x, o = .refused x → p = .refused x := by
  subst h
  refine ⟨?_, ?_, ?_⟩
  all_goals rintro _ rfl; rfl

/-! ### Time -/

/-- R103, R104: clocks of the generators move generators and their steps alone. -/
theorem drawClocks_eq (n : Nat) (s : State) : State.drawClocks n s = { s with
    sr := (State.drawClocks n s).sr, draws := (State.drawClocks n s).draws, seeds := (State.drawClocks n s).seeds } := by
  induction n generalizing s with
  | zero => rfl
  | succ n ih => exact ih s.drawClock

/-- R3: what the passing of time moves, and what it leaves. -/
theorem pass_frame (s : State) (c n : Nat) : (s.pass c n).clock = s.clock + c ∧ (s.pass c n).gtime = s.gtime + n ∧
    (s.pass c n).agenda = s.agenda ∧ (s.pass c n).mem = s.mem := by
  have h := drawClocks_eq (min c 16) s
  exact ⟨rfl, rfl, (congrArg State.agenda h :), (congrArg State.mem h :)⟩

/-! ### What a step leaves in order -/

/-- A thing found in a table whose things were changed one by one. -/
theorem Table.find_map {α : Type} (f : Nat → α → α) (m : Table α) (n : Nat) :
    Table.find (m.map fun p => (p.1, p.2.map (f p.1))) n = (m.find n).map (f n) := by
  induction m with
  | nil => rfl
  | cons p r ih =>
    obtain ⟨k, x⟩ := p
    rw [List.map_cons, Table.find, Table.find, Store.get_cons, Store.get_cons]
    by_cases h : k = n
    · rw [if_pos h, if_pos h, h]
    · rw [if_neg h, if_neg h]
      exact ih

/-- R207: a warp with those that still hold it. -/
def State.stillYields (s : State) (w : Warp) : Warp :=
  if w.yieldFor = [] then w else { w with yieldFor := w.yieldFor.filter s.holds }

theorem State.stillYields_eq (s : State) (w : Warp) :
    s.stillYields w = { w with yieldFor := w.yieldFor.filter s.holds } := by
  unfold State.stillYields
  by_cases h : w.yieldFor = []
  · rw [if_pos h, h, List.filter_nil, ← h]
  · rw [if_neg h]

theorem State.tidy_warp (s : State) (id : Nat) : s.tidy.warp id = (s.trim.warp id).map s.trim.stillYields :=
  Table.find_map (fun _ => s.trim.stillYields) s.trim.warps id

/-- R207, log 37: who holds a warp that has yielded. -/
theorem State.holds_iff (s : State) (j n : Nat) : s.holds (j, n) = true ↔
    ∃ x, s.warp j = some x ∧ s.starts j x = true ∧ (n = 0 → x.ix = 0) := by
  unfold State.holds
  cases s.warp j <;> simp [← imp_iff_not_or]

/-- R11, R16: with room for all they hold, the caches give up nothing. -/
theorem State.trim_of_room {s : State} (h1 : s.l1Load ≤ Config.l1Lines)
    (h2 : s.stale.length + s.staleSide.length ≤ Config.sliceLines) : s.trim = s := by
  unfold State.trim
  rw [if_pos h1]
  exact if_pos h2

/-- Where no warp has yielded there is nothing to take off. -/
theorem State.unyield_of_none {s : State} (h : ∀ p ∈ s.warps, ∀ w, p.2 = some w → w.yieldFor = []) : s.unyield = s := by
  have hw : s.warps.map (fun p => (p.1, p.2.map s.stillYields)) = s.warps := by
    refine (List.map_congr_left fun p hp => ?_).trans (List.map_id _)
    obtain ⟨k, x⟩ := p
    cases x with
    | none => rfl
    | some w => exact congrArg (fun x => (k, some x)) (if_pos (h _ hp w rfl))
  exact congrArg (fun warps => ({ s with warps := warps } : State)) hw

/-- Settles O60: with power a step is its move settled; a warp's move is the instruction that its words decode to, and what
settles it trims the caches and takes off those that a warp no longer waits for. -/
theorem stepRunsDecodedInstruction : Obligations.StepRunsDecodedInstruction := by
  refine ⟨fun s hp => ⟨?_, ?_, ?_, ?_⟩, fun t => ⟨⟨_, rfl⟩, ?_, ?_⟩⟩
  · intro id rest w i ha hw hm hf hd
    exact settled_cases (step_of_move hp ha (warpMove_runs (s := { s with agenda := rest }) hw hm hf hd))
  · intro id rest w ha hw hm hf
    exact settled_cases (step_of_move hp ha (warpMove_decodes (s := { s with agenda := rest }) hw hm hf))
  · intro i rest ha he hi
    exact settled_cases (step_of_move hp ha (move_event he hi))
  · intro c n rest ha
    exact ⟨_, step_of_move hp ha rfl, pass_frame { s with agenda := rest } c n⟩
  · intro id w hw
    refine ⟨w.yieldFor.filter t.trim.holds, ?_, fun j n => ?_⟩
    · rw [State.tidy_warp, hw, Option.map_some, State.stillYields_eq]
    · rw [List.mem_filter, State.holds_iff]
  · intro h1 h2
    have ht := State.trim_of_room h1 h2
    exact ⟨ht, fun hy => by rw [State.tidy, ht, State.unyield_of_none hy]⟩

end Sys2Proof.Machine
end

section
/-! SUPPORT. What a write to memory, to a sideband or to a reserved slot leaves of the rest of the state (R117, R119, R388). -/

namespace Sys2Proof.Machine

@[simp] theorem length_bytesOfNat (n x : Nat) : (bytesOfNat n x).length = n := by simp [bytesOfNat]

/-- What a list's first `n` values are after the rest is cut off. -/
theorem getD_take_of_lt {α : Type} (l : List α) (d : α) {i n : Nat} (h : i < n) : (l.take n).getD i d = l.getD i d := by
  simp [List.getD_eq_getElem?_getD, h]

/-! ### Payload -/

/-- A write at its home leaves all but payload bytes, their stale copies and failures. -/
theorem State.wrBytes_frame (s : State) (a : Nat) (l : List Byte) : s.wrBytes a l = { s with
    mem := (s.wrBytes a l).mem, stale := (s.wrBytes a l).stale, failed := (s.wrBytes a l).failed } := by
  unfold State.wrBytes State.keepStale
  split <;> rfl

theorem State.wrAt_frame (s : State) (t : Trans) (l : List Byte) : s.wrAt t l = { s with
    mem := (s.wrAt t l).mem, stale := (s.wrAt t l).stale, failed := (s.wrAt t l).failed } := by
  unfold State.wrAt
  split
  · rfl
  · exact s.wrBytes_frame t.key l

theorem State.byte_wrNum (s : State) (k n x a : Nat) : (s.wrNum k n x).byte a =
    if k ≤ a ∧ a < k + n then (bytesOfNat n x).getD (a - k) 0 else s.byte a := by
  rw [State.wrNum, State.byte_wrBytes, length_bytesOfNat]

/-- A write of a slot leaves all but payload bytes, their stale copies and failures. -/
theorem State.wrSlot_frame (k : Nat) (slot : List (Nat × Bool)) (l : List Byte) (s : State) : s.wrSlot k slot l = { s with
    mem := (s.wrSlot k slot l).mem, stale := (s.wrSlot k slot l).stale, failed := (s.wrSlot k slot l).failed } := by
  induction slot generalizing s l with
  | nil => rfl
  | cons p r ih =>
    rw [State.wrSlot]
    split_ifs
    · exact ih (l.drop 8) s
    · exact ih (l.drop 8) (s.wrRaw p.1 (l.take 8))
    · refine (ih (l.drop 8) (s.wrBytes p.1 (l.take 8))).trans ?_
      rw [s.wrBytes_frame p.1 (l.take 8)]

/-! ### Sidebands -/

/-- R13: one sideband byte written. -/
theorem State.copySide_frame (s : State) (t : Trans) (i : Nat) (b : Byte) : s.copySide t i b = { s with
    side := Store.set 0 s.side (t.key / 128 * 8 + i) b
    staleSide := (s.copySide t i b).staleSide, failed := (s.copySide t i b).failed } := by
  unfold State.copySide
  split <;> rfl

/-- R389: `n` sideband bytes written from byte `j` of a line. -/
def State.writeSide (s : State) (t : Trans) (j n : Nat) (f : Nat → Byte) : State :=
  (List.range n).foldl (fun s i => s.copySide t (j + i) (f i)) s

theorem State.writeSide_succ (s : State) (t : Trans) (j n : Nat) (f : Nat → Byte) :
    s.writeSide t j (n + 1) f = (s.writeSide t j n f).copySide t (j + n) (f n) := by
  simp [State.writeSide, List.range_succ]

/-- Sideband bytes written leave all but sidebands, their stale copies and failures. -/
theorem State.writeSide_frame (s : State) (t : Trans) (j n : Nat) (f : Nat → Byte) : s.writeSide t j n f = { s with
    side := (s.writeSide t j n f).side, staleSide := (s.writeSide t j n f).staleSide
    failed := (s.writeSide t j n f).failed } := by
  induction n with
  | zero => rfl
  | succ n ih => rw [State.writeSide_succ, State.copySide_frame, ih]

/-- R13, R99: a sideband byte after a run of them was written. -/
theorem State.side_writeSide (s : State) (t : Trans) (j n : Nat) (f : Nat → Byte) (a : Nat) :
    let k := t.key / 128 * 8 + j
    Store.get 0 (s.writeSide t j n f).side a = if k ≤ a ∧ a < k + n then f (a - k) else Store.get 0 s.side a := by
  intro k
  induction n with
  | zero => rw [if_neg (by omega)]; rfl
  | succ n ih =>
    rw [State.writeSide_succ, State.copySide_frame]
    refine (Store.get_set _ _ _ a).trans ?_
    rw [ih, ← Nat.add_assoc]
    by_cases h : a = k + n
    · rw [if_pos h, if_pos (by omega), h, Nat.add_sub_cancel_left]
    · rw [if_neg h]
      by_cases hr : k ≤ a ∧ a < k + n
      · rw [if_pos hr, if_pos (by omega)]
      · rw [if_neg hr, if_neg (by omega)]

/-- Values with their places, counted from `n`. -/
def numbered (n : Nat) (l : List Byte) : List (Nat × Byte) := (l.zipIdx n).map fun p => (p.2, p.1)

theorem numbered_cons (n : Nat) (b : Byte) (l : List Byte) : numbered n (b :: l) = (n, b) :: numbered (n + 1) l := by
  simp [numbered]

/-- A byte read after numbered values were set from a base. -/
theorem get_set_numbered (l : List Byte) (n base : Nat) (m : Store Byte) (a : Nat) :
    Store.get 0 ((numbered n l).foldl (fun m p => Store.set 0 m (base + p.1) p.2) m) a =
      if base + n ≤ a ∧ a < base + n + l.length then l.getD (a - (base + n)) 0 else Store.get 0 m a := by
  induction l generalizing n m with
  | nil => rw [if_neg (by simp)]; rfl
  | cons b r ih =>
    rw [numbered_cons, List.foldl_cons, ih, Store.get_set, List.length_cons, ← Nat.add_assoc]
    by_cases ha : a = base + n
    · rw [if_neg (by omega), if_pos ha, if_pos (by omega), ha, Nat.sub_self, List.getD_cons_zero]
    · rw [if_neg ha]
      refine if_ctx_congr (by omega) (fun h => ?_) fun _ => rfl
      rw [show a - (base + n) = a - (base + n + 1) + 1 by omega, List.getD_cons_succ]

/-- R13: the sideband of a line after values were written from its first byte. -/
theorem State.sideByte_wrSide (s : State) (k : Nat) (l : List Byte) {i : Nat} (h : i < l.length) :
    (s.wrSide k (numbered 0 l)).sideByte k i = l.getD i 0 := by
  refine (get_set_numbered l 0 (k / 128 * 8) s.side (k / 128 * 8 + i)).trans ?_
  rw [if_pos (by omega), Nat.add_zero, Nat.add_sub_cancel_left]

end Sys2Proof.Machine
end

section
/-! SUPPORT. Connections and regions (R15, R368, R387 to R389). -/

namespace Sys2Proof.Machine

/-! ### What is posted on a connection -/

/-- A connection with what is posted on it replaced. -/
def State.holding (s : State) (conn : Nat) (c : Conn) (l : List HostOp) : State :=
  { s with conns := s.conns.put conn { c with posted := l } }

@[simp] theorem State.find_holding (s : State) (conn : Nat) (c : Conn) (l : List HostOp) :
    (s.holding conn c l).conns.find conn = some { c with posted := l } := Table.find_put_self s.conns conn _

theorem State.mapConn_some {s : State} {conn : Nat} {c : Conn} (h : s.conns.find conn = some c) (l : List HostOp) :
    (s.mapConn conn fun c => { c with posted := l }) = s.holding conn c l := by
  simp [State.mapConn, h, State.holding]

theorem State.holding_holding (s : State) (conn : Nat) (c : Conn) (l l' : List HostOp) :
    (s.holding conn c l).mapConn conn (fun c => { c with posted := l' }) = s.holding conn c l' := by
  rw [State.mapConn_some (s.find_holding conn c l)]
  exact congrArg (fun m => ({ s with conns := m } : State)) (Table.put_put s.conns conn _ _)

theorem State.post_none {s : State} {conn : Nat} (h : s.conns.find conn = none) (op : HostOp) : s.post conn op = s := by
  simp [State.post, h]

/-- R388: an operation joins those posted before it, and the connection goes on. -/
theorem State.post_some {s : State} {conn : Nat} {c : Conn} (h : s.conns.find conn = some c) (op : HostOp) :
    s.post conn op = (s.holding conn c (c.posted ++ [op])).serveConn conn (c.posted.length + 1) := by
  have hm : (s.mapConn conn fun c => { c with posted := c.posted ++ [op] }) = s.holding conn c (c.posted ++ [op]) := by
    simp [State.mapConn, h, State.holding]
  simp [State.post, h, hm, State.serve]

section Serve
variable {s : State} {conn : Nat} {c : Conn} {op : HostOp} {l : List HostOp} (n : Nat)

/-- R160, R388: a connection that waits for an acknowledgement performs nothing. -/
theorem State.serveConn_waiting (h : c.waiting = true) : (s.holding conn c l).serveConn conn n = s.holding conn c l := by
  cases n with
  | zero => rfl
  | succ n => cases l <;> simp [State.serveConn, h]

/-- R388: an operation that cannot be performed yet holds back those after it. -/
theorem State.serveConn_held (hw : c.waiting = false) (ho : (s.holding conn c []).hostOp conn op = none) :
    (s.holding conn c (op :: l)).serveConn conn (n + 1) = s.holding conn c (op :: l) := by
  simp [State.serveConn, hw, State.holding_holding, ho]

/-- R388: an operation that is performed makes way for those after it. -/
theorem State.serveConn_performs {t : State} (hw : c.waiting = false) (ho : (s.holding conn c []).hostOp conn op = some t) :
    (s.holding conn c (op :: l)).serveConn conn (n + 1) = (t.mapConn conn fun c => { c with posted := l }).serveConn conn n := by
  simp [State.serveConn, hw, State.holding_holding, ho]

end Serve

theorem posting : Claims.posting := by
  intro s conn rkey len va data
  refine ⟨fun p hp => ?_, rfl, fun hk => ?_, fun cmp ctx block hk => ?_, fun cmp ctx base n rd wr side hk => ?_⟩
  · have hpost : exec p.1 s = .next (s.post conn p.2) := by
      simp only [List.mem_cons, List.not_mem_nil, or_false] at hp
      rcases hp with rfl | rfl | rfl <;> rfl
    rw [hpost]
    refine ⟨fun h => by rw [State.post_none h], fun c hc => ?_⟩
    rw [State.post_some hc]
    refine ⟨fun hw => ?_, fun hw a l hl ho => ?_, fun hw hl => ⟨fun ho => ?_, fun t ho => ?_⟩⟩
    · exact congrArg _ (State.serveConn_waiting _ hw)
    · rw [hl]
      exact congrArg _ (State.serveConn_held _ hw ho)
    · rw [hl]
      exact congrArg _ (State.serveConn_held _ hw ho)
    · rw [hl]
      exact congrArg _ (State.serveConn_performs _ hw ho)
  · refine ⟨?_, ?_, fun hm => ?_, fun h1 h2 => ?_⟩
    · simp [State.hostOp, hk]
    · simp [State.hostOp, hk]
    · have hn : ¬ (rkey = 1 ∧ data.length = 256) := fun h => hm.elim (· h.1) (· h.2)
      simp [State.hostOp, hk, hn]
    · subst h1
      simp [State.hostOp, hk, h2]
  · simp [State.hostOp, hk]
  · simp [State.hostOp, hk]

/-! ### Units (R388) -/

/-- The part of `n` bytes from `a` that lies in the `i`-th aligned 8-byte unit. -/
def rdmaUnit (a n i : Nat) : Nat × Nat :=
  (max a (8 * (a / 8 + i)), min (a + n) (8 * (a / 8 + i) + 8) - max a (8 * (a / 8 + i)))

theorem rdmaUnits_eq (a : Nat) {n : Nat} (h : n ≠ 0) :
    rdmaUnits a n = (List.range ((a + n - 1) / 8 - a / 8 + 1)).map (rdmaUnit a n) := if_neg h

/-- The first `k` units hold the bytes up to the end of the last of them. -/
theorem bytes_of_units {a n k : Nat} (hk : k = 0 ∨ 8 * (a / 8 + (k - 1)) < a + n) :
    ((List.range k).map (rdmaUnit a n)).flatMap (fun p => (List.range p.2).map (p.1 + ·)) =
      (List.range (min (a + n) (8 * (a / 8 + k)) - a)).map (a + ·) := by
  induction k with
  | zero => rw [show min (a + n) (8 * (a / 8 + 0)) - a = 0 by omega]; rfl
  | succ k ih =>
    have hsplit : min (a + n) (8 * (a / 8 + (k + 1))) - a =
        min (a + n) (8 * (a / 8 + k)) - a + (rdmaUnit a n k).2 := by
      unfold rdmaUnit
      omega
    have hstart : (rdmaUnit a n k).1 = a + (min (a + n) (8 * (a / 8 + k)) - a) := by
      unfold rdmaUnit
      omega
    rw [List.range_succ, List.map_append, List.flatMap_append, ih (by omega), hsplit, List.range_add, List.map_append,
      List.map_map]
    simp [hstart, Function.comp_def, Nat.add_assoc]

/-- R388: the units of a range hold its bytes in order. -/
theorem rdmaUnits_bytes (a n : Nat) :
    (rdmaUnits a n).flatMap (fun p => (List.range p.2).map (p.1 + ·)) = (List.range n).map (a + ·) := by
  by_cases hn : n = 0
  · subst hn
    rfl
  · rw [rdmaUnits_eq a hn, bytes_of_units (by omega)]
    congr 2
    omega

/-- R388: each part of a range lies in one unit. -/
theorem rdmaUnits_aligned {a n : Nat} {p : Nat × Nat} (h : p ∈ rdmaUnits a n) :
    0 < p.2 ∧ p.1 / 8 = (p.1 + p.2 - 1) / 8 := by
  by_cases hn : n = 0
  · subst hn
    exact absurd h List.not_mem_nil
  · rw [rdmaUnits_eq a hn] at h
    obtain ⟨i, hi, rfl⟩ := List.mem_map.1 h
    have := List.mem_range.1 hi
    unfold rdmaUnit
    dsimp only
    omega

/-! ### Accesses to regions (R387 to R389) -/

/-- An access lies within a region's range. -/
def Inside (r : Region) (va : DWord) (n : Nat) : Prop :=
  r.base.toNat ≤ va.toNat ∧ va.toNat + n ≤ r.base.toNat + if r.side then r.len / 128 * 136 else r.len

theorem covers_iff {r : Region} {va : DWord} {n : Nat} : r.covers va n = true ↔ Inside r va n := by
  rw [Region.covers, Bool.and_eq_true, decide_eq_true_iff, decide_eq_true_iff]
  exact Iff.rfl

section Region
variable {s : State} {r : Region} (conn rkey : Nat) {va : DWord} {len : Nat} {data : List Byte}

theorem regionWrite_refused (h : r.wr = false ∨ ¬ Inside r va data.length) :
    s.regionWrite conn rkey r va data = some (s.send (.accessError conn rkey)) := by
  rw [← covers_iff, Bool.not_eq_true] at h
  rcases h with h | h <;> simp [State.regionWrite, h]

theorem regionRead_refused (h : r.rd = false ∨ ¬ Inside r va len) :
    s.regionRead conn rkey r va len = some (s.send (.accessError conn rkey)) := by
  rw [← covers_iff, Bool.not_eq_true] at h
  rcases h with h | h <;> simp [State.regionRead, h]

theorem regionWrite_over (hr : r.wr = true) (hi : Inside r va data.length) : s.regionWrite conn rkey r va data =
    (s.writeRegion r (rdmaUnits va.toNat data.length) data).over r.cmp conn rkey fun u _ => u.send (.writeDone conn rkey) := by
  simp [State.regionWrite, hr, covers_iff.2 hi]

theorem regionRead_over (hr : r.rd = true) (hi : Inside r va len) : s.regionRead conn rkey r va len =
    (s.readRegion r (rdmaUnits va.toNat len) []).over r.cmp conn rkey fun u l => u.send (.readData conn rkey l) := by
  simp [State.regionRead, hr, covers_iff.2 hi]

end Region

/-! ### One unit of a region (R388, R389) -/

/-- R388, R389: the bytes of a unit, of the payload or from a sideband byte on. -/
def State.unitBytes (s : State) (t : Trans) (n : Nat) : Option Nat → List Byte
  | none => s.bytes t.key n
  | some i => (List.range n).map fun m => s.sideByte t.key (i + m)

section Unit
variable {s : State} {r : Region} {x : Nat} {need : Need} {t : Trans}

theorem unitAt_payload (hr : r.side = false) (h : s.xlate ⟨r.cmp, r.ctx, 4096, 0⟩ (BitVec.ofNat 64 x) need = .ok t) :
    s.unitAt r x need = .ok (t, none) := by
  simp [State.unitAt, hr, h]

/-- R389: the payload bytes of a line in the sideband view. -/
theorem unitAt_sidePayload (hr : r.side = true) (ho : (x - r.base.toNat) % 136 < 128)
    (h : s.xlate ⟨r.cmp, r.ctx, 4096, 0⟩ (r.base + BitVec.ofNat 64 ((x - r.base.toNat) / 136 * 128)
      + BitVec.ofNat 64 ((x - r.base.toNat) % 136)) need = .ok t) :
    s.unitAt r x need = if t.mx then .ok (t, none) else .error ⟨7, none⟩ := by
  cases hm : t.mx <;> simp [State.unitAt, hr, ho, h, hm]

/-- R389: the sideband bytes of a line in the sideband view. -/
theorem unitAt_sideband (hr : r.side = true) (ho : 128 ≤ (x - r.base.toNat) % 136)
    (h : s.xlate ⟨r.cmp, r.ctx, 4096, 0⟩ (r.base + BitVec.ofNat 64 ((x - r.base.toNat) / 136 * 128)) need = .ok t) :
    s.unitAt r x need = if t.mx then .ok (t, some ((x - r.base.toNat) % 136 - 128)) else .error ⟨7, none⟩ := by
  cases hm : t.mx <;> simp [State.unitAt, hr, Nat.not_lt.2 ho, h, hm]

/-- R368: a leaf that has the bits of an access is left as it is. -/
theorem touch_of_set {write : Bool} (h : t.leaf &&& leafBits write = leafBits write) : s.touch t write = s :=
  if_pos (by simp [h])

theorem writeUnit_payload (h : t.leaf &&& 0x300 = 0x300) (l : List Byte) : s.writeUnit t none l = s.wrAt t l :=
  congrArg (State.wrAt · t l) (touch_of_set (write := true) h)

theorem writeUnit_sideband (h : t.leaf &&& 0x300 = 0x300) (j : Nat) (l : List Byte) :
    s.writeUnit t (some j) l = s.writeSide t j l.length fun i => l.getD i 0 :=
  congrArg (State.writeSide · t j l.length fun i => l.getD i 0) (touch_of_set (write := true) h)

/-- A unit written leaves all but memory and sidebands. -/
theorem writeUnit_frame (h : t.leaf &&& 0x300 = 0x300) (side : Option Nat) (l : List Byte) :
    let v := s.writeUnit t side l
    v = { s with mem := v.mem, side := v.side, stale := v.stale, staleSide := v.staleSide, failed := v.failed } := by
  intro v
  subst v
  cases side with
  | none => rw [writeUnit_payload h, State.wrAt_frame]
  | some j => rw [writeUnit_sideband h, State.writeSide_frame]

variable {side : Option Nat} (n : Nat) (us : List (Nat × Nat))

theorem writeRegion_cons (hu : s.unitAt r x .write = .ok (t, side)) (hp : s.planeHeld t.key = false)
    (hl : s.leafHeld t true = false) (l : List Byte) :
    s.writeRegion r ((x, n) :: us) l = (s.writeUnit t side (l.take n)).writeRegion r us (l.drop n) := by
  simp [State.writeRegion, hu, hp, hl]

/-- Log 31: a READ fails at a unit with an uncorrectable error. -/
theorem readRegion_failed (hu : s.unitAt r x .read = .ok (t, side)) (hp : s.planeHeld t.key = false)
    (hl : s.leafHeld t false = false) (hf : s.unitFailed t side n = true) (acc : List Byte) :
    s.readRegion r ((x, n) :: us) acc = .failed s := by
  simp [State.readRegion, hu, hp, hl, hf]

theorem readRegion_cons (hu : s.unitAt r x .read = .ok (t, side)) (hp : s.planeHeld t.key = false)
    (hl : s.leafHeld t false = false) (hf : s.unitFailed t side n = false) (acc : List Byte) :
    s.readRegion r ((x, n) :: us) acc = (s.touch t false).readRegion r us (acc ++ s.unitBytes t n side) := by
  cases side <;> simp [State.readRegion, hu, hp, hl, hf, State.unitBytes]

/-- R388: a unit of a WRITE is written at its home, and the WRITE goes on. -/
theorem writeRegion_writes (hu : s.unitAt r x .write = .ok (t, side)) (hp : s.planeHeld t.key = false)
    (hl : s.leafHeld t true = false) (hd : t.leaf &&& 0x300 = 0x300) {l : List Byte} (hn : n ≤ l.length) :
    ∃ v : State, s.writeRegion r ((x, n) :: us) l = v.writeRegion r us (l.drop n) ∧
      v = { s with mem := v.mem, side := v.side, stale := v.stale, staleSide := v.staleSide, failed := v.failed } ∧
      (side = none → v.side = s.side ∧
        ∀ a, v.byte a = if t.key ≤ a ∧ a < t.key + n then l.getD (a - t.key) 0 else s.byte a) ∧
      ∀ i, side = some i → v.mem = s.mem ∧ ∀ a, Store.get 0 v.side a =
        if t.key / 128 * 8 + i ≤ a ∧ a < t.key / 128 * 8 + i + n then l.getD (a - (t.key / 128 * 8 + i)) 0
        else Store.get 0 s.side a := by
  have hlen : (l.take n).length = n := List.length_take_of_le hn
  refine ⟨_, writeRegion_cons n us hu hp hl l, writeUnit_frame hd side _, ?_, ?_⟩
  · rintro rfl
    rw [writeUnit_payload hd]
    refine ⟨by rw [State.wrAt_frame], fun a => ?_⟩
    rw [State.byte_wrAt, hlen]
    refine if_ctx_congr Iff.rfl (fun h => getD_take_of_lt l 0 ?_) fun _ => rfl
    omega
  · rintro i rfl
    rw [writeUnit_sideband hd, hlen]
    refine ⟨by rw [State.writeSide_frame], fun a => ?_⟩
    rw [State.side_writeSide]
    refine if_ctx_congr Iff.rfl (fun h => getD_take_of_lt l 0 ?_) fun _ => rfl
    omega

end Unit

theorem regions : Claims.regions := by
  refine ⟨fun s conn rkey len r va data => ?_, fun a n => ⟨rdmaUnits_bytes a n, fun p hp => rdmaUnits_aligned hp⟩,
    fun s r x need => ⟨fun hr t ht => unitAt_payload hr ht, fun hr ho t ht => unitAt_sidePayload hr ho ht,
      fun hr ho t ht => unitAt_sideband hr ho ht⟩,
    fun s r x n us l acc need t j hu hp hl => ⟨⟨rfl, rfl⟩, ?_, ?_, ?_⟩⟩
  · refine ⟨fun h => regionWrite_refused conn rkey h, fun h => regionRead_refused conn rkey h, fun hr hi => ?_,
      fun hr hi => ?_⟩
    · refine ⟨fun h => ?_, fun u h => ?_, fun u l h => ?_⟩
      all_goals rw [regionWrite_over conn rkey hr hi, h]; rfl
    · refine ⟨fun h => ?_, fun u h => ?_, fun u l h => ?_⟩
      all_goals rw [regionRead_over conn rkey hr hi, h]; rfl
  · rintro rfl hd hn
    exact writeRegion_writes n us hu hp hl hd hn
  · rintro rfl hf
    exact readRegion_failed n us hu hp hl hf acc
  · rintro rfl hf
    refine (readRegion_cons n us hu hp hl hf acc).trans ?_
    cases j <;> rfl

end Sys2Proof.Machine
end

section
/-! SUPPORT. Window writes (R152, R155, R160, R388). -/

namespace Sys2Proof.Machine

/-! ### A window write at its queue -/

/-- What the home of the queue answers to a window write. -/
def State.windowHome (s : State) (conn rkey cmp ctx : Nat) (block : DWord) (data : List Byte) (t : Trans) : QRes :=
  s.tick1.qserve t.key s.nextId (partEnqueue (.window conn rkey) cmp ctx block data) (s.qempty t.key true)

section Write
variable {s : State} (conn rkey : Nat) {cmp ctx : Nat} {block : DWord} {data : List Byte}

/-- Log 49: a block that does not translate is no queue. -/
theorem windowWrite_noBlock {e : Fail} (hx : s.xany ⟨cmp, ctx, 4096, 0⟩ block .write = .error e)
    (he : e.cause ≠ heldCause) : s.windowWrite conn rkey cmp ctx block data =
      some (s.windowDiscard cmp block conn rkey data.length) := by
  simp [State.windowWrite, hx, he]

variable {t : Trans} (hx : s.xany ⟨cmp, ctx, 4096, 0⟩ block .write = .ok t) (hp : s.planeHeld t.key = false)
  (hl : s.leafHeld t true = false)
include hx hp hl

/-- R160: an element of another length is discarded. -/
theorem windowWrite_wrongLength (hn : data.length ≠ (s.qblk t.key).size) :
    s.windowWrite conn rkey cmp ctx block data = some (s.windowDiscard cmp block conn rkey data.length) := by
  simp [State.windowWrite, hx, hp, hl, hn]

variable (hn : data.length = (s.qblk t.key).size) (hi : s.homeIdle t.key = true)
include hn hi

theorem windowWrite_refused {c : Fail} {v : DWord} {u : State}
    (h : s.windowHome conn rkey cmp ctx block data t = .refuse c v u) :
    s.windowWrite conn rkey cmp ctx block data = some (u.windowDiscard cmp block conn rkey data.length) := by
  rw [State.windowHome] at h
  simp [State.windowWrite, hx, hp, hl, hn, hi, h]

theorem windowWrite_waits (h : s.windowHome conn rkey cmp ctx block data t = .wait) :
    s.windowWrite conn rkey cmp ctx block data = some (((s.tick1.touch t true).qjoin t.key s.nextId
      (partEnqueue (.window conn rkey) cmp ctx block data)).windowWaits conn) := by
  rw [State.windowHome] at h
  simp [State.windowWrite, hx, hp, hl, hn, hi, h]

theorem windowWrite_served {u : State} (h : s.windowHome conn rkey cmp ctx block data t = .served u) :
    s.windowWrite conn rkey cmp ctx block data = some ((u.touch t true).windowWaits conn) := by
  rw [State.windowHome] at h
  simp [State.windowWrite, hx, hp, hl, hn, hi, h]

end Write

/-- R160, R388: the connection of a window write under way waits. -/
theorem find_windowWaits {v : State} {conn : Nat} {c : Conn} (h : v.conns.find conn = some c) :
    (v.windowWaits conn).conns.find conn = some { c with waiting := true } := by
  refine (Table.find_map (fun n c => if n = conn then { c with waiting := true } else c) v.conns conn).trans ?_
  rw [h]
  exact congrArg some (if_pos rfl)

/-! ### Its publication -/

/-- R155: the state with the next element of an enqueue in its slot and the tail past it. -/
def State.published (s : State) (k : Nat) (o : QOp) : State :=
  ((s.wrSlot k (o.slots.headD []) ((o.data.getD (o.data.length - o.counters.length) []).take (s.qblk k).size)).qput k 20 4
    (((s.qblk k).tail + 1) % 2 ^ 32)).qput k 28 4 ((s.qblk k).resv - 1)

@[simp] theorem State.published_hostOut (s : State) (k : Nat) (o : QOp) : (s.published k o).hostOut = s.hostOut :=
  (congrArg State.hostOut (State.wrSlot_frame k _ _ s) :)

@[simp] theorem State.published_conns (s : State) (k : Nat) (o : QOp) : (s.published k o).conns = s.conns :=
  (congrArg State.conns (State.wrSlot_frame k _ _ s) :)

section Publish
variable {s : State} {conn rkey k id : Nat} {o : QOp}

/-- A window write is no warp's: no failed store follows from its slot. -/
theorem slotLost_window (ha : o.agent = .window conn rkey) (q : QBlk) : s.slotLost k o q = s := by
  have hw : s.qwarp o = none := by simp [State.qwarp, ha]
  unfold State.slotLost
  rw [hw]
  split
  · contradiction
  · rfl

/-- R160: the end of a window write is acknowledged. -/
theorem qfinish_window (ha : o.agent = .window conn rkey) (ws : List RegWrite) :
    (s.qfinish k id o ws).hostOut = s.hostOut ++ [.writeDone conn rkey] ∧
      ∀ c, s.conns.find conn = some c → (s.qfinish k id o ws).conns.find conn = some { c with waiting := false } := by
  simp only [State.qfinish, ha, State.windowOver]
  refine ⟨trivial, fun c hc => ?_⟩
  rw [hc]
  exact Table.find_put_self s.conns conn _

/-- R155: the element of a window write in its slot; the operation is over with its last one. -/
theorem queuePublish_eq (ha : o.agent = .window conn rkey) (hq : s.qfirst k true = some (id, o))
    (hh : s.slotHeld o = false) : exec (.queuePublish k id) s = .next (if o.counters.length ≤ 1
      then (s.published k o).qfinish k id o.next []
      else { s.published k o with qops := (s.published k o).qops.put id o.next }) := by
  have hover : o.next.counters = [] ↔ o.counters.length ≤ 1 := List.drop_eq_nil_iff
  change execQueuePublish k id s = _
  simp [execQueuePublish, hq, hh, slotLost_window ha, hover, State.published]

/-- R155, R160: the last element of a window write acknowledges it; one before leaves its connection waiting. -/
theorem queuePublish_window (ha : o.agent = .window conn rkey) (hq : s.qfirst k true = some (id, o))
    (hh : s.slotHeld o = false) : ∃ u, exec (.queuePublish k id) s = .next u ∧
      (o.counters.length ≤ 1 → u.hostOut = s.hostOut ++ [.writeDone conn rkey] ∧
        ∀ c, s.conns.find conn = some c → u.conns.find conn = some { c with waiting := false }) ∧
      (¬ o.counters.length ≤ 1 → u.hostOut = s.hostOut ∧ u.conns = s.conns) := by
  refine ⟨_, queuePublish_eq ha hq hh, fun h => ?_, fun h => ?_⟩
  · simpa [h] using qfinish_window (s := s.published k o) (o := o.next) ha []
  · simp [h]

end Publish

theorem windows : Claims.windows := by
  intro s conn rkey cmp ctx block data
  refine ⟨fun e hx he => windowWrite_noBlock conn rkey hx he, fun t hx hp hl => ⟨fun hn => ?_, fun hn hi => ⟨?_, ?_, ?_⟩, ?_⟩⟩
  · exact windowWrite_wrongLength conn rkey hx hp hl hn
  · exact fun c v u h => windowWrite_refused conn rkey hx hp hl hn hi h
  · exact fun h => ⟨_, windowWrite_waits conn rkey hx hp hl hn hi h, rfl, fun c hc => find_windowWaits hc⟩
  · exact fun u h => ⟨_, windowWrite_served conn rkey hx hp hl hn hi h, rfl, fun c hc => find_windowWaits hc⟩
  · exact fun k id o ha _ hq hh => queuePublish_window ha hq hh

end Sys2Proof.Machine
end

section
/-! SUPPORT. Requests of other modules (R152, R162 to R164, R271, R395, R397). -/

namespace Sys2Proof.Machine

/-! ### What is kept and answered (R397) -/

/-- The result that is kept of a request. -/
def State.kept (s : State) (src ident : Nat) : Option (Nat × Nat × Option (List Byte)) :=
  s.remoteLog.find? fun e => e.1 == src && e.2.1 == ident

/-- R397: an answer is kept. -/
theorem kept_answerModule (s : State) (src ident : Nat) (d : Option (List Byte)) :
    (s.answerModule src ident d).kept src ident = some (src, ident, d) := by
  simp [State.kept, State.answerModule, State.keepResult]

theorem exec_remoteRequest (r : RemoteReq) (s : State) : exec (.remoteRequest r) s = execRemoteRequest r s := rfl

section Request
variable {s : State} {r : RemoteReq}

theorem remoteRequest_again {e : Nat × Nat × Option (List Byte)} (h : s.kept r.src r.ident = some e) :
    exec (.remoteRequest r) s = .next (s.send (.remote r.src r.ident e.2.2)) := by
  rw [State.kept] at h
  simp [exec_remoteRequest, execRemoteRequest, h]

theorem remoteRequest_pending (h : s.kept r.src r.ident = none) (hp : s.remotePending r.src r.ident = true) :
    exec (.remoteRequest r) s = .next s := by
  rw [State.kept] at h
  simp [exec_remoteRequest, execRemoteRequest, h, hp]

variable (h : s.kept r.src r.ident = none) (hp : s.remotePending r.src r.ident = false)
include h hp

/-- R395: a request for what its source may not reach is refused. -/
theorem remoteRequest_refused (hk : s.remoteKey r = none) :
    exec (.remoteRequest r) s = .next (s.answerModule r.src r.ident none) := by
  rw [State.kept] at h
  simp [exec_remoteRequest, execRemoteRequest, h, hp, hk]

variable {k : Nat} (hk : s.remoteKey r = some k)
include hk

theorem remoteRequest_later (hd : s.remoteDo k r = .later) : exec (.remoteRequest r) s = .next s := by
  rw [State.kept] at h
  simp [exec_remoteRequest, execRemoteRequest, h, hp, hk, hd]

theorem remoteRequest_answers {d : Option (List Byte)} {u : State} (hd : s.remoteDo k r = .answer d u) :
    exec (.remoteRequest r) s = .next (u.answerModule r.src r.ident d) := by
  rw [State.kept] at h
  simp [exec_remoteRequest, execRemoteRequest, h, hp, hk, hd]

theorem remoteRequest_waits {u : State} (hd : s.remoteDo k r = .waits u) : exec (.remoteRequest r) s = .next u := by
  rw [State.kept] at h
  simp [exec_remoteRequest, execRemoteRequest, h, hp, hk, hd]

end Request

/-- R397: a request that is answered is kept with its answer, and asked again it is answered from what is kept. -/
theorem answers_keep {s u : State} {r : RemoteReq} {d : Option (List Byte)}
    (h : exec (.remoteRequest r) s = .next (u.answerModule r.src r.ident d)) :
    ∃ t, exec (.remoteRequest r) s = .next t ∧
      t = { u with remoteLog := t.remoteLog, hostOut := u.hostOut ++ [.remote r.src r.ident d] } ∧
      exec (.remoteRequest r) t = .next (t.send (.remote r.src r.ident d)) :=
  ⟨_, h, rfl, remoteRequest_again (kept_answerModule u r.src r.ident d)⟩

/-! ### What a request does at its home (log 31) -/

/-- A request is answered with `d`, and of the state it changes `n` bytes of memory from `k`, to the values of `f`. -/
def Writes (s : State) (k : Nat) (r : RemoteReq) (d : List Byte) (n : Nat) (f : Nat → Byte) : Prop :=
  ∃ u, s.remoteDo k r = .answer (some d) u ∧
    u = { s with mem := u.mem, stale := u.stale, failed := u.failed } ∧
    ∀ a, u.byte a = if k ≤ a ∧ a < k + n then f (a - k) else s.byte a

section Home
variable {s : State} {k : Nat} {r : RemoteReq}

theorem remoteDo_write {l : List Byte} (h : r.op = .write l) : Writes s k r [] l.length fun i => l.getD i 0 :=
  ⟨s.wrBytes k l, by simp [State.remoteDo, h], s.wrBytes_frame k l, s.byte_wrBytes k l⟩

theorem remoteDo_read {n : Nat} (h : r.op = .read n) (hf : s.runFailed k n = false) :
    s.remoteDo k r = .answer (some (s.bytes k n)) s := by
  simp [State.remoteDo, h, hf]

theorem remoteDo_readLine (h : r.op = .readLine) (hf : s.lineFailed k = false) :
    s.remoteDo k r = .answer (some (s.bytes k 128 ++ (List.range 8).map (s.sideByte k))) s := by
  simp [State.remoteDo, h, hf]

/-- R271: an atomic answers with the old value. -/
theorem remoteDo_atomic {sub n : Nat} {v : DWord} (h : r.op = .atomic sub n v) (hf : s.runFailed k n = false) :
    Writes s k r (bytesOfNat n (s.num k n)) n fun i =>
      (bytesOfNat n (atomGroup sub n (s.num k n) none [(0, v.toNat % 2 ^ (8 * n))]).2).getD i 0 :=
  ⟨s.wrNum k n _, by simp [State.remoteDo, h, hf], s.wrBytes_frame k _, s.byte_wrNum k n _⟩

theorem remoteDo_cas_equal {n : Nat} {e x : DWord} (h : r.op = .cas n e x) (hf : s.runFailed k n = false)
    (he : s.num k n = e.toNat % 2 ^ (8 * n)) :
    Writes s k r (bytesOfNat n (s.num k n)) n fun i => (bytesOfNat n (x.toNat % 2 ^ (8 * n))).getD i 0 :=
  ⟨s.wrNum k n _, by simp [State.remoteDo, h, hf, he], s.wrBytes_frame k _, s.byte_wrNum k n _⟩

theorem remoteDo_cas_other {n : Nat} {e x : DWord} (h : r.op = .cas n e x) (hf : s.runFailed k n = false)
    (he : s.num k n ≠ e.toNat % 2 ^ (8 * n)) : s.remoteDo k r = .answer (some (bytesOfNat n (s.num k n))) s := by
  simp [State.remoteDo, h, hf, he]

/-- R385: a line written whole, payload and sideband, is failed no more. -/
theorem remoteDo_writeLine {p l : List Byte} (h : r.op = .writeLine p l) :
    ∃ u, s.remoteDo k r = .answer (some []) u ∧ u.lineFailed k = false ∧
      (∀ a, u.byte a = if k ≤ a ∧ a < k + p.length then p.getD (a - k) 0 else s.byte a) ∧
      ∀ i < l.length, u.sideByte k i = l.getD i 0 := by
  refine ⟨((s.wrBytes k p).wrSide k (numbered 0 l)).clearFailed k, by simp [State.remoteDo, h, numbered], ?_,
    s.byte_wrBytes k p, fun i hi => State.sideByte_wrSide (s.wrBytes k p) k l hi⟩
  have hmask := Store.get_set (d := (0 : BitVec 136)) ((s.wrBytes k p).wrSide k (numbered 0 l)).failed
    (k / 128) 0 (k / 128)
  rw [if_pos rfl] at hmask
  exact bne_eq_false_iff_eq.2 hmask

theorem remoteDo_arrive {c : Nat} (h : r.op = .arrive c) : s.remoteDo k r = s.remoteBar k (.arrive c) := by
  simp [State.remoteDo, h]

end Home

theorem remote : Claims.remote := by
  intro s r kept answers
  refine ⟨fun e h => remoteRequest_again h, remoteRequest_pending, fun h hp => ⟨fun hk => ?_, fun k hk => ⟨?_, ?_, ?_⟩⟩,
    fun k => ⟨fun l h => remoteDo_write h, ⟨?_, ?_, ?_, ?_⟩, ?_, fun c h => ⟨fun b u hb => ?_, fun u hb => ?_⟩⟩⟩
  · exact answers_keep (remoteRequest_refused h hp hk)
  · exact remoteRequest_later h hp hk
  · exact fun d u hd => answers_keep (remoteRequest_answers h hp hk hd)
  · exact fun u hd => remoteRequest_waits h hp hk hd
  · exact fun n h hf => remoteDo_read h hf
  · exact fun h hf => remoteDo_readLine h hf
  · exact fun sub n v h hf => remoteDo_atomic h hf
  · exact fun n e x h hf => ⟨remoteDo_cas_equal h hf, remoteDo_cas_other h hf⟩
  · exact fun p l h => remoteDo_writeLine h
  · rw [remoteDo_arrive h, State.remoteBar, hb]
  · rw [remoteDo_arrive h, State.remoteBar, hb]

/-- Settles O54: posted operations are performed in order, regions unit by unit, window writes at their queue, and requests
of other modules once. -/
theorem outsideRequests : Obligations.OutsideRequests := ⟨posting, regions, windows, remote⟩

end Sys2Proof.Machine
end

section
/-! SUPPORT. What the shared operations on blocks, warps and loose bytes leave: R34, R134, R137. -/

namespace Sys2Proof.Machine

/-! ### Blocks and warps of a state -/

theorem State.mapBlock_of {s : State} {id : Nat} {b : Block} (h : s.blocks.find id = some b) (f : Block → Block) :
    s.mapBlock id f = { s with blocks := s.blocks.put id (f b) } := by
  simp [State.mapBlock, h]

theorem State.mapWarp_of {s : State} {id : Nat} {w : Warp} (h : s.warp id = some w) (f : Warp → Warp) :
    s.mapWarp id f = s.putWarp id (f w) := by
  have h : s.warps.find id = some w := h
  simp [State.mapWarp, h]

theorem State.block_of {s : State} {id : Nat} {w : Warp} (h : s.warp id = some w) (why : Wait) :
    s.block id why = s.putWarp id { w with wait := some why } := State.mapWarp_of h _

/-- A warp made ready: of the state, only that warp has changed. -/
theorem State.readied_with {s : State} {w : Warp} (h : s.warp s.cur = some w) : ∃ ws : Table Warp,
    s.readied w = { s with warps := ws } ∧ ws.find s.cur = some w.woken ∧ ∀ j, j ≠ s.cur → ws.find j = s.warp j :=
  ⟨_, s.readied_eq w, State.readied_warp h, fun _ hj => State.readied_other hj⟩

@[simp] theorem State.readied_blocks (s : State) (w : Warp) : (s.readied w).blocks = s.blocks := by
  rw [s.readied_eq w]

@[simp] theorem State.mrqBusy_readied (s : State) (w : Warp) :
    (s.readied w).mrqBusy s.cur w.woken = s.mrqBusy s.cur w := by
  rw [s.readied_eq w]
  rfl

/-! ### Loose bytes going home (R134, R398) -/

/-- Bytes that go home one by one leave all but payload bytes, their stale copies and failures. -/
theorem State.foldl_wrBytes_frame {β : Type} (key : β → Nat) (val : β → List Byte) (l : List β) (s : State) :
    l.foldl (fun s p => s.wrBytes (key p) (val p)) s = { s with
      mem := (l.foldl (fun s p => s.wrBytes (key p) (val p)) s).mem
      stale := (l.foldl (fun s p => s.wrBytes (key p) (val p)) s).stale
      failed := (l.foldl (fun s p => s.wrBytes (key p) (val p)) s).failed } := by
  induction l generalizing s with
  | nil => rfl
  | cons p r ih => rw [List.foldl_cons, ih, s.wrBytes_frame (key p) (val p)]

theorem State.writeBack_frame (s : State) (who : Nat → Bool) (lo hi : Nat) : s.writeBack who lo hi = { s with
    mem := (s.writeBack who lo hi).mem, stale := (s.writeBack who lo hi).stale
    failed := (s.writeBack who lo hi).failed, l1 := (s.writeBack who lo hi).l1 } := by
  unfold State.writeBack
  dsimp only
  rw [State.foldl_wrBytes_frame LooseByte.key fun p => [p.val]]

/-- R134: loose bytes that can all go home leave all but memory and the L1s. -/
theorem State.sendHome_frame {s : State} {who : Nat → Bool} {lo hi : Nat}
    (h : (s.loose who lo hi).filter s.looseCut = []) : s.sendHome who lo hi = { s with
      mem := (s.sendHome who lo hi).mem, stale := (s.sendHome who lo hi).stale
      failed := (s.sendHome who lo hi).failed, l1 := (s.sendHome who lo hi).l1 } := by
  unfold State.sendHome State.dropLoose
  dsimp only
  rw [h]
  rw [firstOfLine, List.foldl_nil, s.writeBack_frame who lo hi]

theorem State.sendOwn_frame {s : State} {w : Warp} (h : (s.loose (ofWarp w) 0 (2 ^ 96)).filter s.looseCut = []) :
    s.sendOwn w = { s with mem := (s.sendOwn w).mem, stale := (s.sendOwn w).stale
                           failed := (s.sendOwn w).failed, l1 := (s.sendOwn w).l1 } := State.sendHome_frame h

/-- R137: a release at block scope that nothing holds up or fails. -/
theorem State.retire_block {s : State} {w : Warp} (h : MayRelease s w 2) (id : Nat) :
    s.retire id w 2 = .retires (s.sendOwn w) (((s.sendOwn w).warp id).getD w) := by
  obtain ⟨hb, -, -⟩ := h (le_refl 2)
  simp [State.retire, hb]

theorem State.released_block (s : State) (w : Warp) : s.released w 2 = s.sendOwn w := rfl

theorem mayRelease_readied {s : State} {w : Warp} {n : Nat} (h : MayRelease s w n) : MayRelease (s.readied w) w.woken n := by
  rw [s.readied_eq w]
  exact h

end Sys2Proof.Machine
end

section
/-! SUPPORT. Work identifiers and block-uniform registers (R20, R43, R44, R213, R257 to R259, Table 2.2). -/

namespace Sys2Proof.Machine

/-! ### Work identifiers -/

@[simp] theorem State.hdrOf_readied (s : State) (w : Warp) : (s.readied w).hdrOf w.woken = s.hdrOf w := by
  rw [s.readied_eq w]
  rfl

theorem lowWord_ofNat (n : Nat) : (BitVec.ofNat 64 n).extractLsb' 0 32 = BitVec.ofNat 32 n := by
  apply BitVec.eq_of_toNat_eq
  simp only [BitVec.extractLsb'_toNat, BitVec.toNat_ofNat, Nat.shiftRight_zero]
  omega

/-- R20, R258: wfield of a work identifier under a launch header is an ALU instruction. -/
theorem wfield_alu {f : FmtI} {s : State} {w : Warp} {h : LaunchHdr} (hh : s.hdrOf w = some h)
    (hi : Issues s w ((if f.u then .k f.a.toNat else .srcPair f.a) :: refD f.u f.nw f.d)) :
    exec (.wfield f) s = s.alu (.wfield f) [if f.u then .k f.a.toNat else .srcPair f.a] f.u f.nw f.d none
      (fun w p => (h.field (f.imm.toNat % 8) (w.srcPair f.a.toNat p)).extractLsb' 0 32)
      fun w => h.field (f.imm.toNat % 8) (w.kr f.a.toNat) := by
  refine issue_congr (refs := fun _ => (if f.u then .k f.a.toNat else .srcPair f.a) :: refD f.u f.nw f.d) hi ?_
  dsimp only
  rw [State.hdrOf_readied, hh]

/-- R258: wfield.ext under a launch header is an ALU instruction. -/
theorem wfieldExt_alu {f : FmtI} {s : State} {w : Warp} {h : LaunchHdr} (hh : s.hdrOf w = some h)
    (hi : Issues s w (refD f.u f.nw f.d)) :
    exec (.wfieldExt f) s = s.alu (.wfieldExt f) [] f.u f.nw f.d none
      (fun _ _ => BitVec.ofNat 32 (h.extents.getD (f.imm.toNat % 8) 1))
      fun _ => BitVec.ofNat 64 (h.extents.getD (f.imm.toNat % 8) 1) := by
  refine issue_congr (refs := fun _ => refD f.u f.nw f.d) hi ?_
  dsimp only
  rw [State.hdrOf_readied, hh, lowWord_ofNat]

/-- Settles O13: each of the three is an ALU instruction, whose result `alu_next` and `aluPair_next` give. -/
theorem workIdentifierReads : Obligations.WorkIdentifierReads := by
  intro f s w
  refine ⟨fun hi => aluPair_next hi, fun h hh => ⟨fun hi => ?_, fun hi => ?_⟩⟩
  · rw [wfield_alu hh hi]
    exact alu_next hi
  · rw [wfieldExt_alu hh hi]
    exact alu_next hi

/-! ### Block-uniform registers -/

section Gop
variable {s : State} {w : Warp} {b : Block} {i : Instr} {gd : Guard} {g : Nat} {refs : List Ref}
  {eff : State → Warp → Block → Res}

/-- R213: a `gop` that no position executes has no effect. -/
theorem gop_idle (hi : Issues s w refs) (hg : g ≤ 31) (ho : w.once (some gd) = false) :
    ∃ t, s.gop i gd g refs eff = .next t ∧ Retires s s t { w with wait := none } := by
  have ho : w.woken.once (some gd) = false := ho
  refine ⟨_, issue_next (refs := fun _ => refs) hi, ?_⟩
  rw [if_neg (by omega), if_pos (by simpa using ho)]
  exact retires_readied hi.warp

/-- R259: a `gop` that executes acts once, on the block of its warp. -/
theorem gop_acts (hi : Issues s w refs) (hg : g ≤ 31) (ho : w.once (some gd) = true) (hb : s.blocks.find w.block = some b) :
    s.gop i gd g refs eff = .next (State.finish s.cur (eff (s.readied w) w.woken b)) := by
  have ho : w.woken.once (some gd) = true := ho
  have hb : (s.readied w).blocks.find w.woken.block = some b := by rwa [State.readied_blocks]
  refine (issue_next (refs := fun _ => refs) hi).trans ?_
  rw [if_neg (by omega), if_neg (by simp [ho]), hb]

end Gop

/-- An instruction whose effect is on the blocks, and what else `u` says, retires. -/
theorem retires_blocks {s u : State} {w1 : Warp} {ws : Table Warp} (blocks : Table Block) (hs : ws.find s.cur = some w1)
    (ho : ∀ j, j ≠ s.cur → ws.find j = s.warp j) (hc : u.clock = s.clock) :
    let t := ({ u with blocks := blocks, warps := ws } : State).advance s.cur
    Retires s { u with blocks := t.blocks } t w1 ∧ t.blocks = blocks := by
  intro t
  have hr : Retires s { u with blocks := blocks } t w1 := retires_advance rfl hs ho hc
  have hb : t.blocks = blocks := congrArg State.blocks hr.rest
  exact ⟨hb ▸ hr, hb⟩

/-- An instruction that sends a result, which lands later, retires (R75, R77). -/
theorem retires_sendLoad {s : State} {w : Warp} {ws : Table Warp} (ho : ∀ j, j ≠ s.cur → ws.find j = s.warp j)
    (dc : Option Nat) (writes : List RegWrite) (bad : List (Nat × Nat × DWord)) (rep : Option Replay) (far : Bool) :
    let t := (({ s with warps := ws } : State).sendLoad s.cur w dc writes bad rep far).advance s.cur
    Retires s { s with loads := t.loads, nextId := s.nextId + 1 } t
      (match dc with | some n => (w.pend writes).incD n | none => w.pend writes) ∧
      t.loads.find s.nextId = some ⟨s.cur, w.slotNo, s.gen w.slotNo, dc, writes, bad, rep, far⟩ := by
  intro t
  have hr : Retires s { s with
      loads := s.loads.put s.nextId ⟨s.cur, w.slotNo, s.gen w.slotNo, dc, writes, bad, rep, far⟩
      nextId := s.nextId + 1 } t _ :=
    retires_advance rfl (Table.find_put_self _ _ _) (fun j hj => (Table.find_put _ _ _ j).trans (by rw [if_neg hj, ho j hj])) rfl
  have hl := congrArg State.loads hr.rest
  exact ⟨hl ▸ hr, by rw [hl]; exact Table.find_put_self _ _ _⟩

section Registers
variable {f : FmtA} {x : XT} {s : State} {w : Warp} {b : Block}
variable (ho : w.once (some x.g) = true) (hb : s.blocks.find w.block = some b)
include ho hb

/-- R75, R259: gget sends a copy, which lands later. -/
theorem gget_next (hg : f.a.toNat ≤ 31) (hi : Issues s w [.kDst f.d.toNat]) (hr : s.recordRoom s.cur 40 = true) :
    ∃ t w1, exec (.gget f x) s = .next t ∧ Retires s { s with loads := t.loads, nextId := s.nextId + 1 } t w1 ∧
      w1 = { w with wait := none, pendK := w.pendK ||| (1#128 <<< f.d.toNat) } ∧
      ∃ l, t.loads.find s.nextId = some l ∧ l.warp = s.cur ∧ l.dc = none ∧ l.bad = [] ∧ l.writes = [.k f.d.toNat
        (if b.gowner.find f.a.toNat = some s.cur then Store.get 0 b.gown f.a.toNat else Store.get 0 b.gpub f.a.toNat)] := by
  obtain ⟨ws, hw, hself, hother⟩ := State.readied_with hi.warp
  have hroom : ¬ (!({ s with warps := ws } : State).recordRoom s.cur 40) = true := by
    change ¬ (!s.recordRoom s.cur 40) = true
    simp [hr]
  have hpend (v : DWord) : w.woken.pend [.k f.d.toNat v] =
      { w with wait := none, pendK := w.pendK ||| (1#128 <<< f.d.toNat) } := by
    simp [Warp.pend, RegWrite.regs, Warp.woken]
  refine ⟨_, { w with wait := none, pendK := w.pendK ||| (1#128 <<< f.d.toNat) }, gop_acts hi hg ho hb, ?_⟩
  rw [hw, if_neg hroom]
  have h (v : DWord) (rep : Option Replay) := retires_sendLoad (w := w.woken) hother none [.k f.d.toNat v] [] rep false
  simp only [hpend] at h
  exact ⟨(h _ _).1, rfl, _, (h _ _).2, rfl, rfl, rfl, by simp only [beq_iff_eq]⟩

/-- R259: gput by the owner. -/
theorem gput_owner (hg : f.d.toNat ≤ 31) (hi : Issues s w [.k f.a.toNat]) (hown : b.gowner.find f.d.toNat = some s.cur) :
    ∃ t, exec (.gput f x) s = .next t ∧ Retires s { s with blocks := t.blocks } t { w with wait := none } ∧
      t.blocks = s.blocks.put w.block { b with gown := Store.set 0 b.gown f.d.toNat (w.kr f.a.toNat) } := by
  obtain ⟨ws, hw, hself, hother⟩ := State.readied_with hi.warp
  refine ⟨_, gop_acts hi hg ho hb, ?_⟩
  rw [hw, if_pos (by simpa using hown), State.mapBlock_of (s := { s with warps := ws }) (id := w.woken.block) hb]
  exact retires_blocks (u := s) _ hself hother rfl

/-- R43: gput by any other warp. -/
theorem gput_other (hg : f.d.toNat ≤ 31) (hi : Issues s w [.k f.a.toNat]) (hown : b.gowner.find f.d.toNat ≠ some s.cur) :
    exec (.gput f x) s = .next ((s.readied w).takeTrap s.cur (Trap.of 0x0A (BitVec.ofNat 64 f.d.toNat))) := by
  refine (gop_acts hi hg ho hb).trans ?_
  rw [if_neg (by simpa using hown)]
  rfl

/-- R43, R44: gclaim of a register that nobody owns or waits for. -/
theorem gclaim_free (hg : f.d.toNat ≤ 31) (hi : Issues s w []) (hown : b.gowner.find f.d.toNat = none)
    (hq : ∀ p ∈ b.claims, p.1 ≠ f.d.toNat) : ∃ t, exec (.gclaim f x) s = .next t ∧
      Retires s { s with blocks := t.blocks, fresh := s.fresh + 1 } t { w with wait := none } ∧
      ∃ copy, t.blocks = s.blocks.put w.block
        { b with gowner := b.gowner.put f.d.toNat s.cur, gown := Store.set 0 b.gown f.d.toNat copy } := by
  obtain ⟨ws, hw, hself, hother⟩ := State.readied_with hi.warp
  refine ⟨_, gop_acts hi hg ho hb, ?_⟩
  rw [hw, if_neg (by simp [hown]), if_pos (by simpa [hown] using hq), State.claimG,
    State.mapBlock_of (s := { s with warps := ws }) (id := w.woken.block) hb]
  obtain ⟨hr, he⟩ := retires_blocks (u := { s with fresh := s.fresh + 1 }) _ hself hother rfl
  exact ⟨hr, _, he⟩

/-- R43: gclaim by the owner. -/
theorem gclaim_owner (hg : f.d.toNat ≤ 31) (hi : Issues s w []) (hown : b.gowner.find f.d.toNat = some s.cur) :
    ∃ t, exec (.gclaim f x) s = .next t ∧ Retires s s t { w with wait := none } := by
  refine ⟨_, gop_acts hi hg ho hb, ?_⟩
  rw [State.readied_cur, if_pos (by simpa using hown)]
  exact retires_readied hi.warp

/-- R44: gclaim of a register that is owned or waited for takes its turn. -/
theorem gclaim_waits (hg : f.d.toNat ≤ 31) (hi : Issues s w []) (hown : b.gowner.find f.d.toNat ≠ some s.cur)
    (hq : b.gowner.find f.d.toNat ≠ none ∨ ∃ p ∈ b.claims, p.1 = f.d.toNat) :
    ∃ t, exec (.gclaim f x) s = .next t ∧
      t = { s with blocks := s.blocks.put w.block { b with claims := b.claims ++ [(f.d.toNat, s.cur)] }, warps := t.warps } ∧
      t.warp s.cur = some { w with wait := some .gclaim } ∧ ∀ j, j ≠ s.cur → t.warp j = s.warp j := by
  obtain ⟨ws, hw, hself, hother⟩ := State.readied_with hi.warp
  have hq : ((b.gowner.find f.d.toNat).isNone && !(b.claims.any fun p => p.1 == f.d.toNat)) = false := by
    rcases hq with hq | ⟨p, hp, hpg⟩
    · simp [hq]
    · have : (b.claims.any fun p => p.1 == f.d.toNat) = true := List.any_eq_true.2 ⟨p, hp, by simp [hpg]⟩
      simp [this]
  refine ⟨_, gop_acts hi hg ho hb, ?_⟩
  rw [hw, if_neg (by simpa using hown), hq, if_neg (by decide),
    State.mapBlock_of (s := { s with warps := ws }) (id := w.woken.block) hb]
  change State.block _ s.cur .gclaim = _ ∧ State.warp (State.block _ s.cur .gclaim) _ = _ ∧ _
  rw [State.block_of (s := { s with blocks := _, warps := ws }) hself]
  exact ⟨rfl, State.warp_putWarp_self _ _ _, fun j hj => (State.warp_putWarp_other _ _ _ hj).trans (hother j hj)⟩

/-- R43, R137: grel by the owner, once its bytes may go home. -/
theorem grel_owner (hg : f.d.toNat ≤ 31) (hi : Issues s w []) (hown : b.gowner.find f.d.toNat = some s.cur)
    (hm : s.mrqBusy s.cur w = false) (hrel : MayRelease s w 2) : ∃ t, exec (.grel f x) s = .next t ∧
      Retires s { (s.readied w).released w 2 with blocks := t.blocks } t { w with wait := none } ∧
      t.blocks = s.blocks.put w.block { b with
        gpub := Store.set 0 b.gpub f.d.toNat (Store.get 0 b.gown f.d.toNat), gowner := b.gowner.erase f.d.toNat } := by
  obtain ⟨ws, hw, hself, hother⟩ := State.readied_with hi.warp
  have hrel := mayRelease_readied hrel
  have hf := State.sendOwn_frame (hrel (le_refl 2)).2.1
  refine ⟨_, gop_acts hi hg ho hb, ?_⟩
  rw [State.readied_cur, if_pos (by simpa using hown), State.mrqBusy_readied, hm, if_neg (by decide),
    State.retire_block hrel]
  change Retires s { (s.readied w).sendOwn w.woken with blocks := _ } _ _ ∧ _
  generalize (s.readied w).sendOwn w.woken = u at hf ⊢
  rw [hw] at hf
  have hblocks : u.blocks = s.blocks := (congrArg State.blocks hf :)
  obtain rfl : u.warps = ws := (congrArg State.warps hf :)
  change let t := (u.mapBlock w.woken.block fun b => b.leaveG f.d.toNat true).advance s.cur
    Retires s { u with blocks := t.blocks } t { w with wait := none } ∧ t.blocks = _
  rw [State.mapBlock_of (hblocks ▸ hb), hblocks]
  exact retires_blocks (s := s) (u := u) _ hself hother (congrArg State.clock hf :)

/-- R43: grel by any other warp. -/
theorem grel_other (hg : f.d.toNat ≤ 31) (hi : Issues s w []) (hown : b.gowner.find f.d.toNat ≠ some s.cur) :
    exec (.grel f x) s = .next ((s.readied w).takeTrap s.cur (Trap.of 0x0A (BitVec.ofNat 64 f.d.toNat))) := by
  refine (gop_acts hi hg ho hb).trans ?_
  rw [State.readied_cur, if_neg (by simpa using hown)]
  rfl

end Registers

/-- Settles O14: a `gop` that does not execute only retires, and one that does has the effect on its block that `gop_acts`
gives, by who owns the register. -/
theorem blockUniformRegisters : Obligations.BlockUniformRegisters := by
  intro f x s w b hb d a idle
  refine ⟨fun ho => ⟨fun hg hi => gop_idle hi hg ho, fun hg hi => gop_idle hi hg ho, fun hg hi => gop_idle hi hg ho,
    fun hg hi => gop_idle hi hg ho⟩, fun ho => ⟨fun hg hi hr => gget_next ho hb hg hi hr, fun hg hi => ⟨?_, ?_⟩,
    fun hg hi => ⟨?_, ?_, ?_, ?_, ?_⟩⟩⟩
  · exact gput_owner ho hb hg hi
  · exact gput_other ho hb hg hi
  · exact gclaim_free ho hb hg hi
  · exact gclaim_owner ho hb hg hi
  · exact gclaim_waits ho hb hg hi
  · exact grel_owner ho hb hg hi
  · exact grel_other ho hb hg hi

end Sys2Proof.Machine
end

section
/-! SUPPORT. The issue of a chase (R34, R194, R195, R198, R273, R376). -/

namespace Sys2Proof.Machine

/-- R77, R300, R363: a MEM instruction that issues has its effect. -/
theorem memOp_next {s : State} {w : Warp} {i : Instr} {dc : Nat} {refs : Warp → List Ref} {eff : State → Warp → Res}
    (h : IssuesMem s w dc (refs w)) :
    s.memOp i dc refs eff = .next (State.finish s.cur (eff (s.readied w) w.woken)) := by
  refine (issue_next h.toIssues).trans ?_
  have hroom : ¬ 62 < w.woken.dn dc := Nat.not_lt.2 h.room
  rw [State.readied_cur, h.admitted, h.quiet, if_neg (by simpa using hroom)]

section Chase
variable {f : FmtM} {x : XH} {s : State} {w : Warp}

/-- R273: the step words of a chase. -/
def chaseSteps (f : FmtM) (x : XH) (w : Warp) : List DWord :=
  (List.range (f.sub.toNat % 8 + 1)).map fun i => w.kr (x.ks.toNat + i)

/-- R273: the references of a chase. -/
def chaseRefs (f : FmtM) (x : XH) : List Ref :=
  [.srcPair f.addr, .dstPair f.data, .kGroup x.ks.toNat (f.sub.toNat % 8 + 1)]

/-- R195: whether the step words of a chase are well-formed. -/
def StepsOk (f : FmtM) (x : XH) (w : Warp) : Prop := ∀ d ∈ chaseSteps f x w, d.extractLsb' 44 20 = 0

variable (h : IssuesMem s w f.dc.toNat (chaseRefs f x))
include h

theorem chase_illegal (hs : ∃ d ∈ chaseSteps f x w, d.extractLsb' 44 20 ≠ 0) : exec (.chase f x) s =
    .next ((s.readied w).takeTrap s.cur (Trap.of 0x02 (firstWord (.chase f x)))) := by
  have hs : ((chaseSteps f x w).any fun d => decide (d.extractLsb' 44 20 ≠ 0)) = true := by simpa using hs
  exact (memOp_next (refs := fun _ => chaseRefs f x) h).trans
    (congrArg (fun r => Host.Outcome.next (State.finish s.cur r)) (if_pos hs))

variable (hs : StepsOk f x w)
include hs

/-- What a chase with well-formed steps does. -/
theorem chase_next : exec (.chase f x) s = .next (State.finish s.cur
    (if positions (w.exec (some x.g)) = [] then .done (s.readied w)
    else if !s.recordRoom s.cur (chaseRecord (positions (w.exec (some x.g))).length) then .stay (s.readied w)
    else .done ((s.readied w).sendChase s.cur w.woken (.chase f x) f (chaseSteps f x w) (positions (w.exec (some x.g)))))) := by
  have hs : ¬ ((chaseSteps f x w).any fun d => decide (d.extractLsb' 44 20 ≠ 0)) = true := by simpa [StepsOk] using hs
  have hr : s.recordRoom s.cur = (s.readied w).recordRoom s.cur := by rw [s.readied_eq w]; rfl
  refine (memOp_next (refs := fun _ => chaseRefs f x) h).trans ?_
  rw [hr, State.readied_cur]
  exact congrArg (fun r => Host.Outcome.next (State.finish s.cur r)) (if_neg hs)

/-- A chase that no thread executes. -/
theorem chase_idle (hl : positions (w.exec (some x.g)) = []) :
    ∃ t, exec (.chase f x) s = .next t ∧ Retires s s t { w with wait := none } := by
  refine ⟨_, chase_next h hs, ?_⟩
  rw [if_pos hl]
  exact retires_readied h.warp

/-- R376: a chase whose record has no room. -/
theorem chase_noRoom (hl : positions (w.exec (some x.g)) ≠ [])
    (hr : s.recordRoom s.cur (chaseRecord (positions (w.exec (some x.g))).length) = false) :
    exec (.chase f x) s = .next (s.readied w) := by
  refine (chase_next h hs).trans ?_
  rw [if_neg hl, hr]
  rfl

/-- R273: a chase that issues. -/
theorem chase_sends (hl : positions (w.exec (some x.g)) ≠ [])
    (hr : s.recordRoom s.cur (chaseRecord (positions (w.exec (some x.g))).length) = true) :
    exec (.chase f x) s = .next (((s.readied w).sendChase s.cur w.woken (.chase f x) f (chaseSteps f x w)
      (positions (w.exec (some x.g)))).advance s.cur) := by
  refine (chase_next h hs).trans ?_
  rw [if_neg hl, hr]
  rfl

end Chase

/-- R273: the chase that an issue leaves in flight. -/
def sentChase (s : State) (w : Warp) (i : Instr) (f : FmtM) (steps : List DWord) (lanes : List Nat) : Chase :=
  let packets : List Packet := lanes.map fun p =>
    let a := w.srcPair f.addr.toNat p
    ⟨p, a, 0, 0, none, false, if a = 0 then .done 0 else .flying⟩
  { warp := s.cur, pc := w.pc, super := w.super, trapped := false, held := false, slot := w.slotNo, gen := s.gen w.slotNo
    dc := f.dc.toNat, dst := f.data.toNat, steps := steps, cmp := w.cmp, ctx := w.ctx
    root := match s.ctxOf w.cmp w.ctx with | some c => c.ptroot | none => 0
    packets := packets
    rep := replayOf i 4 f.dc.toNat w (maskOfList lanes) ((packets.filter fun p => p.ptr != 0).map fun p => (p.pos, p.ptr)) }

/-- R34, R273: a warp goes on past the chase that it has sent. -/
theorem retires_sendChase {s : State} {w : Warp} (h : s.warp s.cur = some w) (i : Instr) (f : FmtM) (steps : List DWord)
    (lanes : List Nat) :
    let t := ((s.readied w).sendChase s.cur w.woken i f steps lanes).advance s.cur
    Retires s { s with chases := t.chases, nextId := s.nextId + 1 } t
      { (w.pend [.v f.data.toNat [], .v (f.data.toNat + 1) []]).incD f.dc.toNat with wait := none } ∧
      t.chases.find s.nextId = some (sentChase s w i f steps lanes) := by
  obtain ⟨ws, hw, hself, hother⟩ := State.readied_with h
  rw [hw]
  intro t
  have hr : Retires s { s with
      chases := s.chases.put s.nextId (sentChase s w i f steps lanes), nextId := s.nextId + 1 } t
      { (w.pend [.v f.data.toNat [], .v (f.data.toNat + 1) []]).incD f.dc.toNat with wait := none } :=
    retires_advance rfl (Table.find_put_self _ _ _)
      (fun j hj => (Table.find_put _ _ _ j).trans (by rw [if_neg hj, hother j hj])) rfl
  have hl : t.chases = _ := congrArg State.chases hr.rest
  exact ⟨hl ▸ hr, by rw [hl]; exact Table.find_put_self _ _ _⟩

/-- Settles O24: a chase that issues traps for its steps, does nothing without threads, waits for room, or leaves `sentChase`
in flight. -/
theorem chaseIssues : Obligations.ChaseIssues := by
  intro f x s w n d steps lanes h
  refine ⟨chase_illegal h, chase_idle h, chase_noRoom h, fun hs hl hr => ?_⟩
  obtain ⟨ht, hc⟩ := retires_sendChase h.warp (.chase f x) f steps lanes
  refine ⟨_, _, chase_sends h hs hl hr, hc, ht, rfl, rfl, rfl, rfl, rfl, rfl, rfl, rfl, rfl, rfl, rfl, rfl, rfl,
    fun o ho => ?_, rfl⟩
  simp [sentChase, ho]

end Sys2Proof.Machine
end

section
/-! SUPPORT. Control transfers, nop, yield, trap and brk (R46, R207, R209, R306, R307, R313, R314). -/

namespace Sys2Proof.Machine

/-! ### Tables -/

/-- What a table in canonical form lists is what it finds. -/
theorem Table.mem_all {α : Type} [DecidableEq α] {m : Table α} (h : Store.wf none m = true) {n : Nat} {x : α} :
    (n, x) ∈ m.all ↔ m.find n = some x := by
  replace h := (Store.wf_iff.1 h).1
  have hall : (n, x) ∈ m.all ↔ (n, some x) ∈ m := by simp [Table.all]
  rw [hall, Table.find]
  clear hall
  induction m with
  | nil => simp
  | cons p r ih =>
    obtain ⟨k, y⟩ := p
    obtain ⟨hk, hr⟩ := List.pairwise_cons.1 h
    have ih : (n, some x) ∈ r ↔ Store.get none r n = some x := ih hr
    rw [List.mem_cons, Store.get_cons, ih]
    by_cases e : k = n
    · have hnone : Store.get none r n = none := Store.get_eq_default fun p hp => by
        have : k < p.1 := hk p hp
        omega
      simp [e, hnone, eq_comm]
    · simp [e, Ne.symm e]

/-! ### Jumps (R209) -/

/-- R207, R209: a control transfer moves its warp alone, with the header's yield. -/
theorem jumps_jump {s x : State} {w1 : Warp} (hx : x = { s with warps := x.warps }) (hw : x.warp s.cur = some w1)
    (ho : ∀ j, j ≠ s.cur → x.warp j = s.warp j) (pc : DWord) : Claims.jumps s (x.jump s.cur pc) w1 pc := by
  have hclock : x.clock = s.clock := by rw [hx]
  unfold State.jump
  rw [hw]
  dsimp only
  cases hy : w1.hdr.y
  · rw [if_neg (by decide)]
    refine ⟨by rw [hx]; rfl, fun j hj => (State.warp_putWarp_other _ _ _ hj).trans (ho j hj), _,
      State.warp_putWarp_self _ _ _, ?_⟩
    simp [hy, Warp.enter, hclock]
  · rw [if_pos rfl, State.yieldWarp, State.warp_putWarp_self]
    refine ⟨by rw [hx]; rfl, fun j hj => ?_, _, State.warp_putWarp_self _ _ _, ?_⟩
    · exact (State.warp_putWarp_other _ _ _ hj).trans ((State.warp_putWarp_other _ _ _ hj).trans (ho j hj))
    · simp [hy, Warp.enter, hclock]

section Transfer
variable {s r : State} {w w1 : Warp} {i : Instr} {pc : DWord} {m : Mask}

/-- R209: an instruction that transfers control. -/
theorem transfer_goes (hr : r = { s with warps := r.warps }) (hw : r.warp s.cur = some w1)
    (ho : ∀ j, j ≠ s.cur → r.warp j = s.warp j)
    (he : exec i s = .next (State.finish s.cur (r.transferTo pc))) :
    (pc.extractLsb' 0 2 = 0 → ∃ t, exec i s = .next t ∧ Claims.jumps s t w1 pc) ∧
      (pc.extractLsb' 0 2 ≠ 0 → exec i s = .next (r.takeTrap s.cur (Trap.of 0x03 pc))) := by
  have hcur : r.cur = s.cur := by rw [hr]
  rw [State.transferTo] at he
  refine ⟨fun h => ⟨_, he, ?_⟩, fun h => he.trans ?_⟩
  · rw [if_neg (by simpa using h)]
    change Claims.jumps s (r.jump r.cur pc) w1 pc
    rw [hcur]
    exact jumps_jump hr hw ho pc
  · rw [if_pos h]
    rfl

end Transfer

/-- R306: a transfer that every active thread makes, none makes, or some make. -/
def splitRes (i : Instr) (m mask : Mask) (r : State) (eff : Res) : Res :=
  if m = mask then eff else if m = 0 then .done r else .trap (Trap.of 0x09 (firstWord i)) r

section Split
variable {s r1 : State} {w w1 : Warp} {i : Instr} {pc : DWord} {m : Mask}

/-- R46, R306: what an instruction does that transfers control by a mask. -/
theorem transfer_splits (h : s.warp s.cur = some w) (hr : r1 = { s with warps := r1.warps }) (hw : r1.warp s.cur = some w1)
    (ho : ∀ j, j ≠ s.cur → r1.warp j = s.warp j)
    (he : exec i s = .next (State.finish s.cur (splitRes i m w.mask (s.readied w) (r1.transferTo pc)))) :
    (m = w.mask → (pc.extractLsb' 0 2 = 0 → ∃ t, exec i s = .next t ∧ Claims.jumps s t w1 pc) ∧
      (pc.extractLsb' 0 2 ≠ 0 → exec i s = .next (r1.takeTrap s.cur (Trap.of 0x03 pc)))) ∧
    (m ≠ w.mask → m = 0 → ∃ t, exec i s = .next t ∧ Retires s s t { w with wait := none }) ∧
    (m ≠ w.mask → m ≠ 0 → exec i s = .next ((s.readied w).takeTrap s.cur (Trap.of 0x09 (firstWord i)))) := by
  refine ⟨fun hm => transfer_goes hr hw ho ?_, fun hm h0 => ⟨_, he, ?_⟩, fun hm h0 => he.trans ?_⟩
  · rw [he, splitRes, if_pos hm]
  · rw [splitRes, if_neg hm, if_pos h0]
    exact retires_readied h
  · rw [splitRes, if_neg hm, if_neg h0]
    rfl

end Split

section Instructions
variable {f : FmtC} {s : State} {w : Warp}

theorem bra_next (h : Issues s w []) : exec (.bra f) s = .next (State.finish s.cur
    (splitRes (.bra f) (w.taken f) w.mask (s.readied w) ((s.readied w).transferTo (w.target f)))) :=
  issue_next (refs := fun _ => []) h

theorem jmp_next (h : Issues s w []) : exec (.jmp f) s = .next (State.finish s.cur
    (splitRes (.jmp f) (w.exec none) w.mask (s.readied w) ((s.readied w).transferTo (w.target f)))) :=
  issue_next (refs := fun _ => []) h

theorem call_next (h : Issues s w [.kDst 127]) : exec (.call f) s = .next (State.finish s.cur
    (splitRes (.call f) (w.exec none) w.mask (s.readied w)
      (((s.readied w).putWarp s.cur (w.woken.setK 127 w.nextClause)).transferTo (w.target f)))) := by
  refine (issue_next (refs := fun _ => [.kDst 127]) h).trans ?_
  rw [State.readied_cur]
  rfl

theorem ret_next (h : Issues s w [.k (f.off.toNat % 128)]) : exec (.ret f) s = .next (State.finish s.cur
    (splitRes (.ret f) (w.exec none) w.mask (s.readied w) ((s.readied w).transferTo (w.kr (f.off.toNat % 128))))) :=
  issue_next (refs := fun _ => [.k (f.off.toNat % 128)]) h

theorem nop_retires (h : Issues s w []) : ∃ t, exec (.nop f) s = .next t ∧ Retires s s t { w with wait := none } :=
  ⟨_, issue_next (refs := fun _ => []) h, retires_readied h.warp⟩

theorem yield_next (h : Issues s w []) : exec (.yield f) s = .next (State.finish s.cur
    (if w.once none then .moved (((s.readied w).advance s.cur).yieldWarp s.cur) else .done (s.readied w))) := by
  refine (issue_next (refs := fun _ => []) h).trans ?_
  rw [State.readied_cur]
  rfl

theorem trap_next (h : Issues s w []) : exec (.trap f) s = .next (State.finish s.cur
    (if w.once none then .moved (((s.readied w).takeTrap s.cur
      (Trap.of 0x12 (BitVec.ofNat 64 (f.off.toNat % 4096)))).yieldIf s.cur w.hdr.y) else .done (s.readied w))) := by
  refine (issue_next (refs := fun _ => []) h).trans ?_
  rw [State.readied_cur]
  rfl

theorem brk_next (h : Issues s w []) : exec (.brk f) s = .next (State.finish s.cur
    (if w.once none then .trap (Trap.of 0x13 0) (s.readied w) else .done (s.readied w))) :=
  issue_next (refs := fun _ => []) h

/-- R213: an instruction that no position executes only retires. -/
theorem retires_unexecuted {i : Instr} {res : Res} (h : s.warp s.cur = some w) (hm : w.once none = false)
    (he : exec i s = .next (State.finish s.cur (if w.once none then res else .done (s.readied w)))) :
    ∃ t, exec i s = .next t ∧ Retires s s t { w with wait := none } := by
  refine ⟨_, he, ?_⟩
  rw [hm]
  exact retires_readied h

end Instructions

/-! ### Yielding (R207) -/

theorem Warp.mayBeReady_iff (x : Warp) : x.mayBeReady = true ↔ x.swapped = false ∧
    (x.phase = .prologue ∨ x.phase = .running) ∧ ∀ v, x.wait = some v → v.reissues = true := by
  unfold Warp.mayBeReady
  cases x.wait <;> simp [and_assoc]

/-- R207, log 37: the warps to which a warp yields. -/
theorem mem_peersOf {s : State} (hs : Store.wf none s.warps = true) (id : Nat) (w : Warp) (j n : Nat) :
    (j, n) ∈ s.peersOf id w ↔ j ≠ id ∧ ∃ x, s.warp j = some x ∧ x.ix = n ∧ x.quarterNo = w.quarterNo ∧
      x.swapped = false ∧ (x.phase = .prologue ∨ x.phase = .running) ∧ (∀ v, x.wait = some v → v.reissues = true) ∧
      x.held = false ∧ w.rank ≤ x.rank := by
  unfold State.peersOf
  simp only [List.mem_map, List.mem_filter, Prod.exists, Prod.mk.injEq, Table.mem_all hs, Bool.and_eq_true, bne_iff_ne,
    beq_iff_eq, Bool.not_eq_true', decide_eq_true_eq, Warp.mayBeReady_iff]
  constructor
  · rintro ⟨j, x, ⟨hx, ⟨⟨⟨hj, hq⟩, hsw, hph, hwt⟩, hh⟩, hr⟩, rfl, rfl⟩
    exact ⟨hj, x, hx, rfl, hq, hsw, hph, hwt, hh, hr⟩
  · rintro ⟨hj, x, hx, rfl, hq, hsw, hph, hwt, hh, hr⟩
    exact ⟨j, x, ⟨hx, ⟨⟨⟨hj, hq⟩, hsw, hph, hwt⟩, hh⟩, hr⟩, rfl, rfl⟩

theorem State.yieldWarp_of {s : State} {id : Nat} {w : Warp} (h : s.warp id = some w) :
    s.yieldWarp id = s.putWarp id { w with yieldAt := some s.clock, yieldFor := s.peersOf id w } := by
  simp [State.yieldWarp, h]

/-- R207: YIELD_EXPIRY. -/
theorem yieldExpiry_next {s : State} {id n : Nat} {w : Warp} (h : s.warp id = some w) (hy : w.yieldAt = some n) :
    exec (.yieldExpiry id) s = .next (if n + 64 ≤ s.clock ∨ w.yieldFor = [] then
      s.putWarp id { w with yieldAt := none, yieldFor := [] } else s) := by
  change execYieldExpiry id s = _
  simp [execYieldExpiry, h, hy]

/-- Settles O43: each transfer is `splitRes` of its mask; what moves a warp is a jump; the others retire, yield or trap. -/
theorem controlTransfers : Obligations.ControlTransfers := by
  refine ⟨fun f s w => ⟨fun h => ?_, fun h => ?_, fun h => ?_⟩, fun s id w h => ⟨?_, fun hs => mem_peersOf hs id w⟩,
    fun s id n w => yieldExpiry_next⟩
  · have hr := s.readied_eq w
    have hw := State.readied_warp h.warp
    have ho := fun j (hj : j ≠ s.cur) => State.readied_other (w := w) hj
    have hm : w.once none = true ↔ w.exec none ≠ 0 := bne_iff_ne
    refine ⟨transfer_splits h.warp hr hw ho (bra_next h), transfer_splits h.warp hr hw ho (jmp_next h), nop_retires h,
      fun h0 => ?_, fun h0 => ⟨?_, ?_, ?_⟩⟩
    · have h0 : w.once none = false := by simpa [Warp.once] using h0
      simp only [List.forall_mem_cons, List.not_mem_nil, false_implies, implies_true, and_true]
      exact ⟨retires_unexecuted h.warp h0 (yield_next h), retires_unexecuted h.warp h0 (trap_next h),
        retires_unexecuted h.warp h0 (brk_next h)⟩
    · rw [yield_next h, if_pos (hm.2 h0)]
      rfl
    · rw [trap_next h, if_pos (hm.2 h0)]
      rfl
    · rw [brk_next h, if_pos (hm.2 h0)]
      rfl
  · refine transfer_splits h.warp ?_ (State.warp_putWarp_self _ _ _) (fun j hj => ?_) (call_next h)
    · rw [s.readied_eq w]
      rfl
    · exact (State.warp_putWarp_other _ _ _ hj).trans (State.readied_other hj)
  · exact transfer_splits h.warp (s.readied_eq w) (State.readied_warp h.warp) (fun _ hj => State.readied_other hj) (ret_next h)
  · rw [State.yieldWarp_of h, State.warp_putWarp_self]

end Sys2Proof.Machine
end

section
/-! SUPPORT. The decode of a clause (R66, R203 to R208, R346). -/

namespace Sys2Proof.Machine

/-! ### Pages used (R368) -/

/-- An access that sets A, or A and D, leaves all but memory, the L1s and the cached translations. -/
theorem State.touch_frame (s : State) (t : Trans) (wr : Bool) : s.touch t wr = { s with
    mem := (s.touch t wr).mem, stale := (s.touch t wr).stale, failed := (s.touch t wr).failed
    l1 := (s.touch t wr).l1, tlb := (s.touch t wr).tlb } := by
  unfold State.touch
  dsimp only
  split
  · rfl
  · rw [State.wrNum, State.wrBytes_frame, State.writeBack_frame]

theorem State.foldl_touch_frame {β : Type} (f : β → Trans) (wr : Bool) (l : List β) (s : State) :
    ∃ mem stale failed l1 tlb, l.foldl (fun s x => s.touch (f x) wr) s =
      { s with mem := mem, stale := stale, failed := failed, l1 := l1, tlb := tlb } := by
  induction l generalizing s with
  | nil => exact ⟨_, _, _, _, _, rfl⟩
  | cons x r ih =>
    rw [List.foldl_cons, s.touch_frame]
    exact ih _

/-! ### What a decode finds -/

/-- R204: what decoding finds of a header and the words after it, at `l`. -/
def State.decodeWords (s : State) (w : Warp) (p : Trans) (h : Header) (l : List Trans) : Decoded :=
  match misplacedFrom h (l.map s.codeWord) w.ix with
  | some i => .trap (Trap.of 0x03 ((s.codeWord p).zeroExtend 64)) i
  | none => match illegalFrom h (l.map s.codeWord) w.ix with
    | some i => .trap (Trap.of 0x01 ((h.instrWords (l.map s.codeWord) i).1.zeroExtend 64)) i
    | none => .ok h (l.map s.codeWord) (p :: l)

/-- R204, R346: what decoding finds after a header that passes its checks. -/
def State.decodeBody (s : State) (w : Warp) (p : Trans) (h : Header) : Decoded :=
  match s.fetchBody w (w.pc + 4) h.body with
  | .error t => .ofFetch t
  | .ok l => if l.any fun t => s.planeHeld t.key || s.leafHeld t false then .held else s.decodeWords w p h l

section Decode
variable {s : State} {w : Warp}

theorem decodeClause_misaligned (h : w.pc.extractLsb' 0 2 ≠ 0) : s.decodeClause w = .trap (Trap.of 0x03 w.pc) 0 := if_pos h

theorem Decoded.ofFetch_trap {t : Trap} (h : t.cause ≠ heldCause) : Decoded.ofFetch t = .trap t 0 := if_neg h

variable (ha : w.pc.extractLsb' 0 2 = 0)
include ha

theorem decodeClause_unfetched {t : Trap} (hf : s.fetchAt w w.pc = .error t) (ht : t.cause ≠ heldCause) :
    s.decodeClause w = .trap t 0 := by
  simp [State.decodeClause, ha, hf, Decoded.ofFetch_trap ht]

variable {p : Trans} (hf : s.fetchAt w w.pc = .ok p) (hp : s.planeHeld p.key = false) (hl : s.leafHeld p false = false)
include hf hp hl

theorem decodeClause_noHeader (hh : Header.parse (s.codeWord p) = none) :
    s.decodeClause w = .trap (Trap.of 0x03 ((s.codeWord p).zeroExtend 64)) 0 := by
  simp [State.decodeClause, ha, hf, hp, hl, hh]

variable {h : Header} (hh : Header.parse (s.codeWord p) = some h)
include hh

theorem decodeClause_privileged (hc : h.cls = .sys) (hs : w.super = false) :
    s.decodeClause w = .trap (Trap.of 0x04 ((s.codeWord p).zeroExtend 64)) 0 := by
  simp [State.decodeClause, ha, hf, hp, hl, hh, hc, hs]

variable (hc : h.cls = .sys → w.super = true)
include hc

/-- R204: a header that passes its checks. -/
theorem decodeClause_header : s.decodeClause w = s.decodeBody w p h := by
  have hc : ¬ (h.cls = .sys && !w.super) = true := by simpa using hc
  unfold State.decodeClause
  rw [if_neg (not_not.2 ha), hf]
  dsimp only
  rw [hp, hl, if_neg (by decide), hh]
  exact if_neg hc

theorem decodeClause_bodyUnfetched {t : Trap} (hb : s.fetchBody w (w.pc + 4) h.body = .error t) (ht : t.cause ≠ heldCause) :
    s.decodeClause w = .trap t 0 := by
  rw [decodeClause_header ha hf hp hl hh hc, State.decodeBody, hb]
  exact Decoded.ofFetch_trap ht

/-- R346: a clause whose words can all be fetched. -/
theorem decodeClause_words {l : List Trans} (hb : s.fetchBody w (w.pc + 4) h.body = .ok l)
    (hq : ∀ q ∈ l, s.planeHeld q.key = false ∧ s.leafHeld q false = false) : s.decodeClause w = s.decodeWords w p h l := by
  rw [decodeClause_header ha hf hp hl hh hc, State.decodeBody, hb]
  exact if_neg (by simpa using hq)

end Decode

section Words
variable {s : State} {w : Warp} {p : Trans} {h : Header} {l : List Trans}

/-- R208: a control transfer before the last instruction. -/
theorem decodeWords_misplaced {i : Nat} (hm : misplacedFrom h (l.map s.codeWord) w.ix = some i) :
    s.decodeWords w p h l = .trap (Trap.of 0x03 ((s.codeWord p).zeroExtend 64)) i := by
  rw [State.decodeWords, hm]

variable (hm : misplacedFrom h (l.map s.codeWord) w.ix = none)
include hm

/-- R204: an instruction that does not decode. -/
theorem decodeWords_illegal {i : Nat} (hi : illegalFrom h (l.map s.codeWord) w.ix = some i) : s.decodeWords w p h l =
    .trap (Trap.of 0x01 ((h.instrWords (l.map s.codeWord) i).1.zeroExtend 64)) i := by
  rw [State.decodeWords, hm, hi]

/-- R204: a clause that passes every check. -/
theorem decodeWords_ok (hi : illegalFrom h (l.map s.codeWord) w.ix = none) :
    s.decodeWords w p h l = .ok h (l.map s.codeWord) (p :: l) := by
  rw [State.decodeWords, hm, hi]

end Words

/-! ### Arrival at a clause (R66) -/

/-- R66: no thread arrives of a warp that is not formed, or whose block is not paired. -/
theorem arrive_none {s : State} {w : Warp}
    (h : w.formed = false ∨ ∀ b, s.blocks.find w.block = some b → b.paired = false) : s.arrive w = s := by
  unfold State.arrive
  cases hb : s.blocks.find w.block with
  | none => rfl
  | some b => rcases h with h | h <;> simp [h, hb]

/-- R66: the clauses at which threads of a block have arrived, once those of `w` have. -/
def arrivalsWith (b : Block) (w : Warp) : List (Nat × DWord) :=
  b.arrivals ++ ((positions w.mask).map fun t => (w.recSlot b t, w.pc)).filter fun p => !b.arrivals.contains p

theorem mem_arrivalsWith (b : Block) (w : Warp) (a : Nat × DWord) : a ∈ arrivalsWith b w ↔
    a ∈ b.arrivals ∨ ∃ i < 128, w.mask.getLsbD i = true ∧ a = (w.recSlot b i, w.pc) := by
  have hnew : a ∈ (positions w.mask).map (fun t => (w.recSlot b t, w.pc)) ↔
      ∃ i < 128, w.mask.getLsbD i = true ∧ a = (w.recSlot b i, w.pc) := by
    simp only [positions, List.mem_map, List.mem_filter, List.mem_range, and_assoc, eq_comm]
  rw [arrivalsWith, List.mem_append, List.mem_filter, hnew]
  by_cases ha : a ∈ b.arrivals <;> simp [ha]

theorem arrive_paired {s : State} {w : Warp} {b : Block} (hf : w.formed = true) (hb : s.blocks.find w.block = some b)
    (hp : b.paired = true) : s.arrive w =
      ({ s with blocks := s.blocks.put w.block { b with arrivals := arrivalsWith b w } } : State).settleTwins w.block := by
  simp [State.arrive, hb, hf, hp, State.mapBlock_of hb, arrivalsWith]

/-! ### CLAUSE_DECODE -/

section Clause
variable {s : State} {w : Warp} (h : s.warp s.cur = some w) (hm : s.mayIssue w = true) (hf : w.fetched = false)
include h hm hf

/-- R204: a check that fails is a trap at its instruction. -/
theorem clauseDecode_traps {t : Trap} {i : Nat} (hd : s.decodeClause w = .trap t i) : exec .clauseDecode s =
    .next ((s.putWarp s.cur { w with ix := i }).takeAside s.cur w t) := by
  change execClauseDecode s = _
  simp [execClauseDecode, h, hm, hf, hd]

/-- R204, R207: the warp that has decoded its clause. -/
def decodedWarp (w : Warp) (h : Header) (ws : List Word) : Warp :=
  { w with fetched := true, hdr := h, words := ws, yieldAt := none, yieldFor := [] }

/-- R203, R208: a clause that passes is decoded, and one whose last instruction is behind its warp is left. -/
theorem clauseDecode_decodes {hd : Header} {ws : List Word} {used : List Trans} (hk : s.decodeClause w = .ok hd ws used) :
    let u := ((used.foldl (fun s t => s.touch t false) s).putWarp s.cur (decodedWarp w hd ws)).arrive w
    exec .clauseDecode s = .next (if w.ix < hd.n.toNat then u else u.jump s.cur (w.pc + BitVec.ofNat 64 (4 * (1 + hd.body)))) := by
  intro u
  change execClauseDecode s = _
  simp only [execClauseDecode, h, hm, hf, hk]
  by_cases hn : w.ix < hd.n.toNat
  · rw [if_pos hn]
    simp [Nat.not_le.2 hn]
    rfl
  · rw [if_neg hn]
    simp [Nat.not_lt.1 hn]
    rfl

end Clause

/-- Settles O46: each check that fails is the trap that `decodeClause` finds first, and a clause that passes is decoded, after
which the threads of a formed warp arrive. -/
theorem clauseDecoding : Obligations.ClauseDecoding := by
  intro s w h hm hf
  refine ⟨fun ha => clauseDecode_traps h hm hf (decodeClause_misaligned ha), fun ha => ⟨fun t ht hc =>
    clauseDecode_traps h hm hf (decodeClause_unfetched ha ht hc), fun p hp hpl hlf => ⟨fun hh =>
    clauseDecode_traps h hm hf (decodeClause_noHeader ha hp hpl hlf hh), fun hd hh => ⟨fun hc hs =>
    clauseDecode_traps h hm hf (decodeClause_privileged ha hp hpl hlf hh hc hs), fun hc => ⟨fun t hb ht =>
    clauseDecode_traps h hm hf (decodeClause_bodyUnfetched ha hp hpl hlf hh hc hb ht), fun l hb hq => ?_⟩⟩⟩⟩⟩
  have hw := decodeClause_words ha hp hpl hlf hh hc hb hq
  refine ⟨fun i hi => clauseDecode_traps h hm hf (hw.trans (decodeWords_misplaced hi)), fun hi i hj =>
    clauseDecode_traps h hm hf (hw.trans (decodeWords_illegal hi hj)), fun hi hj => ?_⟩
  obtain ⟨mem, stale, failed, l1, tlb, hu⟩ := State.foldl_touch_frame id false (p :: l) s
  have hk := clauseDecode_decodes h hm hf (hw.trans (decodeWords_ok hi hj))
  generalize hv : State.putWarp _ s.cur (decodedWarp w hd (l.map s.codeWord)) = v at hk
  have hv : v = ({ s with mem := mem, stale := stale, failed := failed, l1 := l1, tlb := tlb } : State).putWarp s.cur
      (decodedWarp w hd (l.map s.codeWord)) := hv.symm.trans (congrArg (State.putWarp · _ _) hu)
  have hblocks : v.blocks = s.blocks := by rw [hv]; rfl
  have hself : v.warp s.cur = some (decodedWarp w hd (l.map s.codeWord)) := by rw [hv, State.warp_putWarp_self]
  have hother : ∀ j, j ≠ s.cur → v.warp j = s.warp j := fun j hj => by rw [hv]; exact State.warp_putWarp_other _ _ _ hj
  refine ⟨v, _, hk, ?_, hself, hother, fun ha => arrive_none (by rwa [hblocks]), fun b hf hb hp => ?_⟩
  · rw [hv]
    exact congrArg (fun u : State => ({ u with warps := _ } : State)) hu.symm
  · exact ⟨_, hblocks ▸ arrive_paired hf (hblocks ▸ hb) hp, rfl, mem_arrivalsWith b w⟩

end Sys2Proof.Machine
end

section
/-! SUPPORT. Blocks, generations and chases are left as they were by what a fault record, an event record and a failed store
write (R373, R390, R398), and so by loose bytes that go home (R134). -/

namespace Sys2Proof.Machine

/-- A state has the blocks, the generations of slots and the chases of another. -/
def State.SameBlocks (s u : State) : Prop := u.blocks = s.blocks ∧ u.gens = s.gens ∧ u.chases = s.chases

section Chain
variable {s u : State}

theorem State.sameBlocks_refl (s : State) : s.SameBlocks s := ⟨rfl, rfl, rfl⟩

theorem State.sameBlocks_ite {c : Prop} [Decidable c] {a b : State} (ha : s.SameBlocks a) (hb : s.SameBlocks b) :
    s.SameBlocks (if c then a else b) := by split <;> assumption

theorem State.sameBlocks_foldl {β : Type} (f : State → β → State) (hf : ∀ u b, s.SameBlocks u → s.SameBlocks (f u b))
    (l : List β) (h : s.SameBlocks u) : s.SameBlocks (l.foldl f u) := by
  induction l generalizing u with
  | nil => exact h
  | cons b r ih => exact ih (hf u b h)

/-! ### Homes of queues -/

theorem State.sameBlocks_qput (h : s.SameBlocks u) (k off n x : Nat) : s.SameBlocks (u.qput k off n x) := h

theorem State.sameBlocks_qbreak (h : s.SameBlocks u) (k : Nat) : s.SameBlocks (u.qbreak k) := h

theorem State.sameBlocks_putHome (h : s.SameBlocks u) (k : Nat) (x : QHome) : s.SameBlocks (u.putHome k x) := h

theorem State.sameBlocks_qjoin (h : s.SameBlocks u) (k id : Nat) (op : QOp) : s.SameBlocks (u.qjoin k id op) := h

theorem State.sameBlocks_qline (h : s.SameBlocks u) (k id : Nat) (op : QOp) : s.SameBlocks (u.qline k id op) := h

theorem State.sameBlocks_writeBack (h : s.SameBlocks u) (who : Nat → Bool) (lo hi : Nat) :
    s.SameBlocks (u.writeBack who lo hi) := by
  rw [u.writeBack_frame who lo hi]
  exact h

theorem State.sameBlocks_touch (h : s.SameBlocks u) (t : Trans) (wr : Bool) : s.SameBlocks (u.touch t wr) := by
  rw [u.touch_frame t wr]
  exact h

theorem State.sameBlocks_slotsHome (h : s.SameBlocks u) (op : QOp) (l : List Trans) : s.SameBlocks (u.slotsHome op l) := by
  unfold State.slotsHome
  split
  · exact State.sameBlocks_foldl _ (fun _ _ hv => State.sameBlocks_writeBack hv _ _ _) _ h
  · exact h

theorem State.sameBlocks_touchAll (h : s.SameBlocks u) (l : List Trans) (wr : Bool) : s.SameBlocks (u.touchAll l wr) :=
  State.sameBlocks_foldl _ (fun _ t hv => State.sameBlocks_touch hv t wr) l h

/-- What a home answers, whichever way, leaves the blocks (R153 to R158). -/
def QRes.KeepsBlocks (s : State) : QRes → Prop
  | .refuse _ _ u => s.SameBlocks u
  | .wait | .held => True
  | .served u => s.SameBlocks u

theorem QRes.keepsBlocks_ite {c : Prop} [Decidable c] {a b : QRes} (ha : a.KeepsBlocks s) (hb : b.KeepsBlocks s) :
    (if c then a else b).KeepsBlocks s := by split <;> assumption

theorem State.keepsBlocks_qperform (h : s.SameBlocks u) (k id : Nat) (op : QOp) (may late : Bool) :
    (u.qperform k id op may late).KeepsBlocks s := by
  unfold State.qperform
  dsimp only
  split
  · exact State.sameBlocks_ite (State.sameBlocks_qbreak h k) h
  · refine QRes.keepsBlocks_ite h (QRes.keepsBlocks_ite h (QRes.keepsBlocks_ite trivial ?_))
    split
    · exact QRes.keepsBlocks_ite trivial h
    · refine QRes.keepsBlocks_ite trivial (QRes.keepsBlocks_ite trivial ?_)
      have ht := fun l => State.sameBlocks_touchAll (State.sameBlocks_slotsHome h op l) l op.enq
      exact State.sameBlocks_ite (State.sameBlocks_qput (ht _) _ _ _ _) (State.sameBlocks_qput (ht _) _ _ _ _)

theorem State.sameBlocks_served {v : State} (h : s.SameBlocks u) {k id : Nat} {op : QOp} {may : Bool}
    (e : u.qserve k id op may = .served v) : s.SameBlocks v := by
  have := State.keepsBlocks_qperform h k id op may false
  rwa [show u.qperform k id op may false = _ from e] at this

theorem State.sameBlocks_refused {v : State} (h : s.SameBlocks u) {k id : Nat} {op : QOp} {may : Bool} {c : Fail} {x : DWord}
    (e : u.qserve k id op may = .refuse c x v) : s.SameBlocks v := by
  have := State.keepsBlocks_qperform h k id op may false
  rwa [show u.qperform k id op may false = _ from e] at this

/-! ### Records of events and faults -/

theorem State.sameBlocks_mapComp (h : s.SameBlocks u) (c : Nat) (f : Comp → Comp) : s.SameBlocks (u.mapComp c f) := h

theorem State.sameBlocks_eventLost (h : s.SameBlocks u) (cmp source : Nat) : s.SameBlocks (u.eventLost cmp source) := h

theorem State.sameBlocks_postLater (h : s.SameBlocks u) (id : Nat) (op : QOp) : s.SameBlocks (u.postLater id op) := h

theorem State.sameBlocks_tick1 (h : s.SameBlocks u) : s.SameBlocks u.tick1 := h

theorem State.sameBlocks_touchBlock (h : s.SameBlocks u) (op : QOp) : s.SameBlocks (u.touchBlock op) := by
  unfold State.touchBlock
  split
  · exact State.sameBlocks_touch h _ _
  · exact h

theorem State.sameBlocks_eventAt {v : State} (h : s.SameBlocks u) {k id : Nat} {op : QOp} {source : Nat}
    (e : u.eventAt k id op source = some v) : s.SameBlocks v := by
  unfold State.eventAt at e
  dsimp only at e
  split at e <;> cases e
  · rename_i e1; exact State.sameBlocks_eventLost (State.sameBlocks_refused h e1) _ _
  · exact State.sameBlocks_eventLost h _ _
  · rename_i e1; exact State.sameBlocks_mapComp (State.sameBlocks_touchBlock (State.sameBlocks_served h e1) _) _ _

theorem State.sameBlocks_sendEvent (h : s.SameBlocks u) (id : Nat) (op : QOp) (source : Nat) :
    s.SameBlocks (u.sendEvent id op source) := by
  unfold State.sendEvent
  refine State.sameBlocks_ite (State.sameBlocks_postLater h _ _) ?_
  split
  · exact State.sameBlocks_ite (State.sameBlocks_postLater h _ _) (State.sameBlocks_eventLost h _ _)
  · split
    · split
      · rename_i e; exact State.sameBlocks_eventAt h e
      · exact State.sameBlocks_qline h _ _ _
    · exact State.sameBlocks_qline h _ _ _

theorem State.sameBlocks_postEvent (h : s.SameBlocks u) (cmp kind source : Nat) (subject detail : DWord) :
    s.SameBlocks (u.postEvent cmp kind source subject detail) := by
  unfold State.postEvent
  dsimp only
  split
  · exact State.sameBlocks_eventLost (State.sameBlocks_mapComp h _ _) _ _
  · exact State.sameBlocks_sendEvent (State.sameBlocks_tick1 (State.sameBlocks_mapComp h _ _)) _ _ _

theorem State.sameBlocks_faultLost (h : s.SameBlocks u) (cmp cause : Nat) (cluster : DWord) :
    s.SameBlocks (u.faultLost cmp cause cluster) := State.sameBlocks_postEvent h _ _ _ _ _

theorem State.sameBlocks_sendFault (h : s.SameBlocks u) (id : Nat) (op : QOp) : s.SameBlocks (u.sendFault id op).1 := by
  unfold State.sendFault
  split
  · exact State.sameBlocks_postLater h _ _
  · split
    · exact State.sameBlocks_ite (State.sameBlocks_postLater h _ _) h
    · split
      · split
        · rename_i e; exact State.sameBlocks_refused h e
        · exact State.sameBlocks_qjoin (State.sameBlocks_touch h _ _) _ _ _
        · exact State.sameBlocks_qline h _ _ _
        · rename_i e; exact State.sameBlocks_touch (State.sameBlocks_served h e) _ _
      · exact State.sameBlocks_qline h _ _ _

theorem State.sameBlocks_postFault (h : s.SameBlocks u) (r : FaultRec) (agent : QAgent) :
    s.SameBlocks (u.postFault r agent).1 := by
  unfold State.postFault
  dsimp only
  split
  · exact State.sameBlocks_faultLost h _ _ _
  · have hu := fun op => State.sameBlocks_sendFault (State.sameBlocks_tick1 h) u.nextId op
    split
    · exact State.sameBlocks_mapComp (hu _) _ _
    · exact State.sameBlocks_faultLost (hu _) _ _ _

/-! ### Failed stores and loose bytes -/

theorem State.sameBlocks_mapWarp (h : s.SameBlocks u) (id : Nat) (f : Warp → Warp) : s.SameBlocks (u.mapWarp id f) := by
  unfold State.mapWarp; split <;> exact h

theorem State.sameBlocks_failSlot (h : s.SameBlocks u) (slot : Nat) (va : DWord) : s.SameBlocks (u.failSlot slot va) := by
  unfold State.failSlot
  split
  · exact State.sameBlocks_mapWarp (State.sameBlocks_postFault h _ _) _ _
  · exact h

/-- R134, R398: loose bytes that go home, or that fail on the way, leave the blocks, the generations and the chases. -/
theorem State.sameBlocks_sendOwn (s : State) (w : Warp) : s.SameBlocks (s.sendOwn w) :=
  State.sameBlocks_writeBack
    (State.sameBlocks_foldl _ (fun _ p hv => State.sameBlocks_failSlot hv p.slot p.va) _ s.sameBlocks_refl) _ _ _

end Chain

end Sys2Proof.Machine
end

section
/-! SUPPORT. exit and acquire (R38, R39, R67, R312, R313). -/

namespace Sys2Proof.Machine

/-- An instruction that issues ends with what its effect is. -/
theorem issue_as {s : State} {w : Warp} {i : Instr} {refs : Warp → List Ref} {eff : State → Warp → Res} {r : Res}
    (h : Issues s w (refs w)) (hr : eff (s.readied w) w.woken = r) : s.issue i refs eff = .next (State.finish s.cur r) := by
  rw [issue_next h, hr]

section Instructions
variable {f : FmtC} {s : State} {w : Warp}

/-! ### exit -/

theorem exit_idle (h : Issues s w []) (h0 : w.exec none = 0) :
    ∃ t, exec (.exit f) s = .next t ∧ Retires s s t { w with wait := none } :=
  ⟨_, issue_as (refs := fun _ => []) h (if_pos h0), retires_readied h.warp⟩

theorem exit_some (h : Issues s w []) (h0 : w.exec none ≠ 0) (hm : w.exec none ≠ w.mask) : exec (.exit f) s =
    .next (((((s.readied w).endThreads s.cur (w.exec none)).advance s.cur)).settleTwins w.block) := by
  refine (issue_as (refs := fun _ => []) h ((if_neg h0).trans (if_neg hm))).trans ?_
  rw [State.readied_cur]
  rfl

/-- R134: the warp that releases stands as it did, its loose bytes home. -/
theorem released_warp (h : s.warp s.cur = some w) (hr : MayRelease s w 2) :
    (((s.readied w).sendOwn w.woken).warp s.cur).getD w.woken = w.woken := by
  obtain ⟨-, hc, -⟩ := mayRelease_readied hr (le_refl 2)
  rw [State.sendOwn_frame hc]
  change ((s.readied w).warp s.cur).getD w.woken = w.woken
  rw [State.readied_warp h]
  rfl

theorem exit_all (h : Issues s w []) (h0 : w.exec none ≠ 0) (hm : w.exec none = w.mask)
    (hq : s.mrqBusy s.cur w = false) (hr : MayRelease s w 2) : exec (.exit f) s =
      .next ((((s.readied w).released w 2).endThreads s.cur (w.exec none)).lastGone s.cur w.woken) := by
  have hb : ¬ (s.readied w).mrqBusy (s.readied w).cur w.woken = true := by simp [hq]
  refine (issue_as (refs := fun _ => []) h ((if_neg h0).trans ((if_pos hm).trans (if_neg hb)))).trans ?_
  rw [State.retire_block (mayRelease_readied hr), State.readied_cur, released_warp h.warp hr]
  rfl

/-! ### acquire -/

theorem Warp.once_of {g : Option Guard} (h : w.exec g ≠ 0) : w.once g = true := by simpa [Warp.once] using h

theorem acquire_retires (h : Issues s w []) (hr : w.exec none = 0 ∨ w.full = true) :
    ∃ t, exec (.acquire f) s = .next t ∧ Retires s s t { w with wait := none } := by
  have hc : (!w.once none || w.full) = true := by
    obtain h0 | hf := hr
    · simp [Warp.once, h0]
    · simp [hf]
  exact ⟨_, issue_as (refs := fun _ => []) h (if_pos hc), retires_readied h.warp⟩

/-- R38: a grant to the warp that moves: it goes on with the full allotment. -/
theorem retires_grant (h : s.warp s.cur = some w) : Retires s s ((s.readied w).grant s.cur)
    (w.woken.grow (s.fullOf w).1 (s.fullOf w).2) := by
  have hf : (s.readied w).fullOf w.woken = s.fullOf w := by rw [s.readied_eq w]; rfl
  rw [State.grant, State.readied_warp h]
  dsimp only
  rw [hf, State.readied_put]
  exact retires_put s _

/-- R39: an `acquire` that need not wait for its grant: no older request waits and the growth fits. -/
def State.grantsNow (s : State) (w : Warp) : Bool :=
  s.growthFits w && !((s.acquirers w.core w.quarter).any fun p => p.2.elder w)

section Grows
variable (h : Issues s w []) (h0 : w.exec none ≠ 0) (hf : w.full = false)
include h h0 hf

theorem acquire_next : exec (.acquire f) s = .next (State.finish s.cur
    (if (s.readied w).grantsNow w.woken then .moved ((s.readied w).grant s.cur)
    else if !s.recordRoom s.cur 40 then .stay (s.readied w)
    else .stay ((s.readied w).putWarp s.cur { w.woken with phase := .acquiring, acqAt := some s.clock }))) := by
  have hc : ¬ (!w.once none || w.full) = true := by simp [Warp.once_of h0, hf]
  refine issue_as (refs := fun _ => []) h ((if_neg hc).trans ?_)
  rw [s.readied_eq w]
  rfl

theorem acquire_granted (hn : (s.readied w).grantsNow w.woken = true) :
    ∃ t, exec (.acquire f) s = .next t ∧ Retires s s t (w.woken.grow (s.fullOf w).1 (s.fullOf w).2) := by
  refine ⟨_, acquire_next h h0 hf, ?_⟩
  rw [if_pos hn]
  exact retires_grant h.warp

theorem acquire_stays (hn : (s.readied w).grantsNow w.woken = false) (hr : s.recordRoom s.cur 40 = false) :
    exec (.acquire f) s = .next (s.readied w) := by
  rw [acquire_next h h0 hf, if_neg (by simp [hn]), if_pos (by simp [hr])]
  rfl

theorem acquire_waits (hn : (s.readied w).grantsNow w.woken = false) (hr : s.recordRoom s.cur 40 = true) :
    ∃ t, exec (.acquire f) s = .next t ∧ t = { s with warps := t.warps } ∧
      t.warp s.cur = some { w with wait := none, phase := .acquiring, acqAt := some s.clock } ∧
      ∀ j, j ≠ s.cur → t.warp j = s.warp j := by
  refine ⟨_, acquire_next h h0 hf, ?_⟩
  rw [if_neg (by simp [hn]), if_neg (by simp [hr]), State.readied_put]
  exact ⟨rfl, State.warp_putWarp_self _ _ _, fun _ hj => State.warp_putWarp_other _ _ _ hj⟩

end Grows

end Instructions

theorem exitAcquire : Claims.exitAcquire := by
  intro f s w h
  dsimp only
  refine ⟨?_, exit_all h, exit_some h, fun _ hf => acquire_retires h (.inr hf), fun h0 hf => ⟨acquire_granted h h0 hf, ?_⟩⟩
  · intro h0 i hi
    simp only [List.mem_cons, List.not_mem_nil, or_false] at hi
    obtain rfl | rfl := hi
    · exact exit_idle h h0
    · exact acquire_retires h (.inl h0)
  · exact ⟨acquire_stays h h0 hf, acquire_waits h h0 hf⟩

end Sys2Proof.Machine
end

section
/-! SUPPORT. What ends: threads, warps and twins (R43, R66, R67, R121, R134, R167, R303, R312). -/

namespace Sys2Proof.Machine

/-! ### Threads that end -/

theorem mem_positions {m : Mask} {p : Nat} : p ∈ positions m ↔ p < 128 ∧ m.getLsbD p = true := by
  simp [positions]

/-- R121: the private index of the thread at a position of a warp. -/
def Warp.privOf (w : Warp) (b : Block) (t : Nat) : Nat := privIndex b.paired (w.blkt b t) w.twin

theorem Block.find_dropPriv (b : Block) (i off : Nat) :
    (b.dropPriv i).priv.find off = if off / 4 % b.slots = i then none else b.priv.find off := by
  have h := Store.get_filter (d := none) b.priv (fun a => decide (a / 4 % b.slots ≠ i)) off
  refine Eq.trans h ?_
  by_cases e : off / 4 % b.slots = i
  · simp [e]
  · simp [e, Table.find]

/-- R121: the private lines of threads dropped: those whose index is one of theirs. -/
theorem foldl_dropPriv (w : Warp) (l : List Nat) (b : Block) : ∃ priv,
    l.foldl (fun b t => b.dropPriv (w.privOf b t)) b = { b with priv := priv } ∧
      ∀ off, priv.find off = if ∃ t ∈ l, w.privOf b t = off / 4 % b.slots then none else b.priv.find off := by
  induction l generalizing b with
  | nil => exact ⟨b.priv, rfl, fun off => by simp⟩
  | cons t r ih =>
    obtain ⟨priv, he, hp⟩ := ih (b.dropPriv (w.privOf b t))
    refine ⟨priv, he, fun off => ?_⟩
    rw [hp off, Block.find_dropPriv]
    change (if ∃ x ∈ r, w.privOf b x = off / 4 % b.slots then _ else _) = _
    by_cases hr : ∃ x ∈ r, w.privOf b x = off / 4 % b.slots
    · obtain ⟨x, hx, e⟩ := hr
      rw [if_pos ⟨x, hx, e⟩, if_pos ⟨x, List.mem_cons_of_mem _ hx, e⟩]
    · rw [if_neg hr]
      by_cases ht : off / 4 % b.slots = w.privOf b t
      · rw [if_pos ht, if_pos ⟨t, List.mem_cons_self, ht.symm⟩]
      · refine (if_neg ht).trans (if_neg ?_).symm
        rintro ⟨x, hx, e⟩
        obtain rfl | hx := List.mem_cons.1 hx
        · exact ht e.symm
        · exact hr ⟨x, hx, e⟩

/-- R208: a warp that goes on waits for nothing. -/
theorem MovedOn.wait {s : State} {w w' : Warp} (h : MovedOn s w w') : w'.wait = none := by
  unfold MovedOn at h
  split at h
  · rw [h]; rfl
  · rw [h]

/-- Warps that go on one after another: nothing but warps changes, those that are not named stand, those that are wait for
nothing. -/
theorem foldl_advance {β : Type} (name : β → Nat) (l : List β) (s : State) :
    l.foldl (fun s p => s.advance (name p)) s =
        { s with warps := (l.foldl (fun s p => s.advance (name p)) s).warps } ∧
      (∀ j, (∀ p ∈ l, name p ≠ j) → (l.foldl (fun s p => s.advance (name p)) s).warp j = s.warp j) ∧
      ∀ j x, s.warp j = some x → (∃ p ∈ l, name p = j) ∨ x.wait = none →
        ∃ y, (l.foldl (fun s p => s.advance (name p)) s).warp j = some y ∧ y.wait = none := by
  induction l generalizing s with
  | nil =>
    refine ⟨rfl, fun _ _ => rfl, fun j x hx hj => ⟨x, hx, ?_⟩⟩
    obtain ⟨p, hp, -⟩ | hw := hj
    · exact absurd hp List.not_mem_nil
    · exact hw
  | cons p r ih =>
    rw [List.foldl_cons]
    obtain ⟨he, ho, hl⟩ := ih (s.advance (name p))
    cases hp : s.warp (name p) with
    | none =>
      have hs : s.advance (name p) = s := by rw [State.advance, hp]
      rw [hs] at he ho hl ⊢
      refine ⟨he, fun j hj => ho j fun q hq => hj q (List.mem_cons_of_mem _ hq), fun j x hx hj => hl j x hx ?_⟩
      obtain ⟨q, hq, rfl⟩ | hw := hj
      · obtain rfl | hq := List.mem_cons.1 hq
        · rw [hp] at hx
          cases hx
        · exact .inl ⟨q, hq, rfl⟩
      · exact .inr hw
    | some w =>
      obtain ⟨w', h1, h2, h3, h4⟩ := State.advance_cases hp
      refine ⟨by rw [he, h1], fun j hj => ?_, fun j x hx hj => ?_⟩
      · rw [ho j fun q hq => hj q (List.mem_cons_of_mem _ hq), h2 j (hj p List.mem_cons_self).symm]
      · by_cases e : j = name p
        · exact hl j w' (by rw [e]; exact h3) (.inr h4.wait)
        · refine hl j x ((h2 j e).trans hx) ?_
          obtain ⟨q, hq, hqj⟩ | hw := hj
          · obtain rfl | hq := List.mem_cons.1 hq
            · exact absurd hqj.symm e
            · exact .inl ⟨q, hq, hqj⟩
          · exact .inr hw

/-! ### The block barrier (R167) -/

/-- R167: every member of a block has arrived at its barrier. -/
abbrev Block.complete (b : Block) : Prop := b.live ≠ 0 ∧ b.arrived = b.live

/-- R167: the barrier as it stands once its phase has completed. -/
def Block.rephased (b : Block) : Block := { b with arrived := 0, phase := (b.phase + 1) % 256 }

/-- R167: a barrier tested. -/
def Block.barTested (b : Block) : Block := if b.complete then b.rephased else b

section Barrier
variable {s : State} {n : Nat} {b : Block} {T : Table Block} (hs : s.blocks = T.put n b)
include hs

theorem State.blockBarTest_waits (h : ¬ b.complete) : s.blockBarTest n = s := by
  have hc : ¬ (b.live ≠ 0 && b.arrived == b.live) = true := by simpa [Block.complete] using h
  have hb : s.blocks.find n = some b := by rw [hs]; exact Table.find_put_self _ _ _
  rw [State.blockBarTest, hb]
  exact if_neg hc

theorem State.blockBarTest_completes (h : b.complete) : s.blockBarTest n =
    (s.warps.all.filter fun p => p.2.block == n && p.2.wait == some .blockBar).foldl
      (fun s p => s.advance p.1) { s with blocks := T.put n b.rephased } := by
  have hc : (b.live ≠ 0 && b.arrived == b.live) = true := by simpa [Block.complete] using h
  have hb : s.blocks.find n = some b := by rw [hs]; exact Table.find_put_self _ _ _
  rw [State.blockBarTest, hb]
  refine (if_pos hc).trans ?_
  dsimp only
  rw [State.mapBlock_of hb, hs, Table.put_put]
  rfl

/-- R167: the barrier of a block tested: where its phase completes, the warps that wait at it go on. -/
theorem State.blockBarTest_spec (hwf : Store.wf none s.warps = true) :
    s.blockBarTest n = { s with warps := (s.blockBarTest n).warps, blocks := T.put n b.barTested } ∧
      ∀ j x, s.warp j = some x → if b.complete ∧ x.block = n ∧ x.wait = some .blockBar
        then ∃ y, (s.blockBarTest n).warp j = some y ∧ y.wait = none else (s.blockBarTest n).warp j = some x := by
  by_cases hc : b.complete
  · rw [State.blockBarTest_completes hs hc, Block.barTested, if_pos hc]
    obtain ⟨h1, h2, h3⟩ := foldl_advance (fun p : Nat × Warp => p.1)
      (s.warps.all.filter fun p => p.2.block == n && p.2.wait == some .blockBar) { s with blocks := T.put n b.rephased }
    refine ⟨by rw [h1], fun j x hx => ?_⟩
    have hm : ∀ y, (j, y) ∈ s.warps.all ↔ s.warp j = some y := fun y => Table.mem_all hwf
    split
    next hj =>
      refine h3 j x hx (.inl ⟨(j, x), List.mem_filter.2 ⟨(hm x).2 hx, ?_⟩, rfl⟩)
      simpa using hj.2
    next hj =>
      refine (h2 j ?_).trans hx
      rintro ⟨k, y⟩ hy rfl
      obtain ⟨hy, hw⟩ := List.mem_filter.1 hy
      obtain rfl : x = y := Option.some.inj (hx.symm.trans ((hm y).1 hy))
      exact hj ⟨hc, by simpa using hw⟩
  · rw [State.blockBarTest_waits hs hc, Block.barTested, if_neg hc]
    refine ⟨by rw [← hs], fun j x hx => ?_⟩
    rw [if_neg fun h => hc h.1]
    exact hx

end Barrier

/-! ### endThreads (R121, R167, R312) -/

/-- R121, R312: a block that threads of a warp leave. -/
def Block.without (b : Block) (w : Warp) (m : Mask) : Block :=
  { (positions m).foldl (fun b t => b.dropPriv (w.privOf b t)) b with live := b.live - count m }

theorem Block.without_spec (b : Block) (w : Warp) (m : Mask) :
    b.without w m = { b with live := b.live - count m, priv := (b.without w m).priv } ∧
      ∀ off, (b.without w m).priv.find off =
        if ∃ t ∈ positions m, w.privOf b t = off / 4 % b.slots then none else b.priv.find off := by
  obtain ⟨priv, he, hp⟩ := foldl_dropPriv w (positions m) b
  unfold Block.without
  rw [he]
  exact ⟨rfl, hp⟩

theorem Block.without_eq (b : Block) (w : Warp) (m : Mask) :
    ({ (positions m).foldl (fun b t => b.dropPriv (w.privOf b t)) b with
      live := ((positions m).foldl (fun b t => b.dropPriv (w.privOf b t)) b).live - (positions m).length } : Block) =
    b.without w m := by
  obtain ⟨priv, he, -⟩ := foldl_dropPriv w (positions m) b
  unfold Block.without
  rw [he]
  rfl

/-- R121, R167: the block once threads have left it and its barrier has been tested. -/
theorem Block.barTested_without (b : Block) (w : Warp) (m : Mask) :
    ((b.without w m).complete ↔ b.live - count m ≠ 0 ∧ b.arrived = b.live - count m) ∧
    (b.without w m).barTested.priv = (b.without w m).priv ∧
    (b.without w m).barTested = { b with
      live := b.live - count m, priv := (b.without w m).priv
      arrived := if b.live - count m ≠ 0 ∧ b.arrived = b.live - count m then 0 else b.arrived
      phase := if b.live - count m ≠ 0 ∧ b.arrived = b.live - count m then (b.phase + 1) % 256 else b.phase } := by
  obtain ⟨he, -⟩ := b.without_spec w m
  generalize b.without w m = b1 at he
  have hc : b1.complete ↔ b.live - count m ≠ 0 ∧ b.arrived = b.live - count m := by rw [he]
  refine ⟨hc, by rw [Block.barTested]; split <;> rfl, ?_⟩
  rw [Block.barTested]
  by_cases h : b1.complete
  · rw [if_pos h, if_pos (hc.1 h), if_pos (hc.1 h), Block.rephased, he]
  · rw [if_neg h, if_neg fun e => h (hc.2 e), if_neg fun e => h (hc.2 e)]
    exact he

section Threads
variable {s : State} {id : Nat} {w : Warp} {b : Block} {m : Mask} (hw : s.warp id = some w)
  (hb : s.blocks.find w.block = some b)
include hw hb

theorem endThreads_eq : s.endThreads id m = ({ s.putWarp id { w with mask := w.mask &&& ~~~ m } with
    blocks := s.blocks.put w.block (b.without w (w.mask &&& m)) } : State).blockBarTest w.block := by
  rw [State.endThreads, hw]
  dsimp only
  rw [State.mapBlock_of (s := s.putWarp id _) hb]
  exact congrArg (fun x => State.blockBarTest { s.putWarp id _ with blocks := s.blocks.put w.block x } w.block)
    (b.without_eq w (w.mask &&& m))

/-- R121, R167, R312: threads of a warp that is not at the barrier end. -/
theorem threadsEnd (hbar : w.wait ≠ some .blockBar) (hwf : Store.wf none s.warps = true) :
    s.endThreads id m = { s with warps := (s.endThreads id m).warps
                                 blocks := s.blocks.put w.block (b.without w (w.mask &&& m)).barTested } ∧
      (s.endThreads id m).warp id = some { w with mask := w.mask &&& ~~~ m } ∧
      ∀ j x, j ≠ id → s.warp j = some x →
        if (b.without w (w.mask &&& m)).complete ∧ x.block = w.block ∧ x.wait = some .blockBar
        then ∃ y, (s.endThreads id m).warp j = some y ∧ y.wait = none else (s.endThreads id m).warp j = some x := by
  rw [endThreads_eq hw hb]
  obtain ⟨h1, h2⟩ := State.blockBarTest_spec (s := { s.putWarp id { w with mask := w.mask &&& ~~~ m } with
    blocks := s.blocks.put w.block (b.without w (w.mask &&& m)) }) rfl (Store.wf_set hwf _ _)
  refine ⟨h1, ?_, fun j x hj hx => h2 j x ((State.warp_putWarp_other _ _ _ hj).trans hx)⟩
  have h3 := h2 id { w with mask := w.mask &&& ~~~ m } (State.warp_putWarp_self _ _ _)
  rwa [if_neg fun h => hbar h.2.2] at h3

end Threads

end Sys2Proof.Machine
end

section
/-! SUPPORT. What a warp that ends leaves (R43, R44, R67, R83, R134, R200, R303, R312), and exit and acquire settled. -/

namespace Sys2Proof.Machine

/-! ### Registers that an owner leaves (R44) -/

theorem Block.leaveG_frame (b : Block) (g : Nat) : b.leaveG g true = { b with
    gpub := (b.leaveG g true).gpub, gowner := b.gowner.erase g } := rfl

/-- R44: registers that are left with publication, one after another. -/
theorem foldl_leaveG (l : List (Nat × Nat)) (b : Block) :
    (l.foldl (fun b p => b.leaveG p.1 true) b).gown = b.gown ∧
    (l.foldl (fun b p => b.leaveG p.1 true) b).claims = b.claims ∧
    ∀ g, ((∃ p ∈ l, p.1 = g) ∨ b.gowner.find g = none ∧ Store.get 0 b.gpub g = Store.get 0 b.gown g) →
      (l.foldl (fun b p => b.leaveG p.1 true) b).gowner.find g = none ∧
      Store.get 0 (l.foldl (fun b p => b.leaveG p.1 true) b).gpub g = Store.get 0 b.gown g := by
  induction l generalizing b with
  | nil => exact ⟨rfl, rfl, fun g h => h.resolve_left fun ⟨_, hp, _⟩ => List.not_mem_nil hp⟩
  | cons p r ih =>
    obtain ⟨h1, h2, h3⟩ := ih (b.leaveG p.1 true)
    refine ⟨h1, h2, fun g hg => h3 g ?_⟩
    by_cases e : g = p.1
    · refine .inr ⟨(Table.find_erase _ _ _).trans (if_pos e), (Store.get_set _ _ _ _).trans ?_⟩
      rw [if_pos e, e]
      rfl
    · obtain ⟨q, hq, hqg⟩ | ⟨ho, hp⟩ := hg
      · obtain rfl | hq := List.mem_cons.1 hq
        · exact absurd hqg.symm e
        · exact .inl ⟨q, hq, hqg⟩
      · exact .inr ⟨((Table.find_erase _ _ _).trans (if_neg e)).trans ho,
          ((Store.get_set _ _ _ _).trans (if_neg e)).trans hp⟩

/-- R44: a warp that ends publishes and leaves the registers that it owns. -/
theorem leaveAll_spec (b : Block) (id : Nat) {g : Nat} (hg : b.gowner.find g = some id)
    (hwf : Store.wf none b.gowner = true) : (b.leaveAll id true).gowner.find g = none ∧
      Store.get 0 (b.leaveAll id true).gpub g = Store.get 0 b.gown g := by
  refine (foldl_leaveG _ b).2.2 g (.inl ⟨(g, id), List.mem_filter.2 ⟨(Table.mem_all hwf).2 hg, ?_⟩, rfl⟩)
  simp

/-! ### Chases that no `eret` will come for (R200) -/

/-- R331: a record of a chase discarded changes its warp's pending v registers and counters alone. -/
theorem unpend_v (w : Warp) (a b n : Nat) : (w.unpend [.v a [], .v b []]).decD n =
    { w with pendV := (w.unpend [.v a [], .v b []]).pendV, d := ((w.unpend [.v a [], .v b []]).decD n).d } := by
  have h0 (m : Mask) : m &&& ~~~ 0 = m := BitVec.and_allOnes
  simp only [Warp.unpend, Warp.decD, RegWrite.regs, List.foldl_cons, List.foldl_nil, h0]

theorem discardChases_spec (l : List (Nat × Chase)) {s : State} {id : Nat} {w : Warp} (hw : s.warp id = some w) :
    s.discardChases id l = { s with chases := (s.discardChases id l).chases, warps := (s.discardChases id l).warps } ∧
      (∀ j, j ≠ id → (s.discardChases id l).warp j = s.warp j) ∧
      ∃ y, (s.discardChases id l).warp id = some y ∧ y = { w with pendV := y.pendV, d := y.d } ∧
        (l = [] → y = w) := by
  induction l generalizing s w with
  | nil => exact ⟨rfl, fun _ _ => rfl, w, hw, rfl, fun _ => rfl⟩
  | cons p r ih =>
    obtain ⟨h1, h2, y, h3, h4, -⟩ := ih (s := ({ s with chases := s.chases.erase p.1 } : State).putWarp id
      ((w.unpend [.v p.2.dst [], .v (p.2.dst + 1) []]).decD p.2.dc)) (State.warp_putWarp_self _ _ _)
    have he : s.discardChases id (p :: r) = (({ s with chases := s.chases.erase p.1 } : State).putWarp id
        ((w.unpend [.v p.2.dst [], .v (p.2.dst + 1) []]).decD p.2.dc)).discardChases id r :=
      congrArg (fun s => State.discardChases s id r)
        (State.mapWarp_of (s := { s with chases := s.chases.erase p.1 }) hw
          fun w => (w.unpend [.v p.2.dst [], .v (p.2.dst + 1) []]).decD p.2.dc)
    rw [he]
    refine ⟨by rw [h1]; rfl, fun j hj => (h2 j hj).trans (State.warp_putWarp_other _ _ _ hj), y, h3, ?_,
      fun h => absurd h (List.cons_ne_nil _ _)⟩
    rw [h4, unpend_v]

/-! ### endWarp (R43, R67, R134, R312) -/

/-- R67, R312: a warp that has ended by itself, before its chases are discarded. -/
def Warp.ended (w : Warp) : Warp :=
  { w with phase := .ended, killed := false, wait := none, mask := 0, acqAt := none, token := none, susp := none, xback := none }

/-- R43, R44: what a warp that ends leaves of its block's registers and claims. -/
def Block.withoutWarp (b : Block) (id : Nat) : Block :=
  { b.leaveAll id true with claims := b.claims.filter fun p => p.2 ≠ id }

theorem State.mapBlock_frame (s : State) (n : Nat) (f : Block → Block) :
    s.mapBlock n f = { s with blocks := (s.mapBlock n f).blocks } := by
  unfold State.mapBlock
  split <;> rfl

theorem State.trappedChases_congr {s u : State} (hc : u.chases = s.chases) (hg : u.gens = s.gens) (id : Nat) :
    u.trappedChases id = s.trappedChases id := by
  unfold State.trappedChases State.chasesOf State.gen
  rw [hc, hg]

section Ends
variable {s : State} {id : Nat} {w : Warp} (hw : s.warp id = some w)
include hw

theorem endWarp_eq : s.endWarp id true =
    (((s.sendOwn w).mapBlock w.block fun b => b.withoutWarp id).putWarp id w.ended).dropHeld id := by
  rw [State.endWarp, hw]
  rfl

theorem endWarp_spec :
    s.endWarp id true = { s.sendOwn w with
      blocks := ((s.sendOwn w).mapBlock w.block fun b => b.withoutWarp id).blocks
      chases := (s.endWarp id true).chases, warps := (s.endWarp id true).warps } ∧
    (∀ j, j ≠ id → (s.endWarp id true).warp j = (s.sendOwn w).warp j) ∧
    ∃ y, (s.endWarp id true).warp id = some y ∧ y = { w.ended with pendV := y.pendV, d := y.d } ∧
      ((s.trappedChases id).filter (fun p => p.2.held) = [] → y = w.ended) := by
  obtain ⟨-, hg, hc⟩ := s.sameBlocks_sendOwn w
  rw [endWarp_eq hw, State.mapBlock_frame]
  generalize s.sendOwn w = v at hg hc
  generalize (v.mapBlock w.block fun b => b.withoutWarp id).blocks = T
  have ht : (({ v with blocks := T } : State).putWarp id w.ended).trappedChases id = s.trappedChases id :=
    State.trappedChases_congr hc hg id
  rw [State.dropHeld, ht]
  obtain ⟨h1, h2, y, h3, h4, h5⟩ := discardChases_spec ((s.trappedChases id).filter fun p => p.2.held)
    (State.warp_putWarp_self ({ v with blocks := T } : State) id w.ended)
  exact ⟨h1, fun j hj => (h2 j hj).trans (State.warp_putWarp_other _ _ _ hj), y, h3, h4, h5⟩

/-- R43, R44: what the end of a warp leaves of its block. -/
theorem endWarp_block {b : Block} (hb : s.blocks.find w.block = some b) :
    (s.endWarp id true).blocks.find w.block = some (b.withoutWarp id) := by
  obtain ⟨h, -, -⟩ := s.sameBlocks_sendOwn w
  have hu : (s.sendOwn w).blocks.find w.block = some b := by rw [h]; exact hb
  rw [(endWarp_spec hw).1, State.mapBlock_of hu]
  exact Table.find_put_self _ _ _

end Ends

/-! ### Twins (R64, R66, R303) -/

/-- R66: a block that is not paired has no twins to settle. -/
theorem settleTwins_unpaired {s : State} {n : Nat} (h : ∀ b, s.blocks.find n = some b → b.paired = false) :
    s.settleTwins n = s := by
  unfold State.settleTwins
  cases hb : s.blocks.find n with
  | none => rfl
  | some b => exact if_pos (by simp [h b hb])

theorem twinGone_none {s : State} {id : Nat} {w : Warp} (h : s.twinOf id w = none) : s.twinGone id w = s := by
  unfold State.twinGone
  rw [h]

theorem twinGone_some {s : State} {id p : Nat} {w x : Warp} (h : s.twinOf id w = some (p, x)) :
    s.twinGone id w = if x.wait = some .mgd then (s.withdraw p).takeTrap p (Trap.of 0x0E 0) else s := by
  unfold State.twinGone
  rw [h]
  by_cases hx : x.wait = some .mgd <;> simp [hx]

theorem lastGone_unpaired {s : State} {id : Nat} {w : Warp}
    (h : ∀ b, (s.endWarp id true).blocks.find w.block = some b → b.paired = false) (ht : w.twin = 2) :
    s.lastGone id w = s.endWarp id true := by
  have hn : (s.endWarp id true).twinOf id w = none := if_pos (by simp [ht])
  rw [State.lastGone, twinGone_none hn, settleTwins_unpaired h]

/-! ### exit, acquire and what ends, settled -/

theorem endings : Claims.endings := by
  refine ⟨?_, ?_, ?_⟩
  · intro s id w b m hw hb hbar hwf
    obtain ⟨h1, h2, h3⟩ := threadsEnd (m := m) hw hb hbar hwf
    obtain ⟨hc, hpriv, he⟩ := b.barTested_without w (w.mask &&& m)
    have hp := (b.without_spec w (w.mask &&& m)).2
    refine ⟨_, h1, by rw [hpriv]; exact he, fun off => ?_, h2, fun j x hj hx => ?_⟩
    · have hg : (∃ t ∈ positions (w.mask &&& m), w.privOf b t = off / 4 % b.slots) ↔
          ∃ p < 128, (w.mask &&& m).getLsbD p = true ∧ privIndex b.paired (w.blkt b p) w.twin = off / 4 % b.slots := by
        simp only [mem_positions, and_assoc, Warp.privOf]
      dsimp only
      rw [hpriv, hp off, ← hg]
      exact ⟨fun h => if_pos h, fun h => if_neg h⟩
    · simpa only [hc] using h3 j x hj hx
  · intro s id w hw
    obtain ⟨h1, h2, y, h3, h4, h5⟩ := endWarp_spec hw
    obtain ⟨-, hg, -⟩ := s.sameBlocks_sendOwn w
    refine ⟨⟨y, h3, h4, fun h => ?_⟩, h2, by rw [h1]; exact hg, fun k => by rw [h1]; rfl, fun h j => ?_, fun b hb => ?_⟩
    · rw [h5 h]
      exact ⟨rfl, rfl⟩
    · rw [State.sendOwn_frame h]
      rfl
    · refine ⟨_, endWarp_block hw hb, fun g hgo hgw => leaveAll_spec b id hgo hgw, fun q hq => ?_⟩
      simpa using (List.mem_filter.1 hq).2
  · intro s id w
    refine ⟨?_, lastGone_unpaired⟩
    rw [State.lastGone]
    cases ht : (s.endWarp id true).twinOf id w with
    | none => rw [twinGone_none ht]
    | some p => rw [twinGone_some ht]

/-- Settles O45: `exit` and `acquire` by the branches of their effects, what ends by folds over the threads, the warps that wait at
the barrier, the registers that are left and the chases that are discarded. -/
theorem exitAndAcquire : Obligations.ExitAndAcquire := ⟨exitAcquire, endings⟩

end Sys2Proof.Machine
end

section
/-! SUPPORT. Grants, returned allotments and the agents of a core's schedulers (R39, R41, R44, R67, R83, R84, R361, R362). -/

namespace Sys2Proof.Machine

variable {s : State}

/-! ### Grants (R39, R44) -/

section Acquire
variable {q id : Nat} {w : Warp} {rest : List (Nat × Warp)}

theorem acquireGrant_grants (hq : s.acquirers (q / 4) (q % 4) = (id, w) :: rest) (hw : s.warp id = some w)
    (hf : s.growthFits w = true) : ∃ t w', exec (.acquireGrant q) s = .next t ∧ t = { s with warps := t.warps } ∧
      t.warp id = some w' ∧ MovedOn s (w.grow (s.fullOf w).1 (s.fullOf w).2) w' ∧ ∀ j, j ≠ id → t.warp j = s.warp j := by
  have he : exec (.acquireGrant q) s = .next ((s.putWarp id (w.grow (s.fullOf w).1 (s.fullOf w).2)).advance id) := by
    change Host.Outcome.next _ = _
    rw [hq]
    dsimp only
    rw [if_pos hf, State.grant, hw]
  obtain ⟨w', h1, h2, h3, h4⟩ := State.advance_cases (State.warp_putWarp_self s id (w.grow (s.fullOf w).1 (s.fullOf w).2))
  exact ⟨_, w', he, h1, h3, h4, fun j hj => (h2 j hj).trans (State.warp_putWarp_other _ _ _ hj)⟩

theorem acquireGrant_waits (hq : s.acquirers (q / 4) (q % 4) = (id, w) :: rest) (hf : s.growthFits w = false) :
    exec (.acquireGrant q) s = .next s := by
  change Host.Outcome.next _ = _
  rw [hq]
  dsimp only
  rw [if_neg (by simp [hf])]

end Acquire

/-- R44: a block whose register a warp has come to own, with the copy that the register then holds. -/
def Block.claimed (b : Block) (id g fresh : Nat) : Block :=
  { b with gowner := b.gowner.put g id, gown := Store.set 0 b.gown g (Config.unputCopy fresh) }

theorem State.claimG_of {blk : Nat} {b : Block} (hb : s.blocks.find blk = some b) (id g : Nat) :
    s.claimG id blk g = { s with blocks := s.blocks.put blk (b.claimed id g s.fresh), fresh := s.fresh + 1 } := by
  rw [State.claimG, State.mapBlock_of hb]
  rfl

/-- R44: a block with the claim of a warp to a register taken off. -/
def Block.unclaimed (b : Block) (id g : Nat) : Block :=
  { b with claims := b.claims.filter fun p => !(p.1 == g && p.2 == id) }

theorem gclaimGrant_grants {block g n id : Nat} {b : Block} {w : Warp} (hb : s.blocks.find block = some b)
    (ho : b.gowner.find g = none) (hc : b.claims.find? (fun p => p.1 == g) = some (n, id)) (hw : s.warp id = some w) :
    ∃ t b1 w', exec (.gclaimGrant block g) s = .next t ∧
      t = { s with blocks := s.blocks.put block b1, warps := t.warps, fresh := s.fresh + 1 } ∧
      b1 = { b with gowner := b.gowner.put g id, gown := b1.gown
                    claims := b.claims.filter fun p => !(p.1 == g && p.2 == id) } ∧
      t.warp id = some w' ∧ MovedOn s w w' ∧ ∀ j, j ≠ id → t.warp j = s.warp j := by
  have hu : ({ s with blocks := s.blocks.put block (b.unclaimed id g) } : State).blocks.find block =
      some (b.unclaimed id g) := Table.find_put_self _ _ _
  have he : exec (.gclaimGrant block g) s = .next (({ s with
      blocks := s.blocks.put block ((b.unclaimed id g).claimed id g s.fresh), fresh := s.fresh + 1 } : State).advance id) := by
    change Host.Outcome.next _ = _
    rw [hb]
    dsimp only
    rw [if_neg (by simp [ho]), hc]
    dsimp only
    rw [State.mapBlock_of hb]
    refine congrArg (fun u => Host.Outcome.next (State.advance u id)) ((State.claimG_of hu id g).trans ?_)
    rw [Table.put_put]
  generalize hv : ({ s with blocks := s.blocks.put block ((b.unclaimed id g).claimed id g s.fresh)
                            fresh := s.fresh + 1 } : State) = v at he
  obtain ⟨w', h1, h2, h3, h4⟩ := State.advance_cases (s := v) (id := id) (w := w) (by rw [← hv]; exact hw)
  refine ⟨_, (b.unclaimed id g).claimed id g s.fresh, w', he, ?_, rfl, h3, ?_, fun j hj => ?_⟩
  · rw [h1, ← hv]
  · rw [← hv] at h4
    exact h4
  · rw [h2 j hj, ← hv]
    rfl

/-! ### ALLOTMENT_RETURN (R67, R83, R84) -/

section Return
variable {id : Nat} {w : Warp} {b : Block} (hw : s.warp id = some w) (hb : s.blocks.find w.block = some b)

/-- R67, R84: an allotment that may return. -/
def State.mayReturn (s : State) (id : Nat) (w : Warp) : Prop :=
  w.phase = .ended ∧ s.inFlight id = false ∧ s.genFree w.slotNo = true ∧ s.backHeld (ofWarp w) = false

theorem mayReturn_iff : s.mayReturn id w ↔
    ¬ (w.phase != .ended || s.inFlight id || !s.genFree w.slotNo || s.backHeld (ofWarp w)) = true := by
  simp [State.mayReturn, and_assoc]

include hw

theorem allotmentReturn_waits (h : ¬ s.mayReturn id w) : exec (.allotmentReturn id) s = .next s := by
  change Host.Outcome.next _ = _
  rw [hw]
  dsimp only
  rw [if_pos (not_not.1 (mt mayReturn_iff.2 h))]

include hb

theorem allotmentReturn_returns (h : s.mayReturn id w) : exec (.allotmentReturn id) s = .next { s.sendOwn w with
    warps := (s.sendOwn w).warps.erase id
    blocks := s.blocks.put w.block { b with resWarp := if b.resWarp = some id then none else b.resWarp }
    gens := Store.set 0 s.gens w.slotNo ((s.gen w.slotNo + 1) % 64) } := by
  obtain ⟨hbl, hg, -⟩ := s.sameBlocks_sendOwn w
  change Host.Outcome.next _ = _
  rw [hw]
  dsimp only
  rw [if_neg (mayReturn_iff.1 h)]
  generalize s.sendOwn w = u at hbl hg
  have hu : u.blocks.find w.block = some b := by rw [hbl]; exact hb
  rw [State.mapBlock_of (s := ({ u with warps := u.warps.erase id } : State).bumpGen w.slotNo) hu, State.bumpGen]
  dsimp only
  rw [hbl, State.gen, hg]
  by_cases hr : b.resWarp = some id
  · rw [if_pos hr, if_pos hr]
    rfl
  · rw [if_neg hr, if_neg hr]
    rfl

end Return

/-- R134: a warp that the L1 holds no loose byte for sends none home. -/
theorem State.sendOwn_none {w : Warp} (h : s.loose (ofWarp w) 0 (2 ^ 96) = []) :
    (s.sendOwn w).warps = s.warps ∧ (s.sendOwn w).mem = s.mem := by
  unfold State.sendOwn State.sendHome
  rw [h]
  unfold State.writeBack
  dsimp only [firstOfLine, List.filter_nil, List.foldl_nil]
  rw [h]
  exact ⟨rfl, rfl⟩

/-! ### Schedulers (R41, R361, R362) -/

theorem admissionThrottle_marks (s : State) (core : Nat) : ∃ t, exec (.admissionThrottle core) s = .next t ∧
    t = { s with throttled := t.throttled } ∧
    (core ∈ t.throttled ↔ core ∈ s.throttled ∨ s.longWait core = true) ∧
    ∀ c, c ≠ core → (c ∈ t.throttled ↔ c ∈ s.throttled) := by
  refine ⟨_, rfl, ?_⟩
  by_cases h : (s.longWait core && !s.throttled.contains core) = true
  · rw [if_pos h]
    have hl : s.longWait core = true := (Bool.and_eq_true_iff.1 h).1
    exact ⟨rfl, by simp [hl], fun c hc => by simp [hc]⟩
  · rw [if_neg h]
    refine ⟨rfl, ⟨.inl, fun hm => hm.elim id fun hl => ?_⟩, fun c _ => Iff.rfl⟩
    simpa [hl] using h

theorem mem_liftThrottle (s : State) (c : Nat) : c ∈ s.liftThrottle.throttled ↔ s.longWait c = true := by
  simp only [State.liftThrottle, List.mem_filter, List.mem_eraseDups, List.mem_map]
  refine ⟨fun h => h.2, fun h => ⟨?_, h⟩⟩
  obtain ⟨p, hp, hc⟩ := List.any_eq_true.1 h
  refine ⟨p, hp, ?_⟩
  simp only [Bool.and_eq_true, beq_iff_eq] at hc
  exact hc.1.1.1

theorem priorityBoost_next {id : Nat} {w : Warp} (hw : s.warp id = some w) : exec (.priorityBoost id) s = .next
    (if s.mayIssue w = true ∧ s.blockedNow w = false ∧ w.idleSince + 768 ≤ s.clock
      then s.putWarp id { w with boosted := true } else s) := by
  change Host.Outcome.next _ = _
  rw [hw]
  dsimp only
  simp only [Bool.and_eq_true, Bool.not_eq_true', decide_eq_true_eq, and_assoc]

/-- R362: each score of a quarter halved `n` times. -/
def State.halved (s : State) (q n : Nat) : State :=
  { s with
    decayAt := Store.set 0 s.decayAt q s.clock
    warps := s.warps.map fun p => (p.1, p.2.map fun w => if w.quarterNo = q then { w with score := w.score / 2 ^ n } else w) }

theorem State.warp_halved (s : State) (q n j : Nat) : (s.halved q n).warp j =
    (s.warp j).map fun w => if w.quarterNo = q then { w with score := w.score / 2 ^ n } else w :=
  Table.find_map (fun _ (w : Warp) => if w.quarterNo = q then { w with score := w.score / 2 ^ n } else w) s.warps j

theorem scoreDecay_none {q : Nat} (h : s.decayDue q = 0) : exec (.scoreDecay q) s = .next s :=
  congrArg Host.Outcome.next (if_pos h)

theorem scoreDecay_some {q : Nat} (h : s.decayDue q ≠ 0) : exec (.scoreDecay q) s = .next (s.halved q (s.decayDue q)) :=
  congrArg Host.Outcome.next (if_neg h)

theorem scoreDecay_halves (s : State) (q : Nat) : ∃ t, exec (.scoreDecay q) s = .next t ∧
    t = { s with warps := t.warps, decayAt := t.decayAt } ∧ (s.decayDue q = 0 → t = s) ∧
    (∀ j, t.warp j =
      (s.warp j).map fun w => if w.quarterNo = q then { w with score := w.score / 2 ^ s.decayDue q } else w) ∧
    ∀ r, Store.get 0 t.decayAt r = if r = q ∧ s.decayDue q ≠ 0 then s.clock else Store.get 0 s.decayAt r := by
  by_cases hn : s.decayDue q = 0
  · refine ⟨s, scoreDecay_none hn, rfl, fun _ => rfl, fun j => ?_, fun r => (if_neg fun h => h.2 hn).symm⟩
    rw [hn]
    simp
  · refine ⟨_, scoreDecay_some hn, rfl, fun h => absurd h hn, s.warp_halved q _, fun r => (Store.get_set _ _ _ _).trans ?_⟩
    simp [hn]

theorem grants : Claims.grants := by
  intro s
  refine ⟨fun _ _ _ _ hq hw hf => acquireGrant_grants hq hw hf, fun _ _ _ _ => acquireGrant_waits,
    fun _ _ _ _ _ _ => gclaimGrant_grants, fun id w b hw hb => ⟨allotmentReturn_waits hw, fun h => ?_⟩,
    admissionThrottle_marks s, ⟨rfl, mem_liftThrottle s⟩, fun _ _ => priorityBoost_next, scoreDecay_halves s⟩
  refine ⟨_, _, allotmentReturn_returns hw hb h, (Table.find_erase _ _ _).trans (if_pos rfl),
    fun j hj => (Table.find_erase _ _ _).trans (if_neg hj), State.sendOwn_none, rfl, rfl, fun n => ?_⟩
  refine (Store.get_set _ _ _ _).trans ?_
  by_cases hn : n = w.slotNo
  · rw [if_pos hn, if_pos hn, hn]
  · rw [if_neg hn, if_neg hn]
    rfl

end Sys2Proof.Machine
end

section
/-! SUPPORT. What the warp former reads of a record (R54, R368, R385, R398, Table 2.3). -/

namespace Sys2Proof.Machine

variable {s : State} {ag : Agent}

/-- R54: a read within one translated line that can be reached and has not failed. -/
theorem fetchSpan_line {va : DWord} {n : Nat} {t : Trans} (hx : s.xspan ag va n .read = .ok [(t, n)])
    (hp : s.planeHeld t.key = false) (hl : s.leafHeld t false = false) (hf : s.runFailed t.key n = false)
    (hb : s.broken ag.core t.key = false) : s.fetchSpan ag va n = .ok (s.bytes t.key n, s.touch t false) := by
  unfold State.fetchSpan
  rw [hx]
  dsimp only
  rw [if_neg (by simp [hp, hl]), if_neg (by simp [hf, hb])]
  simp [State.readSpan]

/-- R54: a read that lies within the block's region is that of its bytes alone. -/
theorem fetchRegion_within {u : State} {b : Block} {va : DWord} {n : Nat} {l : List Byte}
    (h : s.fetchSpan ag va n = .ok (l, u)) (hn : n ≤ b.poolOffset b.poolSize - (va - b.spawnBase).toNat) :
    s.fetchRegion ag b va n = .ok (l, u) := by
  unfold State.fetchRegion
  dsimp only
  rw [Nat.min_eq_left hn, h]
  dsimp only
  rw [Nat.sub_self, lineRuns, if_pos rfl]
  dsimp only [State.strayRuns]
  rw [List.append_nil]

/-- A number's bit as arithmetic writes it. -/
theorem testBit_two (n : Nat) : n.testBit 2 = decide (n / 4 % 2 = 1) := Nat.testBit_eq_decide_div_mod_eq

theorem readRec_reads {u1 u2 u3 : State} {b : Block} {va slot : Nat} {head live link : List Byte}
    (h1 : s.fetchSpan ag (b.recAddr slot) 24 = .ok (head, u1))
    (h2 : u1.fetchSpan ag (b.recAddr slot + 24) (4 * min (bytesAt head 21 1) va) = .ok (live, u2))
    (h3 : u2.fetchSpan ag (b.recAddr slot + BitVec.ofNat 64 (24 + 4 * bytesAt head 21 1))
      (if (bytesAt head 22 2).testBit 2 ∧ 112 ≤ va then 8 else 0) = .ok (link, u3))
    (hin : slot * b.recSize + 24 + 4 * bytesAt head 21 1 + 8 ≤ b.poolOffset b.poolSize)
    (hlt : b.poolOffset b.poolSize < 2 ^ 64) :
    s.readRec ag b va slot = .ok (⟨BitVec.ofNat 64 (bytesAt head 0 8), BitVec.ofNat 64 (bytesAt head 8 8),
      bytesAt head 16 4, bytesAt head 20 1, bytesAt head 22 2, live, link⟩, u3) := by
  have hat (n : Nat) (h : slot * b.recSize + n < 2 ^ 64) :
      (b.recAddr slot + BitVec.ofNat 64 n - b.spawnBase).toNat = slot * b.recSize + n := by
    have : b.recAddr slot + BitVec.ofNat 64 n - b.spawnBase = BitVec.ofNat 64 (slot * b.recSize + n) := by
      rw [Block.recAddr, BitVec.ofNat_add]
      generalize BitVec.ofNat 64 (slot * b.recSize) = x
      generalize BitVec.ofNat 64 n = y
      generalize b.spawnBase = z
      bv_omega
    rw [this, BitVec.toNat_ofNat, Nat.mod_eq_of_lt h]
  have g2 := fetchRegion_within h2 (b := b) (by
    have := hat 24 (by omega)
    have e : b.recAddr slot + 24 = b.recAddr slot + BitVec.ofNat 64 24 := rfl
    rw [e, this]
    omega)
  have hc : (if (bytesAt head 22 2).testBit 2 ∧ 112 ≤ va then 8 else 0) =
      if (decide (bytesAt head 22 2 / 4 % 2 = 1) && decide (112 ≤ va)) = true then 8 else 0 := by simp [testBit_two]
  have g3 := fetchRegion_within h3 (b := b) (by
    rw [hat _ (by omega)]
    split <;> omega)
  rw [hc] at g3
  unfold bytesAt at g2 g3
  unfold State.readRec
  dsimp only
  rw [h1]
  dsimp only
  rw [g2]
  dsimp only
  rw [g3]
  rfl

/-- R54: the bytes beyond the region, line by line. -/
theorem strayRuns_read {u v : State} {va : DWord} {n : Nat} {rest : List (DWord × Nat)} {l m : List Byte}
    (h : s.fetchSpan ag va n = .ok (l, u)) (hr : u.strayRuns ag rest = .ok (m, v)) :
    s.strayRuns ag ((va, n) :: rest) = .ok (l ++ m, v) := by
  rw [State.strayRuns]
  dsimp only
  rw [h]
  dsimp only
  rw [hr]

theorem strayRuns_free {v : State} {va : DWord} {n : Nat} {rest : List (DWord × Nat)} {m : List Byte} {e : DWord × Fail}
    (h : s.fetchSpan ag va n = .error e) (he : e.2.cause ≠ heldCause)
    (hr : ({ s with fresh := s.fresh + 1 } : State).strayRuns ag rest = .ok (m, v)) :
    s.strayRuns ag ((va, n) :: rest) = .ok ((List.range n).map (Config.strayByte s.fresh) ++ m, v) := by
  rw [State.strayRuns]
  dsimp only
  rw [h]
  dsimp only
  rw [if_neg he]
  dsimp only
  rw [hr]

theorem recordsRead : Claims.recordsRead :=
  ⟨fun _ _ _ _ _ => fetchSpan_line, fun _ _ _ _ _ _ _ _ _ _ _ => readRec_reads,
    fun _ _ _ _ _ => ⟨fun _ _ h _ _ => strayRuns_read h, fun _ h he _ _ => strayRuns_free h he⟩⟩

end Sys2Proof.Machine
end

section
/-! SUPPORT. When the warp former forms a warp (R53, R55, R56, R364). -/

namespace Sys2Proof.Machine

/-! ### Sorted lists -/

theorem insertBy_perm {α : Type} (lt : α → α → Bool) (x : α) (l : List α) : (insertBy lt x l).Perm (x :: l) := by
  induction l with
  | nil => exact .refl _
  | cons y r ih =>
    rw [insertBy]
    split
    · exact .refl _
    · exact (ih.cons y).trans (.swap x y r)

theorem sortBy_perm {α : Type} (lt : α → α → Bool) (l : List α) : (sortBy lt l).Perm l := by
  induction l with
  | nil => exact .refl _
  | cons x r ih => exact (insertBy_perm lt x _).trans (ih.cons x)

variable {s : State} {block rec_ slot : Nat} {b : Block} {r : Rec} {c : Cluster}

/-- R55, R66: who is of the group of a record. -/
theorem mem_groupOf {x : Rec} : x ∈ s.groupOf block b r ↔ x ∈ b.recs ∧ x.pc = r.pc ∧ x.follower = r.follower ∧
    x.super = r.super ∧ x.m = r.m ∧ x.pool = r.pool ∧ s.joinTwin block b x = none := by
  rw [State.groupOf, (sortBy_perm _ _).mem_iff]
  simp [Rec.mergeable, and_assoc]

/-- R53: nothing keeps a group from forming in a slot. -/
def State.groupFree (s : State) (b : Block) (g : List Rec) (slot : Nat) : Prop :=
  b.swapped = false ∧ g ≠ [] ∧ (∀ x ∈ g, x.token = none) ∧ s.formerSlot b slot = true

section Try
variable (hb : s.blocks.find block = some b) (hr : b.recs.find? (fun r => r.slot == rec_) = some r)
  (hc : s.clusters.find b.cluster = some c)
include hb hr hc

theorem tryForm_forms {may : Block → List Rec → Bool} (hf : s.groupFree b (s.groupOf block b r) slot)
    (hm : may b (s.groupOf block b r) = true) : s.tryForm block rec_ slot may = s.form block slot b c (s.groupOf block b r) := by
  obtain ⟨h1, h2, h3, h4⟩ := hf
  unfold State.tryForm
  rw [hb]
  dsimp only
  rw [hr, hc]
  refine if_neg ?_
  simpa [h1, h2, h4, hm] using h3

theorem tryForm_none {may : Block → List Rec → Bool}
    (h : ¬ (s.groupFree b (s.groupOf block b r) slot ∧ may b (s.groupOf block b r) = true)) :
    s.tryForm block rec_ slot may = s := by
  unfold State.tryForm
  rw [hb]
  dsimp only
  rw [hr, hc]
  refine if_pos ?_
  by_contra hn
  refine h ?_
  simp only [Bool.or_eq_true, not_or, Bool.not_eq_true, Bool.not_eq_false', List.any_eq_false, Option.isSome_iff_ne_none,
    beq_eq_false_iff_ne, not_not, ne_eq] at hn
  obtain ⟨⟨⟨⟨h1, h2⟩, h3⟩, h4⟩, h5⟩ := hn
  exact ⟨⟨h1, h2, h3, h5⟩, h4⟩

end Try

theorem groupReady_iff {g : List Rec} : s.groupReady block b g = true ↔
    128 ≤ g.length ∨ s.quiet block = true ∨ (s.poolWaits block = true ∧ b.holdsOldest g = true) := by
  simp [State.groupReady, or_assoc]

theorem groupExpired_iff {g : List Rec} : s.groupExpired g = true ↔ ∃ o rest, g = o :: rest ∧ o.waited + 2048 ≤ s.clock := by
  cases g <;> simp [State.groupExpired]

theorem groupsForm (hb : s.blocks.find block = some b) (hr : b.recs.find? (fun r => r.slot == rec_) = some r)
    (hc : s.clusters.find b.cluster = some c) :
    let g := s.groupOf block b r
    let may := 128 ≤ g.length ∨ s.quiet block = true ∨ (s.poolWaits block = true ∧ b.holdsOldest g = true)
    let late := ∃ o rest, g = o :: rest ∧ o.waited + 2048 ≤ s.clock
    (s.groupFree b g slot → may → exec (.warpFormation block rec_ slot) s = .next (s.form block slot b c g)) ∧
    (s.groupFree b g slot → late → exec (.groupWaitExpiry block rec_ slot) s = .next (s.form block slot b c g)) ∧
    (¬ (s.groupFree b g slot ∧ may) → exec (.warpFormation block rec_ slot) s = .next s) ∧
    (¬ (s.groupFree b g slot ∧ late) → exec (.groupWaitExpiry block rec_ slot) s = .next s) := by
  intro g may late
  have hm : s.groupReady block b g = true ↔ may := groupReady_iff
  have hl : s.groupExpired g = true ↔ late := groupExpired_iff
  exact ⟨fun hf h => congrArg Host.Outcome.next (tryForm_forms hb hr hc hf (hm.2 h)),
    fun hf h => congrArg Host.Outcome.next (tryForm_forms (may := fun _ g => s.groupExpired g) hb hr hc hf (hl.2 h)),
    fun h => congrArg Host.Outcome.next (tryForm_none hb hr hc fun e => h ⟨e.1, hm.1 e.2⟩),
    fun h => congrArg Host.Outcome.next (tryForm_none (may := fun _ g => s.groupExpired g) hb hr hc fun e => h ⟨e.1, hl.1 e.2⟩)⟩

end Sys2Proof.Machine
end

section
/-! SUPPORT. A warp formed from records (R53 to R57, R83). -/

namespace Sys2Proof.Machine

/-! ### One record restored (R54, R57) -/

theorem length_wordsOf (l : List Byte) : (wordsOf l).length = l.length / 4 := by simp [wordsOf]

theorem getD_wordsOf {l : List Byte} {i : Nat} (h : i < l.length / 4) :
    (wordsOf l).getD i 0 = BitVec.ofNat 32 (natOfBytes ((l.drop (4 * i)).take 4)) := by
  rw [wordsOf, List.getD_eq_getElem?_getD, List.getElem?_map, List.getElem?_range h]
  rfl

/-- R54: one word put into a v register of position `t`. -/
def Warp.putWord (t : Nat) (w : Warp) (p : Word × Nat) : Warp := { w with v := Store.set 0 w.v (p.2 * 128 + t) p.1 }

theorem Warp.vr_putWord {t q : Nat} (ht : t < 128) (hq : q < 128) (w : Warp) (p : Word × Nat) (i : Nat) :
    (w.putWord t p).vr i q = if i = p.2 ∧ q = t then p.1 else w.vr i q := by
  refine (Store.get_set _ _ _ _).trans ?_
  by_cases h : i = p.2 ∧ q = t
  · rw [if_pos (by rw [h.1, h.2]), if_pos h]
  · rw [if_neg fun e => h (key_inj hq ht e), if_neg h]
    rfl

/-- R54: words put into the v registers of position `t` from register `n` on. -/
theorem foldl_putWord {t : Nat} (ht : t < 128) (l : List Word) (n : Nat) (w : Warp) :
    (l.zipIdx n).foldl (Warp.putWord t) w = { w with v := ((l.zipIdx n).foldl (Warp.putWord t) w).v } ∧
      ∀ i, ∀ q < 128, ((l.zipIdx n).foldl (Warp.putWord t) w).vr i q =
        if q = t ∧ n ≤ i ∧ i < n + l.length then l.getD (i - n) 0 else w.vr i q := by
  induction l generalizing n w with
  | nil =>
    refine ⟨rfl, fun i q _ => (if_neg fun h => ?_).symm⟩
    have := h.2.2
    simp only [List.length_nil] at this
    omega
  | cons x r ih =>
    rw [List.zipIdx_cons, List.foldl_cons]
    obtain ⟨he, hv⟩ := ih (n + 1) (w.putWord t (x, n))
    refine ⟨by rw [he]; rfl, fun i q hq => ?_⟩
    rw [hv i q hq, Warp.vr_putWord ht hq, List.length_cons]
    by_cases hi : q = t ∧ n + 1 ≤ i ∧ i < n + 1 + r.length
    · have h2 : i - n = i - (n + 1) + 1 := by omega
      rw [if_pos hi, if_pos ⟨hi.1, by omega, by omega⟩, h2, List.getD_cons_succ]
    · rw [if_neg hi]
      by_cases hn : i = n ∧ q = t
      · rw [if_pos hn, if_pos ⟨hn.2, by omega, by omega⟩, hn.1, Nat.sub_self, List.getD_cons_zero]
      · rw [if_neg hn, if_neg fun h => ?_]
        by_cases e : i = n
        · exact hn ⟨e, h.1⟩
        · exact hi ⟨h.1, by omega, by omega⟩

/-- R54: what a v register of a position holds once a record is restored there. -/
def RecImage.word (r : RecImage) (i : Nat) (old : Word) : Word :=
  if 110 ≤ i ∧ i < 110 + r.link.length / 4 then BitVec.ofNat 32 (natOfBytes ((r.link.drop (4 * (i - 110))).take 4))
  else if i < r.live.length / 4 then BitVec.ofNat 32 (natOfBytes ((r.live.drop (4 * i)).take 4)) else old

theorem bit_single {t q : Nat} (hq : q < 128) : (1#128 <<< t).getLsbD q = decide (q = t) := by
  rw [BitVec.getLsbD_shiftLeft, BitVec.getLsbD_one]
  by_cases h : q = t
  · subst h; simp [hq]
  · by_cases hlt : q < t
    · simp [h, hlt]
    · have : q - t ≠ 0 := by omega
      simp [h, this]

theorem bit_ofTestBit (m i : Nat) {q : Nat} (hq : q < 128) :
    ((if m / 2 ^ i % 2 = 1 then BitVec.allOnes 128 else 0 : Mask)).getLsbD q = m.testBit i := by
  rw [Nat.testBit_eq_decide_div_mod_eq]
  by_cases h : m / 2 ^ i % 2 = 1
  · rw [if_pos h, decide_eq_true h]
    exact BitVec.getLsbD_allOnes.trans (decide_eq_true hq)
  · rw [if_neg h, decide_eq_false h]
    exact BitVec.getLsbD_zero

/-- R54: predicates p1 to pn of position `t` set to the bits of a number. -/
def Warp.setPreds (w : Warp) (t m n : Nat) : Warp :=
  (List.range n).foldl (fun w i => w.setP (i + 1) (1#128 <<< t) (if m / 2 ^ i % 2 = 1 then BitVec.allOnes 128 else 0)) w

theorem Warp.setPreds_succ (w : Warp) (t m n : Nat) : w.setPreds t m (n + 1) =
    (w.setPreds t m n).setP (n + 1) (1#128 <<< t) (if m / 2 ^ n % 2 = 1 then BitVec.allOnes 128 else 0) := by
  rw [Warp.setPreds, List.range_succ, List.foldl_append]
  rfl

theorem Warp.setPreds_frame (w : Warp) (t m n : Nat) : w.setPreds t m n = { w with p := (w.setPreds t m n).p } := by
  induction n with
  | zero => rfl
  | succ n ih => rw [Warp.setPreds_succ, Warp.setP, if_neg (Nat.succ_ne_zero n), ih]

theorem Warp.pr_setPreds (w : Warp) (t m n i : Nat) {q : Nat} (hq : q < 128) :
    ((w.setPreds t m n).pr (i + 1)).getLsbD q = if q = t ∧ i < n then m.testBit i else (w.pr (i + 1)).getLsbD q := by
  induction n with
  | zero => simp [Warp.setPreds]
  | succ n ih =>
    rw [Warp.setPreds_succ, pWritten_setP _ _ _ _ _ q hq, bit_single hq]
    dsimp only
    rw [bit_ofTestBit _ _ hq, ih]
    by_cases hi : i = n
    · subst hi
      by_cases e : q = t <;> simp [e]
    · have : i < n + 1 ↔ i < n := by omega
      simp [hi, this]

/-- R54: the v registers of a record put at a position. -/
def Warp.putRegs (w : Warp) (t : Nat) (r : RecImage) : Warp :=
  ((wordsOf r.link).zipIdx 110).foldl (Warp.putWord t) (((wordsOf r.live).zipIdx 0).foldl (Warp.putWord t) w)

theorem Warp.putRegs_spec {t : Nat} (ht : t < 128) (w : Warp) (r : RecImage) :
    w.putRegs t r = { w with v := (w.putRegs t r).v } ∧
      ∀ i, ∀ q < 128, (w.putRegs t r).vr i q = if q = t then r.word i (w.vr i q) else w.vr i q := by
  obtain ⟨h1, hv1⟩ := foldl_putWord ht (wordsOf r.live) 0 w
  obtain ⟨h2, hv2⟩ := foldl_putWord ht (wordsOf r.link) 110 (((wordsOf r.live).zipIdx 0).foldl (Warp.putWord t) w)
  refine ⟨by rw [Warp.putRegs, h2, h1], fun i q hq => ?_⟩
  rw [Warp.putRegs, hv2 i q hq, hv1 i q hq, length_wordsOf, length_wordsOf, RecImage.word]
  by_cases e : q = t
  · by_cases hk : 110 ≤ i ∧ i < 110 + r.link.length / 4
    · rw [if_pos ⟨e, hk⟩, if_pos e, if_pos hk, getD_wordsOf (by omega)]
    · rw [if_neg fun h => hk h.2, if_pos e, if_neg hk]
      by_cases hl : i < r.live.length / 4
      · rw [if_pos ⟨e, Nat.zero_le _, by omega⟩, if_pos hl, Nat.sub_zero, getD_wordsOf hl]
      · rw [if_neg (by omega), if_neg hl]
  · rw [if_neg fun h => e h.1, if_neg fun h => e h.1, if_neg e]

/-- R54: a record restored at a position: its v registers, its predicates and its position in the mask, and nothing else. -/
theorem restore_spec {t : Nat} (ht : t < 128) (w : Warp) (r : RecImage) :
    w.restore t r = { w with v := (w.restore t r).v, p := (w.restore t r).p, mask := w.mask ||| (1#128 <<< t) } ∧
      (∀ i, ∀ q < 128, (w.restore t r).vr i q = if q = t then r.word i (w.vr i q) else w.vr i q) ∧
      ∀ i < 7, ∀ q < 128, ((w.restore t r).pr (i + 1)).getLsbD q =
        if q = t then r.preds.testBit i else (w.pr (i + 1)).getLsbD q := by
  obtain ⟨h1, hv⟩ := w.putRegs_spec ht r
  have h2 := (w.putRegs t r).setPreds_frame t r.preds 7
  have hp := fun i {q : Nat} => (w.putRegs t r).pr_setPreds t r.preds 7 i (q := q)
  have he : w.restore t r = { (w.putRegs t r).setPreds t r.preds 7 with
      mask := ((w.putRegs t r).setPreds t r.preds 7).mask ||| (1#128 <<< t) } := rfl
  generalize (w.putRegs t r).setPreds t r.preds 7 = w2 at he h2 hp
  generalize w.putRegs t r = w1 at h1 hv h2 hp
  rw [he]
  refine ⟨by rw [h2, h1], fun i q hq => ?_, fun i hi q hq => ?_⟩
  · rw [← hv i q hq, h2]
    rfl
  · refine (hp i hq).trans ?_
    rw [h1]
    simp [hi, Warp.pr]

end Sys2Proof.Machine
end

section
/-! SUPPORT. A warp formed from the records of a group (R53 to R57, R83), and the warp former, grants and schedulers settled. -/

namespace Sys2Proof.Machine

/-! ### The threads of a formed warp (R57) -/

/-- R57: one thread put at a position of a formed warp. -/
def Warp.seat (w : Warp) (p : Nat × RecImage) : Warp :=
  { w.restore p.1 p.2 with wids := Store.set 0 w.wids p.1 p.2.wid }

/-- R54, R57: a warp holds a record's thread at a position, every other v register as it was. -/
def Warp.seats (w w0 : Warp) (p : Nat) (x : RecImage) : Prop :=
  Store.get 0 w.wids p = x.wid ∧ (∀ i, w.vr i p = x.word i (w0.vr i p)) ∧
    ∀ i < 7, (w.pr (i + 1)).getLsbD p = x.preds.testBit i

/-- A warp has at a position what another has. -/
def Warp.same (w w0 : Warp) (p : Nat) : Prop :=
  Store.get 0 w.wids p = Store.get 0 w0.wids p ∧ (∀ i, w.vr i p = w0.vr i p) ∧
    ∀ i < 7, (w.pr (i + 1)).getLsbD p = (w0.pr (i + 1)).getLsbD p

theorem Warp.vr_seated (w : Warp) (m : Store DWord) (i q : Nat) : ({ w with wids := m } : Warp).vr i q = w.vr i q := rfl

theorem Warp.pr_seated (w : Warp) (m : Store DWord) (i : Nat) : ({ w with wids := m } : Warp).pr i = w.pr i := rfl

section Seat
variable {w : Warp} {p : Nat × RecImage} (hp : p.1 < 128)
include hp

theorem seat_frame : w.seat p = { w with
    v := (w.seat p).v, p := (w.seat p).p, mask := w.mask ||| (1#128 <<< p.1), wids := (w.seat p).wids } := by
  have h := (restore_spec hp w p.2).1
  unfold Warp.seat
  rw [h]

theorem seat_self : (w.seat p).seats w p.1 p.2 := by
  obtain ⟨-, hv, hb⟩ := restore_spec hp w p.2
  unfold Warp.seat Warp.seats
  generalize w.restore p.1 p.2 = w1 at hv hb
  refine ⟨(Store.get_set _ _ _ _).trans (if_pos rfl), fun i => ?_, fun i hi => ?_⟩
  · rw [Warp.vr_seated, hv i p.1 hp, if_pos rfl]
  · rw [Warp.pr_seated, hb i hi p.1 hp, if_pos rfl]

theorem seat_other {q : Nat} (hq : q < 128) (h : q ≠ p.1) : (w.seat p).same w q := by
  obtain ⟨-, hv, hb⟩ := restore_spec hp w p.2
  unfold Warp.seat Warp.same
  generalize w.restore p.1 p.2 = w1 at hv hb
  refine ⟨(Store.get_set _ _ _ _).trans (if_neg h), fun i => ?_, fun i hi => ?_⟩
  · rw [Warp.vr_seated, hv i q hq, if_neg h]
  · rw [Warp.pr_seated, hb i hi q hq, if_neg h]

end Seat

theorem Warp.same.trans {w w1 w2 : Warp} {p : Nat} (h : w.same w1 p) (h1 : w1.same w2 p) : w.same w2 p :=
  ⟨h.1.trans h1.1, fun i => (h.2.1 i).trans (h1.2.1 i), fun i hi => (h.2.2 i hi).trans (h1.2.2 i hi)⟩

/-- R57: threads put at different positions, one after another. -/
theorem withThreads_spec (l : List (Nat × RecImage)) (w : Warp) (hl : ∀ p ∈ l, p.1 < 128)
    (hd : l.Pairwise fun p q => p.1 ≠ q.1) :
    w.withThreads l = { w with v := (w.withThreads l).v, p := (w.withThreads l).p
                               mask := (w.withThreads l).mask, wids := (w.withThreads l).wids } ∧
      (∀ q < 128, (w.withThreads l).mask.getLsbD q = (w.mask.getLsbD q || decide (∃ p ∈ l, p.1 = q))) ∧
      (∀ p ∈ l, (w.withThreads l).seats w p.1 p.2) ∧
      ∀ q < 128, (∀ p ∈ l, p.1 ≠ q) → (w.withThreads l).same w q := by
  induction l generalizing w with
  | nil =>
    exact ⟨rfl, fun q _ => by simp [Warp.withThreads], fun p hp => absurd hp List.not_mem_nil,
      fun _ _ _ => ⟨rfl, fun _ => rfl, fun _ _ => rfl⟩⟩
  | cons a r ih =>
    have ha : a.1 < 128 := hl a List.mem_cons_self
    obtain ⟨hda, hdr⟩ := List.pairwise_cons.1 hd
    obtain ⟨h1, h2, h3, h4⟩ := ih (w.seat a) (fun p hp => hl p (List.mem_cons_of_mem _ hp)) hdr
    have he : w.withThreads (a :: r) = (w.seat a).withThreads r := rfl
    rw [he]
    have hf := seat_frame (w := w) ha
    refine ⟨?_, fun q hq => ?_, fun p hp => ?_, fun q hq hn => ?_⟩
    · rw [h1, hf]
    · rw [h2 q hq, hf]
      have he : (∃ p ∈ a :: r, p.1 = q) ↔ q = a.1 ∨ ∃ p ∈ r, p.1 = q := by simp [eq_comm]
      rw [decide_eq_decide.2 he, BitVec.getLsbD_or, bit_single hq, Bool.decide_or, Bool.or_assoc]
    · obtain rfl | hp := List.mem_cons.1 hp
      · obtain ⟨g1, g2, g3⟩ := h4 p.1 ha fun q hq => (hda q hq).symm
        obtain ⟨k1, k2, k3⟩ := seat_self (w := w) ha
        exact ⟨g1.trans k1, fun i => (g2 i).trans (k2 i), fun i hi => (g3 i hi).trans (k3 i hi)⟩
      · obtain ⟨g1, g2, g3⟩ := h3 p hp
        have hs := seat_other (w := w) ha (hl p (List.mem_cons_of_mem _ hp)) (hda p hp).symm
        exact ⟨g1, fun i => by rw [g2 i, hs.2.1 i], g3⟩
    · exact (h4 q hq fun p hp => hn p (List.mem_cons_of_mem _ hp)).trans
        (seat_other ha hq (hn a List.mem_cons_self).symm)

/-! ### The formed warp (R57) -/

theorem get_foldl_set (f : Nat → DWord) (n : Nat) (i : Nat) :
    Store.get 0 ((List.range n).foldl (fun m j => Store.set 0 m j (f j)) []) i = if i < n then f i else 0 := by
  induction n with
  | zero => rfl
  | succ n ih =>
    rw [List.range_succ, List.foldl_append]
    refine (Store.get_set _ _ _ _).trans ?_
    rw [ih]
    by_cases h : i = n
    · simp [h]
    · have : i < n + 1 ↔ i < n := by omega
      simp [h, this]

theorem testBit_one (n : Nat) : n.testBit 1 = decide (n / 2 % 2 = 1) := Nat.testBit_eq_decide_div_mod_eq

theorem testBit_three (n : Nat) : n.testBit 3 = decide (n / 8 % 2 = 1) := Nat.testBit_eq_decide_div_mod_eq

/-- The positions from 0 on, each with the image that it takes (R57). -/
def seatsOf (l : List RecImage) : List (Nat × RecImage) := (List.range l.length).zip l

theorem mem_seatsOf {l : List RecImage} {p : Nat} {x : RecImage} (h : l[p]? = some x) : (p, x) ∈ seatsOf l := by
  obtain ⟨hp, -⟩ := List.getElem?_eq_some_iff.1 h
  exact List.mem_of_getElem? (i := p) (List.getElem?_zip_eq_some.2 ⟨List.getElem?_range hp, h⟩)

theorem map_fst_seatsOf (l : List RecImage) : (seatsOf l).map Prod.fst = List.range l.length :=
  List.map_fst_zip (by simp)

theorem seatsOf_spec {l : List RecImage} (hl : l.length ≤ 128) : (∀ p ∈ seatsOf l, p.1 < 128) ∧
    ((seatsOf l).Pairwise fun p q => p.1 ≠ q.1) ∧ ∀ q, (∃ p ∈ seatsOf l, p.1 = q) ↔ q < l.length := by
  have hm (q : Nat) : (∃ p ∈ seatsOf l, p.1 = q) ↔ q < l.length := by
    rw [← List.mem_map, map_fst_seatsOf, List.mem_range]
  refine ⟨fun p hp => ?_, List.pairwise_map.1 (by rw [map_fst_seatsOf]; exact List.nodup_range), hm⟩
  exact ((hm p.1).1 ⟨p, hp, rfl⟩).trans_le hl

theorem length_readRecs {ag : Agent} {b : Block} (g : List Rec) {s s1 : State} {l : List (Rec × RecImage)}
    (h : s.readRecs ag b g = .ok (l, s1)) : l.length = g.length := by
  induction g generalizing s l with
  | nil =>
    rw [State.readRecs] at h
    cases h
    rfl
  | cons r rest ih =>
    rw [State.readRecs] at h
    split at h
    · cases h
    · split at h
      · cases h
      · next h2 =>
        cases h
        simp [ih h2]

/-- R57: a formed warp with its threads. -/
def formedWarp (c : Cluster) (block : Nat) (b : Block) (slot prio age clock : Nat) (i : RecImage) (ks : List DWord)
    (l : List RecImage) : Warp :=
  (formedBlank c block b slot prio age clock i ks).withThreads (seatsOf l)

/-- R57: the priority of a formed warp: that of its block's launch. -/
def State.prioOf (s : State) (b : Block) : Nat := match s.launches.find b.launch with | some l => l.hdr.prio | none => 0

/-- R53 to R57, R83: the state with a warp formed from records of a group, before twins are settled. -/
def State.withFormed (s : State) (block slot : Nat) (b : Block) (g : List Rec) (w : Warp) : State :=
  { (s.tick1.bumpGen slot).putWarp s.nextId w with
    blocks := s.blocks.put block { b.take (g.map (·.slot)) with
      arrivals := b.arrivals ++ if b.paired then g.map fun r => (r.slot, r.pc) else []
      resWarp := if slot == slotKey b.resCore b.resQuarter b.resSlot then some s.nextId else b.resWarp } }

theorem form_eq {s s1 s2 : State} {block slot : Nat} {b : Block} {c : Cluster} {g : List Rec} {l rest : List (Rec × RecImage)}
    {h : Rec × RecImage} {ks : List DWord}
    (h1 : s.readRecs ⟨c.cmp, c.ctx, slot / 128, b.cluster⟩ b (g.take 128) = .ok (l, s1))
    (h2 : sortBy (fun x y => x.2.wid.toNat < y.2.wid.toNat) l = h :: rest)
    (h3 : s1.readSnap ⟨c.cmp, c.ctx, slot / 128, b.cluster⟩ b h.2.snap h.1.m = .ok (ks, s2))
    (h4 : s2.blocks.find block = some b) : s.form block slot b c g = (s2.withFormed block slot b (g.take 128)
      (formedWarp c block b slot (s2.prioOf b) s2.gtime s2.clock h.2 ks ((h :: rest).map fun p => p.2))).settleTwins block := by
  unfold State.form
  dsimp only
  rw [h1]
  dsimp only
  rw [h2]
  dsimp only
  rw [h3]
  dsimp only
  rw [State.mapBlock_of (s := (s2.tick1.bumpGen slot).putWarp s2.nextId _) (id := block) h4]
  rfl

/-- R54, R57: what a formed warp holds. -/
theorem formedWarp_spec (c : Cluster) (block : Nat) (b : Block) (slot prio age clock : Nat) (i : RecImage) (ks : List DWord)
    {l : List RecImage} (hl : l.length ≤ 128) :
    let w := formedWarp c block b slot prio age clock i ks l
    w = { formedBlank c block b slot prio age clock i ks with v := w.v, p := w.p, mask := w.mask, wids := w.wids } ∧
      (∀ p < 128, w.mask.getLsbD p = decide (p < l.length)) ∧
      ∀ p x, l[p]? = some x → Store.get 0 w.wids p = x.wid ∧ (∀ j, w.vr j p = x.word j 0) ∧
        ∀ j < 7, (w.pr (j + 1)).getLsbD p = x.preds.testBit j := by
  intro w
  obtain ⟨hlt, hd, hm⟩ := seatsOf_spec hl
  obtain ⟨h1, h2, h3, -⟩ := withThreads_spec (seatsOf l) (formedBlank c block b slot prio age clock i ks) hlt hd
  refine ⟨h1, fun p hp => ?_, fun p x hx => h3 (p, x) (mem_seatsOf hx)⟩
  have h0 : (formedBlank c block b slot prio age clock i ks).mask.getLsbD p = false := BitVec.getLsbD_zero
  have h5 := h2 p hp
  rw [h0, Bool.false_or] at h5
  exact h5.trans (decide_eq_decide.2 (hm p))

theorem kr_formedBlank (c : Cluster) (block : Nat) (b : Block) (slot prio age clock : Nat) (i : RecImage) (ks : List DWord)
    (n : Nat) : (formedBlank c block b slot prio age clock i ks).kr n = ks.getD n 0 := by
  refine (get_foldl_set (fun j => ks.getD j 0) ks.length n).trans ?_
  split
  · rfl
  · next h => rw [List.getD_eq_default _ _ (by omega)]

/-- R53, R57, R68: the block of a formed warp has given up the records that it took. -/
theorem withFormed_spec (s : State) (block slot : Nat) (b : Block) (g : List Rec) (w : Warp) :
    let v := s.withFormed block slot b g w
    (b.paired = false → v.settleTwins block = v) ∧ v.warp s.nextId = some w ∧ (∀ j, j ≠ s.nextId → v.warp j = s.warp j) ∧
      v.gen slot = (s.gen slot + 1) % 64 ∧
      ∃ b1, v.blocks.find block = some b1 ∧ b1.recs = b.recs.filter fun x => !((g.map (·.slot)).contains x.slot) := by
  intro v
  have hb : v.blocks.find block = _ := Table.find_put_self _ _ _
  refine ⟨fun hp => settleTwins_unpaired fun b1 h1 => ?_, State.warp_putWarp_self _ _ _,
    fun j hj => State.warp_putWarp_other _ _ _ hj, (Store.get_set _ _ _ _).trans (if_pos rfl), _, hb, rfl⟩
  obtain rfl := Option.some.inj (hb.symm.trans h1)
  exact hp

theorem forming : Claims.forming := by
  refine ⟨fun s block rec_ slot b r c hb hr hc => ⟨fun x => mem_groupOf, groupsForm hb hr hc⟩, ?_⟩
  intro s block slot b c g l s1 s2 h rest ks ag h1 h2 h3 h4 n word
  have hn : ((h :: rest).map fun p => p.2).length = n := List.length_map _
  have hl : n ≤ 128 := by
    have hp := (sortBy_perm (fun x y : Rec × RecImage => decide (x.2.wid.toNat < y.2.wid.toNat)) l).length_eq
    rw [h2, length_readRecs _ h1, List.length_take] at hp
    exact hp.trans_le (Nat.min_le_left _ _)
  obtain ⟨hw, hm, hx⟩ := formedWarp_spec c block b slot (s2.prioOf b) s2.gtime s2.clock h.2 ks (hn.trans_le hl)
  have hf := form_eq h1 h2 h3 h4
  generalize formedWarp c block b slot (s2.prioOf b) s2.gtime s2.clock h.2 ks ((h :: rest).map fun p => p.2) = w at hw hm hx hf
  obtain ⟨hset, hid, ho, hg, hb⟩ := withFormed_spec s2 block slot b (g.take 128) w
  have hk := kr_formedBlank c block b slot (s2.prioOf b) s2.gtime s2.clock h.2 ks
  refine ⟨_, w, hf, hset, hid, ho, ?_, ?_, ?_⟩
  · rw [← hn]
    exact hm
  · intro p hp x hpx
    obtain ⟨hwid, hv, hpr⟩ := hx p x.2 (by rw [List.getElem?_map, hpx]; rfl)
    exact ⟨hwid, fun i _ => hv i, hpr⟩
  · rw [hw]
    refine ⟨fun _ _ => rfl, hk, fun _ => rfl, rfl, rfl, rfl, rfl, rfl, rfl, rfl, ?_, ?_, rfl, rfl, rfl, rfl, rfl, rfl, rfl, rfl,
      hg, hb⟩
    · simp [formedBlank, testBit_one]
    · exact (testBit_three h.2.flags).symm

/-- Settles O51: groups by what makes two records mergeable, the formed warp by folds over its records, what is read of a
record through the region's bounds, grants and schedulers by the branches of their events. -/
theorem formerAndSchedulers : Obligations.FormerAndSchedulers := ⟨forming, recordsRead, grants⟩

end Sys2Proof.Machine
end

section
/-! SUPPORT. The groups into which calli and reti divide threads, and the one that continues (R59, R306, R309). -/

namespace Sys2Proof.Machine

/-! ### Lists sorted by insertion -/

theorem insertBy_sorted {α : Type} (key : α → Nat) (x : α) {l : List α} (h : l.Pairwise fun a b => key a ≤ key b) :
    (insertBy (fun a b => key a < key b) x l).Pairwise fun a b => key a ≤ key b := by
  induction l with
  | nil => exact List.pairwise_singleton _ _
  | cons y r ih =>
    obtain ⟨hy, hr⟩ := List.pairwise_cons.1 h
    rw [insertBy]
    by_cases hxy : key x < key y
    · rw [if_pos (by simpa using hxy)]
      refine List.pairwise_cons.2 ⟨fun z hz => ?_, h⟩
      obtain rfl | hz := List.mem_cons.1 hz
      · exact hxy.le
      · exact hxy.le.trans (hy z hz)
    · rw [if_neg (by simpa using hxy)]
      refine List.pairwise_cons.2 ⟨fun z hz => ?_, ih hr⟩
      obtain rfl | hz := List.mem_cons.1 ((insertBy_perm _ _ _).mem_iff.1 hz)
      · exact Nat.le_of_not_lt hxy
      · exact hy z hz

theorem sortBy_sorted {α : Type} (key : α → Nat) (l : List α) :
    (sortBy (fun a b => key a < key b) l).Pairwise fun a b => key a ≤ key b := by
  induction l with
  | nil => exact List.Pairwise.nil
  | cons x r ih => exact insertBy_sorted key x ih

/-! ### The groups (R306, R309) -/

/-- The lowest position of a group. -/
def Shed.low (g : Shed) : Nat := (positions g.mask).headD 128

/-- R306, R309: the groups before they are put in order. -/
theorem mem_divide {w : Warp} {dest : Nat → DWord} {g : Shed} : g ∈ w.divide dest ↔
    (∃ p ∈ positions (w.exec none), g = ⟨dest p, true, maskOf fun t => (w.exec none).getLsbD t && dest t == dest p⟩) ∨
      w.mask &&& ~~~ w.exec none ≠ 0 ∧ g = ⟨w.nextClause, false, w.mask &&& ~~~ w.exec none⟩ := by
  unfold Warp.divide
  dsimp only
  rw [(sortBy_perm _ _).mem_iff, List.mem_append, List.mem_map]
  refine or_congr ⟨?_, ?_⟩ ?_
  · rintro ⟨d, hd, rfl⟩
    obtain ⟨p, hp, rfl⟩ := List.mem_map.1 (List.mem_eraseDups.1 hd)
    exact ⟨p, hp, rfl⟩
  · rintro ⟨p, hp, rfl⟩
    exact ⟨dest p, List.mem_eraseDups.2 (List.mem_map.2 ⟨p, hp, rfl⟩), rfl⟩
  · by_cases h0 : w.mask &&& ~~~ w.exec none = 0 <;> simp [h0]

theorem divide_sorted (w : Warp) (dest : Nat → DWord) : (w.divide dest).Pairwise fun a b => a.low ≤ b.low :=
  sortBy_sorted Shed.low _

theorem mask_ne_zero {m : Mask} {p : Nat} (h : m.getLsbD p = true) : m ≠ 0 := by
  rintro rfl
  cases (BitVec.getLsbD_zero.symm.trans h :)

section Divide
variable {w : Warp} {dest : Nat → DWord}

theorem divide_group {g : Shed} (h : g ∈ w.divide dest) : g.mask ≠ 0 ∧
    (g.link = true → ∀ p < 128, g.mask.getLsbD p = ((w.exec none).getLsbD p && dest p == g.dest)) ∧
    (g.link = false → g.dest = w.nextClause ∧ g.mask = w.mask &&& ~~~ w.exec none) := by
  obtain ⟨p, hp, rfl⟩ | ⟨h0, rfl⟩ := mem_divide.1 h
  · obtain ⟨hlt, hx⟩ := mem_positions.1 hp
    refine ⟨mask_ne_zero (p := p) ?_, fun _ q hq => maskOf_bit _ q hq, fun h => nomatch h⟩
    rw [maskOf_bit _ p hlt, hx]
    simp
  · exact ⟨h0, fun h => (nomatch h), fun _ => ⟨rfl, rfl⟩⟩

theorem divide_covers {p : Nat} (hp : p < 128) (hm : w.mask.getLsbD p = true) :
    ∃ g ∈ w.divide dest, g.mask.getLsbD p = true := by
  by_cases hx : (w.exec none).getLsbD p = true
  · refine ⟨_, mem_divide.2 (.inl ⟨p, mem_positions.2 ⟨hp, hx⟩, rfl⟩), ?_⟩
    rw [maskOf_bit _ p hp, hx]
    simp
  · have hn : (w.mask &&& ~~~ w.exec none).getLsbD p = true := by
      rw [BitVec.getLsbD_and, BitVec.getLsbD_not, hm, Bool.eq_false_of_not_eq_true hx, decide_eq_true hp]
      rfl
    exact ⟨_, mem_divide.2 (.inr ⟨mask_ne_zero hn, rfl⟩), hn⟩

end Divide

theorem largest_none {l : List Shed} (h : largest l = none) : l = [] := by
  cases l with
  | nil => rfl
  | cons a r =>
    rw [largest] at h
    split at h
    · cases h
    · split at h <;> cases h

/-- R59: the largest group, and of the largest the first. -/
theorem largest_spec {l : List Shed} (hs : l.Pairwise fun a b => a.low ≤ b.low) {g : Shed} (hg : largest l = some g) :
    g ∈ l ∧ ∀ h ∈ l, count h.mask ≤ count g.mask ∧ (count h.mask = count g.mask → g.low ≤ h.low) := by
  induction l generalizing g with
  | nil => cases hg
  | cons a r ih =>
    obtain ⟨ha, hr⟩ := List.pairwise_cons.1 hs
    rw [largest] at hg
    cases hl : largest r with
    | none =>
      obtain rfl := largest_none hl
      rw [hl] at hg
      obtain rfl := Option.some.inj hg
      refine ⟨List.mem_cons_self, fun h hh => ?_⟩
      obtain rfl := List.mem_singleton.1 hh
      exact ⟨le_rfl, fun _ => le_rfl⟩
    | some k =>
      obtain ⟨hk, hb⟩ := ih hr hl
      rw [hl] at hg
      dsimp only at hg
      split at hg
      next hc =>
        obtain rfl := Option.some.inj hg
        refine ⟨List.mem_cons_self, fun h hh => ?_⟩
        obtain rfl | hh := List.mem_cons.1 hh
        · exact ⟨le_rfl, fun _ => le_rfl⟩
        · exact ⟨(hb h hh).1.trans hc, fun _ => ha h hh⟩
      next hc =>
        obtain rfl := Option.some.inj hg
        refine ⟨List.mem_cons_of_mem _ hk, fun h hh => ?_⟩
        obtain rfl | hh := List.mem_cons.1 hh
        · exact ⟨by omega, fun e => absurd e.ge hc⟩
        · exact hb h hh

/-- R59, R306, R309: the groups of calli and reti. -/
theorem groups : Claims.groups := fun w dest =>
  ⟨fun _ => divide_group, fun _ => divide_covers, fun _ => largest_spec (divide_sorted w dest)⟩

end Sys2Proof.Machine
end

section
/-! SUPPORT. The diverging instructions (R47, R48, R52, R58, R59, R66, R306, R308 to R311). -/

namespace Sys2Proof.Machine

/-! ### What the diverging instructions share -/

/-- R37, R76, R264: nothing that the registers of some references hold keeps an instruction from its effect. -/
def Warp.clear (w : Warp) (refs : List Ref) : Prop :=
  (∀ q ∈ refs, q.ok w = true ∧ q.pending w = false) ∧ firstMark w refs = none

theorem gate_passes {s : State} {id : Nat} {w : Warp} {i : Instr} {refs : List Ref} {eff : State → Warp → Res}
    (hw : w.waitMet = true) (hc : w.clear refs) : s.gate id w.woken i refs eff = eff s w.woken := by
  obtain ⟨hr, hm⟩ := hc
  have h1 : w.woken.waitMet = true := hw
  have ho : ¬ (refs.any fun r => !r.ok w.woken) = true := by
    simpa [Ref.ok_woken] using fun r h => (hr r h).1
  have hp : ¬ (refs.any fun r => r.pending w.woken) = true := by
    simpa [Ref.pending_woken] using fun r h => (hr r h).2
  unfold State.gate
  rw [if_neg (by simp [h1]), if_neg ho, if_neg hp, firstMark_woken, hm]

theorem withBlock_of {s : State} {w : Warp} {b : Block} (h : s.blocks.find w.block = some b) (eff : Block → Res) :
    s.withBlock w eff = eff b := by
  rw [State.withBlock, h]

theorem limits_iff {w : Warp} {b : Block} {l m : Nat} : w.limits b l m = true ↔
    l ≤ b.lmax ∧ m ≤ b.mmax ∧ l ≤ w.va ∧ m ≤ w.ka := by
  simp [Warp.limits, and_assoc]

/-- R47, R76, R264, R300: what a record and the snapshot hold can be read. -/
def State.shedReady (s : State) (w : Warp) (l m : Nat) : Prop :=
  w.clear (shedRefs l m) ∧ (s.readied w).mrqBusy s.cur w.woken = false

section Shed
variable {s : State} {w : Warp} {i : Instr} {set : Warp → Warp} {b : Block} {l m : Nat} {g : List Shed}

theorem shedThen_ready (hw : w.waitMet = true) (hr : s.shedReady w l m) (go : State → Res) :
    let shed := ((s.readied w).putWarp s.cur (set w.woken)).shed s.cur (set w.woken) b l m g
    let res := (s.readied w).shedThen i w.woken set b l m g go
    (∀ u, shed = .done u → res = go u) ∧ (∀ t, shed = .trap t → res = .trap t (s.readied w)) ∧
      (shed = .pool → res = .stay ((s.readied w).block s.cur (.pool m))) ∧ (shed = .held → res = .stay (s.readied w)) := by
  obtain ⟨hc, hq⟩ := hr
  have hres : (s.readied w).shedThen i w.woken set b l m g go = _ := gate_passes hw hc
  rw [State.readied_cur] at hres
  dsimp only
  rw [hres, if_neg (by simp [hq])]
  refine ⟨fun u h => ?_, fun t h => ?_, fun h => ?_, fun h => ?_⟩ <;> rw [h]

/-- R47, R51, R52, R66: an instruction that sheds threads and goes on with the others. -/
theorem sheds_next (hw : w.waitMet = true) (hr : s.shedReady w l m) {pc : DWord}
    (he : exec i s = .next (State.finish s.cur ((s.readied w).shedTo i w.woken set b l m g pc))) :
    let shed := ((s.readied w).putWarp s.cur (set w.woken)).shed s.cur (set w.woken) b l m g
    (∀ u, shed = .done u → exec i s = .next ((u.jump u.cur pc).settleTwins w.block)) ∧
      (∀ t, shed = .trap t → exec i s = .next ((s.readied w).takeTrap s.cur t)) ∧
      (shed = .pool → exec i s = .next ((s.readied w).block s.cur (.pool m))) ∧
      (shed = .held → exec i s = .next (s.readied w)) := by
  obtain ⟨h1, h2, h3, h4⟩ := shedThen_ready (i := i) (set := set) (b := b) (g := g) hw hr
    fun s1 => .moved ((s1.jump s1.cur pc).settleTwins w.woken.block)
  have hf := fun {r : Res} (h : (s.readied w).shedTo i w.woken set b l m g pc = r) => he.trans (by rw [h])
  exact ⟨fun u h => hf (h1 u h), fun t h => hf (h2 t h), fun h => hf (h3 h), fun h => hf (h4 h)⟩

end Shed

theorem not_eq_true_iff {c : Bool} : ¬ c = true ↔ (!c) = true := by simp

theorem not_not_eq_true {c : Bool} : ¬ (!c) = true ↔ c = true := by simp

theorem jumps_readied {s : State} {w : Warp} (h : s.warp s.cur = some w) (pc : DWord) :
    Claims.jumps s ((s.readied w).jump s.cur pc) w.woken pc :=
  jumps_jump (s.readied_eq w) (State.readied_warp h) (fun _ hj => State.readied_other hj) pc

theorem jumps_put {s : State} (w w1 : Warp) (pc : DWord) :
    Claims.jumps s (((s.readied w).putWarp s.cur w1).jump s.cur pc) w1 pc := by
  rw [State.readied_put]
  exact jumps_jump rfl (State.warp_putWarp_self _ _ _) (fun _ hj => State.warp_putWarp_other _ _ _ hj) pc

/-- R309: `calli` of a block that may not make the records. -/
def Warp.calliBad (w : Warp) (b : Block) (l m : Nat) : Prop := 110 < l ∨ b.lmax < l + 2 ∨ ¬ w.limits b l m = true

theorem calliBad_iff {w : Warp} {b : Block} {l m : Nat} : w.calliBad b l m ↔
    (decide (l > 110) || decide (l + 2 > b.lmax) || !w.limits b l m) = true := by
  simp [Warp.calliBad, or_assoc]

/-- R309: the groups of `calli`. -/
def Warp.calliGroups (w : Warp) (f : FmtC) : List Shed := w.divide (w.vp (f.off.toNat % 128))

/-- R309: what `calli` writes: the next clause, at the threads that call. -/
def Warp.called (w : Warp) : Warp := w.setVP 110 (w.exec none) fun _ => w.nextClause

/-- R310: the groups of `reti`, which link none. -/
def Warp.retiGroups (w : Warp) : List Shed := (w.divide (w.vp 110)).map fun g => { g with link := false }

section Instructions
variable {f : FmtC} {x : XD} {s : State} {w : Warp} {b : Block} (hb : s.blocks.find w.block = some b)
include hb

/-- An instruction that issues in a block ends with what its effect on the block is. -/
theorem issue_inBlock {i : Instr} {refs : Warp → List Ref} {eff : State → Warp → Block → Res} {r : Res}
    (h : Issues s w (refs w)) (hr : eff (s.readied w) w.woken b = r) :
    s.issue i refs (fun s w => s.withBlock w (eff s w)) = .next (State.finish s.cur r) :=
  issue_as h ((withBlock_of (by rw [State.readied_blocks]; exact hb) _).trans hr)

/-! ### brd (R308) -/

section Brd
variable (h : Issues s w [])
include h

theorem brd_illegal (hl : ¬ w.limits b x.l.toNat x.m.toNat = true) : exec (.brd f x) s =
    .next ((s.readied w).takeTrap s.cur (Trap.of 0x02 (firstWord (.brd f x)))) :=
  (issue_inBlock (refs := fun _ => []) hb h (if_pos (not_eq_true_iff.1 hl))).trans rfl

variable (hl : w.limits b x.l.toNat x.m.toNat = true)
include hl

theorem brd_all (hn : w.mask &&& ~~~ w.taken f = 0) (hp : (w.target f).extractLsb' 0 2 = 0) :
    ∃ u, exec (.brd f x) s = .next u ∧ Claims.jumps s u w.woken (w.target f) := by
  have ht : (s.readied w).transferTo (w.target f) = .moved ((s.readied w).jump (s.readied w).cur (w.target f)) :=
    if_neg (not_not.2 hp)
  rw [State.readied_cur] at ht
  refine ⟨_, issue_inBlock (refs := fun _ => []) hb h ((if_neg (not_not_eq_true.2 hl)).trans ((if_pos hn).trans ht)), ?_⟩
  exact jumps_readied h.warp _

theorem brd_none (hn : w.mask &&& ~~~ w.taken f ≠ 0) (ht : w.taken f = 0) :
    ∃ u, exec (.brd f x) s = .next u ∧ Retires s s u { w with wait := none } :=
  ⟨_, issue_inBlock (refs := fun _ => []) hb h ((if_neg (not_not_eq_true.2 hl)).trans ((if_neg hn).trans (if_pos ht))),
    retires_readied h.warp⟩

theorem brd_shedsTaken (hn : w.mask &&& ~~~ w.taken f ≠ 0) (ht : w.taken f ≠ 0)
    (hc : count (w.taken f) ≤ count (w.mask &&& ~~~ w.taken f)) : exec (.brd f x) s = .next (State.finish s.cur
      ((s.readied w).shedTo (.brd f x) w.woken id b x.l.toNat x.m.toNat [⟨w.target f, false, w.taken f⟩] w.nextClause)) :=
  issue_inBlock (refs := fun _ => []) hb h
    ((if_neg (not_not_eq_true.2 hl)).trans ((if_neg hn).trans ((if_neg ht).trans (if_pos hc))))

theorem brd_shedsRest (hn : w.mask &&& ~~~ w.taken f ≠ 0) (ht : w.taken f ≠ 0)
    (hc : ¬ count (w.taken f) ≤ count (w.mask &&& ~~~ w.taken f)) : exec (.brd f x) s = .next (State.finish s.cur
      ((s.readied w).shedTo (.brd f x) w.woken id b x.l.toNat x.m.toNat
        [⟨w.nextClause, false, w.mask &&& ~~~ w.taken f⟩] (w.target f))) :=
  issue_inBlock (refs := fun _ => []) hb h
    ((if_neg (not_not_eq_true.2 hl)).trans ((if_neg hn).trans ((if_neg ht).trans (if_neg hc))))

end Brd

/-! ### calli (R309) and reti (R310) -/

section Calli
variable (h : Issues s w [pairField (f.off.toNat % 128), .groupDst 110 2])
include h

theorem calli_illegal (hbad : w.calliBad b x.l.toNat x.m.toNat) :
    exec (.calli f x) s = .next ((s.readied w).takeTrap s.cur (Trap.of 0x02 (firstWord (.calli f x)))) :=
  (issue_inBlock (refs := fun _ => [pairField (f.off.toNat % 128), .groupDst 110 2]) hb h
    (if_pos (calliBad_iff.1 hbad))).trans rfl

variable (hbad : ¬ w.calliBad b x.l.toNat x.m.toNat)
include hbad

theorem calli_misaligned {d : DWord} (hd : firstMisaligned (w.calliGroups f) = some d) :
    exec (.calli f x) s = .next ((s.readied w).takeTrap s.cur (Trap.of 0x03 d)) := by
  refine (issue_inBlock (r := .trap (Trap.of 0x03 d) (s.readied w))
    (refs := fun _ => [pairField (f.off.toNat % 128), .groupDst 110 2]) hb h
      ((if_neg fun e => hbad (calliBad_iff.2 e)).trans ?_)).trans rfl
  have hd : firstMisaligned (w.woken.divide (w.woken.vp (f.off.toNat % 128))) = some d := hd
  rw [hd]

variable {g : Shed} (hd : firstMisaligned (w.calliGroups f) = none) (hg : largest (w.calliGroups f) = some g)
include hd hg

theorem calli_next : exec (.calli f x) s = .next (State.finish s.cur
    (if (w.calliGroups f).filter (· ≠ g) = [] then .moved (((s.readied w).putWarp s.cur w.woken.called).jump s.cur g.dest)
    else (s.readied w).shedTo (.calli f x) w.woken Warp.called b x.l.toNat x.m.toNat
      ((w.calliGroups f).filter (· ≠ g)) g.dest)) := by
  refine issue_inBlock (refs := fun _ => [pairField (f.off.toNat % 128), .groupDst 110 2]) hb h
      ((if_neg fun e => hbad (calliBad_iff.2 e)).trans ?_)
  have hd : firstMisaligned (w.woken.divide (w.woken.vp (f.off.toNat % 128))) = none := hd
  have hg : largest (w.woken.divide (w.woken.vp (f.off.toNat % 128))) = some g := hg
  rw [hd]
  dsimp only
  rw [hg, State.readied_cur]
  rfl

theorem calli_goes (he : (w.calliGroups f).filter (· ≠ g) = []) :
    ∃ u, exec (.calli f x) s = .next u ∧ Claims.jumps s u w.woken.called g.dest := by
  refine ⟨_, calli_next hb h hbad hd hg, ?_⟩
  rw [if_pos he]
  exact jumps_put w _ _

theorem calli_sheds (he : (w.calliGroups f).filter (· ≠ g) ≠ []) : exec (.calli f x) s = .next (State.finish s.cur
    ((s.readied w).shedTo (.calli f x) w.woken Warp.called b x.l.toNat x.m.toNat
      ((w.calliGroups f).filter (· ≠ g)) g.dest)) := by
  rw [calli_next hb h hbad hd hg, if_neg he]

end Calli

section Reti
variable (h : Issues s w [.group 110 2])
include h

theorem reti_misaligned {d : DWord} (hd : firstMisaligned w.retiGroups = some d) :
    exec (.reti f) s = .next ((s.readied w).takeTrap s.cur (Trap.of 0x03 d)) := by
  refine (issue_inBlock (r := .trap (Trap.of 0x03 d) (s.readied w)) (refs := fun _ => [.group 110 2]) hb h ?_).trans rfl
  have hd : firstMisaligned ((w.woken.divide (w.woken.vp 110)).map fun g => { g with link := false }) = some d := hd
  dsimp only
  rw [hd]

variable {g : Shed} (hd : firstMisaligned w.retiGroups = none) (hg : largest w.retiGroups = some g)
include hd hg

theorem reti_next : exec (.reti f) s = .next (State.finish s.cur
    (if w.retiGroups.filter (· ≠ g) = [] then .moved ((s.readied w).jump s.cur g.dest)
    else if !w.limits b b.lmax b.mmax then .trap (Trap.of 0x02 (firstWord (.reti f))) (s.readied w)
    else (s.readied w).shedTo (.reti f) w.woken id b b.lmax b.mmax (w.retiGroups.filter (· ≠ g)) g.dest)) := by
  refine issue_inBlock (refs := fun _ => [.group 110 2]) hb h ?_
  have hd : firstMisaligned ((w.woken.divide (w.woken.vp 110)).map fun g => { g with link := false }) = none := hd
  have hg : largest ((w.woken.divide (w.woken.vp 110)).map fun g => { g with link := false }) = some g := hg
  dsimp only
  rw [hd]
  dsimp only
  rw [hg, State.readied_cur]
  rfl

theorem reti_goes (he : w.retiGroups.filter (· ≠ g) = []) :
    ∃ u, exec (.reti f) s = .next u ∧ Claims.jumps s u w.woken g.dest := by
  refine ⟨_, reti_next hb h hd hg, ?_⟩
  rw [if_pos he]
  exact jumps_readied h.warp _

variable (he : w.retiGroups.filter (· ≠ g) ≠ [])
include he

theorem reti_illegal (hl : ¬ w.limits b b.lmax b.mmax = true) : exec (.reti f) s =
    .next ((s.readied w).takeTrap s.cur (Trap.of 0x02 (firstWord (.reti f)))) := by
  rw [reti_next hb h hd hg, if_neg he, if_pos (not_eq_true_iff.1 hl)]
  rfl

theorem reti_sheds (hl : w.limits b b.lmax b.mmax = true) : exec (.reti f) s = .next (State.finish s.cur
    ((s.readied w).shedTo (.reti f) w.woken id b b.lmax b.mmax (w.retiGroups.filter (· ≠ g)) g.dest)) := by
  rw [reti_next hb h hd hg, if_neg he, if_neg (not_not_eq_true.2 hl)]

end Reti

/-! ### join (R58, R66, R311) -/

section Join
variable (h : Issues s w [])
include h

theorem join_idle (ho : w.once none = false) :
    ∃ u, exec (.join f x) s = .next u ∧ Retires s s u { w with wait := none } := by
  have ho : (!w.once none) = true := by simp [ho]
  exact ⟨_, issue_inBlock (refs := fun _ => []) hb h (if_pos ho), retires_readied h.warp⟩

variable (ho : w.once none = true)
include ho

theorem join_illegal (hl : ¬ w.limits b x.l.toNat x.m.toNat = true) : exec (.join f x) s =
    .next ((s.readied w).takeTrap s.cur (Trap.of 0x02 (firstWord (.join f x)))) :=
  (issue_inBlock (refs := fun _ => []) hb h ((if_neg (not_not_eq_true.2 ho)).trans (if_pos (not_eq_true_iff.1 hl)))).trans rfl

variable (hl : w.limits b x.l.toNat x.m.toNat = true)
include hl

theorem join_full (hm : w.mask = BitVec.allOnes 128) :
    ∃ u, exec (.join f x) s = .next u ∧ Retires s s u { w with wait := none } :=
  ⟨_, issue_inBlock (refs := fun _ => []) hb h ((if_neg (not_not_eq_true.2 ho)).trans
    ((if_neg (not_not_eq_true.2 hl)).trans (if_pos hm))), retires_readied h.warp⟩

variable (hm : w.mask ≠ BitVec.allOnes 128)
include hm

theorem join_waits (ht : w.twin ≠ 2) (hf : w.formed = false)
    (hc : w.clear [.kGroup 0 x.m.toNat, .groupDst 0 w.va]) : exec (.join f x) s =
      .next (((s.readied w).block s.cur (.join w.nextClause x.l.toNat x.m.toNat)).settleTwins w.block) := by
  have htw : (decide (w.twin ≠ 2) && !w.formed) = true := by simp [ht, hf]
  refine (issue_inBlock (refs := fun _ => []) hb h ((if_neg (not_not_eq_true.2 ho)).trans
    ((if_neg (not_not_eq_true.2 hl)).trans ((if_neg hm).trans ((if_pos htw).trans (gate_passes h.waits hc)))))).trans ?_
  rw [State.readied_cur]
  rfl

theorem join_sheds (ht : w.twin = 2 ∨ w.formed = true) : exec (.join f x) s = .next (State.finish s.cur
    ((s.readied w).shedThen (.join f x) w.woken id b x.l.toNat x.m.toNat [⟨w.nextClause, false, w.mask⟩]
      fun s1 => .moved (s1.lastGone (s.readied w).cur w.woken))) := by
  have htw : ¬ (decide (w.twin ≠ 2) && !w.formed) = true := by
    obtain ht | ht := ht <;> simp [ht]
  exact issue_inBlock (refs := fun _ => []) hb h ((if_neg (not_not_eq_true.2 ho)).trans
    ((if_neg (not_not_eq_true.2 hl)).trans ((if_neg hm).trans (if_neg htw))))

end Join

end Instructions

/-- R47 to R52, R58, R59, R66, R306, R308 to R311: the diverging instructions in a block. -/
theorem diverging : Claims.diverging := by
  intro f x s w b hb r idle l m fits ready sheds
  have hlim : ∀ l m, w.limits b l m = true ↔ fits l m := fun _ _ => limits_iff
  have hrdy : ∀ {l m}, ready l m → s.shedReady w l m := fun h => ⟨⟨h.1, h.2.1⟩, h.2.2⟩
  refine ⟨fun h => ?_, fun h => ?_, fun h => ?_, fun h => ?_⟩
  · refine ⟨fun hl => brd_illegal hb h (mt (hlim _ _).1 hl), fun hl hn hp => brd_all hb h ((hlim _ _).2 hl) hn hp,
      fun hl hn ht => brd_none hb h ((hlim _ _).2 hl) hn ht, fun hl hn ht hc hr => ?_, fun hl hn ht hc hr => ?_⟩
    · exact sheds_next (set := id) h.waits (hrdy hr) (brd_shedsTaken hb h ((hlim _ _).2 hl) hn ht hc)
    · exact sheds_next (set := id) h.waits (hrdy hr) (brd_shedsRest hb h ((hlim _ _).2 hl) hn ht (Nat.not_le.2 hc))
  · intro groups w1 bad
    have hbad : w.calliBad b l m ↔ bad := or_congr Iff.rfl (or_congr Iff.rfl (not_congr (hlim _ _)))
    exact ⟨fun hx => calli_illegal hb h (hbad.2 hx), fun hx d hd => calli_misaligned hb h (mt hbad.1 hx) hd,
      fun hx hd g hg => ⟨calli_goes hb h (mt hbad.1 hx) hd hg, fun he hr =>
        sheds_next (set := Warp.called) h.waits (hrdy hr) (calli_sheds hb h (mt hbad.1 hx) hd hg he)⟩⟩
  · intro groups
    exact ⟨fun d hd => reti_misaligned hb h hd, fun hd g hg => ⟨reti_goes hb h hd hg,
      fun he => ⟨fun hl => reti_illegal hb h hd hg he (mt (hlim _ _).1 hl), fun hl hr =>
        sheds_next (set := id) h.waits (hrdy hr) (reti_sheds hb h hd hg he ((hlim _ _).2 hl))⟩⟩⟩
  · refine ⟨join_idle hb h, fun ho hl => join_illegal hb h ho (mt (hlim _ _).1 hl),
      fun ho hl hm => join_full hb h ho ((hlim _ _).2 hl) hm,
      fun ho hl hm ht hf hq hc => join_waits hb h ho ((hlim _ _).2 hl) hm ht hf ⟨hq, hc⟩, fun ho hl hm ht hr u hu => ?_⟩
    rw [join_sheds hb h ho ((hlim _ _).2 hl) hm ht, (shedThen_ready (set := id) h.waits (hrdy hr) _).1 u hu, State.readied_cur]
    rfl

end Sys2Proof.Machine
end

section
/-! SUPPORT. The bytes of a spawn record and of a snapshot (R49, R51, Table 2.3). -/

namespace Sys2Proof.Machine

/-! ### Numbers and their bytes -/

theorem bytesOfNat_succ (n x : Nat) : bytesOfNat (n + 1) x = BitVec.ofNat 8 x :: bytesOfNat n (x / 256) := by
  rw [bytesOfNat, List.range_succ_eq_map, List.map_cons, List.map_map, bytesOfNat]
  congr 1
  refine List.map_congr_left fun i _ => ?_
  have h : x >>> (8 * (i + 1)) = (x / 256) >>> (8 * i) := by
    rw [Nat.mul_add, Nat.add_comm, Nat.shiftRight_add, Nat.shiftRight_eq_div_pow x]
  exact congrArg (BitVec.ofNat 8) h

theorem natOfBytes_bytesOfNat (n x : Nat) : natOfBytes (bytesOfNat n x) = x % 256 ^ n := by
  induction n generalizing x with
  | zero => simp [bytesOfNat, natOfBytes, Nat.mod_one]
  | succ n ih =>
    rw [bytesOfNat_succ]
    change (BitVec.ofNat 8 x).toNat + 256 * natOfBytes (bytesOfNat n (x / 256)) = _
    rw [ih, BitVec.toNat_ofNat, show (2 : Nat) ^ 8 = 256 from rfl, Nat.pow_succ', Nat.mod_mul]

theorem natOfBytes_word (n : Nat) (x : BitVec (8 * n)) : natOfBytes (bytesOfNat n x.toNat) = x.toNat := by
  rw [natOfBytes_bytesOfNat, Nat.mod_eq_of_lt]
  rw [show (256 : Nat) = 2 ^ 8 from rfl, ← Nat.pow_mul]
  exact x.isLt

/-! ### Parts of lists -/

theorem take_drop_mid {α : Type} {l pre x post : List α} {a n : Nat} (h : l = pre ++ (x ++ post)) (ha : pre.length = a)
    (hn : x.length = n) : (l.drop a).take n = x := by
  rw [h, ← ha, ← hn, List.drop_left, List.take_left]

theorem getD_mid {α : Type} {l pre post : List α} {a : Nat} {x d : α} (h : l = pre ++ (x :: post)) (ha : pre.length = a) :
    l.getD a d = x := by
  rw [h, ← ha]
  simp

theorem map_getD_range {α : Type} (l : List α) (d : α) {a n : Nat} (h : a + n ≤ l.length) :
    (List.range n).map (fun j => l.getD (a + j) d) = (l.drop a).take n := by
  refine List.ext_getElem (by simp; omega) fun i h1 h2 => ?_
  have : i < n := by simpa using h1
  simp only [List.getElem_map, List.getElem_range, List.getElem_take, List.getElem_drop]
  rw [List.getD_eq_getElem _ _ (by omega)]

/-- One of the equal pieces of which a list consists. -/
theorem flatMap_range_mid {α : Type} (f : Nat → List α) {n : Nat} (hf : ∀ i, (f i).length = n) {i l : Nat} (hi : i < l) :
    ∃ pre post, (List.range l).flatMap f = pre ++ (f i ++ post) ∧ pre.length = n * i := by
  obtain ⟨k, rfl⟩ := Nat.exists_eq_add_of_lt hi
  refine ⟨(List.range i).flatMap f, ((List.range k).map fun j => i + (1 + j)).flatMap f, ?_, ?_⟩
  · rw [Nat.add_assoc, Nat.add_comm k 1, List.range_add, List.range_add, List.flatMap_append]
    simp [List.flatMap_map, Nat.add_assoc]
  · simp [List.length_flatMap, hf, Nat.mul_comm]

/-! ### Table 2.3 -/

section Record
variable (w : Warp) (b : Block) (t : Nat) (pc : DWord) (snap l : Nat) (link : Bool)

/-- Table 2.3: the predicates p1 to p7 of a position as a byte. -/
def Warp.predByte (w : Warp) (t : Nat) : Nat :=
  (List.range 7).foldr (fun i n => n * 2 + if (w.pr (i + 1)).getLsbD t then 1 else 0) 0

/-- Table 2.3: the flags of a record. -/
def Warp.recFlags (w : Warp) (b : Block) (link : Bool) : Nat :=
  (if w.super then 8 else 0) + (if link then 4 else 0) + (if w.twin = 1 then 2 else 0) + if b.paired then 1 else 0

theorem recBytes_eq : w.recBytes b t pc snap l link = bytesOfNat 8 pc.toNat ++ (bytesOfNat 8 (Store.get 0 w.wids t).toNat ++
    (bytesOfNat 4 snap ++ (bytesOfNat 1 (w.predByte t) ++ (bytesOfNat 1 l ++ (bytesOfNat 2 (w.recFlags b link) ++
      (((List.range l).flatMap fun i => bytesOfNat 4 (w.vr i t).toNat) ++
        (if link then bytesOfNat 8 (w.vp 110 t).toNat else []))))))) := by
  simp only [Warp.recBytes, Warp.predByte, Warp.recFlags, List.append_assoc]

theorem length_recBytes : (w.recBytes b t pc snap l link).length = 24 + 4 * l + if link then 8 else 0 := by
  rw [recBytes_eq]
  cases link <;> simp [List.length_flatMap] <;> omega

/-- R49, Table 2.3: the fields of a record stand at their offsets. -/
theorem recBytes_fields : let bytes := w.recBytes b t pc snap l link
    bytes.take 8 = bytesOfNat 8 pc.toNat ∧ (bytes.drop 8).take 8 = bytesOfNat 8 (Store.get 0 w.wids t).toNat ∧
    (bytes.drop 16).take 4 = bytesOfNat 4 snap ∧ bytes.getD 20 0 = BitVec.ofNat 8 (w.predByte t) ∧
    bytes.getD 21 0 = BitVec.ofNat 8 l ∧ (bytes.drop 22).take 2 = bytesOfNat 2 (w.recFlags b link) ∧
    (∀ i < l, (bytes.drop (24 + 4 * i)).take 4 = bytesOfNat 4 (w.vr i t).toNat) ∧
    bytes.drop (24 + 4 * l) = if link then bytesOfNat 8 (w.vp 110 t).toNat else [] := by
  intro bytes
  have he : bytes = _ := recBytes_eq w b t pc snap l link
  have hone (x : Nat) : bytesOfNat 1 x = [BitVec.ofNat 8 x] := rfl
  rw [hone, hone, List.singleton_append, List.singleton_append] at he
  have hp := length_bytesOfNat 8 pc.toNat
  have hw := length_bytesOfNat 8 (Store.get 0 w.wids t).toNat
  have hs := length_bytesOfNat 4 snap
  have hf := length_bytesOfNat 2 (w.recFlags b link)
  generalize bytesOfNat 8 pc.toNat = A at he hp ⊢
  generalize bytesOfNat 8 (Store.get 0 w.wids t).toNat = B at he hw ⊢
  generalize bytesOfNat 4 snap = C at he hs ⊢
  generalize bytesOfNat 2 (w.recFlags b link) = F at he hf ⊢
  generalize BitVec.ofNat 8 (w.predByte t) = X at he ⊢
  generalize BitVec.ofNat 8 l = Y at he ⊢
  generalize hL : (if link then bytesOfNat 8 (w.vp 110 t).toNat else []) = L at he ⊢
  have h24 (V : List Byte) (h : ((List.range l).flatMap fun i => bytesOfNat 4 (w.vr i t).toNat) = V) :
      bytes = (A ++ (B ++ (C ++ (X :: Y :: F)))) ++ (V ++ L) := by rw [he, h]; simp
  generalize (List.range l).flatMap (fun i => bytesOfNat 4 (w.vr i t).toNat) ++ L = R at he
  have h16 : bytes = (A ++ B) ++ (C ++ (X :: Y :: (F ++ R))) := by rw [he]; simp
  have h20 : bytes = (A ++ (B ++ C)) ++ (X :: (Y :: (F ++ R))) := by rw [he]; simp
  have h21 : bytes = (A ++ (B ++ (C ++ [X]))) ++ (Y :: (F ++ R)) := by rw [he]; simp
  have h22 : bytes = (A ++ (B ++ (C ++ [X, Y]))) ++ (F ++ R) := by rw [he]; simp
  refine ⟨by rw [he]; exact List.take_left' hp, take_drop_mid he hp hw, take_drop_mid h16 (by simp [hp, hw]) hs,
    getD_mid h20 (by simp [hp, hw, hs]), getD_mid h21 (by simp [hp, hw, hs]), take_drop_mid h22 (by simp [hp, hw, hs]) hf,
    fun i hi => ?_, ?_⟩
  · obtain ⟨pre, post, hv, hn⟩ := flatMap_range_mid (fun i => bytesOfNat 4 (w.vr i t).toNat) (fun _ => length_bytesOfNat 4 _) hi
    exact take_drop_mid (post := post ++ L) (pre := (A ++ (B ++ (C ++ (X :: Y :: F)))) ++ pre)
      ((h24 _ hv).trans (by simp)) (by simp [hp, hw, hs, hf, hn]; omega) (length_bytesOfNat 4 _)
  · have hv : ((List.range l).flatMap fun i => bytesOfNat 4 (w.vr i t).toNat).length = 4 * l := by
      simp [List.length_flatMap, Nat.mul_comm]
    rw [h24 _ rfl, ← List.append_assoc]
    exact List.drop_left' (by simp [hp, hw, hs, hf, hv]; omega)

end Record

/-- Table 2.3: the bits of the predicate byte. -/
theorem predByte_bit (w : Warp) (t : Nat) {i : Nat} (hi : i < 8) :
    (BitVec.ofNat 8 (w.predByte t)).getLsbD i = (decide (i < 7) && (w.pr (i + 1)).getLsbD t) := by
  rw [BitVec.getLsbD_ofNat, Warp.predByte, foldr_bits (fun i => (w.pr (i + 1)).getLsbD t)]
  by_cases h : i < 7
  · simp [h, hi]
  · simp [h, hi]

theorem recFlags_eq (w : Warp) (b : Block) (link : Bool) : natOfBytes (bytesOfNat 2 (w.recFlags b link)) =
    (if b.paired then 1 else 0) + (if w.twin = 1 then 2 else 0) + (if link then 4 else 0) + (if w.super then 8 else 0) := by
  rw [natOfBytes_bytesOfNat, Nat.mod_eq_of_lt]
  · unfold Warp.recFlags
    omega
  · unfold Warp.recFlags
    split_ifs <;> omega

/-! ### The snapshot (R51) -/

theorem length_snapBytes (w : Warp) (m : Nat) : (w.snapBytes m).length = 8 * m := by
  simp [Warp.snapBytes, List.length_flatMap, Nat.mul_comm]

theorem snapBytes_word (w : Warp) {m i : Nat} (hi : i < m) :
    ((w.snapBytes m).drop (8 * i)).take 8 = bytesOfNat 8 (w.kr i).toNat := by
  obtain ⟨pre, post, h, hn⟩ := flatMap_range_mid (fun i => bytesOfNat 8 (w.kr i).toNat) (fun _ => length_bytesOfNat 8 _) hi
  exact take_drop_mid h hn (length_bytesOfNat 8 _)

end Sys2Proof.Machine
end

section
/-! SUPPORT. The entry that a snapshot takes, and the shed of one thread (R47, R49 to R51). -/

namespace Sys2Proof.Machine

/-! ### The snapshot's entry (R51) -/

section Snapshot
variable {s : State} {ag : Agent} {b : Block} {m j : Nat} {bytes : List Byte}

theorem snapFor_none_iff : m = 0 ↔ s.snapFor ag b m bytes = .none := by
  unfold State.snapFor
  constructor
  · intro h
    exact if_pos h
  · intro h
    by_contra hm
    rw [if_neg hm] at h
    split at h
    · cases h
    · split at h <;> cases h

theorem poolHolds_iff : s.poolHolds ag b j m bytes = true ↔ s.poolBytes ag b j m = .ok bytes := by
  unfold State.poolHolds
  cases s.poolBytes ag b j m <;> simp

theorem snapFor_share (h : s.snapFor ag b m bytes = .share j) : j < b.poolSize ∧ s.poolBytes ag b j m = .ok bytes ∧
    ∃ r ∈ b.recs, r.pool = some j ∧ r.m = m := by
  unfold State.snapFor at h
  split at h
  · cases h
  · split at h
    next e =>
      cases h
      have hp := List.find?_some e
      have hm := List.mem_of_find?_eq_some e
      simp only [Bool.and_eq_true, List.any_eq_true, beq_iff_eq] at hp
      exact ⟨List.mem_range.1 hm, poolHolds_iff.1 hp.2, hp.1⟩
    next e => split at h <;> cases h

theorem snapFor_write (h : s.snapFor ag b m bytes = .write j) : j < b.poolSize ∧ (∀ r ∈ b.recs, r.pool ≠ some j) ∧
    ∀ i < j, ∃ r ∈ b.recs, r.pool = some i := by
  unfold State.snapFor at h
  split at h
  · cases h
  · split at h
    next e => cases h
    next e =>
      split at h
      next e1 =>
        cases h
        obtain ⟨hp, hm, hlt⟩ := List.find?_range_eq_some.1 e1
        refine ⟨List.mem_range.1 hm, fun r hr e => ?_, fun i hi => ?_⟩
        · simp only [Bool.not_eq_true', List.any_eq_false, beq_iff_eq] at hp
          exact hp r hr e
        · simpa using hlt i hi
      next e1 => cases h

end Snapshot

/-! ### Runs of memory (R49, R353) -/

/-- One run lies within one translated line, whose leaf has A and D, and which can be reached. -/
structure State.Line (s : State) (ag : Agent) (va : DWord) (n : Nat) (t : Trans) : Prop where
  span : s.xspan ag va n .write = .ok [(t, n)]
  set : t.leaf &&& 0x300 = 0x300
  free : s.planeHeld t.key = false
  linked : s.broken ag.core t.key = false

theorem shedRuns_cons {s : State} {ag : Agent} {pos : Option Nat} {va : DWord} {bytes : List Byte} {t : Trans}
    {l : List (Option Nat × DWord × List Byte)} {runs : List (List (Trans × Nat) × List Byte)}
    (h : s.Line ag va bytes.length t) (hr : s.shedRuns ag l = .ok runs) :
    s.shedRuns ag ((pos, va, bytes) :: l) = .ok (([(t, bytes.length)], bytes) :: runs) := by
  rw [State.shedRuns, h.span]
  dsimp only
  rw [if_neg (by simp [h.linked]), hr]

theorem State.Line.reached {s : State} {ag : Agent} {va : DWord} {n : Nat} {t : Trans} (h : s.Line ag va n t) :
    s.planeHeld t.key = false ∧ s.leafHeld t true = false := by
  have h1 : t.leaf &&& leafBits true = leafBits true := h.set
  refine ⟨h.free, ?_⟩
  rw [State.leafHeld, h1]
  simp

/-- R368: bytes written within one line whose leaf has A and D. -/
theorem writeSpan_line {t : Trans} (h : t.leaf &&& 0x300 = 0x300) (s : State) (bytes : List Byte) :
    s.writeSpan [(t, bytes.length)] bytes = s.wrAt t bytes := by
  rw [State.writeSpan, State.writeSpan, touch_of_set (write := true) h, List.take_length]

/-! ### One thread (R47, R50, R51) -/

theorem positions_single {p : Nat} (hp : p < 128) : positions (1#128 <<< p) = [p] := by
  have h : positions (1#128 <<< p) = (List.range 128).filter (· == p) :=
    List.filter_congr fun t ht => bit_single (List.mem_range.1 ht)
  rw [h, List.filter_beq, List.count_eq_one_of_mem List.nodup_range (List.mem_range.2 hp)]
  rfl

/-- R51, Table 2.3: the offset of the snapshot that a record holds. -/
def Snap.off (b : Block) (snap : Snap) : Nat := match snap.entry with | some j => b.poolOffset j | Option.none => 0

/-- R51: the write of a snapshot, where it takes a free entry. -/
def Snap.run (b : Block) (bytes : List Byte) : Snap → List (Option Nat × DWord × List Byte)
  | .write j => [(Option.none, b.spawnBase + BitVec.ofNat 64 (b.poolOffset j), bytes)]
  | _ => []

/-- R49: the write of one record. -/
def Warp.recRun (w : Warp) (b : Block) (p l : Nat) (snap : Snap) (g : Shed) : Option Nat × DWord × List Byte :=
  (some p, b.recAddr (w.recSlot b p), w.recBytes b p g.dest (snap.off b) l g.link)

/-- R50: what the block holds of one record. -/
def State.recOf (s : State) (w : Warp) (b : Block) (p m : Nat) (snap : Snap) (g : Shed) : Rec :=
  ⟨w.recSlot b p, m, snap.entry, g.dest, w.twin == 1, w.super, s.nextId, Store.get 0 w.wids p, s.clock, none⟩

/-- R50: a block that holds one more record of a warp. -/
def Block.withRec (b : Block) (w : Warp) (r : Rec) : Block :=
  { b with
    recs := b.recs ++ [r]
    arrivals := if w.formed then b.arrivals else b.arrivals.filter fun p => !([r].any fun r => r.slot == p.1) }

/-- R47, R50: the state once the record of one thread stands. -/
def State.shedOne (s : State) (id : Nat) (w : Warp) (r : Rec) (gone : Mask) (runs : List (List (Trans × Nat) × List Byte)) :
    State :=
  ((runs.foldl (fun s r => s.writeSpan r.1 r.2) (s.sendOwn w)).tick1.mapBlock w.block fun b => b.withRec w r).mapWarp id
    fun y => { y with mask := y.mask &&& ~~~ gone }

section One
variable {s : State} {w : Warp} {b : Block} {l m p : Nat} {g : Shed} {snap : Snap}
  {runs : List (List (Trans × Nat) × List Byte)}
  (hs : s.snapFor (s.agentOf w) b m (w.snapBytes m) = snap)
include hs

theorem shed_pool (hf : snap = .full) (id : Nat) (l : List Shed) (n : Nat) : s.shed id w b n m l = .pool := by
  unfold State.shed
  dsimp only
  rw [hs, hf]

theorem shed_one (hf : snap ≠ .full) (hp : p < 128) (hg : g.mask = 1#128 <<< p)
    (hr : s.shedRuns (s.agentOf w) (w.recRun b p l snap g :: snap.run b (w.snapBytes m)) = .ok runs) (id : Nat) :
    s.shed id w b l m [g] =
      if s.backHeld (ofWarp w) || runs.any fun r => r.1.any fun p => s.planeHeld p.1.key || s.leafHeld p.1 true then .held
      else .done (s.shedOne id w (s.recOf w b p m snap g) (0 ||| g.mask) runs) := by
  have hw : ((positions ((0 : Mask) ||| g.mask)).filterMap fun t =>
      ([g].find? fun g => g.mask.getLsbD t).map fun g => (t, g)) = [(p, g)] := by
    have h0 : (0 : Mask) ||| g.mask = 1#128 <<< p := (BitVec.zero_or).trans hg
    have hb : (1#128 <<< p).getLsbD p = true := (bit_single hp).trans (decide_eq_true rfl)
    rw [h0, positions_single hp, List.filterMap_cons, List.find?_cons, hg, hb]
    rfl
  unfold State.shed
  dsimp only
  rw [hs]
  split
  · exact absurd rfl hf
  · simp only [List.foldl_cons, List.foldl_nil]
    rw [hw]
    generalize hX : s.shedRuns (s.agentOf w) _ = X
    obtain rfl : X = .ok runs := hX.symm.trans hr
    rfl

end One

/-! ### What one record leaves -/

theorem State.warp_mapWarp (s : State) (id : Nat) (f : Warp → Warp) : (s.mapWarp id f).warp id = (s.warp id).map f := by
  unfold State.mapWarp
  cases h : s.warps.find id with
  | none => exact h.trans (congrArg (Option.map f) (h : s.warp id = none)).symm
  | some w => exact (State.warp_putWarp_self _ _ _).trans (congrArg (Option.map f) (h : s.warp id = some w)).symm

theorem State.mapWarp_frame (s : State) (id : Nat) (f : Warp → Warp) :
    s.mapWarp id f = { s with warps := (s.mapWarp id f).warps } := by
  unfold State.mapWarp
  split <;> rfl

section Left
variable {s : State} {id : Nat} {w : Warp} {b : Block} {r : Rec} {gone : Mask}
  {runs : List (List (Trans × Nat) × List Byte)} {v : State}
  (hv : runs.foldl (fun s r => s.writeSpan r.1 r.2) (s.sendOwn w) = v)
  (hw : v.warps = (s.sendOwn w).warps) (hbl : v.blocks = (s.sendOwn w).blocks)
include hv hw hbl

theorem shedOne_spec (hb : s.blocks.find w.block = some b) :
    (s.shedOne id w r gone runs).warp id = ((s.sendOwn w).warp id).map (fun y => { y with mask := y.mask &&& ~~~ gone }) ∧
    (s.shedOne id w r gone runs).blocks.find w.block = some (b.withRec w r) ∧
    ∀ a, (s.shedOne id w r gone runs).byte a = v.byte a := by
  have hvb : v.tick1.blocks.find w.block = some b := by
    rw [show v.tick1.blocks = s.blocks from hbl.trans (s.sameBlocks_sendOwn w).1]
    exact hb
  unfold State.shedOne
  rw [hv, State.mapBlock_of hvb]
  refine ⟨(State.warp_mapWarp _ _ _).trans ?_, ?_, fun a => ?_⟩
  · rw [State.warp, State.warp, ← hw]
    rfl
  · rw [State.mapWarp_frame]
    exact Table.find_put_self _ _ _
  · rw [State.mapWarp_frame]
    rfl

end Left

end Sys2Proof.Machine
end

section
/-! SUPPORT. The shed of one thread whose writes each lie within one line (R47, R49 to R51), and what of its statement depends on
the links of the part. -/

namespace Sys2Proof.Machine

/-! ### The writes of one record and its snapshot -/

/-- What the writes of a record and of a snapshot leave: where the bytes of both stand, and nothing else. -/
structure Written (s v : State) (t tp : Trans) (bytes pool : List Byte) (snap : Snap) : Prop where
  warps : v.warps = s.warps
  blocks : v.blocks = s.blocks
  record : ∀ i < bytes.length, v.byte (t.key + i) = bytes.getD i 0
  snapshot : ∀ j, snap = .write j → ∀ i < pool.length, v.byte (tp.key + i) = pool.getD i 0
  others : ∀ a, ¬ (t.key ≤ a ∧ a < t.key + bytes.length) →
    (∀ j, snap = .write j → ¬ (tp.key ≤ a ∧ a < tp.key + pool.length)) → v.byte a = s.byte a

/-- The runs of a record and of a snapshot that lie each within one line. -/
def Snap.lineRuns (t tp : Trans) (bytes pool : List Byte) : Snap → List (List (Trans × Nat) × List Byte)
  | .write _ => [([(t, bytes.length)], bytes), ([(tp, pool.length)], pool)]
  | _ => [([(t, bytes.length)], bytes)]

theorem State.wrAt_same (s : State) (t : Trans) (l : List Byte) :
    (s.wrAt t l).warps = s.warps ∧ (s.wrAt t l).blocks = s.blocks := by
  rw [s.wrAt_frame t l]
  exact ⟨rfl, rfl⟩

section Runs
variable {t tp : Trans} {bytes pool : List Byte} {snap : Snap} (ht : t.leaf &&& 0x300 = 0x300)
include ht

theorem written_record (s : State) (h : ∀ j, snap ≠ .write j) :
    Written s ((snap.lineRuns t tp bytes pool).foldl (fun s r => s.writeSpan r.1 r.2) s) t tp bytes pool snap := by
  have hr : (snap.lineRuns t tp bytes pool).foldl (fun s r => s.writeSpan r.1 r.2) s = s.wrAt t bytes := by
    cases snap with
    | write j => exact absurd rfl (h j)
    | none | share _ | full => exact writeSpan_line ht s bytes
  rw [hr]
  obtain ⟨h1, h2⟩ := s.wrAt_same t bytes
  refine ⟨h1, h2, fun i hi => ?_, fun j e => absurd e (h j), fun a ha _ => ?_⟩
  · rw [State.byte_wrAt, if_pos ⟨Nat.le_add_right _ _, Nat.add_lt_add_left hi _⟩, Nat.add_sub_cancel_left]
  · rw [State.byte_wrAt, if_neg ha]

theorem written_both (s : State) (htp : tp.leaf &&& 0x300 = 0x300) {j : Nat}
    (hd : tp.key + pool.length ≤ t.key ∨ t.key + bytes.length ≤ tp.key) :
    Written s (((Snap.write j).lineRuns t tp bytes pool).foldl (fun s r => s.writeSpan r.1 r.2) s) t tp bytes pool
      (.write j) := by
  have hr : ((Snap.write j).lineRuns t tp bytes pool).foldl (fun s r => s.writeSpan r.1 r.2) s =
      (s.wrAt t bytes).wrAt tp pool := by
    rw [← writeSpan_line htp, ← writeSpan_line ht]
    rfl
  rw [hr]
  obtain ⟨h1, h2⟩ := s.wrAt_same t bytes
  obtain ⟨h3, h4⟩ := (s.wrAt t bytes).wrAt_same tp pool
  refine ⟨h3.trans h1, h4.trans h2, fun i hi => ?_, fun _ _ i hi => ?_, fun a ha hp => ?_⟩
  · rw [State.byte_wrAt, if_neg (by omega), State.byte_wrAt, if_pos ⟨Nat.le_add_right _ _, Nat.add_lt_add_left hi _⟩,
      Nat.add_sub_cancel_left]
  · rw [State.byte_wrAt, if_pos ⟨Nat.le_add_right _ _, Nat.add_lt_add_left hi _⟩, Nat.add_sub_cancel_left]
  · rw [State.byte_wrAt, if_neg (hp j rfl), State.byte_wrAt, if_neg ha]

end Runs

/-! ### The shed -/

section Shed
variable {s : State} {w : Warp} {b : Block} {l m p : Nat} {g : Shed} {snap : Snap} {t tp : Trans}
  (hs : s.snapFor (s.agentOf w) b m (w.snapBytes m) = snap) (hf : snap ≠ .full) (hp : p < 128) (hg : g.mask = 1#128 <<< p)
  (ht : s.Line (s.agentOf w) (b.recAddr (w.recSlot b p)) (w.recBytes b p g.dest (snap.off b) l g.link).length t)
  (htp : ∀ j, snap = .write j →
    s.Line (s.agentOf w) (b.spawnBase + BitVec.ofNat 64 (b.poolOffset j)) (w.snapBytes m).length tp ∧
      (tp.key + 8 * m ≤ t.key ∨ t.key + (w.recBytes b p g.dest (snap.off b) l g.link).length ≤ tp.key))
include hs hf hp hg ht htp

/-- R47, R50, R397: the shed of one thread waits for loose bytes that cannot go home, and else writes. -/
theorem shed_lines (id : Nat) : s.shed id w b l m [g] = if s.backHeld (ofWarp w) then .held
    else .done (s.shedOne id w (s.recOf w b p m snap g) (0 ||| g.mask)
      (snap.lineRuns t tp (w.recBytes b p g.dest (snap.off b) l g.link) (w.snapBytes m))) := by
  have hr : s.shedRuns (s.agentOf w) (w.recRun b p l snap g :: snap.run b (w.snapBytes m)) =
        .ok (snap.lineRuns t tp (w.recBytes b p g.dest (snap.off b) l g.link) (w.snapBytes m)) ∧
      ((snap.lineRuns t tp (w.recBytes b p g.dest (snap.off b) l g.link) (w.snapBytes m)).any
        fun r => r.1.any fun p => s.planeHeld p.1.key || s.leafHeld p.1 true) = false := by
    have hn : s.shedRuns (s.agentOf w) [] = .ok [] := by rw [State.shedRuns]
    cases snap with
    | write j =>
      obtain ⟨hl, -⟩ := htp j rfl
      exact ⟨shedRuns_cons ht (shedRuns_cons hl hn), by simp [Snap.lineRuns, ht.reached, hl.reached]⟩
    | none | share _ => exact ⟨shedRuns_cons ht hn, by simp [Snap.lineRuns, ht.reached]⟩
    | full => exact absurd rfl hf
  rw [shed_one hs hf hp hg hr.1 id, hr.2, Bool.or_false]

omit hs hf hp hg in
theorem shed_written : Written (s.sendOwn w)
    ((snap.lineRuns t tp (w.recBytes b p g.dest (snap.off b) l g.link) (w.snapBytes m)).foldl
      (fun s r => s.writeSpan r.1 r.2) (s.sendOwn w)) t tp (w.recBytes b p g.dest (snap.off b) l g.link) (w.snapBytes m) snap := by
  by_cases hw : ∃ j, snap = .write j
  · obtain ⟨j, rfl⟩ := hw
    obtain ⟨hl, hd⟩ := htp j rfl
    exact written_both ht.set _ hl.set (by rw [length_snapBytes]; exact hd)
  · exact written_record ht.set _ fun j e => hw ⟨j, e⟩

/-- R50: the block once one thread has been shed. -/
theorem shed_block (hb : s.blocks.find w.block = some b) (hback : s.backHeld (ofWarp w) = false) {id : Nat} {u : State}
    (hu : s.shed id w b l m [g] = .done u) :
    u.blocks.find w.block = some (b.withRec w (s.recOf w b p m snap g)) := by
  rw [shed_lines hs hf hp hg ht htp id, if_neg (by simp [hback])] at hu
  obtain ⟨hvw, hvb, -⟩ := shed_written ht htp
  rw [← ShedRes.done.inj hu]
  exact (shedOne_spec rfl hvw hvb hb).2.1

end Shed

/-! ### The statement, where a warp's own bytes take no name on their way home -/

/-- Where the loose bytes of a warp go home without a record of a failed store, the age of its instruction is that of the state in
which it issues. -/
def SendsUnnamed : Prop := ∀ (s : State) (w : Warp), (s.sendOwn w).nextId = s.nextId

theorem spawnRecords_of_unnamed (hn : SendsUnnamed) : Claims.spawnRecords := by
  intro s id w b l m p dest link t snap hw hb hp hl ag hs
  refine ⟨snapFor_none_iff.trans (by rw [hs]), fun j h => snapFor_share (hs.trans h), fun j h => snapFor_write (hs.trans h),
    fun h => shed_pool hs h id _ l, ?_⟩
  intro off bytes slot home line hf ht tp htp
  have hL : ∀ {va n t}, line va n t → s.Line ag va n t := fun h => ⟨h.1, h.2.1, h.2.2.1, h.2.2.2⟩
  have hpool := fun j h => (⟨hL (htp j h).1, (htp j h).2⟩ : s.Line ag _ _ tp ∧ _)
  have hshed := shed_lines (g := ⟨dest, link, 1#128 <<< p⟩) hs hf hp rfl (hL ht) hpool id
  have h0 : (0 : Mask) ||| (⟨dest, link, 1#128 <<< p⟩ : Shed).mask = 1#128 <<< p := BitVec.zero_or
  rw [h0] at hshed
  obtain ⟨hvw, hvb, hrec, hsn, ho⟩ := shed_written (g := ⟨dest, link, 1#128 <<< p⟩) (hL ht) hpool
  obtain ⟨huw, hub, hubyte⟩ := shedOne_spec (id := id) (r := s.recOf w b p m snap ⟨dest, link, 1#128 <<< p⟩)
    (gone := 1#128 <<< p) rfl hvw hvb hb
  obtain ⟨h8, hwid, hoff, hpr, hL1, hfl, hv, hlk⟩ := recBytes_fields w b p dest off l link
  have hlen : bytes.length = 24 + 4 * l + if link then 8 else 0 := length_recBytes w b p dest off l link
  refine ⟨fun h => hshed.trans (if_pos h), fun h => ⟨_, hshed.trans (if_neg (by simp [h])), huw, fun hc => ?_,
    ⟨_, hub, ?_⟩, hlen, fun i hi => (hubyte _).trans (hrec i hi), fun j hj i hi => ?_, fun a ha hna => ?_, ?_, ?_, ?_,
    fun i hi => ?_, ?_, hL1, ?_, fun i hi => ?_, fun hlink => ?_⟩⟩
  · rw [show home = _ from State.sendOwn_frame hc]
    exact ⟨hw, rfl⟩
  · rw [show home.nextId = s.nextId from hn s w]
    rfl
  · have hlen8 := length_snapBytes w m
    have hbytes := List.map_congr_left (l := List.range 8) fun x hx => (hubyte (tp.key + 8 * i + x)).trans
      ((congrArg _ (Nat.add_assoc tp.key (8 * i) x)).trans (hsn j hj (8 * i + x) (by have := List.mem_range.1 hx; omega)))
    rw [map_getD_range _ _ (by omega), snapBytes_word w hi] at hbytes
    exact (congrArg natOfBytes hbytes).trans (natOfBytes_word 8 _)
  · exact (hubyte a).trans (ho a ha fun j hj => by rw [length_snapBytes]; exact hna j hj)
  · rw [show bytes.take 8 = _ from h8]
    exact natOfBytes_word 8 dest
  · rw [show (bytes.drop 8).take 8 = _ from hwid]
    exact natOfBytes_word 8 _
  · rw [show (bytes.drop 16).take 4 = _ from hoff]
    exact natOfBytes_bytesOfNat 4 _
  · rw [show bytes.getD 20 0 = _ from hpr, predByte_bit w p (by omega)]
    simp [hi]
  · rw [show bytes.getD 20 0 = _ from hpr, predByte_bit w p (by omega)]
    simp
  · rw [show (bytes.drop 22).take 2 = _ from hfl]
    exact recFlags_eq w b link
  · rw [show (bytes.drop (24 + 4 * i)).take 4 = _ from hv i hi]
    exact natOfBytes_word 4 _
  · rw [show bytes.drop (24 + 4 * l) = _ from hlk, if_pos hlink]
    exact natOfBytes_word 8 _

end Sys2Proof.Machine
end

section
/-! SUPPORT. What DivergenceAndRecords rests on: the links of the part, whose ends the model does not fix (`Config.linkPeer`,
log 18). Where no link joins two dies the statement holds; where link 0 of die 0 joins die 1 it fails, for a shed during which a
loose byte of the warp fails on its way home: the event that reports it takes a name, and the record keeps the name that was
next before. -/

namespace Sys2Proof.Machine

/-! ### Without links between dies -/

theorem sendsUnnamed_of_noLinks (h : ∀ d l, Config.linkPeer d l = d) : SendsUnnamed := by
  intro s w
  have hl : ∀ d1 d2, s.linkFailed d1 d2 = false := by
    intro d1 d2
    by_contra hc
    simp only [State.linkFailed, h, Bool.not_eq_false, Bool.and_eq_true, bne_iff_ne, List.any_eq_true, Bool.or_eq_true,
      beq_iff_eq] at hc
    obtain ⟨hne, l, -, ⟨h1, h2⟩ | ⟨h1, h2⟩⟩ := hc
    · exact hne (h1.symm.trans h2)
    · exact hne (h2.symm.trans h1)
  have hc : (s.loose (ofWarp w) 0 (2 ^ 96)).filter s.looseCut = [] := by
    simp [State.looseCut, State.broken, hl]
  rw [State.sendOwn_frame hc]

/-- DivergenceAndRecords holds where no link joins two dies. -/
theorem divergenceAndRecords_of_noLinks (h : ∀ d l, Config.linkPeer d l = d) : Obligations.DivergenceAndRecords :=
  ⟨groups, diverging, spawnRecords_of_unnamed (sendsUnnamed_of_noLinks h)⟩

/-! ### With a link -/

/-- What the statement says of a record's age: that no byte of the warp takes a name on its way home. -/
theorem unnamed_of_spawnRecords (h : Claims.spawnRecords) {s : State} {w : Warp} {b : Block} {id p : Nat} {t : Trans}
    (hw : s.warp id = some w) (hb : s.blocks.find w.block = some b) (hp : p < 128)
    (ht : s.Line (s.agentOf w) (b.recAddr (w.recSlot b p)) (w.recBytes b p 0 0 0 false).length t)
    (hback : s.backHeld (ofWarp w) = false) : (s.sendOwn w).nextId = s.nextId := by
  have hs : s.snapFor (s.agentOf w) b 0 (w.snapBytes 0) = .none := snapFor_none_iff.1 rfl
  have hnone : ∀ j, Snap.none ≠ .write j := fun j => nofun
  obtain ⟨-, -, -, -, hrest⟩ := h s id w b 0 0 p 0 false t .none hw hb hp (by omega) hs
  obtain ⟨-, hdone⟩ := hrest nofun ⟨ht.span, ht.set, ht.free, ht.linked⟩ t fun j e => absurd e (hnone j)
  obtain ⟨u, hu, -, -, ⟨b1, hb1, hrecs⟩, -⟩ := hdone hback
  have hfind := shed_block (g := ⟨0, false, 1#128 <<< p⟩) (tp := t) hs nofun hp rfl ht
    (fun j e => absurd e (hnone j)) hb hback hu
  obtain rfl := Option.some.inj (hfind.symm.trans hb1)
  have hr := List.append_cancel_left hrecs
  exact (congrArg Rec.seq (List.cons.inj hr).1).symm

/-- A warp of 128 threads in a block of core 0. -/
def cutWarp : Warp :=
  { Warp.blank with block := 2, phase := .running, mask := BitVec.allOnes 128, full := true, va := 112, ka := 128 }

/-- Its block, whose spawn region lies in the first page. -/
def cutBlock : Block := { loadedBlock 4 3 with lmax := 16, mmax := 4, spawnBase := 0x2000 }

/-- A part in which the L1 holds for the warp a byte whose home is on a stack of die 1, link 0 of die 0 has failed, and the
compartment has an event queue whose address does not translate. -/
def cutState : State :=
  { State.reset with
    boot := .running, cur := 1, nextId := 10
    warps := [(1, some cutWarp)], blocks := [(2, some cutBlock)]
    comps := [(0, some { Comp.unowned with
      coreGroups := BitVec.allOnes 48, stackGroups := BitVec.allOnes 8, qevent := some (0x9000000000000000, 0) })]
    tlb := [⟨0, 0, 0, 1, 0, 0x100000, 0x307⟩]
    l1 := [(l1Key 0 (memKey 0 8 0), some (5, 0))], downLinks := [(0, 0)] }

/-- The line of the record of position 0. -/
def cutLine : Trans := ⟨memKey 0 0 0x2000, 0, false, false, 0x100000, 0x307, 0⟩

theorem cutState_line : cutState.Line (cutState.agentOf cutWarp) (cutBlock.recAddr (cutWarp.recSlot cutBlock 0))
    (cutWarp.recBytes cutBlock 0 0 0 0 false).length cutLine :=
  ⟨by decide +kernel, by decide +kernel, by decide +kernel, by decide +kernel⟩

theorem cutState_loose : cutState.loose (ofWarp cutWarp) 0 (2 ^ 96) = [⟨0, memKey 0 8 0, 5, 0⟩] := by decide +kernel

theorem cutState_fails : (cutState.failSlot 0 0).nextId = 11 := by decide +kernel

theorem cutState_cut (h : Config.linkPeer 0 0 = 1) : cutState.looseCut ⟨0, memKey 0 8 0, 5, 0⟩ = true := by
  have hd : cutState.dieOf 0 = 0 := by decide +kernel
  have hs : stackDie (keyStack (memKey 0 8 0)) = 1 := by decide +kernel
  have hl : cutState.linkFailed 0 1 = true := by simp [State.linkFailed, cutState, h]
  have hp : isPad (memKey 0 8 0) = false ∧ isLocal (memKey 0 8 0) = true := by decide +kernel
  change (!isPad (memKey 0 8 0) && isLocal (memKey 0 8 0) &&
    cutState.linkFailed (cutState.dieOf 0) (stackDie (keyStack (memKey 0 8 0)))) = true
  rw [hd, hs, hl, hp.1, hp.2]
  rfl

theorem cutState_named (h : Config.linkPeer 0 0 = 1) : (cutState.sendOwn cutWarp).nextId = 11 := by
  have hc : firstOfLine ((cutState.loose (ofWarp cutWarp) 0 (2 ^ 96)).filter cutState.looseCut) =
      [⟨0, memKey 0 8 0, 5, 0⟩] := by
    rw [cutState_loose, List.filter_cons_of_pos (cutState_cut h)]
    rfl
  unfold State.sendOwn State.sendHome
  dsimp only
  rw [hc, State.writeBack_frame]
  exact cutState_fails

/-- DivergenceAndRecords fails where link 0 of die 0 joins die 1. -/
theorem not_divergenceAndRecords_of_link (h : Config.linkPeer 0 0 = 1) : ¬ Obligations.DivergenceAndRecords := by
  rintro ⟨-, -, hr⟩
  have hn := unnamed_of_spawnRecords hr (s := cutState) (w := cutWarp) (b := cutBlock) (id := 1) (p := 0) rfl rfl (by decide)
    cutState_line (by decide +kernel)
  rw [cutState_named h] at hn
  exact absurd hn (by decide)

end Sys2Proof.Machine
end

section
/-! SUPPORT. What lands in a warp (R75, R77, R264): the registers that results write, and the pending bits, counters and marks that
go with them. -/

namespace Sys2Proof.Machine

/-! ### Values set one after another -/

/-- A read after keys were set one by one: the last value that was set under the key. -/
theorem Store.get_foldl_setLast {α β : Type} [DecidableEq α] {d : α} (key : β → Nat) (val : β → α) (l : List β) (m : Store α)
    (a : Nat) : Store.get d (l.foldl (fun m p => Store.set d m (key p) (val p)) m) a =
      ((l.reverse.find? fun p => key p == a).map val).getD (Store.get d m a) := by
  induction l generalizing m with
  | nil => rfl
  | cons p r ih =>
    rw [List.foldl_cons, ih, Store.get_set, List.reverse_cons, List.find?_append]
    cases hf : r.reverse.find? fun p => key p == a with
    | some q => rfl
    | none =>
      by_cases h : a = key p
      · simp [h]
      · simp [h, Ne.symm h]

/-- A search depends on what its test says of the members alone. -/
theorem find?_congr_of_mem {α : Type} {l : List α} {P Q : α → Bool} (h : ∀ x ∈ l, P x = Q x) : l.find? P = l.find? Q := by
  induction l with
  | nil => rfl
  | cons x r ih =>
    rw [List.find?_cons, List.find?_cons, h x List.mem_cons_self, ih fun y hy => h y (List.mem_cons_of_mem _ hy)]

/-! ### Results written -/

section Land
variable (l : List RegWrite) (w : Warp)

/-- Results that land write v, e and k registers alone. -/
theorem Warp.foldl_land_frame : ∃ v e k, l.foldl Warp.land w = { w with v := v, e := e, k := k } := by
  induction l generalizing w with
  | nil => exact ⟨_, _, _, rfl⟩
  | cons x r ih =>
    obtain ⟨v, e, k, h⟩ := ih (w.land x)
    cases x <;> exact ⟨v, e, k, h⟩

theorem Warp.v_foldl_land : (l.foldl Warp.land w).v =
    (Claims.vWrites l).foldl (fun m e => Store.set 0 m (e.1 * 128 + e.2.1) e.2.2) w.v := by
  induction l generalizing w with
  | nil => rfl
  | cons x r ih =>
    rw [List.foldl_cons, ih]
    cases x <;> simp [Claims.vWrites, Warp.land, List.foldl_append, List.foldl_map]

theorem Warp.e_foldl_land : (l.foldl Warp.land w).e =
    (Claims.eWrites l).foldl (fun m e => Store.set 0 m (e.1 * 32 + e.2.1) e.2.2) w.e := by
  induction l generalizing w with
  | nil => rfl
  | cons x r ih =>
    rw [List.foldl_cons, ih]
    cases x <;> simp [Claims.eWrites, Warp.land, List.foldl_append, List.foldl_map]

theorem Warp.k_foldl_land : (l.foldl Warp.land w).k =
    (Claims.kWrites l).foldl (fun m e => Store.set 0 m e.1 e.2) w.k := by
  induction l generalizing w with
  | nil => rfl
  | cons x r ih =>
    rw [List.foldl_cons, ih]
    cases x <;> simp [Claims.kWrites, Warp.land]

/-- R75: a v register at a position takes the last value that the results give it. -/
theorem Warp.vr_foldl_land (h : ∀ e ∈ Claims.vWrites l, e.2.1 < 128) (r : Nat) {p : Nat} (hp : p < 128) :
    (l.foldl Warp.land w).vr r p =
      (((Claims.vWrites l).reverse.find? fun e => e.1 == r && e.2.1 == p).map (·.2.2)).getD (w.vr r p) := by
  rw [Warp.vr, Warp.v_foldl_land, Store.get_foldl_setLast (fun e : Nat × Nat × Word => e.1 * 128 + e.2.1),
    find?_congr_of_mem fun e he => ?_]
  · rfl
  · have he := h e (List.mem_reverse.1 he)
    rw [Bool.eq_iff_iff]
    simp only [beq_iff_eq, Bool.and_eq_true]
    exact ⟨fun e => key_inj he hp e, fun ⟨h1, h2⟩ => by rw [h1, h2]⟩

theorem Warp.er_foldl_land (h : ∀ e ∈ Claims.eWrites l, e.2.1 < 32) (r : Nat) {i : Nat} (hi : i < 32) :
    (l.foldl Warp.land w).er r i =
      (((Claims.eWrites l).reverse.find? fun e => e.1 == r && e.2.1 == i).map (·.2.2)).getD (w.er r i) := by
  rw [Warp.er, Warp.e_foldl_land, Store.get_foldl_setLast (fun e : Nat × Nat × Byte => e.1 * 32 + e.2.1),
    find?_congr_of_mem fun e he => ?_]
  · rfl
  · have he := h e (List.mem_reverse.1 he)
    rw [Bool.eq_iff_iff]
    simp only [beq_iff_eq, Bool.and_eq_true]
    exact ⟨fun e => key_inj he hi e, fun ⟨h1, h2⟩ => by rw [h1, h2]⟩

theorem Warp.kr_foldl_land (r : Nat) : (l.foldl Warp.land w).kr r =
    (((Claims.kWrites l).reverse.find? fun e => e.1 == r).map (·.2)).getD (w.kr r) := by
  rw [Warp.kr, Warp.k_foldl_land, Store.get_foldl_setLast (fun e : Nat × DWord => e.1)]
  rfl

/-! ### Pending bits -/

theorem Warp.unpend_frame : ∃ pv pe pk, w.unpend l = { w with pendV := pv, pendE := pe, pendK := pk } := by
  unfold Warp.unpend
  induction l generalizing w with
  | nil => exact ⟨_, _, _, rfl⟩
  | cons x r ih => exact ih _

theorem Warp.pend_frame : ∃ pv pe pk, w.pend l = { w with pendV := pv, pendE := pe, pendK := pk } := by
  unfold Warp.pend
  induction l generalizing w with
  | nil => exact ⟨_, _, _, rfl⟩
  | cons x r ih => exact ih _

/-- R75: what results to come leave pending, bit by bit. -/
theorem Warp.pend_bits (b : Nat) :
    (w.pend l).pendV.getLsbD b = (w.pendV.getLsbD b || l.any fun x => x.regs.1.getLsbD b) ∧
    (w.pend l).pendE.getLsbD b = (w.pendE.getLsbD b || l.any fun x => x.regs.2.1.getLsbD b) ∧
    (w.pend l).pendK.getLsbD b = (w.pendK.getLsbD b || l.any fun x => x.regs.2.2.getLsbD b) := by
  unfold Warp.pend
  induction l generalizing w with
  | nil => simp
  | cons x r ih =>
    obtain ⟨h1, h2, h3⟩ := ih { w with
      pendV := w.pendV ||| x.regs.1, pendE := w.pendE ||| x.regs.2.1, pendK := w.pendK ||| x.regs.2.2 }
    refine ⟨h1.trans ?_, h2.trans ?_, h3.trans ?_⟩ <;> simp [Bool.or_assoc]

/-- R75: what results that have landed leave pending, bit by bit. -/
theorem Warp.unpend_bits {b : Nat} (hb : b < 128) :
    (w.unpend l).pendV.getLsbD b = (w.pendV.getLsbD b && !l.any fun x => x.regs.1.getLsbD b) ∧
    (w.unpend l).pendE.getLsbD b = (w.pendE.getLsbD b && !l.any fun x => x.regs.2.1.getLsbD b) ∧
    (w.unpend l).pendK.getLsbD b = (w.pendK.getLsbD b && !l.any fun x => x.regs.2.2.getLsbD b) := by
  unfold Warp.unpend
  induction l generalizing w with
  | nil => simp
  | cons x r ih =>
    obtain ⟨h1, h2, h3⟩ := ih { w with
      pendV := w.pendV &&& ~~~ x.regs.1, pendE := w.pendE &&& ~~~ x.regs.2.1, pendK := w.pendK &&& ~~~ x.regs.2.2 }
    refine ⟨h1.trans ?_, h2.trans ?_, h3.trans ?_⟩ <;> simp [hb, Bool.and_assoc]

end Land

/-! ### Counters -/

theorem Warp.dn_decD (w : Warp) (n c : Nat) : (w.decD n).dn c = if n = c then w.dn c - 1 else w.dn c := by
  refine (Store.get_set w.d n (w.dn n - 1) c).trans ?_
  by_cases h : n = c
  · rw [if_pos h.symm, if_pos h, h]
  · rw [if_neg (Ne.symm h), if_neg h]
    rfl

/-- R77: the counter share of an instruction released, where it has one. -/
def Warp.release (w : Warp) : Option Nat → Warp
  | some n => w.decD n
  | none => w

theorem Warp.release_frame (w : Warp) (dc : Option Nat) : ∃ d, w.release dc = { w with d := d } := by
  cases dc with
  | none => exact ⟨_, rfl⟩
  | some n => exact ⟨_, rfl⟩

theorem Warp.dn_release (w : Warp) (dc : Option Nat) (c : Nat) :
    (w.release dc).dn c = if dc = some c then w.dn c - 1 else w.dn c := by
  cases dc with
  | none => rfl
  | some n => exact (w.dn_decD n c).trans (by simp)

/-! ### Marks (R264) -/

theorem bit_single_beq {n r : Nat} (hr : r < 128) : (1#128 <<< n).getLsbD r = (n == r) := by
  rw [bit_single hr, Bool.eq_iff_iff, decide_eq_true_iff, beq_iff_eq]
  exact eq_comm

theorem Warp.marked_mark (w : Warp) {f g r : Nat} (hf : f ≤ 2) (hg : g ≤ 2) (hr : r < 128) (n : Nat) (a : DWord) :
    (w.mark f n a).marked g r = (w.marked g r || (f == g && n == r)) := by
  have hs (x : BitVec 128) : (x ||| 1#128 <<< n).getLsbD r = (x.getLsbD r || (n == r)) := by
    rw [BitVec.getLsbD_or, bit_single_beq hr]
  match f, hf, g, hg with
  | 0, _, 0, _ | 1, _, 1, _ | 2, _, 2, _ => exact hs _
  | 0, _, 1, _ | 0, _, 2, _ | 1, _, 0, _ | 1, _, 2, _ | 2, _, 0, _ | 2, _, 1, _ => exact (Bool.or_false _).symm

/-- Registers marked one after another. -/
def Warp.marks (w : Warp) (l : List (Nat × Nat × DWord)) : Warp := l.foldl (fun w p => w.mark p.1 p.2.1 p.2.2) w

section Marks
variable {l : List (Nat × Nat × DWord)} (hl : ∀ m ∈ l, m.1 ≤ 2) (w : Warp)
include hl

theorem Warp.marks_frame : ∃ mv me mk, w.marks l = { w with
    markV := mv, markE := me, markK := mk
    markAddr := l.foldl (fun m p => Store.set 0 m (markKey p.1 p.2.1) p.2.2) w.markAddr } := by
  induction l generalizing w with
  | nil => exact ⟨_, _, _, rfl⟩
  | cons m r ih =>
    obtain ⟨mv, me, mk, h⟩ := ih (fun x hx => hl x (List.mem_cons_of_mem _ hx)) (w.mark m.1 m.2.1 m.2.2)
    refine ⟨mv, me, mk, h.trans ?_⟩
    match m, hl m List.mem_cons_self with
    | (0, _), _ | (1, _), _ | (2, _), _ => rfl

theorem Warp.marked_marks {g r : Nat} (hg : g ≤ 2) (hr : r < 128) :
    (w.marks l).marked g r = (w.marked g r || l.any fun m => m.1 == g && m.2.1 == r) := by
  induction l generalizing w with
  | nil => simp [Warp.marks]
  | cons m t ih =>
    refine (ih (fun x hx => hl x (List.mem_cons_of_mem _ hx)) (w.mark m.1 m.2.1 m.2.2)).trans ?_
    rw [w.marked_mark (hl m List.mem_cons_self) hg hr, List.any_cons, Bool.or_assoc]

/-- R264: where all marks hold one address, each of them holds it. -/
theorem Warp.markAddr_marks (hs : ∀ m ∈ l, ∀ o ∈ l, o.2.2 = m.2.2) {m : Nat × Nat × DWord} (hm : m ∈ l) :
    Store.get 0 (w.marks l).markAddr (markKey m.1 m.2.1) = m.2.2 := by
  obtain ⟨_, _, _, h⟩ := w.marks_frame hl
  rw [h, Store.get_foldl_setLast (fun p : Nat × Nat × DWord => markKey p.1 p.2.1)]
  cases hf : l.reverse.find? fun p => markKey p.1 p.2.1 == markKey m.1 m.2.1 with
  | none => exact absurd (List.find?_eq_none.1 hf m (List.mem_reverse.2 hm)) (by simp)
  | some o => exact hs m hm o (List.mem_reverse.1 (List.mem_of_find?_eq_some hf))

end Marks

end Sys2Proof.Machine
end

section
/-! SUPPORT. Read returns and store acknowledgements (R75, R77, R83, R137, R264, R312, R397). -/

namespace Sys2Proof.Machine

/-! ### Who a return is for (R83) -/

theorem State.owner_of {s : State} {id slot gen : Nat} {w : Warp} (hw : s.warp id = some w) (hn : w.slotNo = slot)
    (hg : s.gen slot = gen) (hk : w.killed = false) (ho : w.swapped = false) : s.owner id slot gen = some w := by
  simp [State.owner, hw, hn, hg, hk, ho]

theorem State.owner_gone {s : State} {id slot gen : Nat}
    (h : s.gen slot ≠ gen ∨ ∃ w, s.warp id = some w ∧ w.killed = true) : s.owner id slot gen = none := by
  obtain hg | ⟨w, hw, hk⟩ := h
  · unfold State.owner
    split <;> simp [hg]
  · simp [State.owner, hw, hk]

/-! ### Drops (R83) -/

theorem dropsCounted_zero (s t : State) (slot : Nat) (h : t.comps = s.comps) : Claims.dropsCounted s t slot 0 := by
  intro c o ho
  rw [h, ho]
  simp

theorem dropsCounted_countDrop {s t : State} {slot n : Nat} (h : Claims.dropsCounted s t slot n) :
    Claims.dropsCounted s (t.countDrop slot) slot (n + 1) := by
  intro c o ho
  have hm : Table.find (t.comps.map fun q => (q.1, q.2.map fun c =>
      if c.coreGroups.getLsbD (slot / 128 / 4) then { c with drc := c.drc + 1 } else c)) c = (t.comps.find c).map fun c =>
      if c.coreGroups.getLsbD (slot / 128 / 4) then { c with drc := c.drc + 1 } else c :=
    Table.find_map (fun _ c => if c.coreGroups.getLsbD (slot / 128 / 4) then { c with drc := c.drc + 1 } else c) t.comps c
  refine hm.trans ?_
  rw [h c o ho, Nat.div_div_eq_div_mul]
  by_cases hc : o.coreGroups.getLsbD (slot / 512) = true
  · simp [hc, BitVec.ofNat_add, BitVec.add_assoc]
  · simp [hc]

theorem dropsCounted_one {s t : State} (slot : Nat) (h : t.comps = s.comps) : Claims.dropsCounted s (t.countDrop slot) slot 1 :=
  dropsCounted_countDrop (dropsCounted_zero s t slot h)

/-! ### A read lands (R75, R264) -/

theorem Warp.receive_eq (w : Warp) (n : Load) :
    w.receive n = (((n.writes.foldl Warp.land w).unpend n.writes).marks n.bad).release n.dc := by
  unfold Warp.receive Warp.release
  cases n.dc <;> rfl

theorem Warp.receive_frame (w : Warp) {n : Load} (hb : ∀ m ∈ n.bad, m.1 ≤ 2) : w.receive n = { w with
    v := (w.receive n).v, e := (w.receive n).e, k := (w.receive n).k, d := (w.receive n).d
    pendV := (w.receive n).pendV, pendE := (w.receive n).pendE, pendK := (w.receive n).pendK
    markV := (w.receive n).markV, markE := (w.receive n).markE, markK := (w.receive n).markK
    markAddr := (w.receive n).markAddr } := by
  obtain ⟨v, e, k, hl⟩ := Warp.foldl_land_frame n.writes w
  obtain ⟨pv, pe, pk, hu⟩ := Warp.unpend_frame n.writes (n.writes.foldl Warp.land w)
  obtain ⟨mv, me, mk, hm⟩ := ((n.writes.foldl Warp.land w).unpend n.writes).marks_frame hb
  obtain ⟨d, hd⟩ := (((n.writes.foldl Warp.land w).unpend n.writes).marks n.bad).release_frame n.dc
  rw [w.receive_eq, hd, hm, hu, hl]

theorem regs_bits (x : RegWrite) {r : Nat} (hr : r < 128) :
    (x.regs.1.getLsbD r = match x with | .v q _ => q == r | _ => false) ∧
    (x.regs.2.1.getLsbD r = match x with | .e q _ => q == r | _ => false) ∧
    (x.regs.2.2.getLsbD r = match x with | .k q _ => q == r | _ => false) := by
  have hb (q : Nat) := bit_single_beq (n := q) hr
  cases x with
  | v q l => exact ⟨hb q, BitVec.getLsbD_zero, BitVec.getLsbD_zero⟩
  | e q l => exact ⟨BitVec.getLsbD_zero, hb q, BitVec.getLsbD_zero⟩
  | k q l => exact ⟨BitVec.getLsbD_zero, BitVec.getLsbD_zero, hb q⟩

theorem received_receive (w : Warp) {n : Load} (hv : ∀ e ∈ Claims.vWrites n.writes, e.2.1 < 128)
    (he : ∀ e ∈ Claims.eWrites n.writes, e.2.1 < 32) (hb : ∀ m ∈ n.bad, m.1 ≤ 2) : Claims.received w (w.receive n) n := by
  rw [w.receive_eq]
  have hv := w.vr_foldl_land n.writes hv
  have he := w.er_foldl_land n.writes he
  have hk := w.kr_foldl_land n.writes
  obtain ⟨_, _, _, hl⟩ := w.foldl_land_frame n.writes
  generalize n.writes.foldl Warp.land w = w1 at *
  have hp := fun b hb => w1.unpend_bits n.writes (b := b) hb
  obtain ⟨_, _, _, hu⟩ := w1.unpend_frame n.writes
  generalize w1.unpend n.writes = w2 at *
  have hM := fun g hg r hr => w2.marked_marks hb (g := g) (r := r) hg hr
  have hA := fun hs m => w2.markAddr_marks hb hs (m := m)
  obtain ⟨_, _, _, hm⟩ := w2.marks_frame hb
  generalize w2.marks n.bad = w3 at *
  have hd := w3.dn_release n.dc
  obtain ⟨_, hr⟩ := w3.release_frame n.dc
  generalize w3.release n.dc = w4 at *
  subst hr hm hu hl
  refine ⟨hd, hv, he, hk, fun r h128 => ⟨?_, ?_, ?_, fun file hf => ?_⟩, hA⟩
  · refine (hp r h128).1.trans ?_
    simp only [(regs_bits _ h128).1] <;> rfl
  · refine (hp r h128).2.1.trans ?_
    simp only [(regs_bits _ h128).2.1] <;> rfl
  · refine (hp r h128).2.2.trans ?_
    simp only [(regs_bits _ h128).2.2] <;> rfl
  · refine hM file ?_ r h128
    simp only [List.mem_cons, List.not_mem_nil, or_false] at hf
    omega

/-! ### The two returns -/

section Returns
variable {s : State} {id : Nat}

theorem loadReturn_lands {n : Load} {w : Warp} (hn : s.loads.find id = some n) (hf : n.far = false ∨ s.quiesced = false)
    (ho : s.owner n.warp n.slot n.gen = some w) : exec (.loadReturn id) s =
      .next { s with loads := s.loads.erase id, warps := s.warps.put n.warp (w.receive n) } := by
  show execLoadReturn id s = _
  obtain h | h := hf <;> simp [execLoadReturn, hn, h, ho, State.putWarp]

theorem loadReturn_drops {n : Load} (hn : s.loads.find id = some n) (hf : n.far = false ∨ s.quiesced = false)
    (ho : s.owner n.warp n.slot n.gen = none) : exec (.loadReturn id) s =
      .next (({ s with loads := s.loads.erase id } : State).countDrop n.slot) := by
  show execLoadReturn id s = _
  obtain h | h := hf <;> simp [execLoadReturn, hn, h, ho]

/-- The acknowledgements that stay in flight after one of a group has come (R137). -/
def State.acksAfter (s : State) (id : Nat) (a : Ack) : Table Ack :=
  if a.left ≤ 1 then s.acks.erase id else s.acks.put id { a with left := a.left - 1 }

theorem storeAck_lands {a : Ack} {w : Warp} (ha : s.acks.find id = some a) (hf : a.far = false ∨ s.quiesced = false)
    (ho : s.owner a.warp a.slot a.gen = some w) : exec (.storeAck id) s =
      .next { s with acks := s.acksAfter id a, warps := s.warps.put a.warp (w.acked a) } := by
  show execStoreAck id s = _
  obtain h | h := hf <;> by_cases hl : a.left ≤ 1 <;> simp [execStoreAck, State.acksAfter, ha, h, ho, hl, State.putWarp]

theorem storeAck_drops {a : Ack} (ha : s.acks.find id = some a) (hf : a.far = false ∨ s.quiesced = false)
    (ho : s.owner a.warp a.slot a.gen = none) : exec (.storeAck id) s =
      .next (({ s with acks := s.acksAfter id a } : State).countDrop a.slot) := by
  show execStoreAck id s = _
  obtain h | h := hf <;> by_cases hl : a.left ≤ 1 <;> simp [execStoreAck, State.acksAfter, ha, h, ho, hl]

theorem acked_eq (w : Warp) (a : Ack) :
    w.acked a = ({ w with out := w.out - 1 } : Warp).release (if a.left ≤ 1 then a.dc else none) := by
  unfold Warp.acked
  split
  · cases a.dc <;> rfl
  · rfl

theorem acked_frame (w : Warp) (a : Ack) : w.acked a = { w with out := w.out - 1, d := (w.acked a).d } := by
  obtain ⟨d, h⟩ := ({ w with out := w.out - 1 } : Warp).release_frame (if a.left ≤ 1 then a.dc else none)
  rw [acked_eq, h]

theorem dn_acked (w : Warp) (a : Ack) (c : Nat) :
    (w.acked a).dn c = if a.left ≤ 1 ∧ a.dc = some c then w.dn c - 1 else w.dn c := by
  rw [acked_eq, Warp.dn_release]
  by_cases h : a.left ≤ 1 <;> simp [h] <;> rfl

end Returns

/-- Settles O17: a return goes to the warp that `State.owner` finds, and lands there by `received_receive` or `dn_acked`, or is
dropped and counted once. -/
theorem returnsLand : Obligations.ReturnsLand := by
  unfold Obligations.ReturnsLand
  intro s id
  refine ⟨fun n w hn hw hf hs hg hk ho hv he hb => ?_, fun a w ha hw hf hs hg hk ho => ?_, fun n hn hf hg => ?_,
    fun a ha hf hg => ?_, fun hq => ⟨fun n hn hf => ?_, fun a ha hf => ?_⟩⟩
  · exact ⟨_, loadReturn_lands hn hf (State.owner_of hw hs hg hk ho), w.receive_frame fun m hm => (hb m hm).1,
      received_receive w hv he fun m hm => (hb m hm).1⟩
  · exact ⟨_, storeAck_lands ha hf (State.owner_of hw hs hg hk ho), acked_frame w a, dn_acked w a⟩
  · exact ⟨_, loadReturn_drops hn hf (State.owner_gone hg), rfl, dropsCounted_one _ rfl⟩
  · exact ⟨_, storeAck_drops ha hf (State.owner_gone hg), rfl, dropsCounted_one _ rfl⟩
  · show execLoadReturn id s = _
    simp [execLoadReturn, hn, hf, hq]
  · show execStoreAck id s = _
    simp [execStoreAck, ha, hf, hq]

end Sys2Proof.Machine
end


section
/-! SUPPORT. How a chase ends (R83, R198 to R200). -/

namespace Sys2Proof.Machine

/-! ### What lands -/

/-- A search for the one element that a test holds of finds it from either end. -/
theorem find?_reverse_of_unique {α : Type} {l : List α} {P : α → Bool}
    (h : ∀ x ∈ l, ∀ y ∈ l, P x = true → P y = true → x = y) : l.reverse.find? P = l.find? P := by
  cases hf : l.find? P with
  | none => exact List.find?_eq_none.2 fun x hx => List.find?_eq_none.1 hf x (List.mem_reverse.1 hx)
  | some x =>
    have hx := List.mem_of_find?_eq_some hf
    cases hr : l.reverse.find? P with
    | none => exact absurd (List.find?_some hf) (List.find?_eq_none.1 hr x (List.mem_reverse.2 hx))
    | some y => rw [h x hx y (List.mem_reverse.1 (List.mem_of_find?_eq_some hr)) (List.find?_some hf) (List.find?_some hr)]

/-- R198: the results of a chase, for its destination pair. -/
def Chase.results (c : Chase) : List RegWrite :=
  [.v c.dst (c.packets.map fun p => (p.pos, p.result.extractLsb' 0 32)),
    .v (c.dst + 1) (c.packets.map fun p => (p.pos, p.result.extractLsb' 32 32))]

/-- R198: where a packet met an uncorrectable error. -/
def Packet.badAt (p : Packet) : Option DWord := match p.st with | .bad a => some a | _ => none

/-- R198: the addresses at which packets met an uncorrectable error. -/
def Chase.badAddrs (c : Chase) : List DWord := c.packets.filterMap Packet.badAt

/-- R198, R385: the marks of the destination pair. -/
def Chase.marks (c : Chase) : List (Nat × Nat × DWord) :=
  match c.badAddrs with
  | [] => []
  | a :: _ => [(0, c.dst, a), (0, c.dst + 1, a)]

/-- R198: the end of a chase as the return of a load of its results. -/
def Chase.asLoad (c : Chase) : Load := ⟨c.warp, c.slot, c.gen, some c.dc, c.results, c.marks, none, false⟩

theorem Chase.marks_file (c : Chase) : ∀ m ∈ c.marks, m.1 ≤ 2 := by
  unfold Chase.marks
  split <;> simp

/-- R199: the replay flag of a warp as a chase of it lands: it clears with the last that has trapped. -/
def State.flagAfter (s : State) (c : Chase) (x : DWord) : DWord :=
  if c.trapped && s.trappedChases c.warp = [] then x &&& 0xFFFFFFFFFFFFFFEF else x

theorem trappedChases_nil (s : State) (id : Nat) : s.trappedChases id = [] ↔
    s.chases.all.all (fun e => !(e.2.warp == id && e.2.trapped && s.gen e.2.slot == e.2.gen)) = true := by
  simp only [State.trappedChases, State.chasesOf, List.filter_eq_nil_iff, List.mem_filter, List.all_eq_true]
  refine ⟨fun h e he => ?_, fun h e ⟨he, h1⟩ ht => ?_⟩
  · by_contra hn
    simp only [Bool.not_eq_true', Bool.not_eq_false, Bool.and_eq_true] at hn
    exact h e ⟨he, by simp [hn]⟩ hn.1.2
  · have := h e he
    simp_all

theorem State.flagAfter_eq (s : State) (c : Chase) (x : DWord) : s.flagAfter c x =
    if c.trapped && s.chases.all.all fun e => !(e.2.warp == c.warp && e.2.trapped && s.gen e.2.slot == e.2.gen) then
      x &&& ~~~ 0x10 else x := by
  unfold State.flagAfter
  simp only [Bool.and_eq_true, decide_eq_true_eq, trappedChases_nil]
  rfl

theorem State.putWarp_flagAfter (s : State) (c : Chase) (w : Warp) :
    s.putWarp c.warp (if c.trapped && s.trappedChases c.warp = [] then { w with xstat := w.xstat &&& 0xFFFFFFFFFFFFFFEF } else w) =
      { s with warps := s.warps.put c.warp { w with xstat := s.flagAfter c w.xstat } } := by
  unfold State.flagAfter
  split <;> rfl

/-- R198: the warp of a chase that has landed, its replay flag aside. -/
def Chase.landed (c : Chase) (w : Warp) : Warp :=
  let w1 := ((c.results.foldl Warp.land w).unpend c.results).decD c.dc
  match c.badAddrs with
  | [] => w1
  | a :: _ => (w1.mark 0 c.dst a).mark 0 (c.dst + 1) a

theorem landChase_def (s : State) (id : Nat) (c : Chase) (w : Warp) : s.landChase id c w =
    let s1 : State := { s with chases := s.chases.erase id }
    s1.putWarp c.warp (if c.trapped && s1.trappedChases c.warp = [] then
      { c.landed w with xstat := (c.landed w).xstat &&& 0xFFFFFFFFFFFFFFEF } else c.landed w) := rfl

/-- R198: the marks of a chase are set and its counter share is released in either order. -/
theorem receive_asLoad (c : Chase) (w : Warp) : w.receive c.asLoad = c.landed w := by
  rw [w.receive_eq]
  show (((c.results.foldl Warp.land w).unpend c.results).marks c.marks).decD c.dc = _
  unfold Chase.marks Chase.landed
  generalize (c.results.foldl Warp.land w).unpend c.results = x
  cases c.badAddrs <;> rfl

theorem landed_unmarked (c : Chase) (w : Warp) : ∃ v pv d, ((c.results.foldl Warp.land w).unpend c.results).decD c.dc =
    { w with v := v, pendV := pv, d := d } := by
  have h0 (m : Mask) : m &&& ~~~ 0 = m := BitVec.and_allOnes
  simp only [Chase.results, Warp.unpend, Warp.decD, RegWrite.regs, List.foldl_cons, List.foldl_nil, h0]
  exact ⟨_, _, _, rfl⟩

/-- R198: a chase that lands writes v registers, their pending bits and marks, and its counter. -/
theorem landed_frame (c : Chase) (w : Warp) : ∃ v pv d mv ma,
    c.landed w = { w with v := v, pendV := pv, d := d, markV := mv, markAddr := ma } ∧
    (c.badAddrs = [] → mv = w.markV ∧ ma = w.markAddr) := by
  obtain ⟨v, pv, d, h⟩ := landed_unmarked c w
  unfold Chase.landed
  rw [h]
  cases c.badAddrs with
  | nil => exact ⟨_, _, _, _, _, rfl, fun _ => ⟨rfl, rfl⟩⟩
  | cons a l => exact ⟨_, _, _, _, _, rfl, fun h => absurd h (List.cons_ne_nil _ _)⟩

theorem landChase_eq (s : State) (id : Nat) (c : Chase) (w : Warp) : s.landChase id c w =
    { s with chases := s.chases.erase id, warps := s.warps.put c.warp { c.landed w with
        xstat := ({ s with chases := s.chases.erase id } : State).flagAfter c w.xstat } } := by
  obtain ⟨_, _, _, _, _, h, -⟩ := landed_frame c w
  have hx : (c.landed w).xstat = w.xstat := by rw [h]
  rw [landChase_def, ← hx]
  exact State.putWarp_flagAfter _ _ _

/-- What a pair of results writes to one register, read from the last. -/
theorem find_results {ps : List Packet} (hu : ps.Pairwise fun p q => p.pos ≠ q.pos) (a r p : Nat) (g : Packet → Word) :
    ((ps.map fun q => (a, q.pos, g q)).reverse.find? fun e => e.1 == r && e.2.1 == p) =
      if a = r then (ps.find? fun q => q.pos == p).map fun q => (a, q.pos, g q) else none := by
  have hn : (ps.map (·.pos)).Nodup := List.pairwise_map.2 hu
  rw [← List.map_reverse, List.find?_map]
  by_cases h : a = r
  · subst h
    rw [if_pos rfl, ← find?_reverse_of_unique fun x hx y hy h1 h2 =>
      List.inj_on_of_nodup_map hn hx hy ((beq_iff_eq.1 h1).trans (beq_iff_eq.1 h2).symm)]
    simp
  · rw [if_neg h, List.find?_eq_none.2, Option.map_none]
    simp [h]

theorem vWrites_results (c : Chase) : Claims.vWrites c.results =
    (c.packets.map fun q => (c.dst, q.pos, q.result.extractLsb' 0 32)) ++
      c.packets.map fun q => (c.dst + 1, q.pos, q.result.extractLsb' 32 32) := by
  simp [Claims.vWrites, Chase.results, Function.comp_def]

/-- R198: what each register holds after the results of a chase have landed. -/
theorem vr_of_results {c : Chase} {w w1 : Warp} (hu : c.packets.Pairwise fun p q => p.pos ≠ q.pos) {r p : Nat}
    (h : w1.vr r p =
      (((Claims.vWrites c.results).reverse.find? fun e => e.1 == r && e.2.1 == p).map (·.2.2)).getD (w.vr r p)) :
    w1.vr r p = match c.packets.find? fun q => q.pos == p with
      | some q => if r = c.dst then q.result.extractLsb' 0 32
        else if r = c.dst + 1 then q.result.extractLsb' 32 32 else w.vr r p
      | none => w.vr r p := by
  rw [h, vWrites_results, List.reverse_append, List.find?_append, find_results hu, find_results hu]
  cases hq : c.packets.find? fun q => q.pos == p with
  | none => simp
  | some q =>
    by_cases h0 : c.dst = r
    · simp [h0]
    · by_cases h1 : c.dst + 1 = r
      · simp [← h1]
      · simp [h0, h1, Ne.symm h0, Ne.symm h1]

/-! ### Who is trapped (R199) -/

/-- R199: where a packet faulted, and how. -/
def Packet.faultAt (p : Packet) : Option (Nat × Nat × DWord) := match p.st with | .fault k a => some (p.pos, k, a) | _ => none

/-- R197, R199: where a packet ran out of hops. -/
def Packet.hopAt (p : Packet) : Option (Nat × DWord) := match p.st with | .hop => some (p.pos, p.ptr) | _ => none

theorem Packet.faultAt_none {p : Packet} : p.faultAt = none ↔ ∀ k a, p.st ≠ .fault k a := by
  unfold Packet.faultAt
  split <;> simp_all

theorem Packet.hopAt_none {p : Packet} : p.hopAt = none ↔ p.st ≠ .hop := by
  unfold Packet.hopAt
  split <;> simp_all

section Trap
variable {c : Chase}

theorem trapOf_eq (c : Chase) : c.trapOf = match c.packets.filterMap Packet.faultAt, c.packets.filterMap Packet.hopAt with
    | (pos, k, a) :: _, _ => some { Trap.of 0x0F a with pos := some pos, value := some (BitVec.ofNat 64 k) }
    | [], (pos, a) :: _ => some { Trap.of 0x10 a with pos := some pos }
    | [], [] => none := rfl

/-- R199: a chase traps where a packet has faulted or run out of hops. -/
theorem trapOf_none : c.trapOf = none ↔ ∀ p ∈ c.packets, p.faultAt = none ∧ p.hopAt = none := by
  rw [forall₂_and, ← List.filterMap_eq_nil_iff, ← List.filterMap_eq_nil_iff, trapOf_eq]
  split <;> simp_all

/-- R199: the trap of the lowest faulted packet. -/
theorem trapOf_fault {l1 l2 : List Packet} {p : Packet} {k : Nat} {a : DWord} (hp : c.packets = l1 ++ p :: l2)
    (hs : p.st = .fault k a) (h1 : ∀ q ∈ l1, ∀ k b, q.st ≠ .fault k b) :
    c.trapOf = some { Trap.of 0x0F a with pos := some p.pos, value := some (BitVec.ofNat 64 k) } := by
  have hl := List.filterMap_eq_nil_iff.2 fun q hq => Packet.faultAt_none.2 (h1 q hq)
  rw [trapOf_eq, hp, List.filterMap_append, hl, List.nil_append,
    List.filterMap_cons_some (show p.faultAt = some (p.pos, k, a) by rw [Packet.faultAt, hs])]

/-- R199: no packet faulted, the trap of the lowest one out of hops. -/
theorem trapOf_hop {l1 l2 : List Packet} {p : Packet} (hp : c.packets = l1 ++ p :: l2) (hs : p.st = .hop)
    (h1 : ∀ q ∈ l1, q.st ≠ .hop) (hf : ∀ q ∈ c.packets, ∀ k b, q.st ≠ .fault k b) :
    c.trapOf = some { Trap.of 0x10 p.ptr with pos := some p.pos } := by
  have hn := List.filterMap_eq_nil_iff.2 fun q hq => Packet.faultAt_none.2 (hf q hq)
  have hl := List.filterMap_eq_nil_iff.2 fun q hq => Packet.hopAt_none.2 (h1 q hq)
  rw [trapOf_eq, hn, hp, List.filterMap_append, hl, List.nil_append,
    List.filterMap_cons_some (show p.hopAt = some (p.pos, p.ptr) by rw [Packet.hopAt, hs])]

end Trap

/-! ### The reply -/

section Reply
variable {s : State} {id : Nat} {c : Chase}

theorem chaseReply_of (hc : s.chases.find id = some c) (hh : c.held = false) (hp : ∀ p ∈ c.packets, p.st ≠ .flying) :
    exec (.chaseReply id) s = .next (match s.owner c.warp c.slot c.gen with
      | none => s.dropChaseReplies id c
      | some w => match c.trapOf with
        | none => s.landChase id c w
        | some t =>
          if w.phase == .ended then s.discardChases c.warp [(id, c)]
          else if w.takesChase c.super then s.trapChase id c w t
          else s) := by
  have ha : (c.packets.any fun p => p.st == .flying) = false := by simpa using hp
  show execChaseReply id s = _
  simp only [execChaseReply, hc, hh, ha, Bool.or_self, Bool.false_eq_true, if_false] <;> rfl

theorem foldl_countDrop {α : Type} (l : List α) {s t : State} {slot n : Nat} (h : Claims.dropsCounted s t slot n) :
    l.foldl (fun s _ => s.countDrop slot) t = { t with comps := (l.foldl (fun s _ => s.countDrop slot) t).comps } ∧
      Claims.dropsCounted s (l.foldl (fun s _ => s.countDrop slot) t) slot (n + l.length) := by
  induction l generalizing t n with
  | nil => exact ⟨rfl, h⟩
  | cons x r ih =>
    obtain ⟨h1, h2⟩ := ih (dropsCounted_countDrop h)
    rw [Nat.add_right_comm] at h2
    exact ⟨h1, h2⟩

/-- R331: what a discarded record of a chase leaves of its warp. -/
theorem discarded_bits (w : Warp) (c : Chase) :
    let w1 := (w.unpend [.v c.dst [], .v (c.dst + 1) []]).decD c.dc
    (∀ n, w1.dn n = if n = c.dc then w.dn n - 1 else w.dn n) ∧
      ∀ r < 128, w1.pendV.getLsbD r = (w.pendV.getLsbD r && !(r == c.dst || r == c.dst + 1)) := by
  refine ⟨fun n => (Warp.dn_decD _ _ _).trans ?_, fun r hr => (Warp.unpend_bits _ w hr).1.trans ?_⟩
  · simp only [eq_comm]
    rfl
  · simp [RegWrite.regs, bit_single hr, Bool.beq_eq_decide_eq]

end Reply

/-- R198, R199: what a chase whose packets have all ended without a fault leaves of its warp. -/
theorem chase_lands {c : Chase} (w : Warp) (h128 : ∀ p ∈ c.packets, p.pos < 128)
    (hu : c.packets.Pairwise fun p q => p.pos ≠ q.pos) {w1 : Warp} {x : DWord} (h : w1 = { c.landed w with xstat := x }) :
    w1 = { w with v := w1.v, pendV := w1.pendV, d := w1.d, markV := w1.markV, markAddr := w1.markAddr, xstat := x } ∧
      (∀ n, w1.dn n = if n = c.dc then w.dn n - 1 else w.dn n) ∧
      (∀ r < 128, w1.pendV.getLsbD r = (w.pendV.getLsbD r && !(r == c.dst || r == c.dst + 1))) ∧
      (∀ r, ∀ p < 128, w1.vr r p = match c.packets.find? fun q => q.pos == p with
        | some q => if r = c.dst then q.result.extractLsb' 0 32
          else if r = c.dst + 1 then q.result.extractLsb' 32 32 else w.vr r p
        | none => w.vr r p) ∧
      (c.badAddrs = [] → w1.markV = w.markV ∧ w1.markAddr = w.markAddr) ∧
      (∀ a rest, c.badAddrs = a :: rest → c.dst + 1 < 128 → ∀ r ∈ [c.dst, c.dst + 1],
        w1.marked 0 r = true ∧ Store.get 0 w1.markAddr (markKey 0 r) = a) := by
  have hv : ∀ e ∈ Claims.vWrites c.asLoad.writes, e.2.1 < 128 := by
    intro e he
    rw [show c.asLoad.writes = c.results from rfl, vWrites_results, List.mem_append, List.mem_map, List.mem_map] at he
    obtain ⟨q, hq, rfl⟩ | ⟨q, hq, rfl⟩ := he <;> exact h128 q hq
  have hR := received_receive w (n := c.asLoad) hv (by simp [Chase.asLoad, Chase.results, Claims.eWrites]) c.marks_file
  rw [receive_asLoad] at hR
  obtain ⟨_, _, _, _, _, hl, hm⟩ := landed_frame c w
  obtain ⟨hd, hvr, -, -, hr, hA⟩ := hR
  rw [hl] at hd hvr hr hA h
  subst h
  refine ⟨rfl, fun n => (hd n).trans ?_, fun r hr128 => (hr r hr128).1.trans ?_, fun r p hp => vr_of_results hu (hvr r p hp),
    hm, fun a rest hb hlt r hmem => ?_⟩
  · simp [Chase.asLoad, eq_comm]
  · simp [Chase.asLoad, Chase.results, Bool.beq_comm]
  · have hk : c.asLoad.bad = [(0, c.dst, a), (0, c.dst + 1, a)] := by simp [Chase.asLoad, Chase.marks, hb]
    rw [hk] at hA hr
    have h2 : r = c.dst ∨ r = c.dst + 1 := by simpa using hmem
    have hr128 : r < 128 := by omega
    refine ⟨((hr r hr128).2.2.2 0 (by simp)).trans (by rcases h2 with h | h <;> simp [h]), ?_⟩
    exact hA (by simp) (0, r, a) (by rcases h2 with h | h <;> simp [h])

/-- Settles O26: a chase whose warp stands lands, ends or traps as `Chase.trapOf` says, and one whose warp is gone is dropped
packet by packet. -/
theorem chaseReplies : Obligations.ChaseReplies := by
  unfold Obligations.ChaseReplies
  refine ⟨fun s id c w hc hw hh hn hg hk ho hp => ?_, fun s id c hc hh hg hp => ?_⟩
  · have hex := chaseReply_of hc hh hp
    rw [State.owner_of hw hn hg hk ho] at hex
    refine ⟨fun h128 hu hend => ?_, fun he hf => ?_, fun he => ⟨fun l1 p l2 k a hl hst h1 => ?_, fun l1 p l2 hl hst h1 hf => ?_⟩⟩
    · have ht : c.trapOf = none := trapOf_none.2 fun p hpm => by
        obtain ⟨x, h⟩ | ⟨a, h⟩ := hend p hpm <;> simp [Packet.faultAt, Packet.hopAt, h]
      rw [ht] at hex
      refine ⟨_, hex.trans (congrArg _ (landChase_eq s id c w)), ?_⟩
      obtain ⟨h1, h2⟩ := chase_lands w h128 hu (w1 := { c.landed w with
        xstat := ({ s with chases := s.chases.erase id } : State).flagAfter c w.xstat }) rfl
      exact ⟨h1.trans (by rw [State.flagAfter_eq] <;> rfl), h2⟩
    · obtain ⟨t, ht⟩ : ∃ t, c.trapOf = some t := Option.ne_none_iff_exists'.1 fun hn => by
        obtain ⟨p, hpm, h⟩ := hf
        obtain ⟨h1, h2⟩ := trapOf_none.1 hn p hpm
        obtain h | ⟨k, a, h⟩ := h
        · exact Packet.hopAt_none.1 h2 h
        · exact Packet.faultAt_none.1 h1 k a h
      rw [ht] at hex
      obtain ⟨hd, hb⟩ := discarded_bits w c
      refine ⟨_, hex.trans (congrArg _ ?_), unpend_v _ _ _ _, hd, hb⟩
      simp only [he, beq_self_eq_true, if_true]
      exact State.mapWarp_of (s := { s with chases := s.chases.erase id }) hw _
    · rw [trapOf_fault hl hst h1] at hex
      have he : (w.phase == .ended) = false := by simpa using he
      simp only [he, Bool.false_eq_true, if_false] at hex
      exact hex
    · rw [trapOf_hop hl hst h1 hf] at hex
      have he : (w.phase == .ended) = false := by simpa using he
      simp only [he, Bool.false_eq_true, if_false] at hex
      exact hex
  · have hex := chaseReply_of hc hh hp
    rw [State.owner_gone hg] at hex
    obtain ⟨h1, h2⟩ := foldl_countDrop c.rep.addrs (dropsCounted_zero s { s with chases := s.chases.erase id } c.slot rfl)
    rw [Nat.zero_add] at h2
    exact ⟨_, hex, h1, h2⟩

end Sys2Proof.Machine
end


section
/-! SUPPORT. ENG instructions at issue, releases that pass, and warps that block (R34, R77, R134, R137, R279, R300). -/

namespace Sys2Proof.Machine

/-! ### ENG instructions (R279) -/

section Eng
variable {s : State} {w : Warp} {i : Instr} {dc : Nat} {refs : Warp → List Ref} {eff : State → Warp → Res}
variable (h : IssuesEng s w dc (refs w))
include h

/-- R77, R300: an ENG instruction that issues, and that some position executes, has its effect. -/
theorem eng_acts (ho : w.once none = true) :
    s.eng i dc refs eff = .next (State.finish s.cur (eff (s.readied w) w.woken)) := by
  have hroom : ¬ 62 < w.woken.dn dc := Nat.not_lt.2 h.room
  have ho : w.woken.once none = true := ho
  refine (issue_next h.toIssues).trans ?_
  rw [State.readied_cur, h.quiet, ho, if_neg (by simpa using hroom)]
  rfl

/-- R213: one that no position executes has no effect. -/
theorem eng_idle (ho : w.once none = false) :
    ∃ t, s.eng i dc refs eff = .next t ∧ Retires s s t { w with wait := none } := by
  have hroom : ¬ 62 < w.woken.dn dc := Nat.not_lt.2 h.room
  have ho : w.woken.once none = false := ho
  refine ⟨_, issue_next h.toIssues, ?_⟩
  rw [State.readied_cur, h.quiet, ho, if_neg (by simpa using hroom)]
  exact retires_readied h.warp

end Eng

/-- R34: a warp that blocks changes nothing else. -/
theorem blocks_frame {s : State} {w : Warp} (h : s.warp s.cur = some w) (why : Wait) :
    let t := (s.readied w).block s.cur why
    t = { s with warps := t.warps } ∧ t.warp s.cur = some { w with wait := some why } ∧ ∀ j, j ≠ s.cur → t.warp j = s.warp j := by
  intro t
  have ht : t = s.putWarp s.cur { w with wait := some why } :=
    (State.block_of (State.readied_warp h) why).trans (s.readied_put w _)
  rw [ht]
  exact ⟨rfl, State.warp_putWarp_self _ _ _, fun _ hj => State.warp_putWarp_other _ _ _ hj⟩

/-- An instruction that writes one k register retires. -/
theorem retires_writeK {s : State} {w : Warp} (h : s.warp s.cur = some w) (n : Nat) (x : DWord) :
    Retires s s (((s.readied w).writeK s.cur n x).advance s.cur) { w with wait := none, k := Store.set 0 w.k n x } := by
  have he : (s.readied w).writeK s.cur n x = s.putWarp s.cur (w.woken.setK n x) :=
    (State.mapWarp_of (State.readied_warp h) _).trans (s.readied_put w _)
  rw [he]
  exact retires_put s _

/-! ### Releases (R134, R137) -/

section Release
variable {s : State} {w : Warp} {n : Nat} (hr : MayRelease s w n)
include hr

/-- R134: a release that nothing holds up or fails changes memory and the L1s alone. -/
theorem released_frame : ∃ mem stale failed l1, s.released w n = { s with mem := mem, stale := stale, failed := failed, l1 := l1 } := by
  unfold State.released
  split
  · next h => exact ⟨_, _, _, _, State.sendOwn_frame (hr h).2.1⟩
  · exact ⟨_, _, _, _, rfl⟩

/-- R137: a release that nothing holds up or fails passes, its warp as it was. -/
theorem release_passes (hw : s.warp s.cur = some w) (eff : State → Warp → Res) :
    s.release w true n eff = eff (s.released w n) w := by
  by_cases h : n < 2
  · have h2 : ¬ 2 ≤ n := by omega
    simp [State.release, State.retire, State.released, h, h2]
  · have h2 : 2 ≤ n := by omega
    obtain ⟨hb, hc, h4⟩ := hr h2
    have hs : (s.sendOwn w).warp s.cur = some w := by
      rw [State.sendOwn_frame hc]
      exact hw
    have hout : (decide (4 ≤ n) && w.out != 0 || s.backHeld (ofWarp w)) = false := by
      by_cases h : 4 ≤ n <;> simp [hb, h, h4]
    have hf : (if 4 ≤ n then w.sfail else none) = none := by
      split
      · next h => exact (h4 h).2
      · rfl
    have ht : s.retire s.cur w n = .retires (s.sendOwn w) w := by
      unfold State.retire
      rw [if_neg h, hout]
      dsimp only
      rw [hs]
      simp only [Option.getD_some, hf, Bool.false_eq_true, if_false]
    simp [State.release, ht, State.released, h2]

end Release

end Sys2Proof.Machine
end

section
/-! SUPPORT. The command window and `go` (R172, R173, R283). -/

namespace Sys2Proof.Machine

variable {f : FmtE} {s : State} {w : Warp}

theorem Warp.kr_setK (w : Warp) (n : Nat) (x : DWord) (m : Nat) : (w.setK n x).kr m = if m = n then x else w.kr m :=
  Store.get_set w.k n x m

theorem cmdw_next (h : IssuesEng s w f.dc.toNat [.k f.x.toNat]) : ∃ t w1, exec (.cmdw f) s = .next t ∧ Retires s s t w1 ∧
    w1 = { w with wait := none, win := w1.win } ∧ ∀ i, Store.get 0 w1.win i =
      if w.once none = true ∧ i = f.sub.toNat then w.kr f.x.toNat else Store.get 0 w.win i := by
  cases ho : w.once none with
  | false =>
    obtain ⟨t, he, hr⟩ := eng_idle (i := .cmdw f) (refs := fun _ => [.k f.x.toNat]) (eff := fun s w =>
      .done (s.putWarp s.cur { w with win := Store.set 0 w.win f.sub.toNat (w.kr f.x.toNat) })) h ho
    exact ⟨t, _, he, hr, rfl, fun i => by simp⟩
  | true =>
    refine ⟨_, { w with wait := none, win := Store.set 0 w.win f.sub.toNat (w.kr f.x.toNat) },
      eng_acts (refs := fun _ => [.k f.x.toNat]) h ho, ?_, rfl, fun i => (Store.get_set w.win _ _ i).trans ?_⟩
    · rw [State.readied_cur, State.readied_put]
      exact retires_put s _
    · simp

/-- R173, R283: the command that `go` starts. -/
def startedCmd (s : State) (id : Nat) (w : Warp) (f : FmtE) : Cmd :=
  let engine := s.nextEngine w.core
  let cid := ctxid w.cmp w.ctx
  let token := Config.engineToken cid w.core engine
  let seq : BitVec 32 := BitVec.ofNat 32
    (Store.get 0 (match s.ctxOf w.cmp w.ctx with | some c => c.seqs | none => []) (engineKey w.core engine))
  let b := s.blocks.find w.block
  { warp := id, slot := w.slotNo, gen := s.gen w.slotNo, cmp := w.cmp, ctx := w.ctx, block := w.block
    cluster := match b with | some b => b.cluster | none => 0
    launch := match b with | some b => b.launch | none => 0
    core := w.core, engine := engine, token := token, seq := seq, handle := handleOf cid token seq
    w := (List.range 4).map fun i => Store.get 0 w.win i
    dc := f.dc.toNat, kreg := f.x.toNat
    barrier := if f.sub.getLsbD 0 then some (w.kr f.y.toNat) else none
    status := 0, taken := false, started := false, table := [], gstate := s.srState w.quarterNo }

/-- R283: the warp that has started a command. -/
def Warp.starts (w : Warp) (f : FmtE) (handle : DWord) : Warp :=
  (((if f.sub.getLsbD 1 then w.setK f.z.toNat handle else w).setK f.x.toNat handle).pend [.k f.x.toNat 0]).incD f.dc.toNat

theorem State.mapCtx_frame (s : State) (cmp ctx : Nat) (g : Ctx → Ctx) : ∃ cs, s.mapCtx cmp ctx g = { s with ctxs := cs } := by
  unfold State.mapCtx
  split
  · exact ⟨_, rfl⟩
  · exact ⟨_, rfl⟩

/-- R169: a context counts one more command of an engine of a core. -/
def Ctx.counts (c : Ctx) (core engine n : Nat) : Ctx :=
  { c with
    seqs := Store.set 0 c.seqs (engineKey core engine) (n + 1)
    engines := if c.engines.contains (core, engine) then c.engines else c.engines ++ [(core, engine)] }

/-- The commands that the context of a warp has counted of its core's next engine (R169). -/
def seqOf (s : State) (w : Warp) : Nat :=
  Store.get 0 (match s.ctxOf w.cmp w.ctx with | some c => c.seqs | none => []) (engineKey w.core (s.nextEngine w.core))

theorem startCmd_def (s : State) (id : Nat) (w : Warp) (f : FmtE) : s.startCmd id w f =
    let s1 := s.mapCtx w.cmp w.ctx fun c => c.counts w.core (s.nextEngine w.core) (seqOf s w)
    { (s1.putWarp id (w.starts f (startedCmd s id w f).handle)).tick1 with
      cmds := s1.cmds.put s1.nextId (startedCmd s id w f) } := rfl

theorem startCmd_eq (s : State) (id : Nat) (w : Warp) (f : FmtE) : ∃ cs, s.startCmd id w f =
    { s with ctxs := cs, warps := s.warps.put id (w.starts f (startedCmd s id w f).handle), nextId := s.nextId + 1
             cmds := s.cmds.put s.nextId (startedCmd s id w f) } := by
  obtain ⟨cs, h⟩ := s.mapCtx_frame w.cmp w.ctx fun c => c.counts w.core (s.nextEngine w.core) (seqOf s w)
  exact ⟨cs, by rw [startCmd_def, h]; rfl⟩

theorem starts_frame (w : Warp) (f : FmtE) (x : DWord) : w.starts f x = { w with
    k := (w.starts f x).k, pendK := w.pendK ||| (1#128 <<< f.x.toNat)
    d := Store.set 0 w.d f.dc.toNat (w.dn f.dc.toNat + 1) } := by
  have h0 (m : Mask) : m ||| 0 = m := BitVec.or_zero
  unfold Warp.starts
  split <;> simp only [Warp.pend, Warp.incD, RegWrite.regs, List.foldl_cons, List.foldl_nil, Warp.setK, h0, Warp.dn]

theorem kr_starts (w : Warp) (f : FmtE) (x : DWord) (n : Nat) : (w.starts f x).kr n =
    if n = f.x.toNat ∨ (f.sub.getLsbD 1 = true ∧ n = f.z.toNat) then x else w.kr n := by
  have he : (w.starts f x).kr n = ((if f.sub.getLsbD 1 then w.setK f.z.toNat x else w).setK f.x.toNat x).kr n := rfl
  rw [he, Warp.kr_setK]
  by_cases h1 : n = f.x.toNat
  · simp [h1]
  · by_cases h2 : f.sub.getLsbD 1 = true
    · simp [h1, h2, Warp.kr_setK]
    · rw [if_neg h1, if_neg h2, if_neg fun h => h.elim h1 fun h => h2 h.1]

/-- R283: the references of `go`. -/
def goRefs (f : FmtE) : List Ref := [.kDst f.x.toNat] ++ (if f.sub.getLsbD 0 then [.k f.y.toNat] else [])
  ++ if f.sub.getLsbD 1 then [.kDst f.z.toNat] else []

section Go
variable (h : IssuesEng s w f.dc.toNat (goRefs f))
include h

theorem go_next (ho : w.once none = true) : exec (.go f) s = .next (State.finish s.cur
    (if 128 ≤ (s.coreCmds w.core).length then .stay ((s.readied w).block s.cur .goFull)
    else (s.readied w).release w.woken true 4 fun s w => .done (s.startCmd s.cur w f))) := by
  have hc : (s.readied w).coreCmds w.woken.core = s.coreCmds w.core := by
    rw [s.readied_eq w]
    rfl
  rw [← hc]
  refine (eng_acts (refs := fun _ => goRefs f) h ho).trans ?_
  rw [State.readied_cur]

theorem go_full (ho : w.once none = true) (hl : 128 ≤ (s.coreCmds w.core).length) :
    exec (.go f) s = .next ((s.readied w).block s.cur .goFull) := by
  rw [go_next h ho, if_pos hl]
  rfl

/-- R134, R173: `go` at its release. -/
theorem go_starts (ho : w.once none = true) (hl : (s.coreCmds w.core).length < 128) (hr : MayRelease s w 4) :
    exec (.go f) s = .next ((((s.readied w).released w 4).startCmd s.cur w.woken f).advance s.cur) := by
  have hm := mayRelease_readied hr
  obtain ⟨_, _, _, _, hf⟩ := released_frame hm
  have hw : (s.readied w).warp (s.readied w).cur = some w.woken := by
    rw [State.readied_cur]
    exact State.readied_warp h.warp
  have hcur : ((s.readied w).released w.woken 4).cur = s.cur := by
    rw [hf]
    exact s.readied_cur w
  rw [go_next h ho, if_neg (by omega), release_passes hm hw, hcur]
  rfl

end Go

/-- R173, R283: a warp goes on past the command that it has started. -/
theorem retires_startCmd {u : State} (w1 : Warp) (ho : ∀ j, j ≠ s.cur → u.warp j = s.warp j)
    (hc : u.clock = s.clock) : let t := (u.startCmd s.cur w1 f).advance s.cur
    Retires s { u with ctxs := t.ctxs, cmds := t.cmds, nextId := u.nextId + 1 } t
      (w1.starts f (startedCmd u s.cur w1 f).handle) ∧ t.cmds.find u.nextId = some (startedCmd u s.cur w1 f) := by
  intro t
  obtain ⟨cs, hst⟩ := startCmd_eq u s.cur w1 f
  have hr : Retires s { u with ctxs := cs, cmds := u.cmds.put u.nextId (startedCmd u s.cur w1 f), nextId := u.nextId + 1 } t
      (w1.starts f (startedCmd u s.cur w1 f).handle) := by
    refine retires_advance (by rw [hst]) ?_ (fun j hj => ?_) hc
    · rw [hst]
      exact Table.find_put_self _ _ _
    · rw [hst]
      exact (Table.find_put _ _ _ j).trans (by rw [if_neg hj]; exact ho j hj)
  have hcs : t.ctxs = cs := congrArg State.ctxs hr.rest
  have hcm : t.cmds = u.cmds.put u.nextId (startedCmd u s.cur w1 f) := congrArg State.cmds hr.rest
  rw [hcs, hcm]
  exact ⟨hr, Table.find_put_self _ _ _⟩

/-- Settles O27: `cmdw` writes its word, and `go` waits for room or starts `startedCmd` after its release. -/
theorem commandWindowAndGo : Obligations.CommandWindowAndGo := by
  unfold Obligations.CommandWindowAndGo
  intro f s w idle x
  refine ⟨cmdw_next, fun h => ⟨eng_idle (refs := fun _ => goRefs f) h, fun ho hl => ?_, fun ho hl hr => ?_⟩⟩
  · exact ⟨_, go_full h ho hl, blocks_frame h.warp .goFull⟩
  · have hm : MayRelease (s.readied w) w 4 := mayRelease_readied hr
    obtain ⟨_, _, _, _, hf⟩ := released_frame hm
    obtain ⟨ws, hw, hself, hother⟩ := State.readied_with h.warp
    have hn : ((s.readied w).released w 4).nextId = s.nextId := (congrArg State.nextId hf).trans (by rw [hw])
    have hR := retires_startCmd (s := s) (f := f) w.woken
      (fun j hj => (congrArg (fun u : State => u.warp j) hf).trans (State.readied_other hj)) ((congrArg State.clock hf).trans (by rw [hw]))
    rw [hn] at hR
    exact ⟨_, _, _, go_starts h ho hl hr, hR.2, hR.1, starts_frame _ _ _, kr_starts _ _ _, rfl, rfl, rfl, rfl, rfl, rfl, rfl, rfl⟩

end Sys2Proof.Machine
end


section
/-! SUPPORT. Futures, and what the end of a command does to those who wait (R77, R169, R170, R284). -/

namespace Sys2Proof.Machine

/-! ### The instructions on futures -/

section Futures
variable {f : FmtE} {s : State} {w : Warp} {i : Instr} {eff : State → Warp → Nat → Cmd → Res}

/-- R284: the references of an instruction on a future. -/
def futureRefs (f : FmtE) : List Ref := [.k f.y.toNat, .kDst f.x.toNat]

variable (h : IssuesEng s w f.dc.toNat (futureRefs f))
include h

theorem future_next (ho : w.once none = true) : s.future i f eff = .next (State.finish s.cur
    (match s.handleCmd w.cmp w.ctx (w.kr f.y.toNat) with
      | none => .trap (Trap.of 0x14 (w.kr f.y.toNat)) (s.readied w)
      | some (n, c) => eff (s.readied w) w.woken n c)) := by
  have hc : (s.readied w).handleCmd w.woken.cmp w.woken.ctx = s.handleCmd w.cmp w.ctx := by
    rw [s.readied_eq w]
    rfl
  rw [← hc]
  exact eng_acts (refs := fun _ => futureRefs f) h ho

/-- R284: a handle that is not accepted. -/
theorem future_traps (ho : w.once none = true) (hn : s.handleCmd w.cmp w.ctx (w.kr f.y.toNat) = none) :
    s.future i f eff = .next ((s.readied w).takeTrap s.cur (Trap.of 0x14 (w.kr f.y.toNat))) := by
  rw [future_next h ho, hn]
  rfl

theorem future_accepted (ho : w.once none = true) {n : Nat} {c : Cmd}
    (hn : s.handleCmd w.cmp w.ctx (w.kr f.y.toNat) = some (n, c)) :
    s.future i f eff = .next (State.finish s.cur (eff (s.readied w) w.woken n c)) := by
  rw [future_next h ho, hn]

end Futures

theorem futures : Claims.futures := by
  intro f b s w hi h r writes
  have hcur : (s.readied w).cur = s.cur := s.readied_cur w
  have hw (n : Nat) := retires_writeK hi.warp f.x.toNat (BitVec.ofNat 64 n)
  refine ⟨fun ho i hm => ?_, fun ho hn i hm => ?_, fun n c ho hn => ⟨?_, fun hc => ?_, fun hc hb hr => ?_, fun hc => ?_,
    fun hc ht => ?_⟩⟩
  · simp only [List.mem_cons, List.not_mem_nil, or_false] at hm
    obtain rfl | rfl | rfl := hm <;> exact eng_idle (refs := fun _ => futureRefs f) hi ho
  · simp only [List.mem_cons, List.not_mem_nil, or_false] at hm
    obtain rfl | rfl | rfl := hm <;> exact future_traps hi ho hn
  · refine ⟨_, future_accepted hi ho hn, ?_⟩
    rw [hcur]
    exact hw c.status
  · refine ⟨_, future_accepted hi ho hn, ?_⟩
    rw [if_pos (by simpa using hc), hcur]
    exact hw c.status
  · have hroom : (s.readied w).recordRoom s.cur 48 = true := by
      rw [s.readied_eq w]
      exact hr
    have hd : (s.readied w).deadline b = if b = 0xFFFFFFFF then none else some (s.clock + b.toNat) := by
      rw [s.readied_eq w]
      rfl
    refine ⟨_, future_accepted hi ho hn, ?_⟩
    rw [if_neg (by simpa [hc] using hb), hcur, hroom, if_neg (by simp), hd]
    exact blocks_frame hi.warp _
  · refine ⟨_, future_accepted hi ho hn, ?_⟩
    rw [if_neg (by obtain h | h := hc <;> simp [h]), hcur]
    exact hw c.status
  · refine (future_accepted hi ho hn).trans ?_
    rw [if_pos (by simp [hc, ht]), hcur]
    rfl

/-! ### Those who wait on a command (R170, R284) -/

/-- R208: going on leaves the k registers. -/
theorem MovedOn.k {s : State} {w w' : Warp} (h : MovedOn s w w') : w'.k = w.k := by
  unfold MovedOn at h
  split at h
  · rw [h]; rfl
  · rw [h]

/-- The register in which a warp of a context that waits on a handle takes its status. -/
def Warp.wakesIn (x : Warp) (cmp ctx : Nat) (handle : DWord) : Option Nat :=
  match x.wait with
  | some (.future h _ dst) => if h == handle && x.cmp == cmp && x.ctx == ctx then some dst else none
  | _ => none

/-- R284: a warp goes on with a status in a register. -/
def State.wake (s : State) (status : Nat) (j : Nat) : Option Nat → State
  | some dst => (s.mapWarp j fun w => w.setK dst (BitVec.ofNat 64 status)).advance j
  | none => s

/-- Of two states one after the other nothing but warps has changed. -/
theorem warps_trans {s u t : State} (h1 : u = { s with warps := u.warps }) (h2 : t = { u with warps := t.warps }) :
    t = { s with warps := t.warps } := h2.trans (congrArg (fun x : State => { x with warps := t.warps }) h1)

theorem wakeFutures_eq (s : State) (cmp ctx : Nat) (handle : DWord) (status : Nat) : s.wakeFutures cmp ctx handle status =
    s.warps.all.foldl (fun s p => s.wake status p.1 (p.2.wakesIn cmp ctx handle)) s := by
  unfold State.wakeFutures
  congr 1
  funext s p
  unfold Warp.wakesIn
  cases p.2.wait with
  | none => rfl
  | some o => cases o with
    | future h d dst => exact (apply_ite (s.wake status p.1) _ (some dst) none).symm
    | _ => rfl

section Wake
variable {s : State} {status j : Nat} {o : Option Nat}

theorem wake_frame (s : State) (status j : Nat) (o : Option Nat) :
    s.wake status j o = { s with warps := (s.wake status j o).warps } ∧ ∀ i, i ≠ j → (s.wake status j o).warp i = s.warp i := by
  cases o with
  | none => exact ⟨rfl, fun _ _ => rfl⟩
  | some dst =>
    cases hw : s.warp j with
    | none =>
      have hw' : s.warps.find j = none := hw
      have he : s.wake status j (some dst) = s := by simp [State.wake, State.mapWarp, State.advance, State.warp, hw']
      exact ⟨by rw [he], fun i _ => by rw [he]⟩
    | some w =>
      obtain ⟨w', h1, h2, -, -⟩ := State.advance_cases (State.warp_putWarp_self s j (w.setK dst (BitVec.ofNat 64 status)))
      rw [State.wake, State.mapWarp_of hw]
      exact ⟨by rw [h1]; rfl, fun i hi => (h2 i hi).trans (State.warp_putWarp_other _ _ _ hi)⟩

/-- R284: the status is in its register, and the warp waits for nothing. -/
theorem wake_self {w : Warp} (hw : s.warp j = some w) (dst : Nat) :
    ∃ y, (s.wake status j (some dst)).warp j = some y ∧ y.wait = none ∧ y.kr dst = BitVec.ofNat 64 status := by
  obtain ⟨w', -, -, h3, h4⟩ := State.advance_cases (State.warp_putWarp_self s j (w.setK dst (BitVec.ofNat 64 status)))
  rw [State.wake, State.mapWarp_of hw]
  refine ⟨w', h3, h4.wait, ?_⟩
  rw [Warp.kr, h4.k]
  exact (Warp.kr_setK w dst _ dst).trans (if_pos rfl)

end Wake

/-- Warps woken one after another: nothing but warps changes, those that wait on something else stand, and those that wait on
the handle go on with the status. -/
theorem foldl_wake (wakes : Warp → Option Nat) (status : Nat) (l : List (Nat × Warp)) (s : State) :
    let t := l.foldl (fun s p => s.wake status p.1 (wakes p.2)) s
    t = { s with warps := t.warps } ∧
      (∀ j, (∀ p ∈ l, p.1 = j → wakes p.2 = none) → t.warp j = s.warp j) ∧
      ∀ j x r, s.warp j = some x → (∀ p ∈ l, p.1 = j → wakes p.2 = some r) →
        ((∃ p ∈ l, p.1 = j) ∨ x.wait = none ∧ x.kr r = BitVec.ofNat 64 status) →
        ∃ y, t.warp j = some y ∧ y.wait = none ∧ y.kr r = BitVec.ofNat 64 status := by
  induction l generalizing s with
  | nil =>
    refine ⟨rfl, fun _ _ => rfl, fun j x r hx _ hj => ⟨x, hx, ?_⟩⟩
    obtain ⟨p, hp, -⟩ | hw := hj
    · exact absurd hp List.not_mem_nil
    · exact hw
  | cons p l ih =>
    obtain ⟨he, ho, hl⟩ := ih (s.wake status p.1 (wakes p.2))
    obtain ⟨hf, hother⟩ := wake_frame s status p.1 (wakes p.2)
    refine ⟨?_, fun j hj => ?_, fun j x r hx hr hj => ?_⟩
    · exact warps_trans hf he
    · refine (ho j fun q hq => hj q (List.mem_cons_of_mem _ hq)).trans ?_
      by_cases e : j = p.1
      · rw [hj p List.mem_cons_self e.symm]
        rfl
      · exact hother j e
    · have hr' := fun q hq => hr q (List.mem_cons_of_mem _ hq)
      by_cases e : j = p.1
      · subst e
        obtain ⟨y, hy, hw, hk⟩ := wake_self (status := status) hx r
        rw [← hr p List.mem_cons_self rfl] at hy
        exact hl _ y r hy hr' (.inr ⟨hw, hk⟩)
      · refine hl j x r ((hother j e).trans hx) hr' ?_
        obtain ⟨q, hq, hqj⟩ | hw := hj
        · obtain rfl | hq := List.mem_cons.1 hq
          · exact absurd hqj.symm e
          · exact .inl ⟨q, hq, hqj⟩
        · exact .inr hw

/-- R284: what the end of a command does to the warps of its context that wait on its handle, and to every other warp. -/
theorem wakeFutures_spec {s : State} (hwf : Store.wf none s.warps = true) (cmp ctx : Nat) (handle : DWord) (status : Nat) :
    let t := s.wakeFutures cmp ctx handle status
    t = { s with warps := t.warps } ∧
      (∀ j x, s.warp j = some x → x.wakesIn cmp ctx handle = none → t.warp j = some x) ∧
      ∀ j x r, s.warp j = some x → x.wakesIn cmp ctx handle = some r →
        ∃ y, t.warp j = some y ∧ y.wait = none ∧ y.kr r = BitVec.ofNat 64 status := by
  intro t
  obtain ⟨h1, h2, h3⟩ := foldl_wake (fun x => x.wakesIn cmp ctx handle) status s.warps.all s
  rw [← wakeFutures_eq] at h1 h2 h3
  have hone {j : Nat} {x : Warp} (hx : s.warp j = some x) {o : Option Nat} (ho : x.wakesIn cmp ctx handle = o) :
      ∀ p ∈ s.warps.all, p.1 = j → p.2.wakesIn cmp ctx handle = o := by
    rintro ⟨k, y⟩ hp rfl
    obtain rfl : x = y := Option.some.inj (hx.symm.trans ((Table.mem_all hwf).1 hp))
    exact ho
  refine ⟨h1, fun j x hx hn => (h2 j (hone hx hn)).trans hx, fun j x r hx hr => ?_⟩
  exact h3 j x r hx (hone hx hr) (.inl ⟨(j, x), (Table.mem_all hwf).2 hx, rfl⟩)

/-! ### The end of a command -/

theorem endCmd_eq {s : State} {id : Nat} {c : Cmd} (hc : s.cmds.find id = some c) (st : Nat) {w : Warp}
    (ho : (({ s with cmds := s.cmds.put id { c with status := st } } : State).wakeFutures c.cmp c.ctx c.handle st).owner
      c.warp c.slot c.gen = some w) :
    s.endCmd id st = (({ s with cmds := s.cmds.put id { c with status := st } } : State).wakeFutures c.cmp c.ctx c.handle st).putWarp
      c.warp ({ w with pendK := w.pendK &&& ~~~ (1#128 <<< c.kreg) }.decD c.dc) := by
  simp [State.endCmd, hc, ho]

theorem fWaitTimeout_next {s : State} {id d r n : Nat} {h : DWord} {w : Warp} {c : Cmd} (hw : s.warp id = some w)
    (hf : w.wait = some (.future h (some d) r)) (hd : d ≤ s.clock) (hc : s.handleCmd w.cmp w.ctx h = some (n, c)) :
    exec (.fWaitTimeout id) s = .next (s.wake c.status id (some r)) := by
  show execFWaitTimeout id s = _
  simp only [execFWaitTimeout, hw, hf, hd, hc, if_true]
  rfl

theorem commandEnds : Claims.commandEnds := by
  refine fun s => ⟨fun id st c w hc hw hg hn hk ho hwf hf => ?_, fun id d r h w n c hw hf hd hc => ?_⟩
  · obtain ⟨h1, h2, h3⟩ := wakeFutures_spec (s := { s with cmds := s.cmds.put id { c with status := st } }) hwf
      c.cmp c.ctx c.handle st
    have hwk : w.wakesIn c.cmp c.ctx c.handle = none := by
      unfold Warp.wakesIn
      split
      · next h => exact absurd h (hf _ _ _)
      · rfl
    have hgen := congrArg (fun u : State => u.gen c.slot) h1
    intro t
    have ht : t = _ := endCmd_eq hc st (State.owner_of (h2 c.warp w hw hwk) hn (hgen.trans hg) hk ho)
    rw [ht]
    refine ⟨?_, State.warp_putWarp_self _ _ _, fun j x d r hj hx hxf hcmp hctx => ?_⟩
    · exact (congrArg (fun u : State => u.cmds.find id) h1).trans (Table.find_put_self _ _ _)
    · rw [State.warp_putWarp_other _ _ _ hj]
      exact h3 j x r hx (by simp [Warp.wakesIn, hxf, hcmp, hctx])
  · obtain ⟨y, hy, hwait, hkr⟩ := wake_self (status := c.status) hw r
    obtain ⟨h1, h2⟩ := wake_frame s c.status id (some r)
    exact ⟨_, y, fWaitTimeout_next hw hf hd hc, h1, hy, hwait, hkr, h2⟩

/-- Settles O28: the instructions on futures, and the end of a command by `wakeFutures_spec`. -/
theorem futuresAndTheirCommands : Obligations.FuturesAndTheirCommands := ⟨futures, commandEnds⟩

end Sys2Proof.Machine
end


section
/-! SUPPORT. What the homes of queues (R152 to R159) and the records of faults and events (R373, R390) leave of a state, and so
loose bytes on their way home, some of which may fail (R134, R398). -/

namespace Sys2Proof.Machine

/-! ### What is left -/

/-- A state less what the home of a queue writes: memory, the L1s, the cached translations, and the operations at the homes. -/
def State.homeRest (s : State) : State :=
  { s with mem := [], stale := [], failed := [], l1 := [], tlb := [], qops := [], homes := [] }

/-- A state less what a record of a fault or an event writes: beside its home, the next name, the compartments and what waits for
a plane. -/
def State.postRest (s : State) : State := { s.homeRest with nextId := 0, comps := [], delayed := [] }

theorem State.postRest_of_homeRest {s u : State} (h : u.homeRest = s.homeRest) : u.postRest = s.postRest :=
  congrArg (fun x : State => { x with nextId := 0, comps := [], delayed := [] }) h

theorem State.warps_of_postRest {s u : State} (h : u.postRest = s.postRest) : u.warps = s.warps := (congrArg State.warps h :)

theorem State.clock_of_postRest {s u : State} (h : u.postRest = s.postRest) : u.clock = s.clock := (congrArg State.clock h :)

/-! ### Homes -/

theorem State.homeRest_touch (s : State) (t : Trans) (wr : Bool) : (s.touch t wr).homeRest = s.homeRest :=
  (congrArg State.homeRest (s.touch_frame t wr) :)

theorem State.homeRest_writeBack (s : State) (who : Nat → Bool) (lo hi : Nat) : (s.writeBack who lo hi).homeRest = s.homeRest :=
  (congrArg State.homeRest (s.writeBack_frame who lo hi) :)

theorem State.homeRest_qput (s : State) (k off n x : Nat) : (s.qput k off n x).homeRest = s.homeRest := rfl

theorem State.homeRest_putHome (s : State) (k : Nat) (h : QHome) : (s.putHome k h).homeRest = s.homeRest := rfl

theorem State.homeRest_qops (s : State) (l : Table QOp) : ({ s with qops := l } : State).homeRest = s.homeRest := rfl

theorem State.homeRest_qjoin (s : State) (k id : Nat) (op : QOp) : (s.qjoin k id op).homeRest = s.homeRest := rfl

/-- What each step of a fold keeps, the fold keeps. -/
theorem foldl_keeps {α β γ : Type} (rest : α → γ) (f : α → β → α) (hf : ∀ u b, rest (f u b) = rest u) (l : List β) (u : α) :
    rest (l.foldl f u) = rest u := by
  induction l generalizing u with
  | nil => rfl
  | cons b r ih => exact (ih (f u b)).trans (hf u b)

theorem State.homeRest_touchAll (s : State) (l : List Trans) (wr : Bool) : (s.touchAll l wr).homeRest = s.homeRest :=
  foldl_keeps State.homeRest _ (fun u t => u.homeRest_touch t wr) l s

theorem State.homeRest_slotsHome (s : State) (op : QOp) (l : List Trans) : (s.slotsHome op l).homeRest = s.homeRest := by
  unfold State.slotsHome
  split
  · exact foldl_keeps State.homeRest _ (fun u _ => u.homeRest_writeBack _ _ _) l s
  · rfl

/-- What a home leaves whichever way it answers. -/
def QRes.Leaves (P : State → Prop) : QRes → Prop
  | .refuse _ _ u => P u
  | .wait | .held => True
  | .served u => P u

theorem QRes.leaves_ite {P : State → Prop} {c : Prop} [Decidable c] {a b : QRes} (ha : a.Leaves P) (hb : b.Leaves P) :
    (if c then a else b).Leaves P := by split <;> assumption

/-- R153 to R158: a request at its home. -/
theorem State.qperform_leaves (s : State) (k id : Nat) (op : QOp) (may late : Bool) :
    (s.qperform k id op may late).Leaves fun u => u.homeRest = s.homeRest := by
  unfold State.qperform
  dsimp only
  split
  · show (if _ then s.qbreak k else s).homeRest = s.homeRest
    split <;> rfl
  · refine QRes.leaves_ite rfl (QRes.leaves_ite rfl (QRes.leaves_ite trivial ?_))
    split
    · exact QRes.leaves_ite trivial rfl
    · next slots _ =>
      refine QRes.leaves_ite trivial (QRes.leaves_ite trivial ?_)
      have ht (l : List Trans) : ((s.slotsHome op l).touchAll l op.enq).homeRest = s.homeRest :=
        ((s.slotsHome op l).homeRest_touchAll l op.enq).trans (s.homeRest_slotsHome op l)
      refine (State.homeRest_putHome _ _ _).trans (Eq.trans ?_ (ht slots.flatten))
      refine (State.homeRest_qops _ _).trans ((State.homeRest_qput _ _ _ _ _).trans ?_)
      split <;> exact State.homeRest_qput _ _ _ _ _

theorem State.homeRest_of_served {s u : State} {k id : Nat} {op : QOp} {may late : Bool}
    (h : s.qperform k id op may late = .served u) : u.homeRest = s.homeRest := by
  have := s.qperform_leaves k id op may late
  rwa [h] at this

theorem State.homeRest_of_refused {s u : State} {k id : Nat} {op : QOp} {may late : Bool} {c : Fail} {x : DWord}
    (h : s.qperform k id op may late = .refuse c x u) : u.homeRest = s.homeRest := by
  have := s.qperform_leaves k id op may late
  rwa [h] at this

/-! ### Records -/

theorem State.homeRest_touchBlock (s : State) (op : QOp) : (s.touchBlock op).homeRest = s.homeRest := by
  unfold State.touchBlock
  split
  · exact s.homeRest_touch _ _
  · rfl

theorem State.postRest_eventAt {s v : State} {k id : Nat} {op : QOp} {source : Nat} (h : s.eventAt k id op source = some v) :
    v.postRest = s.postRest := by
  unfold State.eventAt at h
  dsimp only at h
  split at h <;> cases h
  · next e => exact (State.postRest_of_homeRest (State.homeRest_of_refused e) :)
  · rfl
  · next u e => exact (State.postRest_of_homeRest ((u.homeRest_touchBlock op).trans (State.homeRest_of_served e)) :)

theorem State.postRest_sendEvent (s : State) (id : Nat) (op : QOp) (source : Nat) :
    (s.sendEvent id op source).postRest = s.postRest := by
  unfold State.sendEvent
  split
  · rfl
  · split
    · split <;> rfl
    · split
      · split
        · next e => exact State.postRest_eventAt e
        · rfl
      · rfl

theorem State.postRest_postEvent (s : State) (cmp kind source : Nat) (subject detail : DWord) :
    (s.postEvent cmp kind source subject detail).postRest = s.postRest := by
  unfold State.postEvent
  dsimp only
  split
  · rfl
  · exact (State.postRest_sendEvent _ _ _ _).trans rfl

theorem State.postRest_sendFault (s : State) (id : Nat) (op : QOp) : (s.sendFault id op).1.postRest = s.postRest := by
  unfold State.sendFault
  split
  · rfl
  · split
    · dsimp only
      split <;> rfl
    · next t _ =>
      split
      · split
        · next e => exact (State.postRest_of_homeRest (State.homeRest_of_refused e) :)
        · exact State.postRest_of_homeRest ((State.homeRest_qjoin _ _ _ _).trans (s.homeRest_touch t true))
        · rfl
        · next u e => exact (State.postRest_of_homeRest ((u.homeRest_touch t true).trans (State.homeRest_of_served e)) :)
      · rfl

/-- R373, R390: a fault record leaves all but its queue, the next name, its compartment and what waits for a plane. -/
theorem State.postRest_postFault (s : State) (r : FaultRec) (agent : QAgent) : (s.postFault r agent).1.postRest = s.postRest := by
  have hl (u : State) : (u.faultLost r.cmp r.cause r.cluster).postRest = u.postRest := State.postRest_postEvent u _ _ _ _ _
  unfold State.postFault
  dsimp only
  split
  · exact hl s
  · have hs (op : QOp) : (s.tick1.sendFault s.nextId op).1.postRest = s.postRest := State.postRest_sendFault s.tick1 s.nextId op
    split
    · exact hs _
    · exact (hl _).trans (hs _)

/-! ### Failed stores and loose bytes (R134, R398) -/

/-- A warp with no store failure against it. -/
def Warp.unfailed (w : Warp) : Warp := { w with sfail := none }

/-- A state is another but for what records of failed stores write, memory and the L1s: its warps may have store failures. -/
def State.KeepsWarps (s u : State) : Prop :=
  u.clock = s.clock ∧ ∀ j, (u.warp j).map Warp.unfailed = (s.warp j).map Warp.unfailed

theorem State.keepsWarps_refl (s : State) : s.KeepsWarps s := ⟨rfl, fun _ => rfl⟩

theorem State.KeepsWarps.trans {s u v : State} (h1 : s.KeepsWarps u) (h2 : u.KeepsWarps v) : s.KeepsWarps v :=
  ⟨h2.1.trans h1.1, fun j => (h2.2 j).trans (h1.2 j)⟩

theorem State.keepsWarps_of_postRest {s u : State} (h : u.postRest = s.postRest) : s.KeepsWarps u :=
  ⟨State.clock_of_postRest h, fun j => by rw [State.warp, State.warp, State.warps_of_postRest h]⟩

theorem State.keepsWarps_foldl {β : Type} {f : State → β → State} (hf : ∀ (u : State) b, u.KeepsWarps (f u b)) (l : List β) (s : State) :
    s.KeepsWarps (l.foldl f s) := by
  induction l generalizing s with
  | nil => exact s.keepsWarps_refl
  | cons b r ih => exact (hf s b).trans (ih _)

/-- R398: a failed store marks its warp, and posts a record. -/
theorem State.keepsWarps_storeFail (s : State) (id : Nat) (w : Warp) (pos : Option Nat) (addr : DWord) :
    s.KeepsWarps (s.storeFail id w pos addr) := by
  unfold State.storeFail
  dsimp only
  generalize hr : s.recordOf w { Trap.of 0x15 addr with pos := pos, write := true } 0 false = r
  refine (State.keepsWarps_of_postRest (s.postRest_postFault r (.record none none))).trans ?_
  generalize (s.postFault r (.record none none)).1 = u
  cases h : u.warp id with
  | none =>
    have h' : u.warps.find id = none := h
    rw [State.mapWarp, h']
    exact u.keepsWarps_refl
  | some x =>
    rw [State.mapWarp_of h]
    refine ⟨rfl, fun j => ?_⟩
    rw [State.warp_putWarp]
    split
    · next e => rw [e, h]; rfl
    · rfl

theorem State.keepsWarps_failSlot (s : State) (slot : Nat) (va : DWord) : s.KeepsWarps (s.failSlot slot va) := by
  unfold State.failSlot
  split
  · exact s.keepsWarps_storeFail _ _ _ _
  · exact s.keepsWarps_refl

theorem State.keepsWarps_sendHome (s : State) (who : Nat → Bool) (lo hi : Nat) : s.KeepsWarps (s.sendHome who lo hi) := by
  have h := State.keepsWarps_foldl (fun (u : State) (p : LooseByte) => u.keepsWarps_failSlot p.slot p.va)
    (firstOfLine ((s.loose who lo hi).filter s.looseCut)) s
  exact h.trans (State.keepsWarps_of_postRest (State.postRest_of_homeRest (State.homeRest_writeBack _ who lo hi)))

end Sys2Proof.Machine
end


section
/-! SUPPORT. Loads at issue (R75, R77, R121, R134, R261, R362, R368). -/

namespace Sys2Proof.Machine

/-! ### What an access leaves before its bytes are read -/

theorem State.homeRest_touchPieces (s : State) (l : List Acc) (wr : Bool) : (s.touchPieces l wr).homeRest = s.homeRest := by
  refine foldl_keeps State.homeRest _ (fun u p => ?_) (piecesOf l) s
  split
  · exact u.homeRest_touch _ _
  · rfl

/-- R121: the block bytes of a warp (priv) that go home leave its warps. -/
theorem State.keepsWarps_privHome (s : State) (w : Warp) (p : Piece) : s.KeepsWarps (s.privHome w p) := by
  unfold State.privHome State.dropOffsets
  dsimp only
  rw [s.foldl_wrBytes_frame (fun q : Nat × Nat × Byte => q.2.1) (fun q => [q.2.2])]
  split
  · exact s.keepsWarps_refl
  · rw [State.mapBlock_frame]
    exact s.keepsWarps_refl

/-- R121, R134: the loose and block bytes that an access sends home leave the warps, but for the stores that fail. -/
theorem State.keepsWarps_homeward (s : State) (w : Warp) (plain : Bool) (l : List Acc) : s.KeepsWarps (s.homeward w plain l) := by
  unfold State.homeward
  split
  · exact s.keepsWarps_refl
  · refine State.keepsWarps_foldl (fun u p => ?_) (piecesOf l) s
    refine State.KeepsWarps.trans ?_ (State.keepsWarps_privHome _ w p)
    split
    · exact u.keepsWarps_sendHome _ _ _
    · exact u.keepsWarps_refl

theorem State.KeepsWarps.warp {s u : State} (h : s.KeepsWarps u) {j : Nat} {w : Warp} (hw : s.warp j = some w) :
    ∃ x, u.warp j = some x ∧ x = { w with sfail := x.sfail } := by
  have h2 := h.2 j
  rw [hw] at h2
  obtain ⟨x, hx, hu⟩ := Option.map_eq_some_iff.1 h2
  exact ⟨x, hx, congrArg (fun y : Warp => { y with sfail := x.sfail }) hu⟩

theorem Warp.woken_of_wait {w : Warp} (h : w.wait = none) : w.woken = w := by
  obtain ⟨⟩ := w
  cases h
  rfl

/-! ### Lines filled (R362) -/

/-- R362: lines that a read fills leave all but the L1's lines and tags, and the score of the warp. -/
theorem State.fillLines_frame {s : State} {id : Nat} {w : Warp} (hw : s.warp id = some w) (x : Warp) (lines : List (Nat × Bool)) :
    let t := s.fillLines id x lines
    t = { s with warps := t.warps, fills := t.fills, tags := t.tags } ∧ (∀ j, j ≠ id → t.warp j = s.warp j) ∧
      ∃ score, t.warp id = some { w with score := score } := by
  unfold State.fillLines
  induction lines generalizing s w with
  | nil => exact ⟨rfl, fun _ _ => rfl, _, hw⟩
  | cons n r ih =>
    have hstep : ∃ ws f g w1 score, s.fillLine id x.core x.quarterNo n = { s with warps := ws, fills := f, tags := g } ∧
        (∀ j, j ≠ id → ws.find j = s.warp j) ∧ ws.find id = some w1 ∧ w1 = { w with score := score } := by
      unfold State.fillLine
      dsimp only
      split
      · exact ⟨_, _, _, w, _, rfl, fun _ _ => rfl, hw, rfl⟩
      · split
        · exact ⟨_, _, _, _, _, State.mapWarp_of (s := { s with
              fills := ⟨x.quarterNo, n.1, true, n.2⟩ :: s.fills, tags := s.tags.filter (· ≠ (x.quarterNo, n.1)) }) hw _, fun j hj => State.warp_putWarp_other s id _ hj, State.warp_putWarp_self s id _, rfl⟩
        · exact ⟨_, _, _, w, _, rfl, fun _ _ => rfl, hw, rfl⟩
    obtain ⟨ws, f, g, w1, score, he, ho, h1, rfl⟩ := hstep
    rw [List.foldl_cons, he]
    obtain ⟨h2, h3, score', h4⟩ := ih (s := { s with warps := ws, fills := f, tags := g }) h1
    exact ⟨h2, fun j hj => (h3 j hj).trans (ho j hj), score', h4⟩

/-! ### A load performed (R75, R264) -/

/-- R75, R77: a load sent, its lines filled, and its warp gone on. -/
theorem sent_advance {s u : State} {w0 : Warp} (hc : u.clock = s.clock) (n : Nat)
    (writes : List RegWrite) (bad : List (Nat × Nat × DWord)) (rep : Option Replay) (far : Bool) (x : Warp)
    (lines : List (Nat × Bool)) :
    let t := ((u.sendLoad s.cur w0 (some n) writes bad rep far).fillLines s.cur x lines).advance s.cur
    t.loads.find u.nextId = some ⟨s.cur, w0.slotNo, u.gen w0.slotNo, some n, writes, bad, rep, far⟩ ∧
      t = { u with warps := t.warps, loads := t.loads, nextId := u.nextId + 1, fills := t.fills, tags := t.tags } ∧
      (∀ j, j ≠ s.cur → t.warp j = u.warp j) ∧
      ∃ score w', t.warp s.cur = some w' ∧ MovedOn s { (w0.pend writes).incD n with score := score } w' := by
  intro t
  have hput : (u.sendLoad s.cur w0 (some n) writes bad rep far).warp s.cur = some ((w0.pend writes).incD n) :=
    Table.find_put_self _ _ _
  obtain ⟨h1, h2, score, h3⟩ := State.fillLines_frame hput x lines
  obtain ⟨w', h4, h5, h6, h7⟩ := State.advance_cases h3
  have ht : t = { u with warps := t.warps, nextId := u.nextId + 1, fills := t.fills, tags := t.tags
                         loads := u.loads.put u.nextId ⟨s.cur, w0.slotNo, u.gen w0.slotNo, some n, writes, bad, rep, far⟩ } := by
    have hf : t.fills = _ := (congrArg State.fills h4 :)
    have hg : t.tags = _ := (congrArg State.tags h4 :)
    rw [hf, hg]
    exact h4.trans (congrArg (fun y : State => { y with warps := t.warps }) h1)
  have hl : t.loads = _ := congrArg State.loads ht
  refine ⟨by rw [hl]; exact Table.find_put_self _ _ _, by rw [hl]; exact ht, fun j hj => ?_, score, w', h6, ?_⟩
  · exact (h5 j hj).trans ((h2 j hj).trans (State.warp_putWarp_other u s.cur _ hj))
  · have hk : ((u.sendLoad s.cur w0 (some n) writes bad rep far).fillLines s.cur x lines).clock = s.clock :=
      (congrArg State.clock h1 :).trans hc
    unfold MovedOn at h7 ⊢
    rw [hk] at h7
    exact h7

/-- R34: that a warp is awake does not matter to where its accesses go. -/
theorem State.placeAll_woken (s : State) (w : Warp) (sp : Space) (size align : Nat) (u : Bool) (need : Need) (mx : Bool)
    (l : List (Nat × DWord)) : s.placeAll w.woken sp size align u need mx l = s.placeAll w sp size align u need mx l := by
  induction l with
  | nil => rfl
  | cons p r ih =>
    rw [State.placeAll, State.placeAll, ih]
    rfl

section Load
variable {s : State} {w : Warp} {i : Instr} {f : FmtM} {g : Option Guard} {order : BitVec 3} {sp : Space} {kind : Nat}
  {refs : List Ref} {addr : Warp → Nat → DWord} {l : List Acc}

/-- R260 to R266: a load whose addresses pass their checks, whose accesses need not wait, and whose record has room. -/
theorem load_next (h : IssuesMem s w f.dc.toNat (refs ++ destRefs f))
    (hp : (s.readied w).placeAll w sp (mBytes f) (mBytes f) f.u .read false
      ((w.lanesOf f.u g).map fun p => (p, addr w p)) = .ok l) (ha : addr w.woken = addr w)
    (hh : (s.readied w).heldUp false l = false) (hr : l ≠ [] → s.recordRoom s.cur (loadRecord l.length) = true) :
    s.load i f g order sp kind refs addr =
      .next (((s.readied w).performLoad s.cur w.woken i f kind (order == 0) l).advance s.cur) := by
  have hroom : (decide (l ≠ []) && !(s.readied w).recordRoom s.cur (loadRecord l.length)) = false := by
    have hq : (s.readied w).recordRoom s.cur (loadRecord l.length) = s.recordRoom s.cur (loadRecord l.length) := by
      rw [s.readied_eq w]
      rfl
    by_cases hl : l = []
    · simp [hl]
    · simp [hl, hq, hr hl]
  refine (memOp_next (refs := fun _ => refs ++ destRefs f) h).trans ?_
  rw [State.placeAll_woken, ha, show w.woken.lanesOf f.u g = w.lanesOf f.u g from rfl, hp]
  dsimp only
  rw [State.readied_cur, hh, hroom]
  rfl

end Load

/-- Settles O15: a load reads in the state that `homeward` leaves, and sends what it read by `sent_advance`. -/
theorem loadsComplete : Obligations.LoadsComplete := by
  unfold Obligations.LoadsComplete
  intro f x g s w a ha h r plain l hp hh
  have hnext (hr : l ≠ [] → s.recordRoom s.cur (loadRecord l.length) = true) : ∃ i kind, exec a.instr s =
      .next ((r.performLoad s.cur w.woken i f kind plain l).advance s.cur) := by
    simp only [Claims.loads, List.mem_cons, List.not_mem_nil, or_false] at ha
    obtain rfl | rfl | rfl | rfl := ha
    · exact ⟨_, _, load_next h hp rfl hh hr⟩
    · exact ⟨_, _, load_next h hp rfl hh hr⟩
    · exact ⟨_, _, load_next h hp rfl hh hr⟩
    · exact ⟨_, _, load_next h hp rfl hh hr⟩
  refine ⟨fun hl => ?_, fun hl hr => ?_⟩
  · obtain ⟨i, kind, he⟩ := hnext fun hn => absurd hl hn
    refine ⟨_, he, ?_⟩
    rw [State.performLoad, if_pos hl, State.readied_put]
    exact retires_put s w.woken
  · intro u
    obtain ⟨i, kind, he⟩ := hnext fun _ => hr
    have hk : r.KeepsWarps u := (State.keepsWarps_of_postRest (State.postRest_of_homeRest
      (r.homeRest_touchPieces l false))).trans (State.keepsWarps_homeward _ w plain l)
    obtain ⟨w0, hw0, hs0⟩ := hk.warp (State.readied_warp h.warp)
    have hc : u.clock = s.clock := hk.1.trans ((congrArg State.clock (s.readied_eq w) :))
    have ht : r.performLoad s.cur w.woken i f kind plain l = (u.sendLoad s.cur w0 (some f.dc.toNat)
        (landing f (l.map fun c => (c.pos, u.readAcc w plain c))) (u.marksFor w plain (dataGroup f) l)
        (some (replayOf i kind f.dc.toNat w.woken (if f.u then 1 else maskOfList (l.map (·.pos))) (l.map fun a => (a.pos, a.addr))))
        (farAway l)).fillLines s.cur w.woken (r.linesOf w.woken l) := by
      have hu : (r.touchPieces l false).homeward w.woken plain l = u := rfl
      rw [State.performLoad, if_neg hl]
      dsimp only
      rw [hu, hw0]
      rfl
    rw [ht] at he
    obtain ⟨h1, h2, h3, score, w', h4, h5⟩ := sent_advance (w0 := w0) hc f.dc.toNat
      (landing f (l.map fun c => (c.pos, u.readAcc w plain c))) (u.marksFor w plain (dataGroup f) l)
      (some (replayOf i kind f.dc.toNat w.woken (if f.u then 1 else maskOfList (l.map (·.pos))) (l.map fun a => (a.pos, a.addr))))
      (farAway l) w.woken (r.linesOf w.woken l)
    refine ⟨_, _, w0, _, w', he, h1, hw0, rfl, rfl, rfl, rfl, h2, fun k => ?_, hs0, fun hpl => ?_, h3, h4, h5, ?_⟩
    · exact (congrArg (fun y : State => y.byte k) h2 :)
    · have hj (j : Nat) : u.warp j = r.warp j := by
        have hu : u = r.touchPieces l false := if_pos hpl
        rw [hu, State.warp, State.warps_of_postRest (State.postRest_of_homeRest (r.homeRest_touchPieces l false))]
        rfl
      have hw : some w0 = some w.woken := hw0.symm.trans ((hj s.cur).trans (State.readied_warp h.warp))
      exact ⟨(congrArg Warp.sfail (Option.some.inj hw) :), hj⟩
    · have hn : ((w0.pend (landing f (l.map fun c => (c.pos, u.readAcc w plain c)))).incD f.dc.toNat).wait = none := by
        obtain ⟨_, _, _, hp⟩ := w0.pend_frame (landing f (l.map fun c => (c.pos, u.readAcc w plain c)))
        rw [hp]
        exact congrArg Warp.wait hs0
      exact congrArg (fun x : Warp => { x with score := score }) (Warp.woken_of_wait hn).symm

end Sys2Proof.Machine
end


section
/-! SUPPORT. The pending bits of queue operations (R77, R280, R286), and objects that an instruction reaches (R134, R138, R398). -/

namespace Sys2Proof.Machine

/-! ### Pending bits -/

theorem any_range_eq (y n b : Nat) : ((List.range n).any fun i => y + i == b) = decide (y ≤ b ∧ b < y + n) := by
  rw [Bool.eq_iff_iff, List.any_eq_true, decide_eq_true_eq]
  simp only [List.mem_range, beq_iff_eq]
  exact ⟨fun ⟨i, hi, hb⟩ => by omega, fun ⟨h1, h2⟩ => ⟨b - y, by omega, by omega⟩⟩

theorem spanPend_any (thr : Bool) (y n : Nat) {b : Nat} (hb : b < 128) :
    ((spanPend thr y n).any fun x => x.regs.1.getLsbD b) = (thr && decide (y ≤ b ∧ b < y + n)) ∧
    ((spanPend thr y n).any fun x => x.regs.2.1.getLsbD b) = false ∧
    ((spanPend thr y n).any fun x => x.regs.2.2.getLsbD b) = (!thr && decide (y ≤ b ∧ b < y + n)) := by
  have h0 : ((List.range n).any fun _ => false) = false := by simp
  rw [← any_range_eq]
  cases thr <;> simp [spanPend, RegWrite.regs, List.any_map, Function.comp_def, bit_single_beq hb, h0]

theorem statusPend_any (status : Option Nat) {b : Nat} (hb : b < 128) :
    ((statusPend status).any fun x => x.regs.1.getLsbD b) = false ∧
    ((statusPend status).any fun x => x.regs.2.1.getLsbD b) = false ∧
    ((statusPend status).any fun x => x.regs.2.2.getLsbD b) = decide (status = some b) := by
  cases status <;> simp [statusPend, RegWrite.regs, bit_single_beq hb, Bool.beq_eq_decide_eq]

/-- R77, R280, R286: what a warp holds once its operation is reserved or taken. -/
theorem served_bits (w : Warp) (op : QOp) {b : Nat} (hb : b < 128) :
    let n := op.span / if op.thr then 4 else 8
    (w.served op).pendE.getLsbD b = w.pendE.getLsbD b ∧
    (w.served op).pendV.getLsbD b =
      (w.pendV.getLsbD b || (!op.enq && op.thr && decide (op.dst ≤ b ∧ b < op.dst + n))) ∧
    (w.served op).pendK.getLsbD b =
      (w.pendK.getLsbD b || (!op.enq && !op.thr && decide (op.dst ≤ b ∧ b < op.dst + n)) || decide (op.status = some b)) := by
  intro n
  have hp (l : List RegWrite) : ∀ g : Warp → Mask, (∀ x c, g (x.incD c) = g x) → g (w.served op) =
      g (w.pend ((if op.enq then [] else spanPend op.thr op.dst n) ++ statusPend op.status)) := by
    intro g hg
    unfold Warp.served
    dsimp only
    split
    · exact hg _ _
    · rfl
  obtain ⟨h1, h2, h3⟩ := Warp.pend_bits ((if op.enq then [] else spanPend op.thr op.dst n) ++ statusPend op.status) w b
  obtain ⟨s1, s2, s3⟩ := spanPend_any op.thr op.dst n hb
  obtain ⟨t1, t2, t3⟩ := statusPend_any op.status hb
  rw [hp [] Warp.pendE fun _ _ => rfl, hp [] Warp.pendV fun _ _ => rfl, hp [] Warp.pendK fun _ _ => rfl, h1, h2, h3]
  simp only [List.any_append, t1, t2, t3]
  cases op.enq <;> simp [s1, s2, s3, Bool.or_assoc]

theorem served_frame (w : Warp) (op : QOp) {c : Nat} (hc : op.dc = some c) : w.served op = { w with
    d := Store.set 0 w.d c (w.dn c + 1), pendV := (w.served op).pendV, pendE := (w.served op).pendE
    pendK := (w.served op).pendK } := by
  obtain ⟨pv, pe, pk, h⟩ := w.pend_frame
    ((if op.enq then [] else spanPend op.thr op.dst (op.span / if op.thr then 4 else 8)) ++ statusPend op.status)
  unfold Warp.served
  rw [hc, h]
  rfl

/-! ### Objects -/

theorem div_pow_of_line {a b n : Nat} (h : a / 128 = b / 128) : a / 2 ^ (7 + n) = b / 2 ^ (7 + n) := by
  have h7 (x : Nat) : x / 2 ^ (7 + n) = x / 128 / 2 ^ n := by rw [Nat.pow_add, Nat.div_div_eq_div_mul]
  rw [h7, h7, h]

theorem le_of_line {a b n : Nat} (h : a / 128 = b / 128) : 2 ^ (7 + n) ≤ a ↔ 2 ^ (7 + n) ≤ b := by
  have h7 (x : Nat) : 2 ^ (7 + n) ≤ x ↔ 2 ^ n ≤ x / 128 := by
    rw [Nat.le_div_iff_mul_le (by norm_num), Nat.pow_add, Nat.mul_comm]
  rw [h7, h7, h]

/-- R398: the bytes of a line lie beyond one link. -/
theorem State.broken_of_line (s : State) (core : Nat) {a b : Nat} (h : a / 128 = b / 128) : s.broken core a = s.broken core b := by
  have h1 : isPad a = isPad b := decide_eq_decide.2 (le_of_line (n := 73) h)
  have h2 : a / 2 ^ 52 = b / 2 ^ 52 := div_pow_of_line (n := 45) h
  have h3 : a / 2 ^ 46 = b / 2 ^ 46 := div_pow_of_line (n := 39) h
  unfold State.broken isLocal keyTag keyStack
  rw [h1, h2, h3]

/-- R134, R398: no loose byte of a core in the line of an object that it reaches is cut off. -/
theorem State.line_uncut {s : State} {core key : Nat} (h : s.broken core key = false) :
    (s.loose (ofCore core) (key / 128 * 128) (key / 128 * 128 + 128)).filter s.looseCut = [] := by
  rw [List.filter_eq_nil_iff]
  intro p hp
  obtain ⟨q, -, hq⟩ := List.mem_filterMap.1 hp
  split at hq <;> cases hq
  next hc =>
  obtain ⟨hcore, hlo, hhi⟩ := hc
  have hcore : q.1 / 2 ^ 96 / 128 = core := by simpa [ofCore] using hcore
  have hline : q.1 % 2 ^ 96 / 128 = key / 128 := by omega
  show ¬ s.broken (q.1 / 2 ^ 96 / 128) (q.1 % 2 ^ 96) = true
  rw [hcore, s.broken_of_line core hline, h]
  exact Bool.false_ne_true

/-- R134: an object that a warp reaches: only the loose bytes of its line go home. -/
theorem atLine_frame {s : State} {w : Warp} {p : Trans} (h : s.broken w.core p.key = false) : ∃ mem stale failed l1,
    Claims.atLine s w p = { s with mem := mem, stale := stale, failed := failed, l1 := l1 } :=
  ⟨_, _, _, _, State.sendHome_frame (State.line_uncut h)⟩

section Object
variable {s : State} {w : Warp} {a : DWord} {align : Nat} {need : Need} {eff : State → Trans → Res}

/-- R150, R162: a misaligned object is trapped. -/
theorem withObject_misaligned (h : a.toNat % align ≠ 0) :
    s.withObject w a align need eff = .trap { Trap.of 0x05 a with write := decide (need = .write) } s := by
  simp [State.withObject, State.reachObject, State.object, h, Trap.of, heldCause]

/-- R134, R138, R397: an object that can be reached. -/
theorem withObject_reached (h : a.toNat % align = 0) {p : Trans} (hx : s.xany (s.agentOf w) a need = .ok p)
    (hp : s.planeHeld p.key = false) (hl : s.leafHeld p (decide (need = .write)) = false) :
    s.withObject w a align need eff = eff (Claims.atLine s w p) p := by
  simp only [State.withObject, State.reachObject, State.object, h, hx, hp, hl, ne_eq, not_true, if_false, Bool.or_self,
    Bool.false_eq_true]
  rfl

end Object

end Sys2Proof.Machine
end


section
/-! SUPPORT. q.enq and q.deq (R137, R152, R153, R157, R158, R286, R287). -/

namespace Sys2Proof.Machine

section Transfer
variable (f : FmtE) (enq : Bool)

/-- q.enq or q.deq. -/
def transferInstr : Instr := if enq then .qEnq f else .qDeq f

/-- R286, R287: the positions that an operation is for. -/
def transferLanes (w : Warp) : List Nat :=
  if f.sub.getLsbD 0 then positions (w.exec none) else if w.once none then [0] else []

/-- R287: the status register of a try form. -/
def transferTry : Option Nat := if f.sub.getLsbD 1 then some f.z.toNat else none

/-- R286, R287: the operation that an instruction sends to the home of its queue. -/
def transferOp (s : State) (w : Warp) : QOp :=
  { w.qop s s.cur f (transferInstr f enq) enq (f.sub.getLsbD 0) (transferLanes f w)
      (w.spanLen (f.sub.getLsbD 0) f.y.toNat * if f.sub.getLsbD 0 then 4 else 8)
      (if enq then (transferLanes f w).map (w.spanBytes (f.sub.getLsbD 0) f.y.toNat) else []) with status := transferTry f }

/-- R153, R157, R158: what an operation finds at the home of its queue. -/
def transferAt (op : QOp) (w : Warp) (s : State) (p : Trans) : Res :=
  if s.broken w.core p.key then .trap { Trap.of 0x0B (w.kr f.x.toNat) with write := enq } s
  else if !s.homeIdle p.key then .stay s
  else s.release w enq (s.num (p.key + 14) 2 % 8) fun s _ => s.atHome p op (transferTry f)

/-- R286, R287, R376: what an operation does at issue. -/
def transferEff (s : State) (w : Warp) : Res :=
  if w.dn f.dc.toNat > 62 || s.mrqBusy s.cur w || !s.recordRoom s.cur (transferOp f enq s w).recordSize then .stay s
  else if transferLanes f w = [] then .done (match transferTry f with
    | some z => if f.sub.getLsbD 0 then s.writeK s.cur z 0 else s
    | none => s)
  else s.withObject w (w.kr f.x.toNat) 64 .write (transferAt f enq (transferOp f enq s w) w)

theorem transfer_def (s : State) :
    exec (transferInstr f enq) s = s.issue (transferInstr f enq) (spanRefs f enq) (transferEff f enq) := by cases enq <;> rfl

end Transfer

section Issue
variable {f : FmtE} {enq : Bool} {s : State} {w : Warp} (h : IssuesEng s w f.dc.toNat (spanRefs f enq w))
  (hr : s.recordRoom s.cur (transferOp f enq s w).recordSize = true)
include h hr

/-- R77, R300, R376: q.enq and q.deq at issue. -/
theorem transfer_next : exec (transferInstr f enq) s = .next (State.finish s.cur
    (if transferLanes f w = [] then .done (match transferTry f with
        | some z => if f.sub.getLsbD 0 then (s.readied w).writeK s.cur z 0 else s.readied w
        | none => s.readied w)
      else (s.readied w).withObject w.woken (w.kr f.x.toNat) 64 .write (transferAt f enq (transferOp f enq s w) w.woken))) := by
  have hop : transferOp f enq (s.readied w) w.woken = transferOp f enq s w := by
    rw [s.readied_eq w]
    rfl
  have hroom : (s.readied w).recordRoom s.cur = s.recordRoom s.cur := by
    rw [s.readied_eq w]
    rfl
  have hg : (decide (w.woken.dn f.dc.toNat > 62) || (s.readied w).mrqBusy (s.readied w).cur w.woken
      || !(s.readied w).recordRoom (s.readied w).cur (transferOp f enq (s.readied w) w.woken).recordSize) = false := by
    have hd : ¬ w.woken.dn f.dc.toNat > 62 := Nat.not_lt.2 h.room
    rw [State.readied_cur, h.quiet, hop, hroom, hr]
    simp [hd]
  rw [transfer_def, issue_next h.toIssues, transferEff, hg, hop, State.readied_cur]
  rfl

/-- R213: an operation that is for no position. -/
theorem transfer_idle (hl : transferLanes f w = []) : ∃ t, exec (transferInstr f enq) s = .next t ∧
    Retires s s t (if f.sub.getLsbD 0 = true ∧ f.sub.getLsbD 1 = true
      then { w with wait := none, k := Store.set 0 w.k f.z.toNat 0 } else { w with wait := none }) := by
  refine ⟨_, transfer_next h hr, ?_⟩
  rw [if_pos hl]
  unfold transferTry
  by_cases h1 : f.sub.getLsbD 1 = true
  · by_cases h0 : f.sub.getLsbD 0 = true
    · rw [if_pos h1, if_pos ⟨h0, h1⟩]
      dsimp only
      rw [if_pos h0]
      exact retires_writeK h.warp _ _
    · rw [if_pos h1, if_neg fun hc => h0 hc.1]
      dsimp only
      rw [if_neg h0]
      exact retires_readied h.warp
  · rw [if_neg h1, if_neg fun hc => h1 hc.2]
    exact retires_readied h.warp

variable (hl : transferLanes f w ≠ [])
include hl

theorem transfer_misaligned (ha : (w.kr f.x.toNat).toNat % 64 ≠ 0) : exec (transferInstr f enq) s =
    .next ((s.readied w).takeTrap s.cur { Trap.of 0x05 (w.kr f.x.toNat) with write := true }) := by
  rw [transfer_next h hr, if_neg hl, withObject_misaligned ha]
  rfl

/-- R134, R138: an operation whose block can be reached. -/
theorem transfer_reached (ha : (w.kr f.x.toNat).toNat % 64 = 0) {p : Trans}
    (hx : s.xany (s.agentOf w) (w.kr f.x.toNat) .write = .ok p) (hin : Claims.inReach s w p true) :
    exec (transferInstr f enq) s = .next (State.finish s.cur
      (transferAt f enq (transferOp f enq s w) w.woken (Claims.atLine (s.readied w) w p) p)) := by
  have hx' : (s.readied w).xany ((s.readied w).agentOf w.woken) (w.kr f.x.toNat) .write = .ok p := by
    rw [s.readied_eq w]
    exact hx
  obtain ⟨hp, hlf, -⟩ := hin
  have hp' : (s.readied w).planeHeld p.key = false := by
    rw [s.readied_eq w]
    exact hp
  have hl' : (s.readied w).leafHeld p true = false := by
    rw [s.readied_eq w]
    exact hlf
  rw [transfer_next h hr, if_neg hl, withObject_reached ha hx' hp' hl']
  rfl

end Issue

/-! ### At the home -/

/-- A warp made ready in a state of which beside it memory and the L1s alone have changed. -/
def StandsIn (s : State) (w : Warp) (u : State) : Prop := ∃ ws mem stale failed l1,
  u = { s with warps := ws, mem := mem, stale := stale, failed := failed, l1 := l1 } ∧ ws.find s.cur = some w.woken ∧
    ∀ j, j ≠ s.cur → ws.find j = s.warp j

section Stands
variable {s u : State} {w : Warp}

theorem standsIn_readied (h : s.warp s.cur = some w) : StandsIn s w (s.readied w) := by
  obtain ⟨ws, hw, h1, h2⟩ := State.readied_with h
  exact ⟨ws, _, _, _, _, hw, h1, h2⟩

theorem StandsIn.atLine (h : StandsIn s w u) {p : Trans} (hb : s.broken w.core p.key = false) :
    StandsIn s w (Claims.atLine u w p) := by
  obtain ⟨ws, _, _, _, _, rfl, h1, h2⟩ := h
  obtain ⟨_, _, _, _, hf⟩ := atLine_frame (s := { s with warps := ws, mem := _, stale := _, failed := _, l1 := _ }) hb
  exact ⟨ws, _, _, _, _, hf, h1, h2⟩

theorem StandsIn.released (h : StandsIn s w u) {n : Nat} (hr : MayRelease u w n) : StandsIn s w (u.released w n) := by
  obtain ⟨_, _, _, _, hf⟩ := released_frame hr
  obtain ⟨ws, _, _, _, _, rfl, h1, h2⟩ := h
  exact ⟨ws, _, _, _, _, hf, h1, h2⟩

variable (h : StandsIn s w u)
include h

theorem StandsIn.warp : u.warp s.cur = some w.woken := by
  obtain ⟨_, _, _, _, _, rfl, h1, -⟩ := h
  exact h1

theorem StandsIn.other {j : Nat} (hj : j ≠ s.cur) : u.warp j = s.warp j := by
  obtain ⟨_, _, _, _, _, rfl, -, h2⟩ := h
  exact h2 j hj

theorem StandsIn.cur : u.cur = s.cur := by
  obtain ⟨_, _, _, _, _, rfl, -, -⟩ := h
  rfl

theorem StandsIn.clock : u.clock = s.clock := by
  obtain ⟨_, _, _, _, _, rfl, -, -⟩ := h
  rfl

theorem StandsIn.nextId : u.nextId = s.nextId := by
  obtain ⟨_, _, _, _, _, rfl, -, -⟩ := h
  rfl

theorem StandsIn.broken (core a : Nat) : u.broken core a = s.broken core a := by
  obtain ⟨_, _, _, _, _, rfl, -, -⟩ := h
  rfl

end Stands

section Home
variable {f : FmtE} {enq : Bool} {s u : State} {w : Warp} {op : QOp} {p : Trans}

theorem transferAt_busy (h : StandsIn s w u) (hb : s.broken w.core p.key = false) (hi : u.homeIdle p.key = false) :
    transferAt f enq op w.woken u p = .stay u := by
  have hb' : u.broken w.core p.key = false := (h.broken _ _).trans hb
  simp [transferAt, hb', hi]

/-- The state in which an operation reaches the home: after its release, where it enqueues (R137). -/
def reachedHome (enq : Bool) (u : State) (w : Warp) (scope : Nat) : State := if enq then u.released w scope else u

theorem StandsIn.reached (h : StandsIn s w u) {n : Nat} (hr : enq = true → MayRelease u w n) :
    StandsIn s w (reachedHome enq u w n) := by
  unfold reachedHome
  split
  · next he => exact h.released (hr he)
  · exact h

theorem transferAt_idle (h : StandsIn s w u) (hb : s.broken w.core p.key = false) (hi : u.homeIdle p.key = true)
    (hr : enq = true → MayRelease u w (u.num (p.key + 14) 2 % 8)) :
    transferAt f enq op w.woken u p = (reachedHome enq u w (u.num (p.key + 14) 2 % 8)).atHome p op (transferTry f) := by
  have hb' : u.broken w.core p.key = false := (h.broken _ _).trans hb
  have hw : u.warp u.cur = some w.woken := by
    rw [h.cur]
    exact h.warp
  unfold transferAt
  rw [if_neg (by simp [hb']), if_neg (by simp [hi])]
  cases enq with
  | true => exact release_passes (w := w.woken) (hr rfl) hw _
  | false => rfl

/-- R153, R157, R158, R287: the answers of a home. -/
theorem atHome_eq (h : StandsIn s w u) (hq : op.enq = enq) (o : Option Nat) : u.atHome p op o =
    match u.tick1.qserve p.key s.nextId op (u.qempty p.key enq) with
    | .refuse why v s1 => .trap (why.trap v enq none) s1
    | .held => .stay u
    | .wait => match o with
      | some z => .done (u.writeK s.cur z 1)
      | none => .stay (((u.tick1.touch p true).qjoin p.key s.nextId op).block s.cur (.queue s.nextId))
    | .served s1 => .done ((s1.touch p true).mapWarp s.cur fun w => w.served op) := by
  unfold State.atHome
  dsimp only
  rw [h.nextId, h.cur, hq] <;> rfl

/-- A warp that stands in `u`, and that goes on from `w1`, has retired. -/
theorem StandsIn.retires (h : StandsIn s w u) (w1 : Warp) : Retires s u ((u.putWarp s.cur w1).advance s.cur) w1 :=
  retires_advance rfl (State.warp_putWarp_self _ _ _)
    (fun _ hj => (State.warp_putWarp_other _ _ _ hj).trans (h.other hj)) h.clock

/-- R157: the blocking form joins the list of its direction, and waits. -/
theorem qjoin_waits (h : StandsIn s w u) (op : QOp) :
    let x := (u.tick1.touch p true).qjoin p.key s.nextId op
    let t := x.block s.cur (.queue s.nextId)
    t = { x with warps := t.warps } ∧ t.warp s.cur = some { w with wait := some (.queue s.nextId) } ∧
      ∀ j, j ≠ s.cur → t.warp j = s.warp j := by
  intro x t
  have hx : x.warps = u.warps := (congrArg State.warps (u.tick1.touch_frame p true) :)
  have hw (j : Nat) : x.warp j = u.warp j := by rw [State.warp, State.warp, hx]
  have ht : t = x.putWarp s.cur { w with wait := some (.queue s.nextId) } := State.block_of ((hw s.cur).trans h.warp) _
  rw [ht]
  refine ⟨rfl, State.warp_putWarp_self _ _ _, fun j hj => ?_⟩
  exact (State.warp_putWarp_other _ _ _ hj).trans ((hw j).trans (h.other hj))

/-- R155, R156: reserved or taken, the warp goes on. -/
theorem qserved_retires (h : StandsIn s w u) {k id : Nat} {may : Bool} {v : State}
    (hs : u.tick1.qserve k id op may = .served v) :
    Retires s (v.touch p true) (((v.touch p true).mapWarp s.cur fun w => w.served op).advance s.cur) (w.woken.served op) := by
  have hv : (v.touch p true).homeRest = u.tick1.homeRest := (v.homeRest_touch p true).trans (State.homeRest_of_served hs)
  generalize v.touch p true = x at hv ⊢
  have hx : x.warps = u.warps := (congrArg State.warps hv :)
  have hw (j : Nat) : x.warp j = u.warp j := by rw [State.warp, State.warp, hx]
  rw [State.mapWarp_of ((hw s.cur).trans h.warp)]
  refine retires_advance rfl (State.warp_putWarp_self _ _ _) (fun j hj => ?_) ((congrArg State.clock hv :).trans h.clock)
  exact (State.warp_putWarp_other _ _ _ hj).trans ((hw j).trans (h.other hj))

end Home

/-- Settles O31: an operation is trapped, does nothing, waits for its home or goes to it, where `atHome_eq` gives the answer. -/
theorem queueTransfers : Obligations.QueueTransfers := by
  unfold Obligations.QueueTransfers
  intro f enq s w h i thr try_ a z y n idle r lanes op hr
  refine ⟨transfer_idle h hr, transfer_misaligned h hr, fun hl ha p hx hin => ?_⟩
  have hnext := transfer_reached h hr hl ha hx hin
  have hst := (standsIn_readied h.warp).atLine hin.2.2
  intro r0 scope
  refine ⟨fun hi => ?_, fun hi hrel => ?_⟩
  · have hnext : exec i s = _ := hnext.trans (congrArg _ (congrArg _ (transferAt_busy hst hin.2.2 hi)))
    exact hnext
  · intro r1 home
    have hst1 : StandsIn s w r1 := hst.reached hrel
    have hnext : exec i s = .next (State.finish s.cur (r1.atHome p op (transferTry f))) :=
      hnext.trans (congrArg _ (congrArg _ (transferAt_idle hst hin.2.2 hi hrel)))
    rw [atHome_eq hst1 (show op.enq = enq from rfl)] at hnext
    refine ⟨fun c v u hh => ?_, fun hh => ?_, fun hh ht => ?_, fun hh ht => ?_, fun u hh => ?_⟩
    · rw [show r1.tick1.qserve p.key s.nextId op (r1.qempty p.key enq) = _ from hh] at hnext
      exact hnext
    · rw [show r1.tick1.qserve p.key s.nextId op (r1.qempty p.key enq) = _ from hh] at hnext
      exact hnext
    · rw [show r1.tick1.qserve p.key s.nextId op (r1.qempty p.key enq) = _ from hh, transferTry, if_pos ht] at hnext
      refine ⟨_, hnext, ?_⟩
      show Retires s r1 (((r1.mapWarp s.cur fun w => w.setK z 1)).advance s.cur) _
      rw [State.mapWarp_of hst1.warp]
      exact hst1.retires _
    · rw [show r1.tick1.qserve p.key s.nextId op (r1.qempty p.key enq) = _ from hh, transferTry, if_neg (ne_true_of_eq_false ht)] at hnext
      exact ⟨_, hnext, qjoin_waits hst1 op⟩
    · rw [show r1.tick1.qserve p.key s.nextId op (r1.qempty p.key enq) = _ from hh] at hnext
      refine ⟨_, _, hnext, qserved_retires hst1 hh, served_frame _ _ rfl, fun b hb => ?_⟩
      obtain ⟨h1, h2, h3⟩ := served_bits w.woken op hb
      have hn : op.span / (if op.thr then 4 else 8) = n := Nat.mul_div_cancel _ (by split <;> norm_num)
      have hz : decide (op.status = some b) = (try_ && b == z) := by
        show decide ((if try_ then some z else none) = some b) = _
        cases try_ <;> simp [eq_comm, Bool.beq_eq_decide_eq]
      rw [hn] at h2 h3
      rw [hz] at h3
      exact ⟨h1, h2, h3⟩

end Sys2Proof.Machine
end


section
/-! SUPPORT. The fields of control blocks and the bytes of slots (R150 to R156, R398). -/

namespace Sys2Proof.Machine

/-! ### Numbers in memory -/

theorem State.num_congr {s u : State} {a n : Nat} (h : ∀ i < n, u.byte (a + i) = s.byte (a + i)) : u.num a n = s.num a n :=
  congrArg natOfBytes (List.map_congr_left fun i hi => h i (List.mem_range.1 hi))

theorem natOfBytes_lt (l : List Byte) : natOfBytes l < 256 ^ l.length := by
  induction l with
  | nil => simp [natOfBytes]
  | cons b r ih =>
    change b.toNat + 256 * natOfBytes r < 256 ^ (r.length + 1)
    have hb : b.toNat < 256 := b.isLt
    rw [Nat.pow_succ']
    omega

theorem State.num_lt (s : State) (a n : Nat) : s.num a n < 256 ^ n := by
  have h := natOfBytes_lt (s.bytes a n)
  rwa [State.bytes, List.length_map, List.length_range] at h

theorem State.byte_qput (s : State) (k off n x b : Nat) : (s.qput k off n x).byte b =
    if k + off ≤ b ∧ b < k + off + n then (bytesOfNat n x).getD (b - (k + off)) 0 else s.byte b := by
  rw [State.qput, State.byte_wrRaw, length_bytesOfNat]

theorem State.byte_qput_other {s : State} {k off n x b : Nat} (h : ¬ (k + off ≤ b ∧ b < k + off + n)) :
    (s.qput k off n x).byte b = s.byte b := by rw [State.byte_qput, if_neg h]

/-- A field that has been written. -/
theorem State.num_qput_self (s : State) (k off n x : Nat) : (s.qput k off n x).num (k + off) n = x % 256 ^ n := by
  rw [← natOfBytes_bytesOfNat]
  refine congrArg natOfBytes (List.ext_getElem (by simp [State.bytes]) fun i h1 h2 => ?_)
  have hi : i < n := by simpa [State.bytes] using h1
  have hg : (s.qput k off n x).byte (k + off + i) = (bytesOfNat n x).getD i 0 := by
    rw [State.byte_qput, if_pos ⟨by omega, by omega⟩, Nat.add_sub_cancel_left]
  rw [List.getD_eq_getElem _ _ (by simpa using hi)] at hg
  simpa [State.bytes] using hg

/-- A field beside one that has been written. -/
theorem State.num_qput_other {s : State} {k off n x a m : Nat} (h : a + m ≤ k + off ∨ k + off + n ≤ a) :
    (s.qput k off n x).num a m = s.num a m := State.num_congr fun i hi => State.byte_qput_other (by omega)

/-! ### Slots (R155, R398) -/

/-- One unit of a slot written, where no failed link keeps it (R398). -/
def State.wrUnit (s : State) (k : Nat) (p : Nat × Bool) (l : List Byte) : State :=
  if s.slotCut k p.1 then s else if p.2 then s.wrRaw p.1 l else s.wrBytes p.1 l

theorem State.wrSlot_cons (s : State) (k : Nat) (p : Nat × Bool) (r : List (Nat × Bool)) (l : List Byte) :
    s.wrSlot k (p :: r) l = (s.wrUnit k p (l.take 8)).wrSlot k r (l.drop 8) := rfl

theorem State.byte_wrUnit (s : State) (k : Nat) (p : Nat × Bool) (l : List Byte) (b : Nat) : (s.wrUnit k p l).byte b =
    if s.slotCut k p.1 = false ∧ p.1 ≤ b ∧ b < p.1 + l.length then l.getD (b - p.1) 0 else s.byte b := by
  unfold State.wrUnit
  split
  · next h => rw [if_neg (by simp [h])]
  · next h =>
    rw [Bool.not_eq_true] at h
    split
    · rw [State.byte_wrRaw]
      simp [h]
    · rw [State.byte_wrBytes]
      simp [h]

theorem State.slotCut_wrUnit (s : State) (k : Nat) (p : Nat × Bool) (l : List Byte) (a b : Nat) :
    (s.wrUnit k p l).slotCut a b = s.slotCut a b := by
  unfold State.wrUnit
  split
  · rfl
  · split
    · rfl
    · rw [State.wrBytes_frame]
      rfl

/-- R155: a slot written leaves every byte outside it. -/
theorem State.byte_wrSlot_other {k : Nat} {slot : List (Nat × Bool)} {b : Nat} (h : ∀ p ∈ slot, ¬ (p.1 ≤ b ∧ b < p.1 + 8))
    (l : List Byte) (s : State) : (s.wrSlot k slot l).byte b = s.byte b := by
  induction slot generalizing l s with
  | nil => rfl
  | cons p r ih =>
    have hp := h p List.mem_cons_self
    have hl : (l.take 8).length ≤ 8 := List.length_take_le _ _
    rw [State.wrSlot_cons, ih fun q hq => h q (List.mem_cons_of_mem _ hq), State.byte_wrUnit, if_neg (by omega)]

/-- R155, R398: the bytes of a slot that has been written; a unit beyond a failed link keeps its own. -/
theorem State.byte_wrSlot {k : Nat} {slot : List (Nat × Bool)} (hd : slot.Pairwise fun x y => x.1 + 8 ≤ y.1 ∨ y.1 + 8 ≤ x.1)
    {l : List Byte} (hl : l.length = 8 * slot.length) (s : State) {i a : Nat} {m : Bool} (hi : slot[i]? = some (a, m))
    {j : Nat} (hj : j < 8) : (s.wrSlot k slot l).byte (a + j) =
      if s.slotCut k a then s.byte (a + j) else l.getD (8 * i + j) 0 := by
  induction slot generalizing l s i with
  | nil => simp at hi
  | cons p r ih =>
    obtain ⟨hp, hr⟩ := List.pairwise_cons.1 hd
    have hlen : (l.take 8).length = 8 := by
      rw [List.length_take, hl, List.length_cons]
      omega
    rw [State.wrSlot_cons]
    cases i with
    | zero =>
      obtain rfl : p = (a, m) := by simpa using hi
      have hout : ∀ q ∈ r, ¬ (q.1 ≤ a + j ∧ a + j < q.1 + 8) := fun q hq => by have := hp q hq; omega
      rw [State.byte_wrSlot_other hout, State.byte_wrUnit, hlen]
      cases hc : s.slotCut k a with
      | true => simp
      | false =>
        rw [if_pos ⟨rfl, by omega, by omega⟩, if_neg Bool.false_ne_true, Nat.add_sub_cancel_left, getD_take_of_lt _ _ hj,
          Nat.mul_zero, Nat.zero_add]
    | succ i =>
      have hi : r[i]? = some (a, m) := by simpa using hi
      have hq : p.1 + 8 ≤ a ∨ a + 8 ≤ p.1 := hp (a, m) (List.mem_of_getElem? hi)
      have hdl : (l.drop 8).length = 8 * r.length := by
        rw [List.length_drop, hl, List.length_cons]
        omega
      have hb : (s.wrUnit k p (l.take 8)).byte (a + j) = s.byte (a + j) := by
        rw [State.byte_wrUnit, if_neg (by rw [hlen]; omega)]
      rw [ih hr hdl _ hi, State.slotCut_wrUnit, hb, List.getD_eq_getElem?_getD, List.getD_eq_getElem?_getD, List.getElem?_drop]
      rw [show 8 + (8 * i + j) = 8 * (i + 1) + j by omega]

end Sys2Proof.Machine
end

section
/-! SUPPORT. What an operation at the home of a queue does to its warp, and its end (R77, R83, R155, R156, R280). -/

namespace Sys2Proof.Machine

/-! ### The warp of an operation -/

theorem owner_some {s : State} {id slot gen : Nat} {w : Warp} (h : s.owner id slot gen = some w) :
    s.warp id = some w ∧ w.slotNo = slot ∧ s.gen slot = gen ∧ w.killed = false ∧ w.swapped = false := by
  unfold State.owner at h
  split at h
  · cases h
  · next x hx =>
    split at h <;> cases h
    next hc =>
    simp only [Bool.and_eq_true, beq_iff_eq, Bool.not_eq_true'] at hc
    obtain ⟨⟨⟨hn, hg⟩, hk⟩, ho⟩ := hc
    exact ⟨hx, hn, hg, hk, ho⟩

theorem qwarp_some {s : State} {op : QOp} {j : Nat} {w : Warp} (h : s.qwarp op = some (j, w)) :
    ∃ slot gen, op.agent = .warp j slot gen ∧ s.owner j slot gen = some w := by
  unfold State.qwarp at h
  split at h
  · next id slot gen ha =>
    obtain ⟨x, hx, he⟩ := Option.map_eq_some_iff.1 h
    cases he
    exact ⟨slot, gen, ha, hx⟩
  · cases h

/-- R83: the warp of an operation, in a state in which it still has its slot. -/
theorem qwarp_put {s u : State} {op : QOp} {j : Nat} {w x : Warp} (h : s.qwarp op = some (j, w)) (hg : u.gens = s.gens)
    (hx : u.warp j = some x) (hs : x.slotNo = w.slotNo) (hk : x.killed = w.killed) (ho : x.swapped = w.swapped) {o : QOp}
    (ha : o.agent = op.agent) : u.qwarp o = some (j, x) := by
  obtain ⟨slot, gen, hag, how⟩ := qwarp_some h
  obtain ⟨-, hn, hgen, hwk, hws⟩ := owner_some how
  have hgu : u.gen slot = gen := by rw [State.gen, hg]; exact hgen
  have hown := State.owner_of hx (hs.trans hn) hgu (hk.trans hwk) (ho.trans hws)
  rw [State.qwarp, ha, hag]
  dsimp only
  rw [hown]
  rfl

theorem qwarp_congr {s u : State} (hw : u.warps = s.warps) (hg : u.gens = s.gens) {op o : QOp} (ha : o.agent = op.agent) :
    u.qwarp o = s.qwarp op := by
  unfold State.qwarp State.owner State.warp State.gen
  rw [hw, hg, ha]

/-! ### The end of an operation (R77, R280) -/

/-- R77, R280: a warp whose operation is done: a try form's status is 0, the span is no longer pending, the counter share is
released. -/
def Warp.finished (w : Warp) (op : QOp) (writes : List RegWrite) : Warp :=
  ((statusPend op.status).foldl Warp.land (w.unpend (writes ++ statusPend op.status))).release op.dc

section Finished
variable (w : Warp) (op : QOp) (writes : List RegWrite)

theorem finished_frame : ∃ k d pv pe pk, w.finished op writes = { w with k := k, d := d, pendV := pv, pendE := pe, pendK := pk } ∧
    pv = (w.unpend (writes ++ statusPend op.status)).pendV ∧ pe = (w.unpend (writes ++ statusPend op.status)).pendE ∧
    pk = (w.unpend (writes ++ statusPend op.status)).pendK := by
  unfold Warp.finished
  obtain ⟨pv, pe, pk, hu⟩ := Warp.unpend_frame (writes ++ statusPend op.status) w
  obtain ⟨d, hd⟩ := ((statusPend op.status).foldl Warp.land (w.unpend (writes ++ statusPend op.status))).release_frame op.dc
  rw [hd, hu]
  cases op.status with
  | none => exact ⟨_, _, _, _, _, rfl, rfl, rfl, rfl⟩
  | some z => exact ⟨_, _, _, _, _, rfl, rfl, rfl, rfl⟩

theorem kr_finished (r : Nat) : (w.finished op writes).kr r = if op.status = some r then 0 else w.kr r := by
  unfold Warp.finished
  obtain ⟨d, hd⟩ := ((statusPend op.status).foldl Warp.land (w.unpend (writes ++ statusPend op.status))).release_frame op.dc
  obtain ⟨pv, pe, pk, hu⟩ := Warp.unpend_frame (writes ++ statusPend op.status) w
  rw [hd, hu]
  cases op.status with
  | none => rfl
  | some z =>
    refine (Warp.kr_setK _ z 0 r).trans ?_
    simp only [Option.some.injEq, eq_comm]
    rfl

theorem dn_finished (c : Nat) : (w.finished op writes).dn c = if op.dc = some c then w.dn c - 1 else w.dn c := by
  unfold Warp.finished
  rw [Warp.dn_release]
  obtain ⟨pv, pe, pk, hu⟩ := Warp.unpend_frame (writes ++ statusPend op.status) w
  rw [hu]
  cases op.status <;> rfl

/-- R75, R280: the pending bits that the end of an operation leaves. -/
theorem finished_bits {b : Nat} (hb : b < 128) :
    (w.finished op writes).pendV.getLsbD b = (w.pendV.getLsbD b && !writes.any fun x => x.regs.1.getLsbD b) ∧
    (w.finished op writes).pendE.getLsbD b = (w.pendE.getLsbD b && !writes.any fun x => x.regs.2.1.getLsbD b) ∧
    (w.finished op writes).pendK.getLsbD b =
      (w.pendK.getLsbD b && !(writes.any fun x => x.regs.2.2.getLsbD b) && !decide (op.status = some b)) := by
  obtain ⟨_, _, _, _, _, hf, rfl, rfl, rfl⟩ := finished_frame w op writes
  obtain ⟨h1, h2, h3⟩ := Warp.unpend_bits (writes ++ statusPend op.status) w hb
  obtain ⟨t1, t2, t3⟩ := statusPend_any op.status hb
  rw [hf]
  refine ⟨h1.trans ?_, h2.trans ?_, h3.trans ?_⟩ <;> simp only [List.any_append, t1, t2, t3]
  · rw [Bool.or_false]
  · rw [Bool.or_false]
  · rw [Bool.not_or, Bool.and_assoc]

end Finished

/-- R77, R280: the last element of a warp's operation is done. -/
theorem qfinish_warp {s : State} {op : QOp} {j : Nat} {w : Warp} (h : s.qwarp op = some (j, w)) (k id : Nat)
    (writes : List RegWrite) : s.qfinish k id op writes = { s with
      qops := s.qops.erase id, homes := s.homes.put k { s.home k with busy := (s.home k).busy.filter (· ≠ id) }
      warps := s.warps.put j (w.finished op writes) } := by
  obtain ⟨slot, gen, ha, -⟩ := qwarp_some h
  have hq : ({ s with qops := s.qops.erase id, homes := s.homes.put k { s.home k with
      busy := (s.home k).busy.filter (· ≠ id) } } : State).qwarp op = some (j, w) := h
  unfold State.qfinish
  dsimp only
  rw [ha]
  dsimp only
  rw [hq]
  unfold Warp.finished
  cases op.dc <;> rfl

/-- R83: the operation of a warp that is gone ends. -/
theorem qfinish_gone {s : State} {op : QOp} {j slot gen : Nat} (ha : op.agent = .warp j slot gen) (h : s.qwarp op = none)
    (k id : Nat) (writes : List RegWrite) :
    let t : State := { s with
      qops := s.qops.erase id, homes := s.homes.put k { s.home k with busy := (s.home k).busy.filter (· ≠ id) } }
    s.qfinish k id op writes = if op.enq then t.countDrop slot else t := by
  intro t
  unfold State.qfinish
  dsimp only
  rw [ha]
  dsimp only
  rw [show ({ s with qops := s.qops.erase id, homes := s.homes.put k { s.home k with
      busy := (s.home k).busy.filter (· ≠ id) } } : State).qwarp op = none from h]
  dsimp only
  unfold State.qdrop
  rw [ha]

end Sys2Proof.Machine
end


section
/-! SUPPORT. QUEUE_PUBLISH (R155, R398). -/

namespace Sys2Proof.Machine

/-! ### Failed links (R398) -/

theorem State.slotCut_congr {s u : State} (h : u.downLinks = s.downLinks) (k a : Nat) : u.slotCut k a = s.slotCut k a := by
  unfold State.slotCut State.linkFailed
  rw [h]

section Lost
variable {s : State} {k : Nat} {op : QOp} {q : QBlk}

theorem slotLost_uncut (h : ∀ p ∈ op.slots.headD [], s.slotCut k p.1 = false) : s.slotLost k op q = s := by
  have hf : (op.slots.headD []).findIdx? (fun p => s.slotCut k p.1) = none := List.findIdx?_eq_none_iff.2 h
  unfold State.slotLost
  rw [hf]

theorem slotLost_gone (h : s.qwarp op = none) : s.slotLost k op q = s := by
  unfold State.slotLost
  rw [h]
  split
  · contradiction
  · rfl

/-- R398: the first unit of a slot that a failed link keeps from it. -/
theorem slotLost_cut {l1 l2 : List (Nat × Bool)} {p : Nat × Bool} (hs : op.slots.headD [] = l1 ++ p :: l2)
    (h1 : ∀ x ∈ l1, s.slotCut k x.1 = false) (hp : s.slotCut k p.1 = true) {j : Nat} {w : Warp} (hw : s.qwarp op = some (j, w)) :
    s.slotLost k op q =
      s.storeFail j w none (q.slot (isPad k) (op.counters.headD 0) + BitVec.ofNat 64 (8 * l1.length)) := by
  have hf : (op.slots.headD []).findIdx? (fun p => s.slotCut k p.1) = some l1.length := by
    rw [hs, List.findIdx?_append, List.findIdx?_eq_none_iff.2 h1, List.findIdx?_cons, hp]
    simp
  unfold State.slotLost
  rw [hf, hw]

end Lost

/-! ### Publication -/

section Publish
variable {s : State} {k id j : Nat} {op : QOp} {w : Warp}

theorem published_frame (s : State) (k : Nat) (op : QOp) : ∃ mem stale failed,
    s.published k op = { s with mem := mem, stale := stale, failed := failed } := by
  unfold State.published
  rw [State.wrSlot_frame]
  exact ⟨_, _, _, rfl⟩

theorem published_tail (s : State) (k : Nat) (op : QOp) :
    (s.published k op).num (k + 20) 4 = ((s.qblk k).tail + 1) % 2 ^ 32 ∧
      (s.published k op).num (k + 28) 4 = (s.qblk k).resv - 1 := by
  have hr : (s.qblk k).resv < 256 ^ 4 := s.num_lt (k + 28) 4
  unfold State.published
  refine ⟨(State.num_qput_other (by omega)).trans ((State.num_qput_self _ _ _ _ _).trans ?_),
    (State.num_qput_self _ _ _ _ _).trans (Nat.mod_eq_of_lt (by omega))⟩
  exact Nat.mod_mod _ _

theorem byte_published {b : Nat} (h1 : ¬ (k + 20 ≤ b ∧ b < k + 24)) (h2 : ¬ (k + 28 ≤ b ∧ b < k + 32)) :
    (s.published k op).byte b = (s.wrSlot k (op.slots.headD [])
      ((op.data.getD (op.data.length - op.counters.length) []).take (s.qblk k).size)).byte b :=
  (State.byte_qput_other (by omega)).trans (State.byte_qput_other (by omega))

/-- R155: an enqueue after its next element has been published. -/
def State.afterPublish (s : State) (k id : Nat) (op : QOp) : State :=
  if op.counters.length ≤ 1 then (s.published k op).qfinish k id op.next []
  else { s.published k op with qops := (s.published k op).qops.put id op.next }

theorem queuePublish_next (hq : s.qfirst k true = some (id, op)) (hh : s.slotHeld op = false) :
    exec (.queuePublish k id) s = .next ((s.afterPublish k id op).slotLost k op (s.qblk k)) := by
  have hover : op.next.counters = [] ↔ op.counters.length ≤ 1 := List.drop_eq_nil_iff
  change execQueuePublish k id s = _
  simp [execQueuePublish, hq, hh, hover, State.published, State.afterPublish]

/-- R77, R155: publication leaves all but memory, the operation and, with the last element, its home and its warp. -/
theorem afterPublish_cases (hw : s.qwarp op = some (j, w)) : ∃ mem stale failed,
    s.published k op = { s with mem := mem, stale := stale, failed := failed } ∧
    (op.counters.length ≤ 1 → s.afterPublish k id op = { s with
        mem := mem, stale := stale, failed := failed, qops := s.qops.erase id
        homes := s.homes.put k { s.home k with busy := (s.home k).busy.filter (· ≠ id) }
        warps := s.warps.put j (w.finished op.next []) }) ∧
    (¬ op.counters.length ≤ 1 → s.afterPublish k id op =
      { s with mem := mem, stale := stale, failed := failed, qops := s.qops.put id op.next }) := by
  obtain ⟨mem, stale, failed, hp⟩ := published_frame s k op
  refine ⟨mem, stale, failed, hp, fun hl => ?_, fun hl => ?_⟩
  · have hwp : (s.published k op).qwarp op.next = some (j, w) := by
      rw [hp]
      exact hw
    rw [State.afterPublish, if_pos hl, qfinish_warp hwp, hp]
    rfl
  · rw [State.afterPublish, if_neg hl, hp]

theorem finished_published (w : Warp) (op : QOp) : ∃ k pk d, w.finished op [] = { w with k := k, pendK := pk, d := d } := by
  obtain ⟨k, d, pv, pe, pk, h, hv, he, -⟩ := finished_frame w op []
  have h0 (m : Mask) : m &&& ~~~ 0 = m := BitVec.and_allOnes
  have hv : pv = w.pendV := by
    rw [hv]
    cases op.status with
    | none => rfl
    | some z => exact h0 _
  have he : pe = w.pendE := by
    rw [he]
    cases op.status with
    | none => rfl
    | some z => exact h0 _
  exact ⟨k, pk, d, by rw [h, hv, he]⟩

/-- R77, R155, R398: the claim about publication. -/
theorem queuePublishes (hw : s.qwarp op = some (j, w)) (hh : s.slotHeld op = false) (hq : s.qfirst k true = some (id, op)) :
    let q := s.qblk k
    let last := op.counters.length ≤ 1
    let slot := op.slots.headD []
    let elem := (op.data.getD (op.data.length - op.counters.length) []).take q.size
    let t := s.afterPublish k id op
    ((∀ p ∈ slot, s.slotCut k p.1 = false) → exec (.queuePublish k id) s = .next t) ∧
    (∀ l1 p l2, slot = l1 ++ p :: l2 → (∀ x ∈ l1, s.slotCut k x.1 = false) → s.slotCut k p.1 = true →
      ∃ y, t.warp j = some y ∧ exec (.queuePublish k id) s = .next (t.storeFail j y none
        (q.slot (isPad k) (op.counters.headD 0) + BitVec.ofNat 64 (8 * l1.length)))) ∧
    t.num (k + 20) 4 = (q.tail + 1) % 2 ^ 32 ∧ t.num (k + 28) 4 = q.resv - 1 ∧
    ((∀ p ∈ slot, p.1 + 8 ≤ k ∨ k + 64 ≤ p.1) → (slot.Pairwise fun x y => x.1 + 8 ≤ y.1 ∨ y.1 + 8 ≤ x.1) →
      elem.length = 8 * slot.length → ∀ i a m, slot[i]? = some (a, m) → ∀ j < 8,
        t.byte (a + j) = if s.slotCut k a then s.byte (a + j) else elem.getD (8 * i + j) 0) ∧
    (∀ a, (∀ p ∈ slot, ¬ (p.1 ≤ a ∧ a < p.1 + 8)) → ¬ (k + 20 ≤ a ∧ a < k + 24) → ¬ (k + 28 ≤ a ∧ a < k + 32) →
      t.byte a = s.byte a) ∧
    t = { s with mem := t.mem, stale := t.stale, failed := t.failed, qops := t.qops, homes := t.homes, warps := t.warps } ∧
    (¬ last → t.warps = s.warps ∧ t.homes = s.homes ∧ t.qops = s.qops.put id op.next) ∧
    (last → t.qops = s.qops.erase id ∧ t.homes = s.homes.put k { s.home k with busy := (s.home k).busy.filter (· ≠ id) } ∧
      ∃ w1, t.warps = s.warps.put j w1 ∧
      w1 = { w with k := w1.k, pendK := w1.pendK, d := w1.d } ∧
      (∀ r, w1.kr r = if op.status = some r then 0 else w.kr r) ∧
      (∀ b < 128, w1.pendK.getLsbD b = (w.pendK.getLsbD b && !decide (op.status = some b))) ∧
      ∀ c, w1.dn c = if op.dc = some c then w.dn c - 1 else w.dn c) := by
  intro q last slot elem t
  obtain ⟨mem, stale, failed, hp, hlast, hmore⟩ := afterPublish_cases (k := k) (id := id) hw
  have hex : exec (.queuePublish k id) s = .next (t.slotLost k op q) := queuePublish_next hq hh
  have hmem : t.mem = (s.published k op).mem := by
    rw [hp]
    by_cases hl : last
    · exact (congrArg State.mem (hlast hl) :)
    · exact (congrArg State.mem (hmore hl) :)
  have hframe : t = { s with
      mem := t.mem, stale := t.stale, failed := t.failed, qops := t.qops, homes := t.homes, warps := t.warps } := by
    by_cases hl : last
    · rw [show t = _ from hlast hl]
    · rw [show t = _ from hmore hl]
  have hcut (a : Nat) : t.slotCut k a = s.slotCut k a := State.slotCut_congr (congrArg State.downLinks hframe :) k a
  have hbyte (b : Nat) : t.byte b = (s.published k op).byte b := congrArg (fun m => Store.get 0 m b) hmem
  have hnum (a n : Nat) : t.num a n = (s.published k op).num a n := State.num_congr fun i _ => hbyte (a + i)
  refine ⟨fun h => ?_, fun l1 p l2 hs h1 h2 => ?_, (hnum _ _).trans (published_tail s k op).1,
    (hnum _ _).trans (published_tail s k op).2, fun hsep hd hlen i a m hi j hj => ?_, fun a ha h1 h2 => ?_, hframe,
    fun hl => ?_, fun hl => ?_⟩
  · rw [hex, slotLost_uncut fun p hpm => (hcut p.1).trans (h p hpm)]
  · have hy : ∃ y, t.warp j = some y ∧ y.slotNo = w.slotNo ∧ y.killed = w.killed ∧ y.swapped = w.swapped := by
      by_cases hl : last
      · obtain ⟨_, _, _, hf⟩ := finished_published w op.next
        exact ⟨_, (congrArg (fun u : State => u.warp j) (hlast hl)).trans (State.warp_putWarp_self _ _ _),
          by rw [hf]; rfl, by rw [hf], by rw [hf]⟩
      · obtain ⟨_, _, _, how⟩ := qwarp_some hw
        exact ⟨w, (congrArg (fun u : State => u.warp j) (hmore hl)).trans (owner_some how).1, rfl, rfl, rfl⟩
    obtain ⟨y, hy, hn, hk, ho⟩ := hy
    have hqw : t.qwarp op = some (j, y) := qwarp_put hw (congrArg State.gens hframe :) hy hn hk ho rfl
    exact ⟨y, hy, by rw [hex, slotLost_cut hs (fun x hx => (hcut x.1).trans (h1 x hx)) ((hcut p.1).trans h2) hqw]⟩
  · have hk : a + 8 ≤ k ∨ k + 64 ≤ a := hsep (a, m) (List.mem_of_getElem? hi)
    rw [hbyte, byte_published (by omega) (by omega), State.byte_wrSlot hd hlen s hi hj]
  · rw [hbyte, byte_published h1 h2, State.byte_wrSlot_other ha]
  · rw [show t = _ from hmore hl]
    exact ⟨rfl, rfl, rfl⟩
  · rw [show t = _ from hlast hl]
    refine ⟨rfl, rfl, _, rfl, ?_, kr_finished w op.next [], fun b hb => ?_, dn_finished w op.next []⟩
    · obtain ⟨_, _, _, hf⟩ := finished_published w op.next
      rw [hf]
    · exact ((finished_bits w op.next [] hb).2.2).trans (by simp; rfl)

end Publish

end Sys2Proof.Machine
end


section
/-! SUPPORT. QUEUE_DELIVER (R156, R264, R286). -/

namespace Sys2Proof.Machine

/-! ### An element in its registers (R286) -/

/-- A search of a run of numbered entries for the one with a number. -/
theorem find_range_reverse {β : Type} (n d r : Nat) (g : Nat → β) (P : β → Bool) (hP : ∀ i < n, P (g i) = (d + i == r)) :
    ((List.range n).map g).reverse.find? P = if d ≤ r ∧ r < d + n then some (g (r - d)) else none := by
  cases hf : ((List.range n).map g).reverse.find? P with
  | none =>
    rw [if_neg]
    rintro ⟨h1, h2⟩
    have hm : g (r - d) ∈ ((List.range n).map g).reverse :=
      List.mem_reverse.2 (List.mem_map_of_mem (List.mem_range.2 (by omega)))
    exact absurd ((hP (r - d) (by omega)).trans (by simp; omega)) (List.find?_eq_none.1 hf _ hm)
  | some x =>
    obtain ⟨i, hi, rfl⟩ := List.mem_map.1 (List.mem_reverse.1 (List.mem_of_find?_eq_some hf))
    have hi := List.mem_range.1 hi
    have hr : d + i = r := by simpa using (hP i hi).symm.trans (List.find?_some hf)
    rw [if_pos (by omega), show r - d = i by omega]

section Element
variable (op : QOp) (t : Nat) (elem : List Byte) (w : Warp)

theorem vWrites_elemWrites : Claims.vWrites (elemWrites op t elem) = if op.thr then (List.range (elem.length / 4)).map fun i =>
    (op.dst + i, t, BitVec.ofNat 32 (natOfBytes ((elem.drop (4 * i)).take 4))) else [] := by
  unfold elemWrites Claims.vWrites
  split
  · rw [List.flatMap_map, List.map_eq_flatMap]
    rfl
  · rw [List.flatMap_map]
    simp

theorem kWrites_elemWrites : Claims.kWrites (elemWrites op t elem) = if op.thr then [] else (List.range (elem.length / 8)).map fun i =>
    (op.dst + i, BitVec.ofNat 64 (natOfBytes ((elem.drop (8 * i)).take 8))) := by
  unfold elemWrites Claims.kWrites
  split
  · rw [List.flatMap_map]
    simp
  · rw [List.flatMap_map, List.map_eq_flatMap]

theorem eWrites_elemWrites : Claims.eWrites (elemWrites op t elem) = [] := by
  unfold elemWrites Claims.eWrites
  split
  · rw [List.flatMap_map]
    simp
  · rw [List.flatMap_map]
    simp

theorem length_elemWrites : (elemWrites op t elem).length = elem.length / if op.thr then 4 else 8 := by
  unfold elemWrites
  split <;> simp

/-- R286: the v registers after an element of a thread-level dequeue has landed. -/
theorem vr_elemWrites (ht : t < 128) (r : Nat) {p : Nat} (hp : p < 128) : ((elemWrites op t elem).foldl Warp.land w).vr r p =
    if op.thr = true ∧ (op.dst ≤ r ∧ r < op.dst + elem.length / 4) ∧ p = t then
      BitVec.ofNat 32 (natOfBytes ((elem.drop (4 * (r - op.dst))).take 4)) else w.vr r p := by
  have hv : ∀ e ∈ Claims.vWrites (elemWrites op t elem), e.2.1 < 128 := by
    rw [vWrites_elemWrites]
    split
    · intro e he
      obtain ⟨i, -, rfl⟩ := List.mem_map.1 he
      exact ht
    · simp
  rw [Warp.vr_foldl_land _ w hv r hp, vWrites_elemWrites]
  by_cases hthr : op.thr = true
  · by_cases hpt : p = t
    · subst hpt
      rw [if_pos hthr, find_range_reverse _ op.dst r _ _ fun i _ => by simp]
      by_cases hr : op.dst ≤ r ∧ r < op.dst + elem.length / 4 <;> simp [hthr, hr]
    · rw [if_pos hthr, if_neg (fun h => hpt h.2.2), List.find?_eq_none.2]
      · rfl
      · intro e he
        obtain ⟨i, -, rfl⟩ := List.mem_map.1 (List.mem_reverse.1 he)
        simp [Ne.symm hpt]
  · rw [if_neg hthr, if_neg (fun h => hthr h.1)]
    rfl

/-- R286: the k registers after an element of a warp-level dequeue has landed. -/
theorem kr_elemWrites (r : Nat) : ((elemWrites op t elem).foldl Warp.land w).kr r =
    if op.thr = false ∧ (op.dst ≤ r ∧ r < op.dst + elem.length / 8) then
      BitVec.ofNat 64 (natOfBytes ((elem.drop (8 * (r - op.dst))).take 8)) else w.kr r := by
  rw [Warp.kr_foldl_land, kWrites_elemWrites]
  by_cases hthr : op.thr = true
  · simp [hthr]
  · rw [if_neg hthr, find_range_reverse _ op.dst r _ _ fun i _ => by simp]
    by_cases hr : op.dst ≤ r ∧ r < op.dst + elem.length / 8 <;> simp [hthr, hr]

theorem elemWrites_frame : ∃ v k, (elemWrites op t elem).foldl Warp.land w = { w with v := v, k := k } := by
  obtain ⟨v, e, k, h⟩ := Warp.foldl_land_frame (elemWrites op t elem) w
  have he : ((elemWrites op t elem).foldl Warp.land w).e = w.e := by rw [Warp.e_foldl_land, eWrites_elemWrites]; rfl
  rw [h] at he
  exact ⟨v, k, by rw [h, show e = w.e from he]⟩

end Element

/-! ### Marks (R264, log 40) -/

/-- The registers that a failed slot marks, with its address. -/
def slotMarkList (op : QOp) (n : Nat) (a : DWord) : List (Nat × Nat × DWord) :=
  (List.range n).map fun i => (if op.thr then 0 else 2, op.dst + i, a)

theorem slotMarks_eq (s : State) (k : Nat) (op : QOp) (q : QBlk) (writes : List RegWrite) (w : Warp) :
    s.slotMarks k op q writes w = w.marks (if s.slotFails k (op.slots.headD [])
      then slotMarkList op writes.length (q.slot (isPad k) (op.counters.headD 0)) else []) := by
  unfold State.slotMarks
  split
  · rw [Warp.marks, slotMarkList, List.foldl_map]
  · rfl

theorem slotMarkList_file (op : QOp) (n : Nat) (a : DWord) : ∀ m ∈ slotMarkList op n a, m.1 = 0 ∨ m.1 = 2 := by
  intro m hm
  obtain ⟨i, -, rfl⟩ := List.mem_map.1 hm
  dsimp only
  split
  · exact .inl rfl
  · exact .inr rfl

/-- Marks of v and k registers leave those of e registers. -/
theorem Warp.markE_marks {l : List (Nat × Nat × DWord)} (h : ∀ m ∈ l, m.1 = 0 ∨ m.1 = 2) (w : Warp) :
    (w.marks l).markE = w.markE := by
  induction l generalizing w with
  | nil => rfl
  | cons m r ih =>
    refine (ih (fun x hx => h x (List.mem_cons_of_mem _ hx)) (w.mark m.1 m.2.1 m.2.2)).trans ?_
    obtain e | e := h m List.mem_cons_self <;> rw [e] <;> rfl

/-! ### Delivery -/

section Deliver
variable {s : State} {k id j : Nat} {op : QOp} {w : Warp}

/-- The bytes of the slot that is delivered (R156, R264). -/
def State.elemOf (s : State) (k : Nat) (op : QOp) : List Byte := s.slotBytes k (op.slots.headD []) (s.qblk k).size

/-- The position that an element is for (R286). -/
def QOp.posOf (op : QOp) : Nat := op.threads.getD (op.threads.length - op.counters.length) 0

/-- R286: the results of an element. -/
def State.elemResults (s : State) (k : Nat) (op : QOp) : List RegWrite := elemWrites op op.posOf (s.elemOf k op)

/-- R156, R264: the warp with an element in its registers. -/
def State.withElem (s : State) (k : Nat) (op : QOp) (w : Warp) : Warp :=
  s.slotMarks k op (s.qblk k) (s.elemResults k op) ((s.elemResults k op).foldl Warp.land w)

/-- R156: an operation with an element delivered. -/
def State.opAfter (s : State) (k : Nat) (op : QOp) : QOp := { op.next with data := op.data ++ [s.elemOf k op] }

/-- R156: a block with the slot of a delivered element free. -/
def State.freed (u : State) (k : Nat) (q : QBlk) : State := (u.qput k 24 4 (q.free + 1)).qput k 28 4 (q.resv - 1)

theorem queueDeliver_next {slot gen : Nat} (ha : op.agent = .warp j slot gen) (hq : s.qfirst k false = some (id, op))
    (hh : s.slotHeld op = false) : exec (.queueDeliver k id) s = .next (s.deliverOne k id op) := by
  change execQueueDeliver k id s = _
  simp [execQueueDeliver, hq, hh, ha]

theorem deliverOne_def (s : State) (k id : Nat) (op : QOp) : s.deliverOne k id op =
    let s1 := match s.qwarp op with
      | none => s.qdrop op
      | some (wid, w) => s.putWarp wid (s.withElem k op w)
    if (s.opAfter k op).counters = [] then
      (s1.freed k (s.qblk k)).qfinish k id (s.opAfter k op) (spanPend op.thr op.dst (op.span / if op.thr then 4 else 8))
    else { s1.freed k (s.qblk k) with qops := (s1.freed k (s.qblk k)).qops.put id (s.opAfter k op) } := rfl

theorem freed_free (u : State) (k : Nat) (s : State) : (u.freed k (s.qblk k)).num (k + 24) 4 = ((s.qblk k).free + 1) % 2 ^ 32 ∧
    (u.freed k (s.qblk k)).num (k + 28) 4 = (s.qblk k).resv - 1 := by
  have hr : (s.qblk k).resv < 256 ^ 4 := s.num_lt (k + 28) 4
  unfold State.freed
  exact ⟨(State.num_qput_other (by omega)).trans (State.num_qput_self _ _ _ _ _),
    (State.num_qput_self _ _ _ _ _).trans (Nat.mod_eq_of_lt (by omega))⟩

theorem byte_freed {u : State} {q : QBlk} {b : Nat} (h : ¬ (k + 24 ≤ b ∧ b < k + 32)) : (u.freed k q).byte b = u.byte b :=
  (State.byte_qput_other (by omega)).trans (State.byte_qput_other (by omega))

theorem withElem_frame (s : State) (k : Nat) (op : QOp) (w : Warp) : ∃ v kr mv me mk ma, s.withElem k op w = { w with
    v := v, k := kr, markV := mv, markE := me, markK := mk, markAddr := ma } ∧
    v = ((s.elemResults k op).foldl Warp.land w).v ∧ kr = ((s.elemResults k op).foldl Warp.land w).k ∧ me = w.markE ∧
    (s.slotFails k (op.slots.headD []) = false → mv = w.markV ∧ mk = w.markK ∧ ma = w.markAddr) := by
  obtain ⟨v, kr, hl⟩ := elemWrites_frame op op.posOf (s.elemOf k op) w
  have hl : (s.elemResults k op).foldl Warp.land w = { w with v := v, k := kr } := hl
  unfold State.withElem
  rw [slotMarks_eq, hl]
  cases hf : s.slotFails k (op.slots.headD []) with
  | false => exact ⟨_, _, _, _, _, _, rfl, rfl, rfl, rfl, fun _ => ⟨rfl, rfl, rfl⟩⟩
  | true =>
    rw [if_pos rfl]
    have hl := slotMarkList_file op (s.elemResults k op).length ((s.qblk k).slot (isPad k) (op.counters.headD 0))
    obtain ⟨mv, me, mk, hm⟩ := Warp.marks_frame (fun m h => by have := hl m h; omega) ({ w with v := v, k := kr } : Warp)
    refine ⟨_, _, _, _, _, _, hm, rfl, rfl, ?_, fun h => absurd h (by simp)⟩
    exact (congrArg Warp.markE hm).symm.trans (Warp.markE_marks hl _)

/-- R264: a failed slot marks each register in which its element lands. -/
theorem marked_withElem (hf : s.slotFails k (op.slots.headD []) = true) {r : Nat} (hr : r < 128)
    (hl : op.dst ≤ r ∧ r < op.dst + (s.elemOf k op).length / if op.thr then 4 else 8) :
    (s.withElem k op w).marked (if op.thr then 0 else 2) r = true := by
  unfold State.withElem
  rw [slotMarks_eq, hf, if_pos rfl, State.elemResults, length_elemWrites]
  have hfile := slotMarkList_file op ((s.elemOf k op).length / if op.thr then 4 else 8)
    ((s.qblk k).slot (isPad k) (op.counters.headD 0))
  rw [Warp.marked_marks (fun m h => by have := hfile m h; omega) _ (by split <;> omega) hr, Bool.or_eq_true]
  refine .inr (List.any_eq_true.2 ⟨_, List.mem_map.2 ⟨r - op.dst, List.mem_range.2 (by omega), rfl⟩, ?_⟩)
  simp only [beq_self_eq_true, Bool.true_and, beq_iff_eq]
  omega

/-- R77, R156: the warp after an element: with the last of an operation, the operation is done. -/
def State.deliveredWarp (s : State) (k : Nat) (op : QOp) (w : Warp) : Warp :=
  if op.counters.length ≤ 1 then (s.withElem k op w).finished (s.opAfter k op)
    (spanPend op.thr op.dst (op.span / if op.thr then 4 else 8)) else s.withElem k op w

/-- R77, R156: delivery leaves all but the block, the operation, its warp and, with the last element, its home. -/
theorem deliverOne_eq (hw : s.qwarp op = some (j, w)) : ∃ mem failed,
    let u : State := { s with mem := mem, failed := failed, warps := s.warps.put j (s.deliveredWarp k op w) }
    mem = (s.freed k (s.qblk k)).mem ∧
    (op.counters.length ≤ 1 → s.deliverOne k id op = { u with
        qops := s.qops.erase id
        homes := s.homes.put k { s.home k with busy := (s.home k).busy.filter (· ≠ id) } }) ∧
    (¬ op.counters.length ≤ 1 → s.deliverOne k id op = { u with qops := s.qops.put id (s.opAfter k op) }) := by
  have hover : (s.opAfter k op).counters = [] ↔ op.counters.length ≤ 1 := List.drop_eq_nil_iff
  refine ⟨_, (s.freed k (s.qblk k)).failed, rfl, fun hl => ?_, fun hl => ?_⟩
  · obtain ⟨_, _, _, _, _, _, hf, -⟩ := withElem_frame s k op w
    have hq : ((s.putWarp j (s.withElem k op w)).freed k (s.qblk k)).qwarp (s.opAfter k op) = some (j, s.withElem k op w) :=
      qwarp_put (u := (s.putWarp j (s.withElem k op w)).freed k (s.qblk k)) (x := s.withElem k op w) hw rfl (State.warp_putWarp_self s j _) (by rw [hf]; rfl) (by rw [hf]) (by rw [hf]) rfl
    rw [deliverOne_def, hw, if_pos (hover.2 hl), State.deliveredWarp, if_pos hl]
    refine (qfinish_warp hq k id _).trans ?_
    have hp : ((s.putWarp j (s.withElem k op w)).freed k (s.qblk k)).warps.put j ((s.withElem k op w).finished (s.opAfter k op)
        (spanPend op.thr op.dst (op.span / if op.thr then 4 else 8))) = s.warps.put j ((s.withElem k op w).finished (s.opAfter k op)
        (spanPend op.thr op.dst (op.span / if op.thr then 4 else 8))) := Table.put_put _ _ _ _
    rw [hp]
    rfl
  · rw [deliverOne_def, hw, if_neg fun h => hl (hover.1 h), State.deliveredWarp, if_neg hl]
    rfl

end Deliver

end Sys2Proof.Machine
end


section
/-! SUPPORT. What QUEUE_DELIVER does, in whole (R77, R156, R264), and the claim about what moves at the home of a queue. -/

namespace Sys2Proof.Machine

section Delivered
variable {s : State} {k id j : Nat} {op : QOp} {w : Warp}

/-- R77, R156, R264: what delivery may change of a warp. -/
theorem deliveredWarp_frame (s : State) (k : Nat) (op : QOp) (w : Warp) : ∃ v kr d pv pk mv mk ma,
    s.deliveredWarp k op w = { w with
      v := v, k := kr, d := d, pendV := pv, pendK := pk, markV := mv, markK := mk, markAddr := ma } ∧
    v = ((s.elemResults k op).foldl Warp.land w).v ∧
    (s.slotFails k (op.slots.headD []) = false → mv = w.markV ∧ mk = w.markK ∧ ma = w.markAddr) ∧
    mv = (s.withElem k op w).markV ∧ mk = (s.withElem k op w).markK := by
  obtain ⟨v, kr, mv, me, mk, ma, hf, rfl, -, rfl, hm⟩ := withElem_frame s k op w
  unfold State.deliveredWarp
  split
  · obtain ⟨k1, d, pv, pe, pk, h, -, he, -⟩ := finished_frame (s.withElem k op w) (s.opAfter k op)
      (spanPend op.thr op.dst (op.span / if op.thr then 4 else 8))
    have he : pe = w.pendE := by
      refine BitVec.eq_of_getLsbD_eq fun b hb => ?_
      have hbits := (finished_bits (s.withElem k op w) (s.opAfter k op)
        (spanPend op.thr op.dst (op.span / if op.thr then 4 else 8)) hb).2.1
      rw [h, (spanPend_any _ _ _ hb).2.1, hf] at hbits
      simpa using hbits
    exact ⟨_, k1, d, pv, pk, _, _, _, by rw [h, hf, he], rfl, hm, by rw [hf], by rw [hf]⟩
  · exact ⟨_, kr, w.d, w.pendV, w.pendK, _, _, _, hf, rfl, hm, by rw [hf], by rw [hf]⟩

/-- R286, R280: the k registers of a warp after delivery. -/
theorem kr_deliveredWarp (s : State) (k : Nat) (op : QOp) (w : Warp) (r : Nat) : (s.deliveredWarp k op w).kr r =
    if op.counters.length ≤ 1 ∧ op.status = some r then 0 else
      if op.thr = false ∧ (op.dst ≤ r ∧ r < op.dst + (s.elemOf k op).length / 8) then
        BitVec.ofNat 64 (natOfBytes (((s.elemOf k op).drop (8 * (r - op.dst))).take 8)) else w.kr r := by
  have hw : (s.withElem k op w).kr r = ((s.elemResults k op).foldl Warp.land w).kr r := by
    obtain ⟨_, _, _, _, _, _, hf, -, rfl, -⟩ := withElem_frame s k op w
    rw [hf]
    rfl
  rw [← kr_elemWrites op op.posOf]
  unfold State.deliveredWarp
  by_cases hl : op.counters.length ≤ 1
  · rw [if_pos hl, kr_finished, hw, show (s.opAfter k op).status = op.status from rfl]
    simp only [hl, true_and]
    rfl
  · rw [if_neg hl, hw]
    simp only [hl, false_and, if_false]
    rfl

/-- R77, R75: the end of an operation after its last element. -/
theorem deliveredWarp_last (hl : op.counters.length ≤ 1) :
    (∀ c, (s.deliveredWarp k op w).dn c = if op.dc = some c then w.dn c - 1 else w.dn c) ∧
    ∀ b < 128, (s.deliveredWarp k op w).pendV.getLsbD b = (w.pendV.getLsbD b &&
        !(op.thr && decide (op.dst ≤ b ∧ b < op.dst + op.span / if op.thr then 4 else 8))) ∧
      (s.deliveredWarp k op w).pendK.getLsbD b = (w.pendK.getLsbD b &&
        !(!op.thr && decide (op.dst ≤ b ∧ b < op.dst + op.span / if op.thr then 4 else 8)) && !decide (op.status = some b)) := by
  obtain ⟨_, _, _, _, _, _, hf, -⟩ := withElem_frame s k op w
  unfold State.deliveredWarp
  rw [if_pos hl]
  refine ⟨fun c => (dn_finished _ _ _ c).trans ?_, fun b hb => ?_⟩
  · rw [hf]
    rfl
  · obtain ⟨h1, -, h3⟩ := finished_bits (s.withElem k op w) (s.opAfter k op)
      (spanPend op.thr op.dst (op.span / if op.thr then 4 else 8)) hb
    obtain ⟨a1, -, a3⟩ := spanPend_any op.thr op.dst (op.span / if op.thr then 4 else 8) hb
    rw [h1, h3, a1, a3, hf]
    exact ⟨rfl, rfl⟩

/-- R77, R156, R264: the claim about delivery. -/
theorem queueDelivers (hw : s.qwarp op = some (j, w)) (hh : s.slotHeld op = false) (hq : s.qfirst k false = some (id, op))
    (hp : op.posOf < 128) :
    let q := s.qblk k
    let last := op.counters.length ≤ 1
    let fails := s.slotFails k (op.slots.headD [])
    let elem := s.elemOf k op
    let landed (r unit : Nat) : Prop := op.dst ≤ r ∧ r < op.dst + elem.length / unit
    ∃ t w1, exec (.queueDeliver k id) s = .next t ∧ t.warps = s.warps.put j w1 ∧
      t.num (k + 24) 4 = (q.free + 1) % 2 ^ 32 ∧ t.num (k + 28) 4 = q.resv - 1 ∧
      (∀ a, ¬ (k + 24 ≤ a ∧ a < k + 32) → t.byte a = s.byte a) ∧
      t = { s with mem := t.mem, failed := t.failed, qops := t.qops, homes := t.homes, warps := t.warps } ∧
      w1 = { w with v := w1.v, k := w1.k, d := w1.d, pendV := w1.pendV, pendK := w1.pendK
                    markV := w1.markV, markK := w1.markK, markAddr := w1.markAddr } ∧
      (∀ r, ∀ p < 128, w1.vr r p = if op.thr = true ∧ landed r 4 ∧ p = op.posOf then
          BitVec.ofNat 32 (natOfBytes ((elem.drop (4 * (r - op.dst))).take 4)) else w.vr r p) ∧
      (∀ r, w1.kr r = if last ∧ op.status = some r then 0 else if op.thr = false ∧ landed r 8 then
          BitVec.ofNat 64 (natOfBytes ((elem.drop (8 * (r - op.dst))).take 8)) else w.kr r) ∧
      (fails = false → w1.markV = w.markV ∧ w1.markK = w.markK ∧ w1.markAddr = w.markAddr) ∧
      (fails = true → ∀ r < 128,
        (op.thr = true → landed r 4 → w1.marked 0 r = true) ∧ (op.thr = false → landed r 8 → w1.marked 2 r = true)) ∧
      (¬ last → w1.d = w.d ∧ w1.pendV = w.pendV ∧ w1.pendK = w.pendK ∧ t.homes = s.homes ∧
        t.qops = s.qops.put id (s.opAfter k op)) ∧
      (last → t.qops = s.qops.erase id ∧
        t.homes = s.homes.put k { s.home k with busy := (s.home k).busy.filter (· ≠ id) } ∧
        (∀ c, w1.dn c = if op.dc = some c then w.dn c - 1 else w.dn c) ∧
        ∀ b < 128, w1.pendV.getLsbD b = (w.pendV.getLsbD b &&
            !(op.thr && decide (op.dst ≤ b ∧ b < op.dst + op.span / if op.thr then 4 else 8))) ∧
          w1.pendK.getLsbD b = (w.pendK.getLsbD b &&
            !(!op.thr && decide (op.dst ≤ b ∧ b < op.dst + op.span / if op.thr then 4 else 8))
            && !decide (op.status = some b))) := by
  intro q last fails elem landed
  obtain ⟨slot, gen, ha, -⟩ := qwarp_some hw
  obtain ⟨mem, failed, hmem, hlast, hmore⟩ := deliverOne_eq (k := k) (id := id) hw
  obtain ⟨_, _, _, _, _, _, _, _, hf, rfl, hmarks, rfl, rfl⟩ := deliveredWarp_frame s k op w
  have hkr := kr_deliveredWarp s k op w
  have hend := deliveredWarp_last (s := s) (k := k) (op := op) (w := w)
  generalize hx : s.deliveredWarp k op w = w1 at *
  have hvr (r p : Nat) : w1.vr r p = ((s.elemResults k op).foldl Warp.land w).vr r p := by
    rw [hf]
    rfl
  have hmk (c r : Nat) (hc : c = 0 ∨ c = 2) : w1.marked c r = (s.withElem k op w).marked c r := by
    rw [hf]
    obtain rfl | rfl := hc <;> rfl
  have hmem (t : State) (ht : t.mem = mem) : t.num (k + 24) 4 = (q.free + 1) % 2 ^ 32 ∧ t.num (k + 28) 4 = q.resv - 1 ∧
      ∀ a, ¬ (k + 24 ≤ a ∧ a < k + 32) → t.byte a = s.byte a := by
    have hb (a : Nat) : t.byte a = (s.freed k q).byte a := congrArg (fun m => Store.get 0 m a) (ht.trans hmem)
    have hn (a n : Nat) : t.num a n = (s.freed k q).num a n := State.num_congr fun i _ => hb (a + i)
    exact ⟨(hn _ _).trans (freed_free s k s).1, (hn _ _).trans (freed_free s k s).2, fun a h => (hb a).trans (byte_freed h)⟩
  refine ⟨s.deliverOne k id op, w1, queueDeliver_next ha hq hh, ?_⟩
  have hwarp : w1 = { w with v := w1.v, k := w1.k, d := w1.d, pendV := w1.pendV, pendK := w1.pendK
                             markV := w1.markV, markK := w1.markK, markAddr := w1.markAddr } := by rw [hf]
  have hv : ∀ r, ∀ p < 128, w1.vr r p = if op.thr = true ∧ landed r 4 ∧ p = op.posOf then
      BitVec.ofNat 32 (natOfBytes ((elem.drop (4 * (r - op.dst))).take 4)) else w.vr r p :=
    fun r p h => (hvr r p).trans (vr_elemWrites op _ _ w hp r h)
  have hm0 : fails = false → w1.markV = w.markV ∧ w1.markK = w.markK ∧ w1.markAddr = w.markAddr := fun h => by
    rw [hf]
    exact hmarks h
  have hm1 : fails = true → ∀ r < 128,
      (op.thr = true → landed r 4 → w1.marked 0 r = true) ∧ (op.thr = false → landed r 8 → w1.marked 2 r = true) := by
    refine fun h r hr => ⟨fun ht hl => (hmk 0 r (.inl rfl)).trans ?_, fun ht hl => (hmk 2 r (.inr rfl)).trans ?_⟩
    · have := marked_withElem (w := w) h hr (by rw [ht]; exact hl)
      rwa [ht] at this
    · have := marked_withElem (w := w) h hr (by rw [ht]; exact hl)
      rwa [ht] at this
  by_cases hl : last
  · rw [hlast hl]
    obtain ⟨h1, h2, h3⟩ := hmem { s with
      mem := mem, failed := failed, warps := s.warps.put j w1, qops := s.qops.erase id
      homes := s.homes.put k { s.home k with busy := (s.home k).busy.filter (· ≠ id) } } rfl
    exact ⟨rfl, h1, h2, h3, rfl, hwarp, hv, hkr, hm0, hm1, fun h => absurd hl h, fun _ => ⟨rfl, rfl, hend hl⟩⟩
  · rw [hmore hl]
    obtain ⟨h1, h2, h3⟩ := hmem { s with
      mem := mem, failed := failed, warps := s.warps.put j w1, qops := s.qops.put id (s.opAfter k op) } rfl
    have hk : w1.d = w.d ∧ w1.pendV = w.pendV ∧ w1.pendK = w.pendK := by
      obtain ⟨_, _, _, _, _, _, hwe, -⟩ := withElem_frame s k op w
      rw [← hx, State.deliveredWarp, if_neg hl, hwe]
      exact ⟨rfl, rfl, rfl⟩
    obtain ⟨k1, k2, k3⟩ := hk
    exact ⟨rfl, h1, h2, h3, rfl, hwarp, hv, hkr, hm0, hm1, fun _ => ⟨k1, k2, k3, rfl, rfl⟩, fun h => absurd h hl⟩

end Delivered

/-- R77, R155, R156, R264, R398: what moves at the home of a queue. -/
theorem queueMoves : Claims.queueMoves := by
  intro s k id j op w hw hh
  exact ⟨fun hq _ => ⟨_, queuePublishes hw hh hq⟩, fun hq _ hp => queueDelivers hw hh hq hp⟩

end Sys2Proof.Machine
end


section
/-! SUPPORT. Returns of a warp that is gone, at the home of a queue (R83, R155, R156, log 55). -/

namespace Sys2Proof.Machine

section Drops
variable {s : State} {k id j slot gen : Nat} {op : QOp}

/-- R83, R156: an element of a warp that is gone is counted and its slot freed. -/
theorem deliverOne_gone (ha : op.agent = .warp j slot gen) (h : s.qwarp op = none) (he : op.enq = false) :
    (s.deliverOne k id op).comps = (s.countDrop slot).comps ∧ (s.deliverOne k id op).warps = s.warps := by
  have hd : s.qdrop op = s.countDrop slot := by rw [State.qdrop, ha]
  have hu : ((s.countDrop slot).freed k (s.qblk k)).qwarp (s.opAfter k op) = none := (qwarp_congr rfl rfl rfl).trans h
  rw [deliverOne_def, h]
  dsimp only
  rw [hd]
  split
  · rw [qfinish_gone (op := s.opAfter k op) ha hu, show (s.opAfter k op).enq = false from he]
    exact ⟨rfl, rfl⟩
  · exact ⟨rfl, rfl⟩

/-- R83, R155: an enqueue of a warp that is gone is counted when it ends. -/
theorem afterPublish_gone (ha : op.agent = .warp j slot gen) (h : s.qwarp op = none) (he : op.enq = true) :
    (s.afterPublish k id op).comps = (if op.counters.length ≤ 1 then s.countDrop slot else s).comps ∧
      (s.afterPublish k id op).warps = s.warps ∧ (s.afterPublish k id op).gens = s.gens := by
  obtain ⟨mem, stale, failed, hp⟩ := published_frame s k op
  have hu : (s.published k op).qwarp op.next = none := by
    rw [hp]
    exact h
  unfold State.afterPublish
  split
  · rw [qfinish_gone (op := op.next) ha hu, show op.next.enq = true from he, hp]
    exact ⟨rfl, rfl, rfl⟩
  · rw [hp]
    exact ⟨rfl, rfl, rfl⟩

end Drops

/-- R83, R155, R156: what a warp that is gone would have got is dropped and counted. -/
theorem queueDrops : Claims.queueDrops := by
  intro s k id j slot gen op ha hw hh
  refine ⟨fun hq he => ?_, fun hq he => ?_⟩
  · obtain ⟨hc, hwarps⟩ := deliverOne_gone (k := k) (id := id) ha hw he
    refine ⟨_, queueDeliver_next ha hq hh, fun c o ho => ?_, hwarps⟩
    rw [hc]
    exact dropsCounted_one slot rfl c o ho
  · obtain ⟨hc, hwarps, hg⟩ := afterPublish_gone (k := k) (id := id) ha hw he
    have hlost : (s.afterPublish k id op).slotLost k op (s.qblk k) = s.afterPublish k id op :=
      slotLost_gone ((qwarp_congr hwarps hg rfl).trans hw)
    refine ⟨_, (queuePublish_next hq hh).trans (congrArg _ hlost), hwarps, fun c o ho => ?_⟩
    rw [hc]
    split
    · exact dropsCounted_one slot rfl c o ho
    · exact dropsCounted_zero s s slot rfl c o ho

end Sys2Proof.Machine
end


section
/-! SUPPORT. Who waits at the home of a queue (R152, R157 to R159, R320, R407). -/

namespace Sys2Proof.Machine

section Waiters
variable {s : State} {k id j slot gen : Nat} {op : QOp} {w : Warp}

/-! ### Room (R157) -/

/-- R157: a waiter that has room is served or refused as a request that has just reached its home. -/
theorem qperform_room (hr : op.threads.length ≤ if op.enq then (s.qblk k).free else (s.qblk k).visible) :
    s.qperform k id op true true = s.qserve k id op true := by
  have h : ¬ (if op.enq then (s.qblk k).free else (s.qblk k).visible) < op.n := Nat.not_lt.2 hr
  simp only [State.qserve, State.qperform, h, decide_false, Bool.and_false]

/-- R157: a waiter without room is not refused for a slot. -/
theorem qperform_noRoom (hc : s.qcheck k op.thr = none) (hn : ¬ (op.thr = true ∧ (s.qblk k).cap < op.threads.length))
    (hs : (s.qblk k).size ≤ op.span) (hr : (if op.enq then (s.qblk k).free else (s.qblk k).visible) < op.threads.length) :
    s.qperform k id op true true = .wait := by
  have hn' : ¬ (op.thr && decide ((s.qblk k).cap < op.n)) = true := by
    rw [Bool.and_eq_true, decide_eq_true_eq]
    exact hn
  have hr' : (if op.enq then (s.qblk k).free else (s.qblk k).visible) < op.n := hr
  unfold State.qperform
  simp only [hc]
  rw [if_neg hn', if_neg (Nat.not_lt.2 hs), if_pos (by simpa using hr')]

/-! ### Out of the lists (R158) -/

theorem home_putHome (s : State) (k : Nat) (h : QHome) : (s.putHome k h).home k = h :=
  congrArg (fun o : Option QHome => o.getD _) (Table.find_put_self s.homes k h)

/-- R158: a block counts those that stay. -/
theorem num_putHome (s : State) (k : Nat) (h : QHome) :
    (s.putHome k h).num (k + 32) 4 = h.enqW.length % 2 ^ 32 ∧ (s.putHome k h).num (k + 36) 4 = h.deqW.length % 2 ^ 32 :=
  ⟨(State.num_qput_other (by omega)).trans (State.num_qput_self _ _ _ _ _), State.num_qput_self _ _ _ _ _⟩

theorem byte_putHome {h : QHome} {a : Nat} (ha : ¬ (k + 32 ≤ a ∧ a < k + 40)) : (s.putHome k h).byte a = s.byte a :=
  (State.byte_qput_other (by omega)).trans (State.byte_qput_other (by omega))

/-! ### Who goes on -/

theorem serveOp_warp (ha : op.agent = .warp j slot gen) (hw : s.warp j = some w) (hq : w.wait = some (.queue id)) :
    s.serveOp id op = (s.putWarp j (w.served op)).advance j := by
  unfold State.serveOp
  rw [ha]
  dsimp only
  rw [hw]
  exact if_pos hq

theorem refuseOp_warp (ha : op.agent = .warp j slot gen) (hw : s.warp j = some w) (hq : w.wait = some (.queue id)) (c : Fail)
    (v : DWord) : s.refuseOp id op c v =
      s.takeTrap j { Trap.of c.cause v with write := op.enq, entry := c.entry } := by
  unfold State.refuseOp
  rw [ha]
  dsimp only
  rw [hw]
  exact if_pos hq

theorem warp_of_homeRest {u : State} (h : u.homeRest = s.homeRest) (j : Nat) : u.warp j = s.warp j := by
  unfold State.warp
  rw [show u.warps = s.warps from (congrArg State.warps h :)]

/-- R158, R407: QUEUE_WAITER_SERVE for a warp. -/
theorem queueWaiterServe_warp (hop : s.qops.find id = some op) (ha : op.agent = .warp j slot gen) (hw : s.warp j = some w)
    (hq : w.wait = some (.queue id)) (hp : s.planeHeld k = false) {enq : Bool} {rest : List Nat}
    (hl : (if enq then (s.home k).enqW else (s.home k).deqW) = id :: rest) :
    let answer := s.qperform k id op true true
    (answer = .wait ∨ answer = .held → exec (.queueWaiterServe k enq) s = .next s) ∧
    (∀ u, answer = .served u →
      exec (.queueWaiterServe k enq) s = .next (((u.unlist k id).putWarp j (w.served op)).advance j)) ∧
    (∀ c v u, answer = .refuse c v u → exec (.queueWaiterServe k enq) s = .next ((u.qleave k id).takeTrap j
      { Trap.of c.cause v with write := op.enq, entry := c.entry })) := by
  intro answer
  have hex : exec (.queueWaiterServe k enq) s = .next (match answer with
      | .refuse why v s1 => (s1.qleave k id).refuseOp id op why v
      | .wait | .held => s
      | .served s1 => (s1.unlist k id).serveOp id op) := by
    change execQueueWaiterServe k enq s = _
    unfold execQueueWaiterServe
    simp only [hp, hl, hop, Bool.false_eq_true, if_false] <;> rfl
  refine ⟨fun h => ?_, fun u h => ?_, fun c v u h => ?_⟩
  · rw [hex]
    obtain h | h := h <;> rw [h]
  · have hu : (u.unlist k id).warp j = some w := (warp_of_homeRest (State.homeRest_of_served h) j).trans hw
    rw [hex, h]
    exact congrArg _ (serveOp_warp ha hu hq)
  · have hu : (u.qleave k id).warp j = some w := (warp_of_homeRest (State.homeRest_of_refused h) j).trans hw
    rw [hex, h]
    exact congrArg _ (refuseOp_warp ha hu hq c v)

/-! ### In front of a home (R152, R159, R320) -/

theorem queueInitServe_eq {rest : List Nat} (hl : (s.home k).line = id :: rest) (hop : s.qops.find id = some op) :
    exec (.queueInitServe k) s = .next (if (op.solo && (s.home k).busy != []) || s.planeHeld k || s.blockHeld op
      || s.qripe k (s.home k).enqW || s.qripe k (s.home k).deqW then s else s.serveLine k id op) := by
  change execQueueInitServe k s = _
  unfold execQueueInitServe
  simp only [hl, hop]

theorem serveLine_warp (ha : op.agent = .warp j slot gen) :
    s.serveLine k id op = if op.solo then s.serveInit k id op else s.serveTurn k id op := by
  unfold State.serveLine
  rw [ha]

/-- A state has the warps and the generations of another. -/
def State.KeepsSlots (s u : State) : Prop := u.warps = s.warps ∧ u.gens = s.gens

theorem State.KeepsSlots.qput {s u : State} (h : s.KeepsSlots u) (k off n x : Nat) : s.KeepsSlots (u.qput k off n x) := h

theorem keepsSlots_qinit (s : State) (k : Nat) (img : List DWord) : s.KeepsSlots (s.qinit k img) := by
  have h0 : s.KeepsSlots (s.wrRaw k (img.flatMap fun d => bytesOfNat 8 d.toNat)) := ⟨rfl, rfl⟩
  unfold State.qinit
  dsimp only
  generalize s.wrRaw k (img.flatMap fun d => bytesOfNat 8 d.toNat) = s1 at h0
  have h3 := ((h0.qput k 16 8 0).qput k 24 4 (s1.num (k + 8) 4)).qput k 28 4 0
  generalize ((s1.qput k 16 8 0).qput k 24 4 (s1.num (k + 8) 4)).qput k 28 4 0 = s2 at h3 ⊢
  have h5 := (h3.qput k 40 8 (Config.queueHardware s2.fresh).toNat).qput k 48 2 0x51E0
  generalize (s2.qput k 40 8 (Config.queueHardware s2.fresh).toNat).qput k 48 2 0x51E0 = s3 at h5 ⊢
  have h7 := (h5.qput k 50 2 (onesSum (s3.bytes k 16))).qput k 52 12 0
  generalize (s3.qput k 50 2 (onesSum (s3.bytes k 16))).qput k 52 12 0 = s4 at h7 ⊢
  exact h7

theorem keepsSlots_drainAt (s : State) (k mode : Nat) : s.KeepsSlots (s.drainAt k mode) := by
  have hb : s.KeepsSlots (if mode = 1 then s.qbreak k else s) := by
    split
    · exact State.KeepsSlots.qput (State.KeepsSlots.qput ⟨rfl, rfl⟩ _ _ _ _) _ _ _ _
    · exact ⟨rfl, rfl⟩
  unfold State.drainAt
  generalize (if mode = 1 then s.qbreak k else s) = t at hb ⊢
  exact hb

/-- R159, R320: a `q.init` or a `qdrain` of a warp that has come to its turn. -/
theorem serveInit_warp (ha : op.agent = .warp j slot gen) (hw : s.warp j = some w) (hq : w.wait = some (.queue id))
    (hn : w.slotNo = slot) (hg : s.gen slot = gen) (hk : w.killed = false) (ho : w.swapped = false) :
    s.serveInit k id op = (match op.drain with
      | some mode => (s.qleave k id).drainAt k mode
      | none => (s.qleave k id).qinit k op.init).advance j := by
  have hi := keepsSlots_qinit (s.qleave k id) k op.init
  have hown {u : State} (h1 : u.warps = s.warps) (h2 : u.gens = s.gens) : u.qwarp op = some (j, w) := by
    have hs : s.qwarp op = some (j, w) := by
      unfold State.qwarp
      rw [ha]
      dsimp only
      rw [State.owner_of hw hn hg hk ho]
      rfl
    exact (qwarp_congr h1 h2 rfl).trans hs
  unfold State.serveInit
  rw [ha]
  dsimp only
  cases op.drain with
  | none =>
    dsimp only
    rw [hown (hi.1.trans rfl) (hi.2.trans rfl)]
    exact if_pos hq
  | some mode =>
    have hd := keepsSlots_drainAt (s.qleave k id) k mode
    dsimp only
    rw [hown (hd.1.trans rfl) (hd.2.trans rfl)]
    exact if_pos hq

/-- R152: a request of a warp that has come to its turn. -/
theorem serveTurn_warp (ha : op.agent = .warp j slot gen) (hw : s.warp j = some w) (hq : w.wait = some (.queue id)) :
    let s1 := s.qleave k id
    let answer := s1.qserve k id op (s1.qempty k op.enq)
    (answer = .held → s.serveTurn k id op = s) ∧
    (answer = .wait → s.serveTurn k id op = (s1.touchBlock op).qjoin k id op) ∧
    (∀ u, answer = .served u → s.serveTurn k id op = ((u.touchBlock op).putWarp j (w.served op)).advance j) ∧
    ∀ c v u, answer = .refuse c v u →
      s.serveTurn k id op = u.takeTrap j { Trap.of c.cause v with write := op.enq, entry := c.entry } := by
  intro s1 answer
  have hs1 : s1.warp j = some w := hw
  refine ⟨fun h => ?_, fun h => ?_, fun u h => ?_, fun c v u h => ?_⟩
  · rw [State.serveTurn, show s1.qserve k id op (s1.qempty k op.enq) = _ from h]
  · rw [State.serveTurn, show s1.qserve k id op (s1.qempty k op.enq) = _ from h]
  · have hu : (u.touchBlock op).warp j = some w :=
      (warp_of_homeRest ((u.homeRest_touchBlock op).trans (State.homeRest_of_served h)) j).trans hs1
    rw [State.serveTurn, show s1.qserve k id op (s1.qempty k op.enq) = _ from h]
    exact serveOp_warp ha hu hq
  · have hu : u.warp j = some w := (warp_of_homeRest (State.homeRest_of_refused h) j).trans hs1
    rw [State.serveTurn, show s1.qserve k id op (s1.qempty k op.enq) = _ from h]
    exact refuseOp_warp ha hu hq c v

end Waiters

theorem QOp.solo_iff (op : QOp) : op.solo = true ↔ op.init ≠ [] ∨ op.drain.isSome = true := by
  simp [QOp.solo]

/-- R152, R153, R157 to R159, R320, R397, R407: who waits at the home of a queue, and in front of it. -/
theorem queueWaiters : Claims.queueWaiters := by
  refine ⟨fun s k id op => ⟨qperform_room, qperform_noRoom, rfl, home_putHome _ _ _, ?_⟩, ?_⟩
  · obtain ⟨h1, h2⟩ := num_putHome { s with qops := s.qops.erase id } k { s.home k with
      enqW := (s.home k).enqW.filter (· ≠ id), deqW := (s.home k).deqW.filter (· ≠ id)
      line := (s.home k).line.filter (· ≠ id) }
    exact ⟨h1, h2, fun a => byte_putHome⟩
  · intro s k id op j slot gen w hop ha hw hq hp traps
    refine ⟨fun enq rest hl => queueWaiterServe_warp hop ha hw hq hp hl, fun rest hl hb he hd => ?_⟩
    have hex := queueInitServe_eq hl hop
    rw [hp, hb, he, hd, serveLine_warp ha] at hex
    simp only [Bool.or_false, Bool.and_eq_true, bne_iff_ne] at hex
    refine ⟨fun hbusy hn hg hk ho => ?_, fun hbusy hs => ?_, fun hi hdr => ?_⟩
    · have hinit := serveInit_warp (k := k) ha hw hq hn hg hk ho
      have hrun (hs : op.solo = true) : exec (.queueInitServe k) s = .next (s.serveInit k id op) := by
        rw [hex, if_neg (fun h => h.2 hbusy), if_pos hs]
      refine ⟨fun hi hdr => ?_, fun mode hdr => ?_⟩
      · rw [hrun (op.solo_iff.2 (.inl hi)), hinit, hdr]
      · rw [hrun (op.solo_iff.2 (.inr (by rw [hdr]; rfl))), hinit, hdr]
    · rw [hex, if_pos ⟨op.solo_iff.2 hs, hbusy⟩]
    · have hs : ¬ op.solo = true := fun h => (op.solo_iff.1 h).elim (fun h => h hi) (by rw [hdr]; exact Bool.false_ne_true)
      obtain ⟨h1, h2, h3, h4⟩ := serveTurn_warp (k := k) ha hw hq
      rw [if_neg (fun h => hs h.1), if_neg hs] at hex
      rw [hex]
      exact ⟨fun h => congrArg _ (h1 h), fun h => congrArg _ (h2 h), fun u h => congrArg _ (h3 u h),
        fun c v u h => congrArg _ (h4 c v u h)⟩

/-- Settles O34: publication and delivery by the step of the home, and the lists of a home by the head of each. -/
theorem queueHomesProgress : Obligations.QueueHomesProgress := ⟨queueMoves, queueDrops, queueWaiters⟩

end Sys2Proof.Machine
end


section
/-! SUPPORT. Where ContextSwap fails: `ctxr` of an area that is refused (R134, R321). -/

namespace Sys2Proof.Machine

/-! ### A warp with a loose byte, and an area of zeros

The area at 0x100 holds no header. The claim has the warp's loose byte sent home before the illegal-operand trap; the model takes
the trap in the state in which the byte is still in the L1. -/

/-- A supervisor warp at a `ctxr` whose area is at 0x100 and whose token is 9. -/
def ctxrWarp : Warp := { Warp.blank with
  block := 2, phase := .running, mask := BitVec.allOnes 128, full := true, va := 112, ka := 128, fetched := true
  super := true, hdr := plainHeader .sys false, words := [0], k := [(2, 0x100), (3, 9)] }

/-- The cluster that the token names: swapped out. -/
def ctxrCluster : Cluster := ⟨9, 4, 0, 0, [], true, none⟩

/-- The warp's slot holds a loose byte; page 0 translates in its core. -/
def ctxrState : State := { State.reset with
  boot := .running, cur := 1, nextId := 10
  warps := [(1, some ctxrWarp)], blocks := [(2, some (loadedBlock 4 3))]
  clusters := [(3, some ⟨1, 4, 0, 0, [2], false, none⟩), (8, some ctxrCluster)]
  comps := [(0, some { Comp.unowned with coreGroups := BitVec.allOnes 48, stackGroups := BitVec.allOnes 8 })]
  ctxs := [(0, some { ptroot := 0, xvec := 0x1000, xdeleg := 0, old := (0x1000, 0), wrote := none, fenced := false
                      engines := [], seqs := [] })]
  tlb := [⟨0, 0, 0, 1, 0, 0x100000, 0x307⟩]
  l1 := [(l1Key 0 (memKey 0 0 0x40), some 5)] }

/-- A step leaves a byte in some L1. -/
def leavesLoose : Host.Outcome State Fault Refusal → Bool
  | .next t => t.l1.all != []
  | _ => false

theorem ctxr_issues : Issues ctxrState ctxrWarp [.k 2, .k 3] :=
  ⟨rfl, by decide +kernel, by decide +kernel, by decide +kernel, by decide +kernel, by decide +kernel⟩

theorem ctxr_leavesLoose : leavesLoose (exec (.ctxr ⟨0, 3, 2⟩) ctxrState) = true := by decide +kernel

/-- The state in which the claim has `ctxr` take its traps. -/
def ctxrSent : State := (ctxrState.readied ctxrWarp).sendOwn ctxrWarp

theorem ctxrSent_trap : leavesLoose (.next (ctxrSent.takeTrap 1 (Trap.of 0x02 (firstWord (.ctxr ⟨0, 3, 2⟩))))) = false := by
  decide +kernel

/-- The run of the area's header, and that it is none. -/
theorem ctxrSent_header : ∃ l, ctxrSent.xspan (ctxrSent.agentOf ctxrWarp.woken) 0x100 64 .read = .ok l ∧
    headerOk ctxrCluster (ctxrSent.clusterWarps ctxrCluster).length (ctxrSent.readSpan l) = false := by
  have h : (match ctxrSent.xspan (ctxrSent.agentOf ctxrWarp.woken) 0x100 64 .read with
      | .ok l => !headerOk ctxrCluster (ctxrSent.clusterWarps ctxrCluster).length (ctxrSent.readSpan l)
      | .error _ => false) = true := by decide +kernel
  split at h
  next l hl => exact ⟨l, hl, by simpa using h⟩
  next => cases h

/-- Refutes O50: where the area's header is refused, `ctxr` traps before it sends its warp's loose bytes home. -/
theorem not_contextSwap : ¬ Obligations.ContextSwap := by
  rintro ⟨h, -, -⟩
  obtain ⟨-, h⟩ := h ⟨0, 3, 2⟩ ctxrState ctxrWarp ctxr_issues
  obtain ⟨-, h⟩ := h (by decide +kernel)
  obtain ⟨-, -, -, -, -, -, h⟩ := h 8 ctxrCluster (by decide +kernel)
  obtain ⟨-, h⟩ := h (by decide +kernel) (by decide +kernel) (by decide +kernel)
  obtain ⟨l, hl, hhead⟩ := ctxrSent_header
  obtain ⟨hbad, -⟩ := h l hl
  have htrap := congrArg leavesLoose (hbad (.inr (.inl hhead)))
  exact Bool.noConfusion ((ctxr_leavesLoose.symm.trans htrap).trans ctxrSent_trap)

end Sys2Proof.Machine
end


section
/-! SUPPORT. Launches dequeued (R349 to R352, R408). -/

namespace Sys2Proof.Machine

section Dequeue
variable {s : State} {cmp q ix : Nat} {lq : LaunchQueue} {t : Trans} {entry : List Trans}

/-- R408: a launch queue stops once, and at nothing that waits for a plane. -/
theorem stopQueue_eq (s : State) (cmp q : Nat) (lq : LaunchQueue) (why : Fail) : s.stopQueue cmp q lq why =
    if lq.stopped = true ∨ why.cause = heldCause then s
    else (s.mapComp cmp fun c => { c with queues := c.queues.put q { lq with stopped := true } }).distFault cmp lq.ctx why
      lq.block true := by
  simp only [State.stopQueue, Bool.or_eq_true, decide_eq_true_eq]

/-- R408, log 52: a control block that does not translate. -/
theorem launchDequeue_block (hq : s.launchQueue cmp q = some lq) (hi : s.freeEntry cmp q lq = some ix) {e : Fail}
    (hx : s.queueXlate cmp lq lq.block .write = .error e) : exec (.launchDequeue cmp q) s = .next (s.stopQueue cmp q lq e) := by
  change execLaunchDequeue cmp q s = _
  simp only [execLaunchDequeue, hq, hi, hx]

/-- R408, log 52: a table entry that does not translate. -/
theorem launchDequeue_entry (hq : s.launchQueue cmp q = some lq) (hi : s.freeEntry cmp q lq = some ix)
    (hx : s.queueXlate cmp lq lq.block .write = .ok t) {e : DWord × Fail}
    (he : units (fun x => s.queueXlate cmp lq x .write) (lq.table + BitVec.ofNat 64 (128 * ix)) 128 = .error e) :
    exec (.launchDequeue cmp q) s = .next (s.stopQueue cmp q lq e.2) := by
  change execLaunchDequeue cmp q s = _
  simp only [execLaunchDequeue, hq, hi, hx, he]

/-- R350: an element asked for. -/
theorem launchDequeue_asks (hq : s.launchQueue cmp q = some lq) (hi : s.freeEntry cmp q lq = some ix)
    (hx : s.queueXlate cmp lq lq.block .write = .ok t) (hleaf : s.leafHeld t true = false)
    (he : units (fun x => s.queueXlate cmp lq x .write) (lq.table + BitVec.ofNat 64 (128 * ix)) 128 = .ok entry)
    (hop : s.distOp cmp q = none) (hs : lq.stopped = false) (hp : s.planeHeld t.key = false) (hh : s.homeIdle t.key = true) :
    exec (.launchDequeue cmp q) s = .next (
      match s.tick1.qserve t.key s.nextId (s.distRequest cmp q lq) (s.qempty t.key false) with
      | .refuse why _ s1 => s1.stopQueue cmp q lq why
      | .held => s
      | .wait => (s.tick1.touch t true).qjoin t.key s.nextId (s.distRequest cmp q lq)
      | .served s1 => (s1.touch t true).distDeliver cmp q lq s.nextId ix entry) := by
  change execLaunchDequeue cmp q s = _
  unfold execLaunchDequeue
  simp only [hq, hi, hx, he, hop, hs, hp, hleaf, hh, Bool.or_false, Bool.not_true, Bool.false_eq_true, if_false] <;> rfl

/-- R350: a taken element delivered. -/
theorem distDeliver_eq {id k : Nat} {op : QOp} (hb : s.busyHome id = some k) (hf : s.qfirst k false = some (id, op))
    (hh : s.slotHeld op = false) : s.distDeliver cmp q lq id ix entry =
      (s.deliverOne k id op).accept cmp q lq ix entry (s.slotBytes k (op.slots.headD []) 128) := by
  simp [State.distDeliver, hb, hf, hh]

/-- R350, R352: a header that is rejected, and one that is queued. -/
theorem accept_cases (s : State) (cmp q : Nat) (lq : LaunchQueue) (ix : Nat) (entry : List Trans) (l : List Byte) :
    let u := s.writeUnits entry l
    let addr := lq.table + BitVec.ofNat 64 (128 * ix)
    (∀ k, u.rejectFor cmp lq.ctx l = some k → s.accept cmp q lq ix entry l = u.reject cmp lq.ctx k addr) ∧
    (u.rejectFor cmp lq.ctx l = none → s.accept cmp q lq ix entry l = ({ u with
      nextId := u.nextId + 1
      launches := u.launches.put u.nextId ⟨cmp, q, lq.ctx, lq.super, ix, addr, headerOf l, .queued, 0⟩ } : State).pumpAll
        cmp q) := by
  refine ⟨fun k h => ?_, fun h => ?_⟩ <;> simp only [State.accept, h] <;> rfl

/-- The first of the conditions that hold. -/
theorem find_cons_map {b : Bool} {n : Nat} {r : List (Bool × Nat)} : (((b, n) :: r).find? fun p => p.1).map (·.2) =
    if b then some n else (r.find? fun p => p.1).map (·.2) := by
  cases b <;> rfl

/-- Table 16.2: the lowest reason that holds, 11 before every other. -/
theorem rejectFor_eq (s : State) (cmp ctx : Nat) (l : List Byte) :
    let h := headerOf l
    let bad := [(s.ctxGone cmp ctx, 11), (badMagic l, 1), (decide (h.entry.extractLsb' 0 2 ≠ 0) || h.entry.getLsbD 63, 2),
      (h.badFields, 3), (h.badAllotments, 4), (h.badRegion, 5), (decide (1024 < h.scratch ∨ h.privBytes % 4 ≠ 0), 6),
      (decide (h.coop ≠ decide (2 ≤ h.coresPer)), 7),
      (decide (16 < h.perCluster * h.coresPer ∨ s.dieCores cmp < h.perCluster * h.coresPer), 8), (h.tooBig, 9),
      ((match h.dep with | some p => s.badBarrier cmp ctx p.1 .read | none => false)
        || (match h.comp with | some a => s.badBarrier cmp ctx a .write | none => false), 10)]
    s.rejectFor cmp ctx l = (bad.find? fun p => p.1).map (·.2) := by
  intro h bad
  simp only [bad, h, find_cons_map, List.find?_nil, Option.map_none, State.rejectFor, Bool.or_eq_true, decide_eq_true_eq]
    <;> rfl

/-- R351: a launch whose dependence has been answered. -/
theorem dependenceRelease_eq {id n p : Nat} {l : Launch} {b : BWait} (hl : s.launches.find id = some l) (hs : l.state = .waiting)
    (hb : s.depWait id = some (n, b)) (hp : b.woken = some p) :
    let u : State := { s with barWaits := s.barWaits.erase n }
    exec (.dependenceRelease id) s =
      .next ((if p = 16 then u.rejectLate id l else u.activate id l).pumpAll l.cmp l.queue) := by
  change execDependenceRelease id s = _
  simp [execDependenceRelease, hl, hs, hb, hp]

end Dequeue

/-- R349 to R352, R408: launches dequeued. -/
theorem launchesDequeue : Claims.dequeues := by
  intro s
  refine ⟨fun cmp lq va need => ⟨fun c h => ?_, fun h => ?_⟩, stopQueue_eq s, fun cmp q lq ix hq hi => ⟨fun e hx => ?_, ?_⟩, ?_,
    fun cmp q lq id ix entry k op => distDeliver_eq, accept_cases s, rejectFor_eq s, fun id l n b p => dependenceRelease_eq⟩
  · simp only [State.queueXlate, h]
  · simp only [State.queueXlate, h]
  · exact launchDequeue_block hq hi hx
  · exact fun t e hx he => launchDequeue_entry hq hi hx he
  · intro cmp q lq ix t entry hq hi hx hleaf he hop hs hp hh op
    have hex := launchDequeue_asks hq hi hx hleaf he hop hs hp hh
    refine ⟨⟨rfl, rfl, rfl, rfl, rfl⟩, fun c v u h => ?_, fun h => ?_, fun u h => ?_⟩ <;> rw [hex, h]

end Sys2Proof.Machine
end


section
/-! SUPPORT. Clusters placed, and reports (R29, R53, R62, R83, R89, R353 to R357). -/

namespace Sys2Proof.Machine

section Placement
variable {s t : State} {id : Nat} {l : Launch}

/-! ### The launch that is tried (R354, R355) -/

theorem clusterPlacement_eq (hl : s.launches.find id = some l) (cores : List Nat) (rot : Nat) :
    exec (.clusterPlacement id cores rot) s = .next (if s.launches.all.any fun p => tried p (id, l) && s.placeable p.1 p.2 then s
      else (s.tryPlace id l cores rot).getD s) := by
  change execClusterPlacement id cores rot s = _
  simp only [execClusterPlacement, hl]

theorem tried_iff (p r : Nat × Launch) : tried p r = true ↔
    r.2.hdr.prio < p.2.hdr.prio ∨ (p.2.hdr.prio = r.2.hdr.prio ∧ p.1 < r.1) := by
  simp [tried]

theorem placeable_some (h : s.placeable id l = true) : ∃ cores rot t, s.tryPlace id l cores rot = some t := by
  simp only [State.placeable, Bool.and_eq_true, List.any_eq_true] at h
  obtain ⟨-, rot, -, die, -, h⟩ := h
  obtain ⟨t, ht⟩ := Option.isSome_iff_exists.1 h
  exact ⟨_, rot, t, ht⟩

/-- R354: a cluster that is placed. -/
theorem tryPlace_some {cores : List Nat} {rot : Nat} (h : s.tryPlace id l cores rot = some t) :
    l.state = .active ∧ s.ctxGone l.cmp l.ctx = false ∧ l.next < l.hdr.clusters ∧ s.coresOk l.cmp l.hdr cores = true ∧
    ∃ v, allSteps (fun v p => v.placeBlock id l s.nextId rot p) (s.newCluster id l) ((List.range cores.length).zip cores) =
        some v ∧ s.admitted v (allCores l.hdr cores) = true ∧
      t = s.reserve { v with launches := v.launches.put id { l with
        next := l.next + 1, state := if l.next + 1 = l.hdr.clusters then .placed else .active } } (allCores l.hdr cores) := by
  unfold State.tryPlace at h
  dsimp only at h
  split at h
  · cases h
  next hc =>
  simp only [Bool.or_eq_true, bne_iff_ne, decide_eq_true_eq, Bool.not_eq_true', not_or, Decidable.not_not, Bool.not_eq_true,
    Bool.not_eq_false, Nat.not_le] at hc
  obtain ⟨⟨⟨hst, hgone⟩, hnext⟩, hcores⟩ := hc
  split at h
  · cases h
  next v hv =>
  split at h
  next ha => exact ⟨hst, hgone, hnext, hcores, v, hv, ha, (Option.some.inj h).symm⟩
  · cases h

/-! ### One block (R353, R354) -/

theorem placeBlock_some {cluster rot ix core : Nat} (h : s.placeBlock id l cluster rot (ix, core) = some t) : ∃ v b,
    allSteps (fun v u => v.placeUnit l s.nextId b rot u) v (List.range l.hdr.units) = some t ∧ v.warps = s.warps ∧
    v.blocks.find s.nextId = some b ∧ b.launch = id ∧ b.cluster = cluster ∧ b.index = ix ∧
    b.blkno = BitVec.ofNat 64 (ix + l.hdr.perCluster * l.next) ∧ b.cores = (List.range l.hdr.coresPer).map (core + ·) ∧
    b.wbits = (l.hdr.widths.take l.hdr.b).sum ∧
    s.freeRegion id l.hdr = some b.region ∧
    b.spawnBase = l.hdr.regionBase + BitVec.ofNat 64 (b.region * l.hdr.stride) ∧
    b.live = l.hdr.slots ∧ b.recs = [] ∧ b.claims = [] ∧ b.gowner = [] ∧ (∀ n, Store.get 0 b.gpub n = 0) ∧
    s.findReserve l.hdr b.cores rot = some (b.resCore, b.resQuarter, b.resSlot) := by
  unfold State.placeBlock at h
  dsimp only at h
  split at h
  next region rc rq rs hr hs =>
    exact ⟨_, _, h, rfl, Table.find_put_self _ _ _, rfl, rfl, rfl, rfl, rfl, rfl, hr, rfl, rfl, rfl, rfl, rfl, fun _ => rfl, hs⟩
  · cases h

/-! ### One unit (R29, R62, R83, R89) -/

section Unit
variable {block core q : Nat} {b : Block}

/-- R62: the lowest slot that serves. -/
theorem findSlot_some {i : Nat} {paired : Bool} (h : s.findSlot core q paired = some i) : s.slotFree core q i = true ∧
    (paired = false → ∀ j < i, s.slotFree core q j = false) ∧
    (paired = true → i % 2 = 0 ∧ s.slotFree core q (i + 1) = true) := by
  obtain ⟨hi, -, hlow⟩ := List.find?_range_eq_some.1 h
  cases paired with
  | false => exact ⟨hi, fun _ j hj => by simpa using hlow j hj, fun h => absurd h (by simp)⟩
  | true =>
    simp only [if_true, Bool.and_eq_true, beq_iff_eq] at hi
    obtain ⟨⟨heven, hfree⟩, hnext⟩ := hi
    exact ⟨hfree, fun h => absurd h (by simp), fun _ => ⟨heven, hnext⟩⟩

variable (s l block b core q)

theorem warp_putPlaced (slot u twin j : Nat) : (s.putPlaced l block b core q slot u twin).warp j =
    if j = s.nextId then some (placedWarp l block b core q slot u twin s.gtime s.clock) else s.warp j :=
  Table.find_put _ _ _ _

theorem gen_putPlaced (slot u twin : Nat) : (s.putPlaced l block b core q slot u twin).gen (slotKey core q slot) =
    (s.gen (slotKey core q slot) + 1) % 64 :=
  (Store.get_set _ _ _ _).trans (if_pos rfl)

/-- R89: what a warp is placed with. -/
theorem kr_placedWarp (slot u twin age clock n : Nat) : (placedWarp l block b core q slot u twin age clock).kr n =
    [l.hdr.arg, l.entryAddr, b.blkno, BitVec.ofNat 64 b.index].getD n 0 := by
  refine (Store.get_block 0 4 (fun i => [l.hdr.arg, l.entryAddr, b.blkno, BitVec.ofNat 64 b.index].getD i 0) n).trans ?_
  split
  · rfl
  · rw [List.getD_eq_default]
    simp
    omega

theorem wid_placedWarp (slot u twin age clock : Nat) {p : Nat} (hp : p < 128) :
    Store.get 0 (placedWarp l block b core q slot u twin age clock).wids p =
      BitVec.ofNat 64 (l.hdr.blockWid b.blkno.toNat + 128 * u + p) :=
  (Store.get_block 0 128 (fun t => BitVec.ofNat 64 (l.hdr.blockWid b.blkno.toNat + 128 * u + t)) p).trans
    (if_pos (by omega))

end Unit

theorem placeUnit_some {block rot u : Nat} {b : Block} (h : s.placeUnit l block b rot u = some t) :
    let core := b.cores.getD (u / l.hdr.unitsPerCore) 0
    let q := (u % l.hdr.unitsPerCore + rot) % 4
    let w (i u twin : Nat) : Warp := placedWarp l block b core q i u twin s.gtime s.clock
    ∃ i, s.slotFree core q i = true ∧
      (b.paired = false → (∀ j < i, s.slotFree core q j = false) ∧ t.warp s.nextId = some (w i u 2) ∧
        (∀ j, j ≠ s.nextId → t.warp j = s.warp j) ∧
        t.gen (slotKey core q i) = (s.gen (slotKey core q i) + 1) % 64) ∧
      (b.paired = true → i % 2 = 0 ∧ s.slotFree core q (i + 1) = true ∧ t.warp s.nextId = some (w i u 0) ∧
        t.warp (s.nextId + 1) = some (w (i + 1) u 1) ∧
        ∀ j, j ≠ s.nextId → j ≠ s.nextId + 1 → t.warp j = s.warp j) := by
  intro core q w
  unfold State.placeUnit at h
  dsimp only at h
  split at h
  · cases h
  next i hi =>
  obtain ⟨hfree, hlow, hpair⟩ := findSlot_some hi
  refine ⟨i, hfree, fun hb => ?_, fun hb => ?_⟩ <;> rw [hb] at h
  · cases h
    exact ⟨hlow hb, (warp_putPlaced ..).trans (if_pos rfl), fun j hj => (warp_putPlaced ..).trans (if_neg hj), gen_putPlaced ..⟩
  · cases h
    obtain ⟨heven, hnext⟩ := hpair hb
    have hid : (s.putPlaced l block b core q i u 0).nextId = s.nextId + 1 := rfl
    refine ⟨heven, hnext, ?_, (warp_putPlaced ..).trans (if_pos rfl), fun j h1 h2 => ?_⟩
    · exact ((warp_putPlaced ..).trans (if_neg (by rw [hid]; omega))).trans ((warp_putPlaced ..).trans (if_pos rfl))
    · exact ((warp_putPlaced ..).trans (if_neg h2)).trans ((warp_putPlaced ..).trans (if_neg h1))

end Placement

/-! ### Reports (R357) -/

section Reports
variable (f : Nat → Nat → Report) (m : Table Report) {core q : Nat}

theorem find_quarters (c : Nat) {n : Nat} (hn : n ≤ 4) (hq : q < 4) :
    Table.find ((List.range n).foldl (fun (m : Table Report) q => m.put (4 * c + q) (f c q)) m) (4 * core + q) =
      if c = core ∧ q < n then some (f core q) else m.find (4 * core + q) := by
  induction n with
  | zero => simp
  | succ n ih =>
    rw [List.range_succ, List.foldl_append, List.foldl_cons, List.foldl_nil, Table.find_put, ih (by omega)]
    by_cases h : 4 * core + q = 4 * c + n
    · obtain ⟨rfl, rfl⟩ : core = c ∧ q = n := by omega
      simp
    · rw [if_neg h]
      exact if_congr (by omega) rfl rfl

theorem find_reports (cores : List Nat) (hq : q < 4) :
    Table.find (cores.foldl (fun (m : Table Report) c =>
      (List.range 4).foldl (fun (m : Table Report) q => m.put (4 * c + q) (f c q)) m) m) (4 * core + q) =
      if core ∈ cores then some (f core q) else m.find (4 * core + q) := by
  induction cores generalizing m with
  | nil => simp
  | cons c r ih =>
    rw [List.foldl_cons, ih, find_quarters f m c (Nat.le_refl 4) hq]
    by_cases hc : c = core
    · simp [hc, hq]
    · simp [hc, Ne.symm hc]

end Reports

theorem resourceReport_due {s : State} {die : Nat} (hd : die < 4) (hc : Store.get 0 s.reportAt die / 64 < s.clock / 64) :
    ∃ t, exec (.resourceReport die) s = .next t ∧ t = { s with reports := t.reports, reportAt := t.reportAt } ∧
      (∀ d, Store.get 0 t.reportAt d = if d = die then s.clock else Store.get 0 s.reportAt d) ∧
      ∀ core < Config.cores, ∀ q < 4, t.reports.find (4 * core + q) =
        if s.dieOf core = die then some (s.reportOf core q) else s.reports.find (4 * core + q) := by
  have hdue : s.reportDue die = true := by simp [State.reportDue, hd, hc]
  refine ⟨_, congrArg Host.Outcome.next (if_pos hdue), rfl, Store.get_set _ _ _, fun core hcore q hq => ?_⟩
  refine (find_reports s.reportOf s.reports _ hq).trans (if_congr ?_ rfl rfl)
  simp [List.mem_filter, hcore]

theorem resourceReport_not {s : State} {die : Nat} (h : ¬ (die < 4 ∧ Store.get 0 s.reportAt die / 64 < s.clock / 64)) :
    exec (.resourceReport die) s = .next s := by
  have hdue : ¬ s.reportDue die = true := by simpa [State.reportDue] using h
  exact congrArg Host.Outcome.next (if_neg hdue)

/-- R29, R40, R62, R83, R89, R339, R353 to R357: clusters placed. -/
theorem launchesPlaced : Claims.placing := by
  intro s
  refine ⟨fun id l cores rot hl => ⟨fun h => ?_, fun h => ?_⟩, tried_iff, fun id l => placeable_some,
    fun id l cores rot t => tryPlace_some, fun id l cluster rot ix core t => placeBlock_some,
    fun l block b rot u t => placeUnit_some, fun l block b core q slot u twin age clock => ?_,
    fun die => ⟨resourceReport_not, resourceReport_due⟩⟩
  · rw [clusterPlacement_eq hl, if_neg]
    simpa using h
  · rw [clusterPlacement_eq hl, if_pos]
    simpa using h
  · have hk := kr_placedWarp l block core q b slot u twin age clock
    exact ⟨rfl, rfl, rfl, rfl, rfl, rfl, rfl, rfl, rfl, rfl, rfl, rfl, rfl, rfl, hk 0, hk 1, hk 2, hk 3,
      fun n hn => (hk n).trans (List.getD_eq_default _ _ hn), fun _ _ => rfl, fun p hp => wid_placedWarp _ _ _ _ _ _ _ _ _ _ hp⟩

end Sys2Proof.Machine
end


section
/-! SUPPORT. Launches completed (R134, R358). -/

namespace Sys2Proof.Machine

/-! ### What a launch leaves (R134, R358) -/

/-- R134: no loose byte of the slots that sent theirs home stays in an L1. -/
theorem find_l1_sendHome (s : State) {who : Nat → Bool} {slot a : Nat} (hw : who slot = true) (ha : a < 2 ^ 96) :
    (s.sendHome who 0 (2 ^ 96)).l1.find (l1Key slot a) = none := by
  have hd : l1Key slot a / 2 ^ 96 = slot := by
    unfold l1Key
    omega
  refine (Store.get_filter (d := none) _ (fun k => !decide (who (k / 2 ^ 96) ∧ 0 ≤ k % 2 ^ 96 ∧ k % 2 ^ 96 < 2 ^ 96)) _).trans ?_
  rw [if_neg]
  rw [hd]
  simp only [hw, Nat.zero_le, true_and, Bool.not_eq_true', decide_eq_false_iff_not, not_not]
  exact Nat.mod_lt _ (by decide)

/-- A table less some of its entries. -/
theorem find_filter {α : Type} [DecidableEq α] {m : Table α} (hm : Store.wf none m = true) (P : Nat × Option α → Bool) {k : Nat}
    {x : α} (h : m.find k = some x) : Table.find (m.filter P) k = if P (k, some x) then some x else none := by
  have hin (y : α) : Table.find (m.filter P) k = some y ↔ y = x ∧ P (k, some y) = true := by
    have hmem {n : Table α} : (k, y) ∈ n.all ↔ (k, some y) ∈ n := by simp [Table.all]
    rw [← Table.mem_all (Store.wf_filter P hm), hmem, List.mem_filter, ← hmem, Table.mem_all hm, h]
    exact and_congr_left fun _ => by rw [Option.some.injEq, eq_comm]
  by_cases hp : P (k, some x) = true
  · rw [if_pos hp]
    exact (hin x).2 ⟨rfl, hp⟩
  · rw [if_neg hp]
    refine Option.eq_none_iff_forall_not_mem.2 fun y hy => hp ?_
    obtain ⟨rfl, hy⟩ := (hin y).1 hy
    exact hy

/-- R358: a launch, its blocks and its clusters forgotten. -/
theorem forget_finds {s : State} {id : Nat} (hb : Store.wf none s.blocks = true) (hc : Store.wf none s.clusters = true) :
    let u := s.forget id
    u = { s with launches := u.launches, blocks := u.blocks, clusters := u.clusters } ∧
    (∀ k, u.launches.find k = if k = id then none else s.launches.find k) ∧
    (∀ k b, s.blocks.find k = some b → u.blocks.find k = if b.launch = id then none else some b) ∧
    ∀ k c, s.clusters.find k = some c → u.clusters.find k = if c.launch = id then none else some c := by
  refine ⟨rfl, fun k => Table.find_erase _ _ _, fun k b h => ?_, fun k c h => ?_⟩
  · have hk : ((s.blocksOf id).map (·.1)).contains k = decide (b.launch = id) := by
      rw [Bool.eq_iff_iff, List.contains_iff_mem, decide_eq_true_eq]
      constructor
      · intro hm
        obtain ⟨⟨n, x⟩, hx, rfl⟩ := List.mem_map.1 hm
        obtain ⟨hx, hl⟩ := List.mem_filter.1 hx
        obtain rfl : b = x := Option.some.inj (h.symm.trans ((Table.mem_all hb).1 hx))
        simpa using hl
      · intro hl
        exact List.mem_map.2 ⟨(k, b), List.mem_filter.2 ⟨(Table.mem_all hb).2 h, by simpa using hl⟩, rfl⟩
    refine (find_filter hb _ h).trans ?_
    dsimp only
    rw [hk]
    by_cases hl : b.launch = id <;> simp [hl]
  · refine (find_filter hc _ h).trans ?_
    by_cases hl : c.launch = id <;> simp [hl]

/-! ### LAUNCH_COMPLETE (R358) -/

section Complete
variable {s v : State} {id : Nat} {l : Launch}

theorem launchComplete_eq (hl : s.launches.find id = some l) : exec (.launchComplete id) s = .next (
    if !s.launchDone id l then s
    else match (s.publish id).bind fun s => match l.hdr.comp with | none => some s | some a => s.arriveAt l a with
      | none => s
      | some s1 => (s1.forget id).postEvent l.cmp 1 0 l.entryAddr (BitVec.ofNat 64 l.queue)) := by
  change execLaunchComplete id s = _
  simp only [execLaunchComplete, hl] <;> rfl

/-- R358: a launch that ends in the state after its arrival. -/
theorem launchComplete_ends (hl : s.launches.find id = some l) (hd : s.launchDone id l = true) (hp : s.publish id = some v)
    {u : State} (hu : (match l.hdr.comp with | none => some v | some a => v.arriveAt l a) = some u) :
    exec (.launchComplete id) s = .next ((u.forget id).postEvent l.cmp 1 0 l.entryAddr (BitVec.ofNat 64 l.queue)) := by
  rw [launchComplete_eq hl, hd, hp]
  dsimp only [Option.bind_some]
  rw [if_neg (show ¬ (!true) = true by decide)]
  split
  next h => exact absurd (h.symm.trans hu) (by simp)
  next u1 h => rw [Option.some.inj (h.symm.trans hu)]

theorem arriveAt_error {a : DWord} {e : Fail} (hx : v.xlate (distAgent l.cmp l.ctx) a .write = .error e)
    (hc : e.cause ≠ heldCause) : v.arriveAt l a = some (v.distFault l.cmp l.ctx e a true) := by
  simp only [State.arriveAt, hx, hc, if_false]

theorem arriveAt_ok {a : DWord} {t : Trans} (hx : v.xlate (distAgent l.cmp l.ctx) a .write = .ok t)
    (hp : v.planeHeld t.key = false) (hh : v.leafHeld t true = false) : v.arriveAt l a = some (match v.barDo t (.arrive 1) with
      | .corrupt s1 => s1.distFault l.cmp l.ctx ⟨0x0D, none⟩ a true
      | .done true s1 => s1.distFault l.cmp l.ctx ⟨0x0C, none⟩ a true
      | .done false s1 => s1) := by
  simp only [State.arriveAt, hx, hp, hh, Bool.or_false, Bool.false_eq_true, if_false]
  cases v.barDo t (.arrive 1) with
  | corrupt _ => rfl
  | done overrun _ => cases overrun <;> rfl

end Complete

/-- R134, R358: launches completed. -/
theorem launchesComplete : Claims.completing := by
  refine ⟨fun s id l hl => ⟨fun hd => ?_, fun hd hb => ?_, fun hd hb => ?_⟩, fun s id => forget_finds⟩
  · rw [launchComplete_eq hl, hd]
    rfl
  · have hp : s.publish id = none := if_pos hb
    rw [launchComplete_eq hl, hd, hp]
    rfl
  · have hp : s.publish id = some (s.sendHome (fun slot => (s.launchCores id).contains (slot / 128)) 0 (2 ^ 96)) :=
      if_neg (by rw [show s.backHeld (fun slot => (s.launchCores id).contains (slot / 128)) = false from hb]
                 exact Bool.false_ne_true)
    refine ⟨_, hp, fun slot hs a ha => find_l1_sendHome s (List.contains_iff_mem.2 hs) ha, fun hc => ?_, fun a hc => ?_⟩
    · exact launchComplete_ends hl hd hp (by rw [hc])
    · refine ⟨fun e hx he => ?_, fun t hx hpl hh => ⟨fun u h => ?_, fun u h => ?_, fun u h => ?_⟩⟩
      · exact launchComplete_ends hl hd hp (by rw [hc]; exact arriveAt_error hx he)
      all_goals exact launchComplete_ends hl hd hp (by rw [hc]; exact (arriveAt_ok hx hpl hh).trans (by rw [h]))

/-- Settles O52: each step of the distributor by the answers that it can meet, and placement by its own parts. -/
theorem launchesRun : Obligations.LaunchesRun := ⟨launchesDequeue, launchesPlaced, launchesComplete⟩

end Sys2Proof.Machine
end

section
/-! SUPPORT. Integer and floating-point ALU instructions as the shared shapes of ALU instructions (R230, R231, R235, R238 to
R241). -/

namespace Sys2Proof.Machine

/-! ### Integer operations (R235, Table 9.3) -/

theorem sMin_eq : sMin = fun _ a b => if a.toInt ≤ b.toInt then a else b := by
  funext n a b
  rw [sMin, BitVec.slt_eq_decide]
  rcases lt_trichotomy a.toInt b.toInt with h | h | h
  · simp [h, h.le]
  · simp [BitVec.eq_of_toInt_eq h]
  · simp [h.not_gt, h.not_ge]

theorem sMax_eq : sMax = fun _ a b => if a.toInt ≤ b.toInt then b else a := by
  funext n a b
  rw [sMax, BitVec.slt_eq_decide]
  rcases lt_trichotomy a.toInt b.toInt with h | h | h
  · simp [h, h.le]
  · simp [BitVec.eq_of_toInt_eq h]
  · simp [h.not_gt, h.not_ge]

theorem uMin_eq : uMin = fun _ a b => if a.toNat ≤ b.toNat then a else b := by
  funext n a b
  rw [uMin, BitVec.ult_eq_decide]
  rcases lt_trichotomy a.toNat b.toNat with h | h | h
  · simp [h, h.le]
  · simp [BitVec.eq_of_toNat_eq h]
  · simp [h.not_gt, h.not_ge]

theorem uMax_eq : uMax = fun _ a b => if a.toNat ≤ b.toNat then b else a := by
  funext n a b
  rw [uMax, BitVec.ult_eq_decide]
  rcases lt_trichotomy a.toNat b.toNat with h | h | h
  · simp [h, h.le]
  · simp [BitVec.eq_of_toNat_eq h]
  · simp [h.not_gt, h.not_ge]

/-- R235: each integer instruction of two sources has the shape `State.alu2` with its operation. -/
theorem integerTwo_alu2 : ∀ op ∈ Claims.integerTwo, ∀ (f : FmtA) (x : Option XR) (s : State),
    exec (op.1 f x) s = s.alu2 (op.1 f x) f (xr x) op.2 := by
  rw [Claims.integerTwo, ← sMin_eq, ← sMax_eq, ← uMin_eq, ← uMax_eq]
  intro op hop
  fin_cases hop <;> exact fun _ _ _ => rfl

theorem alu2_next {f : FmtA} {x : XR} {s : State} {w : Warp} (i : Instr) (op : (n : Nat) → BitVec n → BitVec n → BitVec n)
    (h : Issues s w ([refA f, refB f x] ++ refD f.u f.nw f.d)) : ∃ t, s.alu2 i f x op = .next t ∧
      AluResult s w t f.u f.nw f.d.toNat (w.exec (some x.g)) (fun p => op 32 (w.srcA f x p) (w.srcB f x p))
        (op 64 (w.kr f.a.toNat) (w.kr f.b.toNat)) 0 := alu_next h

theorem integerResults_hold : Claims.integerResults := by
  intro op hop f x s w h
  rw [integerTwo_alu2 op hop]
  exact alu2_next _ op.2 h

/-- Settles O1: each instruction has one of the shapes of ALU instructions, whose results `alu_next` and `aluPair_next` give. -/
theorem integerResults : Obligations.IntegerResults :=
  ⟨integerResults_hold, fun _ _ _ => ⟨fun _ h => alu_next h, fun _ h => aluPair_next h, fun _ h => aluPair_next h⟩⟩

/-! ### Floating-point operations (R238 to R241) -/

/-- R238, R239: each FP32 instruction of two sources has the shape `State.fp2` with its operation. -/
theorem floatTwo_fp2 : ∀ op ∈ Claims.floatTwo, ∀ (f : FmtA) (x : Option XR) (s : State),
    exec (op.1 f x) s = s.fp2 (op.1 f x) f (xr x) op.2 := by
  intro op hop
  fin_cases hop <;> exact fun _ _ _ => rfl

/-- R240: each FP32 instruction of one source has the shape `State.fp1` with its operation. -/
theorem floatOne_fp1 : ∀ op ∈ Claims.floatOne, ∀ (f : FmtA) (x : Option XR) (s : State),
    exec (op.1 f x) s = s.fp1 (op.1 f x) f (xr x) op.2 := by
  intro op hop
  fin_cases hop <;> exact fun _ _ _ => rfl

theorem floatOps : Claims.floatOps := by
  intro f s w
  refine ⟨fun op hop x h => ?_, fun op hop x h => ?_, fun x h => aluF_next h⟩
  · rw [floatTwo_fp2 op hop]
    exact aluF_next h
  · rw [floatOne_fp1 op hop]
    exact aluF_next h

theorem pairOps : Claims.pairOps := by
  intro op hop f x s w hu h
  fin_cases hop <;> exact aluF_next h

/-- Settles O5: each instruction has one of the shapes of ALU instructions that raise flags, whose results `aluF_next` gives. -/
theorem floatingPointResults : Obligations.FloatingPointResults := ⟨floatOps, pairOps⟩

end Sys2Proof.Machine
end

section
/-! SUPPORT. Codes packed into words and lines (R98 to R100): what stands at a place, and codes that blocks hold one after
another. -/

namespace Sys2Proof.Machine

/-! ### Codes as the digits of a number -/

/-- The number that codes of a width hold, the first lowest (R98, R99). -/
def packed (width : Nat) (codes : List Nat) : Nat := codes.foldr (fun c n => c + n * 2 ^ width) 0

theorem packed_cons (width c : Nat) (r : List Nat) : packed width (c :: r) = c + packed width r * 2 ^ width := rfl

section Digits
variable {width : Nat} {codes : List Nat} (h : ∀ c ∈ codes, c < 2 ^ width)
include h

theorem packed_lt : packed width codes < 2 ^ (width * codes.length) := by
  induction codes with
  | nil => simp [packed]
  | cons c r ih =>
    obtain ⟨hc, hr⟩ := List.forall_mem_cons.1 h
    rw [packed_cons, List.length_cons, Nat.mul_succ, pow_add]
    calc c + packed width r * 2 ^ width < 2 ^ width + packed width r * 2 ^ width := by omega
      _ = (packed width r + 1) * 2 ^ width := by ring
      _ ≤ 2 ^ (width * r.length) * 2 ^ width := Nat.mul_le_mul_right _ (ih hr)

/-- R98, R99: the code at a place of what packs codes. -/
theorem packed_digit (i : Nat) : packed width codes / 2 ^ (width * i) % 2 ^ width = codes.getD i 0 := by
  have hpos : 0 < 2 ^ width := by positivity
  induction codes generalizing i with
  | nil => simp [packed]
  | cons c r ih =>
    obtain ⟨hc, hr⟩ := List.forall_mem_cons.1 h
    rw [packed_cons]
    cases i with
    | zero => simp [Nat.mod_eq_of_lt hc]
    | succ i =>
      rw [Nat.mul_succ, pow_add, Nat.mul_comm (2 ^ (width * i)), ← Nat.div_div_eq_div_mul, Nat.add_mul_div_right _ _ hpos,
        Nat.div_eq_of_lt hc, Nat.zero_add, ih hr, List.getD_cons_succ]

end Digits

/-- Codes cut off at the end of a list are zeros. -/
theorem packed_drop_take (width : Nat) (l : List Nat) (a n : Nat) :
    packed width ((l.drop a).take n) = packed width ((List.range n).map fun j => l.getD (a + j) 0) := by
  induction n generalizing a with
  | zero => rfl
  | succ n ih =>
    have hr : (List.range (n + 1)).map (fun j => l.getD (a + j) 0) =
        l.getD a 0 :: (List.range n).map fun j => l.getD (a + 1 + j) 0 := by
      rw [List.range_succ_eq_map, List.map_cons, List.map_map]
      simp only [Function.comp_def, Nat.succ_eq_add_one, Nat.add_assoc, Nat.add_comm 1, Nat.add_zero]
    rw [hr, packed_cons, ← ih]
    rcases Nat.lt_or_ge a l.length with h | h
    · rw [List.drop_eq_getElem_cons h, List.take_succ_cons, packed_cons, List.getD_eq_getElem _ _ h]
    · rw [List.drop_eq_nil_of_le h, List.drop_eq_nil_of_le (Nat.le_succ_of_le h), List.getD_eq_default _ _ h]
      simp [packed]

/-! ### Words -/

theorem slotsWord_def (width : Nat) (codes : List Nat) : slotsWord width codes = BitVec.ofNat 32 (packed width codes) := rfl

theorem slotsWord_drop_take (width : Nat) (l : List Nat) (a n : Nat) :
    slotsWord width ((l.drop a).take n) = slotsWord width ((List.range n).map fun j => l.getD (a + j) 0) := by
  rw [slotsWord_def, slotsWord_def, packed_drop_take]

section Slots
variable {width : Nat} {codes : List Nat} (h : ∀ c ∈ codes, c < 2 ^ width) (hw : width * codes.length ≤ 32)
include h hw

theorem toNat_slotsWord : (slotsWord width codes).toNat = packed width codes := by
  rw [slotsWord_def, BitVec.toNat_ofNat, Nat.mod_eq_of_lt]
  exact (packed_lt h).trans_le (Nat.pow_le_pow_right two_pos hw)

/-- R98: a slot of a word that holds slot codes. -/
theorem slotOf_slotsWord (i : Nat) : slotOf width (slotsWord width codes) i = codes.getD i 0 := by
  rw [slotOf, toNat_slotsWord h hw, packed_digit h]

/-- R98: the bits beyond the slots are zero. -/
theorem slotsWord_beyond : (slotsWord width codes).toNat / 2 ^ (width * codes.length) = 0 := by
  rw [toNat_slotsWord h hw, Nat.div_eq_of_lt (packed_lt h)]

end Slots

/-! ### Blocks one after another -/

/-- A code of blocks of one length that follow one another. -/
theorem getD_flatMap_range {α : Type} (f : Nat → List α) (d : α) {k : Nat} (hf : ∀ i, (f i).length = k) (n i : Nat) :
    ((List.range n).flatMap f).getD i d = if i < n * k then (f (i / k)).getD (i % k) d else d := by
  by_cases h : i < n * k
  · have hk : 0 < k := Nat.pos_of_ne_zero fun h0 => by simp [h0] at h
    obtain ⟨pre, post, he, hp⟩ := flatMap_range_mid f hf ((Nat.div_lt_iff_lt_mul hk).2 h)
    have hm : i % k < (f (i / k)).length := by
      rw [hf]
      exact Nat.mod_lt i hk
    have hi : i - pre.length = i % k := by rw [hp, Nat.mod_eq_sub_mul_div]
    rw [if_pos h, he, List.getD_append_right _ _ _ _ (hp ▸ Nat.mul_div_le i k), hi, List.getD_append _ _ _ _ hm]
  · rw [if_neg h, List.getD_eq_default]
    simp only [List.length_flatMap, hf, List.map_const', List.sum_replicate, List.length_range, smul_eq_mul]
    omega

end Sys2Proof.Machine
end

section
/-! SUPPORT. The generators' clock (R103, R104, R256), and instructions that draw their words first (R31, R103, log 47). -/

namespace Sys2Proof.Machine

/-! ### The clock of the generators (R103, R104, R256) -/

/-- A generator that a wrs of srseed has given a state takes it at the end of the clock (R256), not the one that its steps left. -/
theorem not_generatorClock : ¬ Claims.generatorClock := by
  intro h
  obtain ⟨hstep, -⟩ := h { State.reset with seeds := [(0, some 5)] }
  exact absurd (hstep 0) (by decide)

/-- Refutes O6: its clause on the generators' clock says of every state that a generator is left where its steps lead, also of one
in which a wrs of srseed has given the generator of quarter 0 the state 5, which that generator holds after the clock (R256). -/
theorem not_conversionResults : ¬ Obligations.ConversionResults := fun h => not_generatorClock h.1

/-! ### Instructions that draw (R31, R103, log 47) -/

section Draws
variable {s : State} {w : Warp} {eff : State → List Word → Res} {d : Draw}

/-- The steps owed for an instruction, in the state in which it has its effect. -/
theorem find_draws_readied (s : State) (w : Warp) :
    ((s.readied w).draws.find? fun d => d.isFor (s.readied w).cur w.woken) = Claims.drawOf s w := by
  rw [s.readied_eq w]
  rfl

theorem drawn_starts (h : Claims.drawOf s w = none) :
    (s.readied w).drawn w.woken true eff = .stay (Claims.drawStarts s w) := by
  unfold State.drawn
  rw [find_draws_readied, h, if_neg (by decide), s.readied_eq w]
  unfold Claims.drawStarts
  rw [s.readied_eq w]
  rfl

theorem drawn_waits (h : Claims.drawOf s w = some d) (hl : d.left ≠ 0) :
    (s.readied w).drawn w.woken true eff = .stay ((s.readied w).block s.cur .beats) := by
  unfold State.drawn
  rw [find_draws_readied, h, if_neg (by decide), State.readied_cur]
  exact if_pos hl

theorem drawn_acts (h : Claims.drawOf s w = some d) (hl : d.left = 0) :
    (s.readied w).drawn w.woken true eff = eff { Claims.drawEnds s w with warps := (s.readied w).warps } d.words := by
  unfold State.drawn
  rw [find_draws_readied, h, if_neg (by decide), s.readied_eq w]
  exact if_neg (not_not.2 hl)

/-- R103: an instruction whose effect, once its words are drawn, is its warp alone: it takes its place, stands until its steps are
taken, and retires. -/
theorem draws_then (g : List Word → Warp) {o : Host.Outcome State Fault Refusal}
    (ho : o = .next (State.finish s.cur
      ((s.readied w).drawn w.woken true fun s words => .done (s.putWarp s.cur (g words))))) :
    (Claims.drawOf s w = none → o = .next (Claims.drawStarts s w)) ∧
    ∀ d, Claims.drawOf s w = some d → (d.left ≠ 0 → o = .next ((s.readied w).block s.cur .beats)) ∧
      (d.left = 0 → ∃ t, o = .next t ∧ Retires s (Claims.drawEnds s w) t (g d.words)) := by
  subst ho
  refine ⟨fun h => ?_, fun d h => ⟨fun hl => ?_, fun hl => ?_⟩⟩
  · rw [drawn_starts h]
    rfl
  · rw [drawn_waits h hl]
    rfl
  · rw [drawn_acts h hl]
    exact ⟨_, rfl, retires_advance rfl (State.warp_putWarp_self _ _ _)
      (fun _ hj => (State.warp_putWarp_other _ _ _ hj).trans (State.readied_other hj)) rfl⟩

end Draws

end Sys2Proof.Machine
end

section
/-! SUPPORT. mxpack and mxunpack (R74, R98, R116, R243, R244). -/

namespace Sys2Proof.Machine

/-! ### Blocks of codes -/

theorem length_requantise (t mode : Nat) (word : Nat → Word) (vs : List FVal) :
    (requantise t mode word vs).2.1.length = vs.length := by
  unfold requantise
  dsimp only
  split
  · exact List.length_map ..
  · split <;> simp

theorem length_keepBlock (t mode : Nat) (sat : Bool) (scale : Nat) (word : Nat → Word) (vs : List FVal) :
    (keepBlock t mode sat scale word vs).1.length = vs.length := by
  unfold keepBlock
  split <;> simp

/-! ### mxpack (R243) -/

section Pack
variable (w : Warp) (f : FmtA) (x : XT) (words : List Word)

/-- R116, R243: block `b` of what mxpack packs, with the words of its beats. -/
def Warp.mxBlock (b : Nat) : Nat × List Nat × FFlags :=
  let ty := x.t2.toNat
  let epl := mxEpl ty
  let input : List FVal := (List.range 32).map fun i =>
    fval (w.vr (f.a.toNat + (32 * b + i) % epl) ((32 * b + i) / epl))
  let word (i : Nat) : Word := beatWord words (BitVec.allOnes 128) ((32 * b + i) / epl)
  if x.sel.getLsbD 0 then
    ((w.er f.d.toNat b).toNat, keepBlock ty x.rnd.toNat x.sat (w.er f.d.toNat b).toNat word input)
  else requantise ty x.rnd.toNat word input

theorem length_mxBlock (b : Nat) : (w.mxBlock f x words b).2.1.length = 32 := by
  unfold Warp.mxBlock
  dsimp only
  split
  · exact (length_keepBlock ..).trans (by simp)
  · exact (length_requantise ..).trans (by simp)

/-- R98, R243: the warp that has packed its blocks. -/
def Warp.mxPack : Warp :=
  let epl := mxEpl x.t2.toNat
  let blocks := (List.range (4 * epl)).map (w.mxBlock f x words)
  let codes := blocks.flatMap fun b => b.2.1
  ((w.setV f.d.toNat (BitVec.allOnes 128) fun t => slotsWord (mxWidth x.t2.toNat) ((codes.drop (t * epl)).take epl)).setE f.d.toNat
    fun b => match blocks[b]? with | some r => BitVec.ofNat 8 r.1 | none => 0).raise (blocks.foldl (fun fl b => fl ||| b.2.2) 0)

/-- R98: code `i` of the blocks that are packed. -/
theorem getD_mxCodes {n i : Nat} (h : i < n * 32) :
    (((List.range n).map (w.mxBlock f x words)).flatMap fun b => b.2.1).getD i 0 =
      (w.mxBlock f x words (i / 32)).2.1.getD (i % 32) 0 := by
  rw [List.flatMap_map, getD_flatMap_range _ _ (length_mxBlock w f x words), if_pos h]

theorem vWritten_mxPack : VWritten w (w.mxPack f x words) f.d.toNat (BitVec.allOnes 128) fun p =>
    slotsWord (mxWidth x.t2.toNat) ((List.range (mxEpl x.t2.toNat)).map fun j =>
      (w.mxBlock f x words ((p * mxEpl x.t2.toNat + j) / 32)).2.1.getD ((p * mxEpl x.t2.toNat + j) % 32) 0) := by
  intro r p hp
  refine (w.vr_setV _ _ _ r p hp).trans (if_congr Iff.rfl ?_ rfl)
  rw [slotsWord_drop_take]
  refine congrArg _ (List.map_congr_left fun j hj => getD_mxCodes w f x words ?_)
  have hj := List.mem_range.1 hj
  calc p * mxEpl x.t2.toNat + j < (p + 1) * mxEpl x.t2.toNat := by rw [Nat.succ_mul]; omega
    _ ≤ 128 * mxEpl x.t2.toNat := Nat.mul_le_mul_right _ hp
    _ = 4 * mxEpl x.t2.toNat * 32 := by ring

theorem eWritten_mxPack : EWritten w (w.mxPack f x words) f.d.toNat fun b =>
    if b < 4 * mxEpl x.t2.toNat then BitVec.ofNat 8 (w.mxBlock f x words b).1 else 0 := by
  intro r i hi
  refine (eWritten_setE _ _ _ r i hi).trans (if_congr Iff.rfl ?_ rfl)
  rw [List.getElem?_map]
  dsimp only
  by_cases h : i < 4 * mxEpl x.t2.toNat
  · rw [if_pos h, List.getElem?_range h]
    rfl
  · rw [if_neg h, List.getElem?_eq_none (by simpa using h)]
    rfl

end Pack

theorem convergent_all {i : Instr} {s : State} {w : Warp} {g : Option Guard} {eff : Res} (h : w.exec g = BitVec.allOnes 128) :
    convergent i s w g eff = eff := if_pos h

/-- R61, R243: mxpack at issue. -/
theorem mxpack_next {f : FmtA} {x : XT} {s : State} {w : Warp} (h : Issues s w
      ([.group f.a.toNat (mxEpl x.t2.toNat), .dst f.d, .eDst f.d.toNat] ++ if x.sel.getLsbD 0 then [.e f.d.toNat] else []))
    (hm : w.exec (some x.g) = BitVec.allOnes 128) : exec (.mxpack f x) s = .next (State.finish s.cur
      ((s.readied w).drawn w.woken (x.rnd == 4) fun s words => .done (s.putWarp s.cur (w.woken.mxPack f x words)))) :=
  (issue_next (refs := fun _ => _) h).trans (congrArg (fun r => Host.Outcome.next (State.finish s.cur r)) (convergent_all hm))

theorem mxPacked_of {f : FmtA} {x : XT} {s u t : State} {w : Warp} {words : List Word}
    (h : Retires s u t (w.woken.mxPack f x words)) : Claims.mxPacked f x s u t w words :=
  ⟨_, h, rfl, vWritten_mxPack w.woken f x words, eWritten_mxPack w.woken f x words⟩

theorem mxPack_holds : Claims.mxPack := by
  intro f x s w _ h hm
  have hnext := mxpack_next h hm
  refine ⟨fun hr => ?_, fun hr => ?_⟩
  · rw [beq_eq_false_iff_ne.2 hr] at hnext
    refine ⟨_, hnext, mxPacked_of ?_⟩
    change Retires s s (State.advance ((s.readied w).putWarp (s.readied w).cur _) s.cur) _
    rw [State.readied_cur, State.readied_put]
    exact retires_put s _
  · rw [hr] at hnext
    obtain ⟨h1, h2⟩ := draws_then (fun words => w.woken.mxPack f x words) hnext
    refine ⟨h1, fun d hd => ⟨(h2 d hd).1, fun hl => ?_⟩⟩
    obtain ⟨t, ht, hret⟩ := (h2 d hd).2 hl
    exact ⟨t, ht, mxPacked_of hret⟩

/-! ### mxunpack (R74, R244) -/

/-- v registers from `d` written whole, one after another. -/
def Warp.setGroup (w : Warp) (d n : Nat) (g : Nat → Nat → Word) : Warp :=
  (List.range n).foldl (fun w1 i => w1.setV (d + i) (BitVec.allOnes 128) (g i)) w

theorem setGroup_succ (w : Warp) (d n : Nat) (g : Nat → Nat → Word) :
    w.setGroup d (n + 1) g = (w.setGroup d n g).setV (d + n) (BitVec.allOnes 128) (g n) := by
  simp [Warp.setGroup, List.range_succ]

theorem setGroup_frame (w : Warp) (d n : Nat) (g : Nat → Nat → Word) : ∃ v, w.setGroup d n g = { w with v := v } := by
  induction n with
  | zero => exact ⟨_, rfl⟩
  | succ n ih =>
    obtain ⟨v, h⟩ := ih
    exact ⟨_, by rw [setGroup_succ, h]; rfl⟩

theorem vr_setGroup (w : Warp) (d n : Nat) (g : Nat → Nat → Word) (r : Nat) {p : Nat} (hp : p < 128) :
    (w.setGroup d n g).vr r p = if d ≤ r ∧ r < d + n then g (r - d) p else w.vr r p := by
  induction n with
  | zero => exact (if_neg (by omega)).symm
  | succ n ih =>
    have hall : (BitVec.allOnes 128).getLsbD p = true := by
      rw [BitVec.getLsbD_allOnes]
      exact decide_eq_true hp
    rw [setGroup_succ, Warp.vr_setV _ _ _ _ _ _ hp, ih, hall]
    by_cases h : r = d + n
    · rw [if_pos ⟨h, rfl⟩, if_pos (by omega), h, Nat.add_sub_cancel_left]
    · rw [if_neg (fun e => h e.1)]
      exact if_congr (by omega) rfl rfl

theorem mxUnpack_holds : Claims.mxUnpack := by
  intro f x s w _ ty epl h hm val
  let w1 := (w.woken.setGroup f.d.toNat epl fun j p => (val j p).1).raise
    ((List.range epl).foldl (fun fl j => fl ||| flagsOver (BitVec.allOnes 128) fun p => (val j p).2) 0)
  have hnext : exec (.mxunpack f x) s = .next (((s.readied w).putWarp (s.readied w).cur w1).advance s.cur) :=
    (issue_next (refs := fun _ => _) h).trans (congrArg (fun r => Host.Outcome.next (State.finish s.cur r)) (convergent_all hm))
  rw [State.readied_cur, State.readied_put] at hnext
  obtain ⟨v, hv⟩ := setGroup_frame w.woken f.d.toNat epl fun j p => (val j p).1
  refine ⟨_, w1, hnext, retires_put s w1, ?_, fun r p hp => vr_setGroup w.woken _ _ _ r hp⟩
  simp only [w1, hv]
  rfl

/-- Settles O7: mxpack has its effect once its words are drawn, where every code of a thread stands in its block, and mxunpack writes
its registers one after another from what it has read. -/
theorem mxConversionResults : Obligations.MxConversionResults := ⟨mxPack_holds, mxUnpack_holds⟩

end Sys2Proof.Machine
end

section
/-! SUPPORT. The matrix engine's sums (R5, R113, R114). -/

namespace Sys2Proof.Machine

open Claims (value)

/-! ### Sums without rounding (R113) -/

/-- The least of the exponents and 0 is below all of them. -/
theorem minExponent_le (l : List (Bool × Nat × Int)) (e : Int) :
    l.foldl (fun x p => min x p.2.2) e ≤ e ∧ ∀ p ∈ l, l.foldl (fun x p => min x p.2.2) e ≤ p.2.2 := by
  induction l generalizing e with
  | nil => simp
  | cons q l ih =>
    obtain ⟨hstart, hrest⟩ := ih (min e q.2.2)
    exact ⟨hstart.trans (min_le_left ..), List.forall_mem_cons.2 ⟨hstart.trans (min_le_right ..), hrest⟩⟩

/-- Counts of units of `2^e` added one after another. -/
theorem sumScaled_value {e : Int} (l : List (Bool × Nat × Int)) (acc : Int) (h : ∀ p ∈ l, e ≤ p.2.2) :
    ((l.foldl (fun acc p => acc + scaled p.1 p.2.1 p.2.2 e) acc : Int) : ℚ) * (2 : ℚ) ^ e =
      acc * (2 : ℚ) ^ e + (l.map fun p => value p.1 p.2.1 p.2.2).sum := by
  induction l generalizing acc with
  | nil => simp
  | cons p l ih =>
    obtain ⟨hp, hl⟩ := List.forall_mem_cons.1 h
    rw [List.foldl_cons, ih _ hl, List.map_cons, List.sum_cons, ← scaled_value p.1 p.2.1 hp]
    push_cast
    ring

theorem sign_mul_units (n : Bool) (m : Nat) (e a : Int) :
    (if n then -1 else 1) * ((m * 2 ^ (e - a).toNat : Nat) : Int) = scaled n m e a := by
  cases n
  · exact one_mul _
  · exact neg_one_mul _

theorem exactSum_value (l : List (Bool × Nat × Int)) :
    ((exactSum l).1 : ℚ) * (2 : ℚ) ^ (exactSum l).2 = (l.map fun p => value p.1 p.2.1 p.2.2).sum := by
  unfold exactSum
  simp only [sign_mul_units]
  rw [sumScaled_value l 0 (minExponent_le l 0).2, Int.cast_zero, zero_mul, zero_add]

/-! ### Blocks (R113) -/

/-- The product of two finite elements, as sign, magnitude and exponent. -/
def productOf (p : (Bool × Nat × Int) × (Bool × Nat × Int)) : Bool × Nat × Int :=
  (p.1.1 != p.2.1, p.1.2.1 * p.2.2.1, p.1.2.2 + p.2.2.2)

/-- The elements of a block that are finite. -/
def finites (l : List (Bool × Nat × Int)) : List FVal := l.map fun x => .fin x.1 x.2.1 x.2.2

theorem any_isNan_finites (l : List (Bool × Nat × Int)) : (finites l).any FVal.isNan = false := by
  simp [finites, FVal.isNan]

theorem blockProducts {a b : List (Bool × Nat × Int)} (h : a.length = b.length) :
    ((List.range (finites a).length).map fun i =>
      fMul ((finites a).getD i (.fin false 0 0)) ((finites b).getD i (.fin false 0 0))) =
      ((a.zip b).map productOf).map fun x => .fin x.1 x.2.1 x.2.2 false := by
  refine List.ext_getElem (by simp [finites, h]) fun i hi hi' => ?_
  have ha : i < a.length := by simpa [finites] using hi
  have hb : i < b.length := h ▸ ha
  simp [finites, ha, hb, productOf, fMul, FVal.isNan]

/-- Products that are all finite are summed as they are. -/
theorem blockSum_finites {a b : List (Bool × Nat × Int)} {sa sb : Nat} (h : a.length = b.length) (ha : sa < 255) (hb : sb < 255) :
    blockSum (finites a) (finites b) sa sb =
      .fin (exactSum ((a.zip b).map productOf)).1 ((exactSum ((a.zip b).map productOf)).2 + ((sa : Int) + sb - 254)) := by
  unfold blockSum
  rw [if_neg (by simp [any_isNan_finites]; omega), blockProducts h]
  simp [List.filterMap_map, Function.comp_def]

/-- Settles O41: the sum of a block counts units of its least exponent, and the one rounding is that of `fAdd`. -/
theorem matrixSumsAreExact : Obligations.MatrixSumsAreExact := by
  refine ⟨fun a b sa sb h ha hb => ⟨_, _, blockSum_finites h ha hb, ?_⟩, fun acc v e n m x hx => ⟨fun hv => if_pos hv, fun hv => ?_⟩⟩
  · rw [zpow_add₀ two_ne_zero, ← mul_assoc, exactSum_value, List.map_map]
    congr 3
    exact funext fun p => mul_value ..
  · obtain ⟨n1, m1, e1, hadd, hval⟩ := fAdd_value 0 n (v < 0) m v.natAbs x e
    refine ⟨n1, m1, e1, hval.trans (by rw [value_natAbs]), ?_⟩
    rw [accumulate, if_neg hv, hx, hadd]
    rfl

end Sys2Proof.Machine
end

section
/-! SUPPORT. ldmx: four lines read, and their codes and scales landed (R98 to R100, R264, R269, R385). -/

namespace Sys2Proof.Machine

/-! ### Where the accesses of a list go -/

/-- R261, R269: the accesses that are placed are those that were asked for, in their order. -/
theorem State.placeAll_asked {s : State} {w : Warp} {sp : Space} {size align : Nat} {u : Bool} {need : Need} {mx : Bool}
    {l0 : List (Nat × DWord)} {l : List Acc} (h : s.placeAll w sp size align u need mx l0 = .ok l) :
    l.map (fun a => (a.pos, a.addr)) = l0 := by
  induction l0 generalizing l with
  | nil =>
    cases h
    rfl
  | cons p r ih =>
    rw [State.placeAll] at h
    dsimp only at h
    split at h
    · cases h
    split at h
    · cases h
    split at h
    · cases h
    split at h
    · cases h
    next l' hl =>
      cases h
      rw [List.map_cons, ih hl]

/-- R269: the four accesses of an MX move. -/
theorem placeMx_lines {s : State} {w : Warp} {a : DWord} {need : Need} {l : List Acc} (h : s.placeMx w a need = .ok l) :
    ∃ p0 p1 p2 p3, l = [⟨0, a, p0⟩, ⟨1, a + 128#64, p1⟩, ⟨2, a + 256#64, p2⟩, ⟨3, a + 384#64, p3⟩] := by
  have hl : l.map (fun a => (a.pos, a.addr)) = [(0, a + 0#64), (1, a + 128#64), (2, a + 256#64), (3, a + 384#64)] :=
    State.placeAll_asked h
  obtain ⟨⟨_, _, p0⟩, l, rfl, h0, hl⟩ := List.map_eq_cons_iff.1 hl
  obtain ⟨⟨_, _, p1⟩, l, rfl, h1, hl⟩ := List.map_eq_cons_iff.1 hl
  obtain ⟨⟨_, _, p2⟩, l, rfl, h2, hl⟩ := List.map_eq_cons_iff.1 hl
  obtain ⟨⟨_, _, p3⟩, l, rfl, h3, hl⟩ := List.map_eq_cons_iff.1 hl
  obtain rfl := List.map_eq_nil_iff.1 hl
  obtain ⟨rfl, rfl⟩ := Prod.mk.inj h0
  obtain ⟨rfl, rfl⟩ := Prod.mk.inj h1
  obtain ⟨rfl, rfl⟩ := Prod.mk.inj h2
  obtain ⟨rfl, rfl⟩ := Prod.mk.inj h3
  exact ⟨p0, p1, p2, p3, by rw [BitVec.add_zero]⟩

theorem placeMx_length {s : State} {w : Warp} {a : DWord} {need : Need} {l : List Acc} (h : s.placeMx w a need = .ok l) :
    l.length = 4 := by
  obtain ⟨_, _, _, _, rfl⟩ := placeMx_lines h
  rfl

theorem State.placeMx_woken (s : State) (w : Warp) (a : DWord) (need : Need) :
    s.placeMx w.woken a need = s.placeMx w a need := State.placeAll_woken ..

/-! ### Packing of the families (Tables 4.7 and 4.8) -/

/-- The width of a family's codes, the codes of a thread and those of a line fit one another. -/
structure Packs (ty : Nat) : Prop where
  word : mxWidth ty * mxEpl ty ≤ 32
  line : mxWidth ty * mxLine ty ≤ 1024
  threads : 128 * mxEpl ty = 4 * mxLine ty
  blocks : mxLine ty / 32 ≤ 8
  pos : 0 < mxEpl ty

theorem familyType_packs (sub : Nat) : Packs (familyType sub) := by
  have h : ∀ ty ∈ [5, 7, 9], Packs ty := by
    intro ty hty
    fin_cases hty <;> constructor <;> decide
  unfold familyType
  split
  · exact h 5 (by decide)
  · exact h 7 (by decide)
  · exact h 9 (by decide)

/-! ### What lands (R98, R100) -/

section Line
variable (s : State) (w : Warp) (ty : Nat) (plain : Bool) (a : Acc)

theorem length_mxCodes : (s.mxLineAt w ty plain a).1.length = mxLine ty := by
  unfold State.mxLineAt
  split
  · split <;> simp [lineCodes]
  · simp

theorem length_mxScales : (s.mxLineAt w ty plain a).2.length = mxLine ty / 32 := by
  unfold State.mxLineAt
  split
  · split <;> simp
  · simp

/-- R99, R264: the codes of a line that was read, zeros where it failed. -/
theorem mxLineAt_code {p : Piece} (hp : a.pieces = [p]) {i : Nat} (hi : i < mxLine ty) :
    (s.mxLineAt w ty plain a).1.getD i 0 =
      (if s.mxFails w plain a then 0 else natOfBytes (s.readPiece w plain p)) / 2 ^ (mxWidth ty * i) % 2 ^ mxWidth ty := by
  unfold State.mxLineAt
  rw [hp]
  by_cases hf : s.mxFails w plain a = true
  · simp [hf, hi]
  · simp [hf, hi, lineCodes]

/-- R100, R264: the scales of a line that was read, zeros where it failed. -/
theorem mxLineAt_scale {p : Piece} (hp : a.pieces = [p]) {b : Nat} (hb : b < mxLine ty / 32) :
    (s.mxLineAt w ty plain a).2.getD b 0 = if s.mxFails w plain a then 0 else s.sideByte p.t.key b := by
  unfold State.mxLineAt
  rw [hp]
  by_cases hf : s.mxFails w plain a = true
  · simp [hf, hb]
  · simp [hf, hb]

end Line

/-- Parts of one length that follow one another, from a list. -/
theorem getD_flatMap {α β : Type} (l : List α) (f : α → List β) (d : β) {k : Nat} (hf : ∀ a, (f a).length = k) (x : α) {i : Nat}
    (hi : i < l.length * k) : (l.flatMap f).getD i d = (f (l.getD (i / k) x)).getD (i % k) d := by
  have hl : l = (List.range l.length).map fun n => l.getD n x := by
    refine List.ext_getElem (by simp) fun n hn _ => ?_
    rw [List.getElem_map, List.getElem_range, List.getD_eq_getElem _ _ hn]
  conv_lhs => rw [hl, List.flatMap_map]
  rw [getD_flatMap_range (fun n => f (l.getD n x)) d (fun n => hf _), if_pos hi]

/-- R98, R100, R269: what an ldmx lands. -/
theorem mxLanding_landed {s : State} {w : Warp} {d ty : Nat} {plain : Bool} {l : List Acc} (ht : Packs ty) (h4 : l.length = 4)
    {bits : Nat → Nat} {side : Nat → Nat → Byte}
    (hbits : ∀ n, n < 4 → ∀ i, i < mxLine ty → (s.mxLineAt w ty plain (l.getD n ⟨0, 0, []⟩)).1.getD i 0 =
      bits n / 2 ^ (mxWidth ty * i) % 2 ^ mxWidth ty)
    (hside : ∀ n, n < 4 → ∀ b, b < mxLine ty / 32 →
      (s.mxLineAt w ty plain (l.getD n ⟨0, 0, []⟩)).2.getD b 0 = side n b) :
    Claims.mxLanded d ty bits side (mxLanding d ty (l.map (s.mxLineAt w ty plain))) := by
  have hline : 0 < mxLine ty := by have := ht.threads; have := ht.pos; omega
  refine ⟨_, _, rfl, ?_, ?_, fun p x hx => ?_, fun b y hy => ?_⟩
  · rw [List.map_map]
    exact List.map_id _
  · rw [List.map_map]
    exact List.map_id _
  · obtain ⟨q, hq, he⟩ := List.mem_map.1 hx
    cases he
    have hp : p < 128 := List.mem_range.1 hq
    rw [slotsWord_drop_take]
    have hcode : ∀ j, j < mxEpl ty → ((l.map (s.mxLineAt w ty plain)).flatMap (·.1)).getD (p * mxEpl ty + j) 0 =
        bits ((p * mxEpl ty + j) / mxLine ty) / 2 ^ (mxWidth ty * ((p * mxEpl ty + j) % mxLine ty)) % 2 ^ mxWidth ty := by
      intro j hj
      have hlt : p * mxEpl ty + j < 4 * mxLine ty := by
        rw [← ht.threads]
        calc p * mxEpl ty + j < (p + 1) * mxEpl ty := by rw [Nat.succ_mul]; omega
          _ ≤ 128 * mxEpl ty := Nat.mul_le_mul_right _ hp
      rw [List.flatMap_map, getD_flatMap l _ 0 (length_mxCodes s w ty plain) ⟨0, 0, []⟩ (by rw [h4]; exact hlt)]
      exact hbits _ ((Nat.div_lt_iff_lt_mul hline).2 hlt) _ (Nat.mod_lt _ hline)
    have hsmall : ∀ c ∈ (List.range (mxEpl ty)).map fun j =>
        ((l.map (s.mxLineAt w ty plain)).flatMap (·.1)).getD (p * mxEpl ty + j) 0, c < 2 ^ mxWidth ty := by
      intro c hc
      obtain ⟨j, hj, rfl⟩ := List.mem_map.1 hc
      rw [hcode j (List.mem_range.1 hj)]
      exact Nat.mod_lt _ (by positivity)
    have hw : mxWidth ty * ((List.range (mxEpl ty)).map fun j =>
        ((l.map (s.mxLineAt w ty plain)).flatMap (·.1)).getD (p * mxEpl ty + j) 0).length ≤ 32 := by
      rw [List.length_map, List.length_range]
      exact ht.word
    refine ⟨?_, fun j hj => ?_⟩
    · have := slotsWord_beyond hsmall hw
      rwa [List.length_map, List.length_range] at this
    · rw [slotOf_slotsWord hsmall hw, List.getD_eq_getElem _ _ (by simpa using hj), List.getElem_map, List.getElem_range]
      exact hcode j hj
  · obtain ⟨q, hq, he⟩ := List.mem_map.1 hy
    cases he
    rw [List.flatMap_map]
    by_cases hlt : b < 4 * (mxLine ty / 32)
    · rw [if_pos hlt, getD_flatMap l _ 0 (length_mxScales s w ty plain) ⟨0, 0, []⟩ (by rw [h4]; exact hlt)]
      have hpos : 0 < mxLine ty / 32 := by omega
      exact hside _ ((Nat.div_lt_iff_lt_mul hpos).2 hlt) _ (Nat.mod_lt _ hpos)
    · rw [if_neg hlt, List.getD_eq_default]
      simp only [List.length_flatMap, length_mxScales, List.map_const', List.sum_replicate, h4, smul_eq_mul]
      omega

theorem pend_mxLanding (w : Warp) (d ty : Nat) (lines : List (List Nat × List Byte)) : w.pend (mxLanding d ty lines) =
    { w with pendV := w.pendV ||| 1#128 <<< d, pendE := w.pendE ||| 1#128 <<< d } := by
  simp [Warp.pend, mxLanding, RegWrite.regs]

/-! ### ldmx (R269) -/

section Issue
variable {f : FmtM} {x : Option XM} {s : State} {w : Warp}
  (h : IssuesMem s w f.dc.toNat [addrRef f true, .dst f.data, .eDst f.data.toNat])
include h

theorem ldmx_idle (ho : w.once (guardOfX x) = false) :
    ∃ t, exec (.ldmx f x) s = .next t ∧ Retires s s t { w with wait := none } := by
  refine ⟨_, (memOp_next (refs := fun _ => _) h).trans ?_, retires_readied h.warp⟩
  rw [show w.woken.once (guardOfX x) = false from ho]
  rfl

variable (ho : w.once (guardOfX x) = true)
include ho

theorem ldmx_misaligned (ha : (w.memAddr f true (offOf x) 0).toNat % 512 ≠ 0) : exec (.ldmx f x) s =
    .next ((s.readied w).takeTrap s.cur (Trap.of 0x05 (w.memAddr f true (offOf x) 0))) := by
  refine (memOp_next (refs := fun _ => _) h).trans ?_
  rw [show w.woken.once (guardOfX x) = true from ho,
    show w.woken.memAddr f true (offOf x) 0 = w.memAddr f true (offOf x) 0 from rfl]
  dsimp only
  rw [if_pos ha]
  rfl

theorem ldmx_next (ha : (w.memAddr f true (offOf x) 0).toNat % 512 = 0) {l : List Acc}
    (hl : (s.readied w).placeMx w (w.memAddr f true (offOf x) 0) .read = .ok l) (hh : (s.readied w).heldUp false l = false)
    (hr : s.recordRoom s.cur (loadRecord 1) = true) : exec (.ldmx f x) s = .next (((s.readied w).performMx s.cur w.woken
      (.ldmx f x) f (orderOf x == 0) (w.memAddr f true (offOf x) 0) l).advance s.cur) := by
  have hroom : (s.readied w).recordRoom s.cur (loadRecord 1) = true := by
    rw [s.readied_eq w]
    exact hr
  refine (memOp_next (refs := fun _ => _) h).trans ?_
  rw [show w.woken.once (guardOfX x) = true from ho,
    show w.woken.memAddr f true (offOf x) 0 = w.memAddr f true (offOf x) 0 from rfl]
  dsimp only
  rw [if_neg (not_not.2 ha), State.placeMx_woken, hl, State.readied_cur]
  dsimp only
  rw [hh, hroom]
  rfl

end Issue

/-- R264, R385: the marks of an ldmx name the first line that fails. -/
theorem mxMarks_first {s : State} {w : Warp} {plain : Bool} {d : Nat} {a : DWord} {l : List Acc} {need : Need} {r : State}
    (h : r.placeMx w a need = .ok l) : s.mxMarks w plain d l =
      match (List.range 4).find? fun n => match l[n]? with | some a => s.mxFails w plain a | none => false with
      | some k => [(0, d, a + BitVec.ofNat 64 (128 * k)), (1, d, a + BitVec.ofNat 64 (128 * k))]
      | none => [] := by
  obtain ⟨p0, p1, p2, p3, rfl⟩ := placeMx_lines h
  unfold State.mxMarks
  have hrange : List.range 4 = [0, 1, 2, 3] := rfl
  rw [hrange]
  simp only [List.filter_cons, List.find?_cons, List.getElem?_cons_zero, List.getElem?_cons_succ]
  cases s.mxFails w plain ⟨0, a, p0⟩
  · cases s.mxFails w plain ⟨1, a + 128#64, p1⟩
    · cases s.mxFails w plain ⟨2, a + 256#64, p2⟩
      · cases s.mxFails w plain ⟨3, a + 384#64, p3⟩ <;> rfl
      · rfl
    · rfl
  · simp

theorem mxLoads_hold : Claims.mxLoads := by
  unfold Claims.mxLoads
  intro f x s w d ty addr plain r h
  refine ⟨ldmx_idle h, ldmx_misaligned h, fun ho ha l hl hh hr => ?_⟩
  intro u failed
  have hk : r.KeepsWarps u := (State.keepsWarps_of_postRest (State.postRest_of_homeRest
    (r.homeRest_touchPieces l false))).trans (State.keepsWarps_homeward _ w plain l)
  obtain ⟨w0, hw0, hs0⟩ := hk.warp (State.readied_warp h.warp)
  have hc : u.clock = s.clock := hk.1.trans ((congrArg State.clock (s.readied_eq w) :))
  let rep := replayOf (.ldmx f x) 3 f.dc.toNat w.woken 1 [(0, addr)]
  let writes := mxLanding d ty (l.map (u.mxLineAt w ty plain))
  have ht : r.performMx s.cur w.woken (.ldmx f x) f plain addr l = (u.sendLoad s.cur w0 (some f.dc.toNat) writes
      (u.mxMarks w plain d l) (some rep) (farAway l)).fillLines s.cur w.woken (r.linesOf w.woken l) := by
    have hu : (r.touchPieces l false).homeward w.woken plain l = u := rfl
    rw [State.performMx, hu, hw0]
    rfl
  obtain ⟨h1, h2, h3, score, w', h4, h5⟩ :=
    sent_advance (w0 := w0) hc f.dc.toNat writes (u.mxMarks w plain d l) (some rep) (farAway l) w.woken (r.linesOf w.woken l)
  have hslot : w0.slotNo = w.slotNo := by rw [hs0]; rfl
  have he := ldmx_next h ho ha hl hh hr
  rw [ht] at he
  refine ⟨_, _, w0, _, w', he, h1, hw0, rfl, hslot, congrArg u.gen hslot, rfl, mxMarks_first hl, h2, hs0, fun hpl => ?_, h3, h4, h5,
    ?_, fun pieces hp => ?_⟩
  · have hj (j : Nat) : u.warp j = r.warp j := by
      have hu : u = r.touchPieces l false := if_pos hpl
      rw [hu, State.warp, State.warps_of_postRest (State.postRest_of_homeRest (r.homeRest_touchPieces l false))]
      rfl
    have hw : some w0 = some w.woken := hw0.symm.trans ((hj s.cur).trans (State.readied_warp h.warp))
    exact ⟨(congrArg Warp.sfail (Option.some.inj hw) :), hj⟩
  · have hv : w0.pendV = w.pendV := by rw [hs0]; rfl
    have he : w0.pendE = w.pendE := by rw [hs0]; rfl
    have hn : ((w0.pend writes).incD f.dc.toNat).wait = none := by
      rw [pend_mxLanding]
      exact congrArg Warp.wait hs0
    rw [← hv, ← he]
    exact congrArg (fun x : Warp => { x with score := score })
      ((Warp.woken_of_wait hn).symm.trans (by rw [pend_mxLanding]))
  · have h4 : l.length = 4 := placeMx_length hl
    have hline {n : Nat} (hn : n < 4) : ∃ p, pieces[n]? = some p ∧ (l.getD n ⟨0, 0, []⟩).pieces = [p] ∧
        failed n = u.mxFails w plain (l.getD n ⟨0, 0, []⟩) := by
      have hln : l[n]? = some (l.getD n ⟨0, 0, []⟩) := by
        rw [List.getD_eq_getElem _ _ (by omega), List.getElem?_eq_getElem]
      have hpn := congrArg (fun y => y[n]?) hp
      rw [List.getElem?_map, List.getElem?_map, hln] at hpn
      obtain ⟨p, h1, h2⟩ := Option.map_eq_some_iff.1 hpn.symm
      exact ⟨p, h1, h2.symm, by simp only [failed, hln]⟩
    refine mxLanding_landed (familyType_packs _) h4 (fun n hn i hi => ?_) (fun n hn b hb => ?_)
    · obtain ⟨p, hpn, hpa, hf⟩ := hline hn
      rw [mxLineAt_code u w ty plain _ hpa hi, hf, hpn]
    · obtain ⟨p, hpn, hpa, hf⟩ := hline hn
      rw [mxLineAt_scale u w ty plain _ hpa hb, hf, hpn]

end Sys2Proof.Machine
end

section
/-! SUPPORT. Lines written whole, payload and sideband together (R99, R100, R270, R300, R385). -/

namespace Sys2Proof.Machine

/-! ### One line -/

/-- What is written to a line: 128 bytes of payload and eight of sideband. -/
def FullLine (l : List Byte × List (Nat × Byte)) : Prop :=
  l.1.length = 128 ∧ ∃ side : Nat → Byte, l.2 = (List.range 8).map fun b => (b, side b)

section Line
variable (s : State) (key : Nat) (ms : Bool) (l : List Byte × List (Nat × Byte))

theorem State.writeLine_frame : s.writeLine key ms l = { s with
    mem := (s.writeLine key ms l).mem, side := (s.writeLine key ms l).side, stale := (s.writeLine key ms l).stale
    staleSide := (s.writeLine key ms l).staleSide, failed := (s.writeLine key ms l).failed } := by
  cases ms
  · have h := s.wrBytes_frame key l.1
    unfold State.writeLine
    rw [if_neg Bool.false_ne_true, if_neg Bool.false_ne_true, h]
    rfl
  · rfl

theorem State.byte_writeLine (a : Nat) : (s.writeLine key ms l).byte a =
    if key ≤ a ∧ a < key + l.1.length then l.1.getD (a - key) 0 else s.byte a := by
  cases ms
  · exact s.byte_wrBytes key l.1 a
  · exact s.byte_wrRaw key l.1 a

theorem State.side_writeLine : (s.writeLine key ms l).side = (s.wrSide key l.2).side := by
  cases ms
  · unfold State.writeLine
    rw [if_neg Bool.false_ne_true, if_neg Bool.false_ne_true, s.wrBytes_frame key l.1]
    rfl
  · rfl

/-- R100: the sideband of a line that is written. -/
theorem State.sideByte_writeLine {side : Nat → Byte} (h : l.2 = (List.range 8).map fun b => (b, side b)) (a b : Nat) (hb : b < 8) :
    (s.writeLine key ms l).sideByte a b = if a / 128 = key / 128 then side b else s.sideByte a b := by
  have hn : l.2 = numbered 0 ((List.range 8).map side) := h
  rw [State.sideByte, State.side_writeLine, hn]
  refine (get_set_numbered _ 0 (key / 128 * 8) s.side _).trans ?_
  rw [Nat.add_zero, List.length_map, List.length_range]
  by_cases hl : a / 128 = key / 128
  · rw [if_pos hl, if_pos (by omega), hl, Nat.add_sub_cancel_left, List.getD_eq_getElem _ _ (by simpa using hb),
      List.getElem_map, List.getElem_range]
  · rw [if_neg hl, if_neg (by omega)]
    rfl

/-- R385: a line written whole fails no more. -/
theorem State.lineFailed_writeLine : (s.writeLine key ms l).lineFailed key = false := by
  have h : (s.writeLine key ms l).failMask key = 0 := by
    cases ms <;> exact (Store.get_set _ _ _ _).trans (if_pos rfl)
  rw [State.lineFailed, h]
  rfl

end Line

/-- R385: failures cleared in one line leave those of another. -/
theorem get_foldl_clearBits {line : Nat} {at_ : Nat → Nat} {bits : Nat → List Nat} (l : List Nat) (m : Store (BitVec 136))
    (h : ∀ i ∈ l, at_ i ≠ line) :
    Store.get 0 (l.foldl (fun m i => clearBits m (at_ i) (bits i)) m) line = Store.get 0 m line := by
  induction l generalizing m with
  | nil => rfl
  | cons i r ih =>
    obtain ⟨hi, hr⟩ := List.forall_mem_cons.1 h
    exact (ih _ hr).trans ((Store.get_set _ _ _ _).trans (if_neg hi.symm))

theorem get_clearRun_other {m : Store (BitVec 136)} {a n line : Nat} (h : ∀ i < n, (a + i) / 128 ≠ line) :
    Store.get 0 (clearRun m a n) line = Store.get 0 m line := by
  cases m with
  | nil => rfl
  | cons p r =>
    exact get_foldl_clearBits (at_ := fun i => (a + i) / 128) (bits := fun i => [(a + i) % 128]) _ (p :: r)
      fun i hi => h i (List.mem_range.1 hi)

/-- R385: a line written whole leaves what has failed of another. -/
theorem State.lineFailed_writeLine_other {s : State} {key : Nat} {ms : Bool} {l : List Byte × List (Nat × Byte)} {a : Nat}
    (hl : l.1.length = 128) (hk : key % 128 = 0) (h : a / 128 ≠ key / 128) :
    (s.writeLine key ms l).lineFailed a = s.lineFailed a := by
  have hraw : Store.get 0 (clearRun s.failed key l.1.length) (a / 128) = Store.get 0 s.failed (a / 128) :=
    get_clearRun_other fun i hi => by omega
  have hside (u : State) : Store.get 0 (u.wrSide key l.2).failed (a / 128) = Store.get 0 u.failed (a / 128) := by
    unfold State.wrSide
    dsimp only
    split
    · next e => rw [e]
    · exact (Store.get_set _ _ _ _).trans (if_neg h)
  have hmask : (s.writeLine key ms l).failMask a = s.failMask a := by
    cases ms
    · refine (Store.get_set _ _ _ _).trans ((if_neg h).trans ((hside _).trans ?_))
      have hb : (s.wrBytes key l.1).failed = clearRun s.failed key l.1.length := by
        unfold State.wrBytes State.keepStale
        split <;> rfl
      exact (congrArg (fun m => Store.get 0 m (a / 128)) hb).trans hraw
    · exact (Store.get_set _ _ _ _).trans ((if_neg h).trans ((hside _).trans hraw))
  rw [State.lineFailed, hmask, State.lineFailed]

/-! ### Lines one after another -/

section Lines
variable {α : Type} (key : α → Nat) (ms : α → Bool) (val : α → List Byte × List (Nat × Byte))

/-- Lines written one after another. -/
def State.writeLines (L : List α) (s : State) : State := L.foldl (fun s x => s.writeLine (key x) (ms x) (val x)) s

theorem State.writeLines_frame (L : List α) (s : State) : ∃ mem side stale staleSide failed, s.writeLines key ms val L =
    { s with mem := mem, side := side, stale := stale, staleSide := staleSide, failed := failed } := by
  unfold State.writeLines
  induction L generalizing s with
  | nil => exact ⟨_, _, _, _, _, rfl⟩
  | cons x r ih =>
    rw [List.foldl_cons, s.writeLine_frame]
    exact ih _

variable {key ms val} {L : List α} (hfull : ∀ x ∈ L, FullLine (val x))
include hfull

/-- R117: bytes that no line holds keep their values. -/
theorem State.byte_writeLines_outside {a : Nat} (s : State) (h : ∀ x ∈ L, ¬ (key x ≤ a ∧ a < key x + 128)) :
    (s.writeLines key ms val L).byte a = s.byte a := by
  unfold State.writeLines
  induction L generalizing s with
  | nil => rfl
  | cons x r ih =>
    obtain ⟨⟨hx, -⟩, hr⟩ := List.forall_mem_cons.1 hfull
    obtain ⟨hax, har⟩ := List.forall_mem_cons.1 h
    rw [List.foldl_cons, ih hr _ har, State.byte_writeLine, hx, if_neg hax]

variable (hal : ∀ x ∈ L, key x % 128 = 0)
include hal

/-- R13, R385: lines written leave the sideband and the failures of every other line. -/
theorem State.writeLines_other {a : Nat} (s : State) (h : ∀ x ∈ L, a / 128 ≠ key x / 128) :
    (∀ b < 8, (s.writeLines key ms val L).sideByte a b = s.sideByte a b) ∧
    (s.writeLines key ms val L).lineFailed a = s.lineFailed a := by
  unfold State.writeLines
  induction L generalizing s with
  | nil => exact ⟨fun _ _ => rfl, rfl⟩
  | cons x r ih =>
    obtain ⟨⟨hx, side, hside⟩, hr⟩ := List.forall_mem_cons.1 hfull
    obtain ⟨hax, har⟩ := List.forall_mem_cons.1 hal
    obtain ⟨hnx, hnr⟩ := List.forall_mem_cons.1 h
    obtain ⟨h1, h2⟩ := ih hr har (s.writeLine (key x) (ms x) (val x)) hnr
    rw [List.foldl_cons]
    refine ⟨fun b hb => (h1 b hb).trans ?_, h2.trans (State.lineFailed_writeLine_other hx hax hnx)⟩
    rw [State.sideByte_writeLine _ _ _ _ hside _ _ hb, if_neg hnx]

/-- R99, R100, R270, R300, R385: a line among lines that are pairwise different holds what was written to it. -/
theorem State.writeLines_holds (s : State) (hd : L.Pairwise fun x y => key x / 128 ≠ key y / 128) {x : α} (hx : x ∈ L)
    {side : Nat → Byte} (hs : (val x).2 = (List.range 8).map fun b => (b, side b)) :
    let t := s.writeLines key ms val L
    t.lineFailed (key x) = false ∧ t.bytes (key x) 128 = (val x).1 ∧ ∀ b < 8, t.sideByte (key x) b = side b := by
  obtain ⟨l1, l2, rfl⟩ := List.append_of_mem hx
  intro t
  have hlen : (val x).1.length = 128 := (hfull x hx).1
  have hlast : ∀ y ∈ l2, key x / 128 ≠ key y / 128 := (List.pairwise_cons.1 (List.pairwise_append.1 hd).2.1).1
  have hfull2 : ∀ y ∈ l2, FullLine (val y) := fun y hy => hfull y (by simp [hy])
  have hal2 : ∀ y ∈ l2, key y % 128 = 0 := fun y hy => hal y (by simp [hy])
  have hkx := hal x hx
  let u := (s.writeLines key ms val l1).writeLine (key x) (ms x) (val x)
  have ht : t = u.writeLines key ms val l2 := by simp [t, u, State.writeLines]
  obtain ⟨h1, h2⟩ := State.writeLines_other (ms := ms) hfull2 hal2 u hlast
  rw [ht]
  refine ⟨h2.trans (State.lineFailed_writeLine _ _ _ _), List.ext_getElem (by simp [State.bytes, hlen]) fun i hi hi' => ?_,
    fun b hb => (h1 b hb).trans ?_⟩
  · have hi : i < 128 := hlen ▸ hi'
    have hout : ∀ y ∈ l2, ¬ (key y ≤ key x + i ∧ key x + i < key y + 128) := fun y hy hb => by
      have := hlast y hy
      have := hal2 y hy
      omega
    simp only [State.bytes, List.getElem_map, List.getElem_range]
    rw [State.byte_writeLines_outside hfull2 u hout]
    refine (State.byte_writeLine _ _ _ _ _).trans ?_
    rw [if_pos (by omega), Nat.add_sub_cancel_left, List.getD_eq_getElem]
  · exact (State.sideByte_writeLine _ _ _ _ hs _ _ hb).trans (if_pos rfl)

end Lines

/-! ### Payloads -/

/-- R99: the payload that packs codes, as a number. -/
theorem natOfBytes_payload (x : Nat) : natOfBytes (bytesOfNat 128 x) = x % 2 ^ 1024 := by
  have h : 1024 = 8 * 128 := rfl
  rw [natOfBytes_bytesOfNat, h, Nat.pow_mul]

theorem natOfBytes_payload_of_lt {x n : Nat} (hx : x < 2 ^ n) (hn : n ≤ 1024) : natOfBytes (bytesOfNat 128 x) = x := by
  rw [natOfBytes_payload, Nat.mod_eq_of_lt]
  exact hx.trans_le (pow_le_pow_right₀ one_le_two hn)

end Sys2Proof.Machine
end

section
/-! SUPPORT. stmx: four lines written at their homes (R98 to R100, R262, R269, R270, R385). -/

namespace Sys2Proof.Machine

/-! ### What goes home first (R121, R134) -/

/-- A state is another but for memory, the L1s, block bytes (priv) and cached translations. -/
def State.Homes (s u : State) : Prop := ∃ mem stale failed l1 tlb blocks,
  u = { s with mem := mem, stale := stale, failed := failed, l1 := l1, tlb := tlb, blocks := blocks }

theorem State.Homes.refl (s : State) : s.Homes s := ⟨_, _, _, _, _, _, rfl⟩

theorem State.Homes.trans {s u v : State} (h1 : s.Homes u) (h2 : u.Homes v) : s.Homes v := by
  obtain ⟨_, _, _, _, _, _, rfl⟩ := h1
  obtain ⟨_, _, _, _, _, _, rfl⟩ := h2
  exact ⟨_, _, _, _, _, _, rfl⟩

theorem State.Homes.broken {s u : State} (h : s.Homes u) (core key : Nat) : u.broken core key = s.broken core key := by
  obtain ⟨_, _, _, _, _, _, rfl⟩ := h
  rfl

theorem State.Homes.accBroken {s u : State} (h : s.Homes u) (core : Nat) (a : Acc) : u.accBroken core a = s.accBroken core a := by
  obtain ⟨_, _, _, _, _, _, rfl⟩ := h
  rfl

theorem State.Homes.cur {s u : State} (h : s.Homes u) : u.cur = s.cur := by
  obtain ⟨_, _, _, _, _, _, rfl⟩ := h
  rfl

theorem State.homes_foldl {β : Type} {f : State → β → State} (l : List β) (s : State)
    (hf : ∀ u : State, s.Homes u → ∀ b ∈ l, u.Homes (f u b)) : s.Homes (l.foldl f s) := by
  induction l generalizing s with
  | nil => exact State.Homes.refl s
  | cons b r ih =>
    have h1 := hf s (State.Homes.refl s) b (by simp)
    exact h1.trans (ih (f s b) fun u hu c hc => hf u (h1.trans hu) c (by simp [hc]))

theorem State.homes_touch (s : State) (t : Trans) (wr : Bool) : s.Homes (s.touch t wr) :=
  ⟨_, _, _, _, _, _, s.touch_frame t wr⟩

theorem State.homes_touchStores (s : State) (core : Nat) (l : List Acc) : s.Homes (s.touchStores core l) := by
  refine State.homes_foldl (piecesOf _) s fun u _ p _ => ?_
  split
  · exact u.homes_touch p.t true
  · exact State.Homes.refl u

theorem State.homes_sendHome {s : State} {who : Nat → Bool} {lo hi : Nat} (h : (s.loose who lo hi).filter s.looseCut = []) :
    s.Homes (s.sendHome who lo hi) := ⟨_, _, _, _, _, _, State.sendHome_frame h⟩

theorem State.homes_released {s : State} {w : Warp} {n : Nat} (h : MayRelease s w n) : s.Homes (s.released w n) := by
  obtain ⟨mem, stale, failed, l1, hr⟩ := released_frame h
  exact ⟨mem, stale, failed, l1, _, _, hr⟩

theorem State.homes_privHome (s : State) (w : Warp) (p : Piece) : s.Homes (s.privHome w p) := by
  unfold State.privHome State.dropOffsets
  dsimp only
  rw [s.foldl_wrBytes_frame (fun q : Nat × Nat × Byte => q.2.1) (fun q => [q.2.2])]
  split
  · exact ⟨_, _, _, _, _, _, rfl⟩
  · rw [State.mapBlock_frame]
    exact ⟨_, _, _, _, _, _, rfl⟩

theorem State.homes_homeward {s : State} {w : Warp} {plain : Bool} {l : List Acc}
    (h : ∀ a ∈ l, s.accBroken w.core a = false) : s.Homes (s.homeward w plain l) := by
  unfold State.homeward
  split
  · exact State.Homes.refl s
  · refine State.homes_foldl (piecesOf l) s fun u hu p hp => ?_
    obtain ⟨a, ha, hpa⟩ := List.mem_flatMap.1 hp
    have hb : u.broken w.core p.t.key = false := by
      rw [hu.broken]
      exact List.any_eq_false.1 (h a ha) p hpa |> Bool.eq_false_iff.2
    refine State.Homes.trans ?_ (State.homes_privHome _ w p)
    split
    · exact State.homes_sendHome (State.line_uncut hb)
    · exact State.Homes.refl u

/-! ### Releases -/

/-- R137: a release at a scope, where the instruction has one, that nothing holds up or fails. -/
theorem release_scoped {s : State} {w : Warp} {rel : Bool} {n : Nat} (hr : MayRelease s w (if rel then n else 0))
    (hw : s.warp s.cur = some w) (eff : State → Warp → Res) :
    s.release w rel n eff = eff (s.released w (if rel then n else 0)) w := by
  cases rel
  · rfl
  · exact release_passes hr hw eff

/-! ### The lines of accesses -/

/-- The key of the line that an access of an MX move names. -/
def Acc.lineKey (a : Acc) : Nat := match a.pieces with | p :: _ => p.t.key | [] => 0

/-- Whether that line lies behind the stack's own port (R119). -/
def Acc.lineMs (a : Acc) : Bool := match a.pieces with | p :: _ => p.t.ms | [] => false

theorem lineKey_of {c : Acc} {p : Piece} (h : c.pieces = [p]) : c.lineKey = p.t.key := by rw [Acc.lineKey, h]

/-- A global access is one piece. -/
theorem State.placeAll_global {s : State} {w : Warp} {size align : Nat} {u : Bool} {need : Need} {mx : Bool}
    {l0 : List (Nat × DWord)} {l : List Acc} (h : s.placeAll w .glob size align u need mx l0 = .ok l) :
    ∀ a ∈ l, ∃ p, a.pieces = [p] := by
  induction l0 generalizing l with
  | nil =>
    cases h
    simp
  | cons q r ih =>
    rw [State.placeAll] at h
    dsimp only at h
    split at h
    · cases h
    split at h
    · cases h
    next ps hps =>
      split at h
      · cases h
      split at h
      · cases h
      next l' hl =>
        cases h
        refine List.forall_mem_cons.2 ⟨?_, ih hl⟩
        unfold State.place at hps
        dsimp only at hps
        split at hps
        · cases hps
        · cases hps
          exact ⟨_, rfl⟩

/-- R269, R398: lines none of which lies over a failed link are written one after another. -/
theorem foldl_writeMxLine {l : List Acc} {s : State} {w : Warp} {d ty : Nat} (hp : ∀ a ∈ l, ∃ p, a.pieces = [p])
    (hb : ∀ a ∈ l, s.accBroken w.core a = false) :
    l.foldl (fun s a => if s.accBroken w.core a then s.storeFail s.cur w none a.addr
      else match a.pieces with
        | p :: _ =>
          let r := w.mxLineOut d ty a.pos
          s.writeMxLine p.t r.1 r.2
        | [] => s) s = s.writeLines Acc.lineKey Acc.lineMs (fun a => w.mxLineOut d ty a.pos) l := by
  induction l generalizing s with
  | nil => rfl
  | cons a r ih =>
    obtain ⟨⟨p, ha⟩, hr⟩ := List.forall_mem_cons.1 hp
    obtain ⟨hba, hbr⟩ := List.forall_mem_cons.1 hb
    have hk : a.lineKey = p.t.key := lineKey_of ha
    have hm : a.lineMs = p.t.ms := by rw [Acc.lineMs, ha]
    rw [List.foldl_cons, if_neg (by rw [hba]; exact Bool.false_ne_true), ha]
    refine (ih hr fun c hc => ?_).trans ?_
    · change (s.writeLine p.t.key p.t.ms (w.mxLineOut d ty a.pos)).accBroken w.core c = false
      rw [s.writeLine_frame]
      exact hbr c hc
    · unfold State.writeLines
      rw [List.foldl_cons, hk, hm]
      rfl

/-! ### What a line holds (R98 to R100) -/

section Out
variable (w : Warp) (d : Nat) {ty : Nat} (ht : Packs ty) (n : Nat)

theorem Warp.mxLineOut_side (ty : Nat) : (w.mxLineOut d ty n).2 = (List.range 8).map fun b =>
    (b, if b < mxLine ty / 32 then w.er d (n * (mxLine ty / 32) + b) else 0) := rfl

theorem fullLine_mxLineOut (ty : Nat) : FullLine (w.mxLineOut d ty n) := ⟨length_bytesOfNat _ _, _, w.mxLineOut_side d n ty⟩

include ht

/-- R98, R99: the payload of a line holds its codes and nothing beyond them. -/
theorem mxLineOut_bits :
    let bits := natOfBytes (w.mxLineOut d ty n).1
    bits / 2 ^ (mxWidth ty * mxLine ty) = 0 ∧ ∀ i < mxLine ty, bits / 2 ^ (mxWidth ty * i) % 2 ^ mxWidth ty =
      slotOf (mxWidth ty) (w.vr d ((n * mxLine ty + i) / mxEpl ty)) ((n * mxLine ty + i) % mxEpl ty) := by
  let codes := (List.range (mxLine ty)).map fun i =>
    slotOf (mxWidth ty) (w.vr d ((n * mxLine ty + i) / mxEpl ty)) ((n * mxLine ty + i) % mxEpl ty)
  have hlen : codes.length = mxLine ty := by simp [codes]
  have hsmall : ∀ c ∈ codes, c < 2 ^ mxWidth ty := by
    intro c hc
    obtain ⟨i, -, rfl⟩ := List.mem_map.1 hc
    exact Nat.mod_lt _ (by positivity)
  have hlt : packed (mxWidth ty) codes < 2 ^ (mxWidth ty * mxLine ty) := hlen ▸ packed_lt hsmall
  have hbits : natOfBytes (w.mxLineOut d ty n).1 = packed (mxWidth ty) codes :=
    natOfBytes_payload_of_lt hlt ht.line
  intro bits
  refine ⟨by rw [show bits = _ from hbits, Nat.div_eq_of_lt hlt], fun i hi => ?_⟩
  rw [show bits = _ from hbits, packed_digit hsmall, List.getD_eq_getElem _ _ (by rw [hlen]; exact hi)]
  simp [codes]

end Out

/-! ### stmx (R269) -/

/-- What goes home before the lines of an stmx are written. -/
theorem homes_stmx {s : State} {w : Warp} {scope : Nat} {l : List Acc} (hr : MayRelease s w scope)
    (hb : ∀ c ∈ l, (s.readied w).accBroken w.core c = false) :
    (s.readied w).Homes ((((s.readied w).released w scope).touchStores w.core l).homeward w false l) := by
  have hr' : MayRelease (s.readied w) w scope := mayRelease_readied hr
  have h1 := (State.homes_released hr').trans (State.homes_touchStores _ w.core l)
  exact h1.trans (State.homes_homeward fun c hc => (h1.accBroken _ _).trans (hb c hc))

section Issue
variable {f : FmtM} {x : Option XM} {s : State} {w : Warp}
  (h : IssuesMem s w f.dc.toNat [addrRef f true, .dst f.data, .src f.data, .e f.data.toNat])
include h

theorem stmx_idle (ho : w.once (guardOfX x) = false) :
    ∃ t, exec (.stmx f x) s = .next t ∧ Retires s s t { w with wait := none } := by
  refine ⟨_, (memOp_next (refs := fun _ => _) h).trans ?_, retires_readied h.warp⟩
  rw [show w.woken.once (guardOfX x) = false from ho]
  rfl

variable (ho : w.once (guardOfX x) = true)
include ho

theorem stmx_misaligned (ha : (w.memAddr f true (offOf x) 0).toNat % 512 ≠ 0) : exec (.stmx f x) s =
    .next ((s.readied w).takeTrap s.cur { Trap.of 0x05 (w.memAddr f true (offOf x) 0) with write := true }) := by
  refine (memOp_next (refs := fun _ => _) h).trans ?_
  rw [show w.woken.once (guardOfX x) = true from ho,
    show w.woken.memAddr f true (offOf x) 0 = w.memAddr f true (offOf x) 0 from rfl]
  dsimp only
  rw [if_pos ha]
  rfl

variable {l : List Acc} {scope : Nat} (hs : scope = if releases (orderOf x) then scopeOf x else 0) (hr : MayRelease s w scope)
  (hb : ∀ c ∈ l, (s.readied w).accBroken w.core c = false)
  (hl : (s.readied w).placeMx w (w.memAddr f true (offOf x) 0) .write = .ok l)
include hs hr hb hl

theorem stmx_next (ha : (w.memAddr f true (offOf x) 0).toNat % 512 = 0) (hh : (s.readied w).heldUp true l = false)
    (hout : w.out + 4 ≤ 65535) : exec (.stmx f x) s = .next
      ((((((((s.readied w).released w scope).touchStores w.core l).homeward w false l).writeLines Acc.lineKey Acc.lineMs
        (fun a => w.woken.mxLineOut f.data.toNat (familyType f.sub.toNat) a.pos) l).acksFor s.cur (some f.dc.toNat) 4
          (farAway l))).advance s.cur) := by
  have hroom : w.woken.outRoom 4 = true := decide_eq_true hout
  have hrel : MayRelease (s.readied w) w.woken (if releases (orderOf x) then scopeOf x else 0) := hs ▸ mayRelease_readied hr
  have hu := homes_stmx hr hb
  have hw : (s.readied w).warp (s.readied w).cur = some w.woken := by rw [State.readied_cur]; exact State.readied_warp h.warp
  refine (memOp_next (refs := fun _ => _) h).trans ?_
  rw [show w.woken.once (guardOfX x) = true from ho,
    show w.woken.memAddr f true (offOf x) 0 = w.memAddr f true (offOf x) 0 from rfl]
  dsimp only
  rw [if_neg (not_not.2 ha), State.placeMx_woken, hl]
  dsimp only
  rw [hh, hroom, release_scoped hrel hw, ← hs]
  have hcur : ((s.readied w).released w.woken scope).cur = s.cur :=
    (State.homes_released (hs ▸ hrel)).cur.trans (s.readied_cur w)
  rw [hcur]
  exact congrArg (fun v : State => Host.Outcome.next ((v.acksFor s.cur (some f.dc.toNat) 4 (farAway l)).advance s.cur))
    (foldl_writeMxLine (w := w.woken) (State.placeAll_global hl) fun c hc => (hu.accBroken _ _).trans (hb c hc))

end Issue

/-- R77, R262: stores acknowledged later, and the warp gone on. -/
theorem acksFor_retires {s v : State} {w : Warp} {c n : Nat} {far : Bool} (hw : v.warp s.cur = some w) (hn : n ≠ 0)
    (ho : ∀ j, j ≠ s.cur → v.warp j = s.warp j) (hc : v.clock = s.clock) :
    let t := (v.acksFor s.cur (some c) n far).advance s.cur
    Retires s { v with acks := t.acks, nextId := v.nextId + 1 } t
      { w with out := w.out + n, d := Store.set 0 w.d c (w.dn c + 1) } ∧
    t.acks.find v.nextId = some ⟨s.cur, w.slotNo, v.gen w.slotNo, some c, n, far⟩ := by
  intro t
  let v1 : State := { (v.putWarp s.cur (({ w with out := w.out + n } : Warp).incD c)).tick1 with
    acks := v.acks.put v.nextId ⟨s.cur, w.slotNo, v.gen w.slotNo, some c, n, far⟩ }
  have hv : v.acksFor s.cur (some c) n far = v1 := by
    unfold State.acksFor State.sendAcks
    rw [hw]
    exact if_neg hn
  have ht : t = v1.advance s.cur := congrArg (State.advance · s.cur) hv
  have hput : v1.warp s.cur = some (({ w with out := w.out + n } : Warp).incD c) := State.warp_putWarp_self v s.cur _
  have hacks : t.acks = v1.acks := by
    obtain ⟨_, h, -⟩ := State.advance_cases hput
    rw [ht, h]
  refine ⟨?_, by rw [hacks]; exact Table.find_put_self _ _ _⟩
  rw [hacks, ht]
  exact retires_advance rfl hput (fun j hj => (State.warp_putWarp_other v s.cur _ hj).trans (ho j hj)) hc

section Written
variable {u : State} {w : Warp} {d ty : Nat} {l : List Acc} (hp : ∀ a ∈ l, ∃ p, a.pieces = [p])
include hp

/-- R269: bytes outside the four lines keep their values. -/
theorem byte_writeMx_outside {k : Nat} (hk : ∀ c ∈ l, ∀ p ∈ c.pieces, ¬ (p.t.key ≤ k ∧ k < p.t.key + 128)) :
    (u.writeLines Acc.lineKey Acc.lineMs (fun a => w.mxLineOut d ty a.pos) l).byte k = u.byte k := by
  refine State.byte_writeLines_outside (fun a _ => fullLine_mxLineOut w d a.pos ty) u fun c hc => ?_
  obtain ⟨p, hpc⟩ := hp c hc
  rw [lineKey_of hpc]
  exact hk c hc p (by rw [hpc]; exact List.mem_singleton_self p)

/-- R98 to R100, R269, R270, R385: what each of the lines of an stmx holds. -/
theorem writeMx_holds (ht : Packs ty)
    (hd : l.Pairwise fun c c' => ∀ p ∈ c.pieces, ∀ q ∈ c'.pieces, p.t.key / 128 ≠ q.t.key / 128)
    (hal : ∀ c ∈ l, ∀ q ∈ c.pieces, q.t.key % 128 = 0) {c : Acc} {p : Piece} (hc : c ∈ l) (hcp : c.pieces = [p]) :
    let v := u.writeLines Acc.lineKey Acc.lineMs (fun a => w.mxLineOut d ty a.pos) l
    let bits := natOfBytes (v.bytes p.t.key 128)
    let blocks := mxLine ty / 32
    v.lineFailed p.t.key = false ∧ bits / 2 ^ (mxWidth ty * mxLine ty) = 0 ∧
    (∀ i < mxLine ty, let j := c.pos * mxLine ty + i
      bits / 2 ^ (mxWidth ty * i) % 2 ^ mxWidth ty = slotOf (mxWidth ty) (w.vr d (j / mxEpl ty)) (j % mxEpl ty)) ∧
    ∀ b < 8, v.sideByte p.t.key b = if b < blocks then w.er d (c.pos * blocks + b) else 0 := by
  have hdk : l.Pairwise fun c c' => c.lineKey / 128 ≠ c'.lineKey / 128 := hd.imp_of_mem fun {c c'} hc hc' hcc => by
    obtain ⟨p, hpc⟩ := hp c hc
    obtain ⟨p', hpc'⟩ := hp c' hc'
    rw [lineKey_of hpc, lineKey_of hpc']
    exact hcc p (by rw [hpc]; exact List.mem_singleton_self p) p' (by rw [hpc']; exact List.mem_singleton_self p')
  have halk : ∀ c ∈ l, c.lineKey % 128 = 0 := fun c hc => by
    obtain ⟨p, hpc⟩ := hp c hc
    rw [lineKey_of hpc]
    exact hal c hc p (by rw [hpc]; exact List.mem_singleton_self p)
  obtain ⟨h1, h2, h3⟩ := State.writeLines_holds (ms := Acc.lineMs) (fun a _ => fullLine_mxLineOut w d a.pos ty) halk u hdk hc
    (Warp.mxLineOut_side w d c.pos ty)
  rw [lineKey_of hcp] at h1 h2 h3
  obtain ⟨h4, h5⟩ := mxLineOut_bits w d ht c.pos
  intro v bits
  rw [show bits = natOfBytes (w.mxLineOut d ty c.pos).1 from congrArg natOfBytes h2]
  exact ⟨h1, h4, h5, h3⟩

end Written

theorem mxStores_hold : Claims.mxStores := by
  unfold Claims.mxStores
  intro f x s w d ty addr r scope h
  refine ⟨stmx_idle h, stmx_misaligned h, fun ho ha l hl hh hout hr hb => ?_⟩
  intro u
  let val (a : Acc) : List Byte × List (Nat × Byte) := w.woken.mxLineOut d ty a.pos
  let v := u.writeLines Acc.lineKey Acc.lineMs val l
  have hpieces := State.placeAll_global hl
  have hu : r.Homes u := homes_stmx hr hb
  have hvu := State.writeLines_frame Acc.lineKey Acc.lineMs val l u
  have hvs : v = { s with
      warps := r.warps, mem := v.mem, side := v.side, stale := v.stale, staleSide := v.staleSide, failed := v.failed
      l1 := u.l1, tlb := u.tlb, blocks := u.blocks } := by
    obtain ⟨_, _, _, _, _, _, hu⟩ := hu
    obtain ⟨_, _, _, _, _, hv⟩ := hvu
    rw [show v = _ from hv, hu, show r = _ from s.readied_eq w]
  have hw : v.warp s.cur = some w.woken := by
    rw [hvs]
    exact State.readied_warp h.warp
  have hoth (j : Nat) (hj : j ≠ s.cur) : v.warp j = s.warp j := by
    rw [hvs]
    exact State.readied_other hj
  obtain ⟨hret, hack⟩ := acksFor_retires (c := f.dc.toNat) (n := 4) (far := farAway l) hw (by decide) hoth
    ((congrArg State.clock hvs :))
  have hid : v.nextId = s.nextId := (congrArg State.nextId hvs :)
  have hgen : v.gen w.slotNo = s.gen w.slotNo := by
    rw [hvs]
    rfl
  have hnext := stmx_next h ho rfl hr hb hl ha hh hout
  set t := (v.acksFor s.cur (some f.dc.toNat) 4 (farAway l)).advance s.cur with ht
  have hbyte (k : Nat) : t.byte k = v.byte k := hret.bytes k
  have hside (k b : Nat) : t.sideByte k b = v.sideByte k b := by
    rw [hret.rest]
    rfl
  have hfail (k : Nat) : t.lineFailed k = v.lineFailed k := by
    rw [hret.rest]
    rfl
  have hbytes (k : Nat) : t.bytes k 128 = v.bytes k 128 := List.map_congr_left fun i _ => hbyte (k + i)
  refine ⟨t, _, hnext, ?_, hid ▸ hack, rfl, rfl, hgen, rfl, rfl, fun k hk => (hbyte k).trans ?_,
    fun hd c p hc hp _ hal => ?_⟩
  · obtain ⟨mem, side, stale, staleSide, failed, hv⟩ := hvu
    have hfield {α : Type} (g : State → α) (hg : ∀ y ws acks n, g { y with warps := ws, acks := acks, nextId := n } = g y) :
        g t = g { u with mem := mem, side := side, stale := stale, staleSide := staleSide, failed := failed } :=
      (congrArg g hret.rest).trans ((hg v t.warps t.acks _).trans (congrArg g hv))
    rw [hfield State.mem fun _ _ _ _ => rfl, hfield State.side fun _ _ _ _ => rfl, hfield State.stale fun _ _ _ _ => rfl,
      hfield State.staleSide fun _ _ _ _ => rfl, hfield State.failed fun _ _ _ _ => rfl, ← hid]
    have hv' : ({ v with acks := t.acks, nextId := v.nextId + 1 } : State) = _ :=
      congrArg (fun y : State => { y with acks := t.acks, nextId := v.nextId + 1 }) hv
    rw [hv'] at hret
    exact hret
  · exact byte_writeMx_outside hpieces hk
  · obtain ⟨h1, h2, h3, h4⟩ := writeMx_holds (u := u) (w := w.woken) (d := d) hpieces (familyType_packs _) hd hal hc hp
    rw [show t.bytes p.t.key 128 = _ from hbytes p.t.key]
    exact ⟨(hfail _).trans h1, h2, h3, fun b hb => (hside _ b).trans (h4 b hb)⟩

/-- Settles O20: a load lands what `mxLineAt` reads of four lines in order, and a store writes lines one after another. -/
theorem mxLinesComplete : Obligations.MxLinesComplete := ⟨mxLoads_hold, mxStores_hold⟩

end Sys2Proof.Machine
end

section
/-! SUPPORT. The matrix engine: instructions taken, tiles written, and the twins' rendezvous (R103, R111, R188, R193, R295,
R297, R298, R302, R304). -/

namespace Sys2Proof.Machine

/-! ### MATRIX_ENGINE_START (R188, R193, R295) -/

/-- R103: the steps of the generator that an instruction owes its engine's quarter. -/
def MatKind.stepsOwed (q : Nat) : MatKind → List Draw
  | .mrqReg _ _ _ 4 => [⟨q, 2, 0, 0, 16, 4, []⟩]
  | .mrqMem _ _ 4 _ => [⟨q, 2, 0, 0, 16, 4, []⟩]
  | .mscl _ _ 4 => [⟨q, 2, 0, 0, 8, 8, []⟩]
  | _ => []

theorem stepsOwed_eq (q : Nat) (k : MatKind) :
    k.stepsOwed q = if k.stepClocks = 0 then [] else [⟨q, 2, 0, 0, k.stepClocks, 64 / k.stepClocks, []⟩] := by
  cases k with
  | mma | accz | accld | accst | mgd | macc => rfl
  | mrqReg t r c rnd | mrqMem t c rnd l | mscl t g rnd =>
    by_cases h : rnd = 4
    · subst h
      simp [MatKind.stepsOwed, MatKind.stepClocks]
    · simp [MatKind.stepsOwed, MatKind.stepClocks, h]

theorem startSteps_eq (s : State) (q : Nat) (k : MatKind) :
    s.startSteps q k = { s with draws := s.draws ++ k.stepsOwed q } := by
  rw [stepsOwed_eq]
  unfold State.startSteps
  dsimp only
  split
  · rw [List.append_nil]
  · rfl

theorem engineStarts_hold : Claims.engineStarts := by
  intro s q o rest e he
  have hexec : exec (.matrixEngineStart q) s = execMatrixEngineStart q s := rfl
  unfold execMatrixEngineStart at hexec
  dsimp only at hexec
  rw [show (s.engine q).queue = o :: rest from he] at hexec
  obtain ⟨id, slot, gen, kind⟩ := o
  refine ⟨fun hk => ?_, fun t g hk => ?_⟩
  · rw [hexec]
    simp only [startSteps_eq]
    cases kind with
    | mgd t g => exact absurd rfl (hk t g)
    | mma | accz | accld | accst | mrqReg | mrqMem | macc | mscl => rfl
  · obtain rfl : kind = .mgd t g := hk
    have hr : e.runs id = e.run.any fun p => p.warp == id := by
      unfold Engine.runs
      cases e.run <;> rfl
    rw [hexec]
    dsimp only
    rw [← hr]

/-! ### MATRIX_ENGINE_COMPLETE (R103, R188) -/

/-- The state in which an engine's instruction has its effect: the engine idle, its steps of the generator used up. -/
def State.engineFreed (s : State) (q : Nat) : State := { s with
  engines := s.engines.put q { s.engine q with run := none }
  draws := s.draws.filter fun d => !(d.unit == 2 && d.quarter == q) }

section Complete
variable {s : State} {q : Nat} {o : MatOp} (hr : (s.engine q).run = some o) (hh : s.matHeld o = false)
include hr hh

theorem engine_waits (h : s.stepsTaken q o.kind = none) : exec (.matrixEngineComplete q) s = .next s := by
  refine (show exec (.matrixEngineComplete q) s = execMatrixEngineComplete q s from rfl).trans ?_
  unfold execMatrixEngineComplete
  dsimp only
  rw [hr]
  dsimp only
  rw [hh, h]
  rfl

variable {words : List Word} (h : s.stepsTaken q o.kind = some words)
include h

theorem engine_ends : exec (.matrixEngineComplete q) s = .next (match s.warp o.warp with
    | none => if o.kind.lands then (s.engineFreed q).countDrop o.slot else s.engineFreed q
    | some w => (s.engineFreed q).matDone words o w) := by
  refine (show exec (.matrixEngineComplete q) s = execMatrixEngineComplete q s from rfl).trans ?_
  unfold execMatrixEngineComplete
  dsimp only
  rw [hr]
  dsimp only
  rw [hh, h]
  rfl

theorem engine_completes {w : Warp} (hw : s.warp o.warp = some w) :
    exec (.matrixEngineComplete q) s = .next ((s.engineFreed q).matDone words o w) := by
  rw [engine_ends hr hh h, hw]

theorem engine_drops (hw : s.warp o.warp = none) : exec (.matrixEngineComplete q) s =
    .next (if o.kind.lands then (s.engineFreed q).countDrop o.slot else s.engineFreed q) := by
  rw [engine_ends hr hh h, hw]

end Complete

theorem engineDrops_hold : Claims.engineDrops := by
  intro s q o words e hr hw hh hs
  refine ⟨_, engine_drops hr hh hs hw, ?_⟩
  obtain ⟨id, slot, gen, kind⟩ := o
  cases kind with
  | mma | accz | accld | mrqMem | mgd | macc | mscl => exact ⟨rfl, dropsCounted_zero _ _ _ rfl⟩
  | accst | mrqReg => exact ⟨rfl, dropsCounted_one _ rfl⟩

/-! ### Tiles (R111, R297, R298, R304) -/

theorem tileWritten_setAcc (w : Warp) (t : Nat) (f : Nat → Word) : Claims.tileWritten w (w.setAcc t f) t f := by
  intro u i hi
  refine (Store.get_setBlock w.acc (t * 1024) 1024 f (u * 1024 + i)).trans ?_
  by_cases h : u = t
  · rw [if_pos ((in_block hi).2 h), if_pos h, h, Nat.add_sub_cancel_left]
  · rw [if_neg (fun hb => h ((in_block hi).1 hb)), if_neg h]
    rfl

theorem tileWritten_mapTile (w : Warp) (t : Nat) (g : Nat → Word × FFlags) :
    Claims.tileWritten w (w.mapTile t g) t fun i => (g i).1 := tileWritten_setAcc w t fun i => (g i).1

theorem mapTile_frame (w : Warp) (t : Nat) (g : Nat → Word × FFlags) : w.mapTile t g = { w with
    acc := (w.mapTile t g).acc, fflags := w.fflags ||| (List.range 1024).foldl (fun fl i => fl ||| (g i).2) 0 } := rfl

theorem noFlags (l : List Nat) : l.foldl (fun (fl : FFlags) _ => fl ||| 0) 0 = 0 := by
  induction l with
  | nil => rfl
  | cons i r ih => exact ih

/-- A tile written without flags. -/
theorem setAcc_frame (w : Warp) (t : Nat) (f : Nat → Word) : w.setAcc t f = { w with
    acc := (w.setAcc t f).acc, fflags := w.fflags ||| (List.range 1024).foldl (fun fl _ => fl ||| 0) 0 } := by
  rw [noFlags, show w.fflags ||| 0 = w.fflags from BitVec.or_zero]
  rfl

/-! ### The words of a stochastic rounding (R97, R103) -/

theorem groupWord_eq (words : List Word) : groupWord words = fun i => (words.getD (i / 16) 0).rotateLeft (2 * (i % 16)) := by
  funext i
  have h : 2 * (i % 16) % 32 = 2 * (i % 16) := Nat.mod_eq_of_lt (by omega)
  rw [groupWord, srWord, h]

theorem requant_eq (w : Warp) (t c rnd : Nat) (words : List Word) : w.requant t c rnd words = (List.range 32).map fun m =>
    requantise (matType c) rnd (fun i => (words.getD ((32 * m + i) / 16) 0).rotateLeft (2 * ((32 * m + i) % 16)))
      ((List.range 32).map fun n => fval (w.ar t (32 * m + n))) := by
  rw [Warp.requant, groupWord_eq]

/-! ### MGD_RENDEZVOUS (R193, R302) -/

theorem guidance_holds : Claims.guidance := by
  intro s leader fid tl tf w fw g h hw ht hf e hl hfid hrun
  refine ⟨_, tileWritten_mapTile w tl _, mapTile_frame w tl _, ?_⟩
  have hruns : (e.runs leader || e.runs fid) = false := by
    unfold Engine.runs
    cases hr : e.run with
    | none => rfl
    | some o => simpa using hrun o hr
  refine (show exec (.mgdRendezvous leader) s = execMgdRendezvous leader s from rfl).trans ?_
  unfold execMgdRendezvous
  rw [hw]
  dsimp only
  rw [if_neg (not_not.2 ht), hf]
  dsimp only
  rw [show s.engine w.quarterNo = e from rfl, hruns, hl, hfid]
  rfl

end Sys2Proof.Machine
end

section
/-! SUPPORT. Registers that a matrix engine writes (R83, R98, R190, R298, R299). -/

namespace Sys2Proof.Machine

/-! ### Register groups that land whole -/

/-- v registers from `d` written whole. -/
def vGroup (d n : Nat) (g : Nat → Nat → Word) : List RegWrite :=
  (List.range n).map fun j => .v (d + j) ((List.range 128).map fun p => (p, g j p))

/-- e registers from `d` written whole. -/
def eGroup (d n : Nat) (g : Nat → Nat → Byte) : List RegWrite :=
  (List.range n).map fun j => .e (d + j) ((List.range 32).map fun i => (i, g j i))

theorem unpend_append (w : Warp) (l m : List RegWrite) : w.unpend (l ++ m) = (w.unpend l).unpend m := List.foldl_append

theorem keepAll (m : Mask) : m &&& ~~~(0 : Mask) = m := BitVec.and_allOnes

theorem unpend_oneV (w : Warp) (r : Nat) (l : List (Nat × Word)) :
    w.unpend [.v r l] = { w with pendV := w.pendV &&& ~~~ (1#128 <<< r) } := by
  change { w with pendV := w.pendV &&& ~~~ (1#128 <<< r), pendE := w.pendE &&& ~~~ 0, pendK := w.pendK &&& ~~~ 0 } = _
  rw [keepAll, keepAll]

theorem unpend_oneE (w : Warp) (r : Nat) (l : List (Nat × Byte)) :
    w.unpend [.e r l] = { w with pendE := w.pendE &&& ~~~ (1#128 <<< r) } := by
  change { w with pendV := w.pendV &&& ~~~ 0, pendE := w.pendE &&& ~~~ (1#128 <<< r), pendK := w.pendK &&& ~~~ 0 } = _
  rw [keepAll, keepAll]

section VGroup
variable (w : Warp) (d n : Nat) (g : Nat → Nat → Word)

theorem vGroup_succ : vGroup d (n + 1) g = vGroup d n g ++ [.v (d + n) ((List.range 128).map fun p => (p, g n p))] := by
  simp [vGroup, List.range_succ]

theorem vr_land_whole (f : Nat → Word) (r : Nat) {p : Nat} (hp : p < 128) :
    (w.land (.v d ((List.range 128).map fun q => (q, f q)))).vr r p = if r = d then f p else w.vr r p := by
  have hw : Claims.vWrites [.v d ((List.range 128).map fun q => (q, f q))] = (List.range 128).map fun q => (d, q, f q) := by
    simp [Claims.vWrites]
  have hv : ∀ e ∈ Claims.vWrites [.v d ((List.range 128).map fun q => (q, f q))], e.2.1 < 128 := by
    rw [hw]
    intro e he
    obtain ⟨q, hq, rfl⟩ := List.mem_map.1 he
    exact List.mem_range.1 hq
  refine (Warp.vr_foldl_land [_] w hv r hp).trans ?_
  rw [hw]
  by_cases h : r = d
  · rw [find_range_reverse 128 0 p _ _ fun i _ => by simp [h], if_pos (by omega), if_pos h]
    rfl
  · rw [if_neg h, List.find?_eq_none.2]
    · rfl
    · intro e he
      obtain ⟨q, -, rfl⟩ := List.mem_map.1 (List.mem_reverse.1 he)
      simp [Ne.symm h]

theorem land_vGroup_frame : ∃ v, (vGroup d n g).foldl Warp.land w = { w with v := v } := by
  induction n with
  | zero => exact ⟨_, rfl⟩
  | succ n ih =>
    obtain ⟨v, h⟩ := ih
    exact ⟨_, by rw [vGroup_succ, List.foldl_append, h]; rfl⟩

theorem vr_land_vGroup (r : Nat) {p : Nat} (hp : p < 128) :
    ((vGroup d n g).foldl Warp.land w).vr r p = if d ≤ r ∧ r < d + n then g (r - d) p else w.vr r p := by
  induction n with
  | zero => exact (if_neg (by omega)).symm
  | succ n ih =>
    rw [vGroup_succ, List.foldl_append, List.foldl_cons, List.foldl_nil, vr_land_whole _ _ _ _ hp, ih]
    by_cases h : r = d + n
    · rw [if_pos h, if_pos (by omega), h, Nat.add_sub_cancel_left]
    · rw [if_neg h]
      exact if_congr (by omega) rfl rfl

theorem unpend_vGroup_frame : ∃ pv, w.unpend (vGroup d n g) = { w with pendV := pv } := by
  induction n with
  | zero => exact ⟨_, rfl⟩
  | succ n ih =>
    obtain ⟨pv, h⟩ := ih
    refine ⟨pv &&& ~~~ (1#128 <<< (d + n)), ?_⟩
    rw [vGroup_succ, unpend_append, h, unpend_oneV]

theorem vGroup_regs {b : Nat} (hb : b < 128) :
    ((vGroup d n g).any fun x => x.regs.1.getLsbD b) = decide (d ≤ b ∧ b < d + n) ∧
    ((vGroup d n g).any fun x => x.regs.2.1.getLsbD b) = false := by
  rw [← any_range_eq]
  simp [vGroup, RegWrite.regs, List.any_map, Function.comp_def, bit_single_beq hb]

end VGroup

section EGroup
variable (w : Warp) (d n : Nat) (g : Nat → Nat → Byte)

theorem eGroup_succ : eGroup d (n + 1) g = eGroup d n g ++ [.e (d + n) ((List.range 32).map fun i => (i, g n i))] := by
  simp [eGroup, List.range_succ]

theorem er_land_whole (f : Nat → Byte) (r : Nat) {i : Nat} (hi : i < 32) :
    (w.land (.e d ((List.range 32).map fun q => (q, f q)))).er r i = if r = d then f i else w.er r i := by
  have hw : Claims.eWrites [.e d ((List.range 32).map fun q => (q, f q))] = (List.range 32).map fun q => (d, q, f q) := by
    simp [Claims.eWrites]
  have he : ∀ e ∈ Claims.eWrites [.e d ((List.range 32).map fun q => (q, f q))], e.2.1 < 32 := by
    rw [hw]
    intro e he
    obtain ⟨q, hq, rfl⟩ := List.mem_map.1 he
    exact List.mem_range.1 hq
  refine (Warp.er_foldl_land [_] w he r hi).trans ?_
  rw [hw]
  by_cases h : r = d
  · rw [find_range_reverse 32 0 i _ _ fun j _ => by simp [h], if_pos (by omega), if_pos h]
    rfl
  · rw [if_neg h, List.find?_eq_none.2]
    · rfl
    · intro e he
      obtain ⟨q, -, rfl⟩ := List.mem_map.1 (List.mem_reverse.1 he)
      simp [Ne.symm h]

theorem land_eGroup_frame : ∃ e, (eGroup d n g).foldl Warp.land w = { w with e := e } := by
  induction n with
  | zero => exact ⟨_, rfl⟩
  | succ n ih =>
    obtain ⟨e, h⟩ := ih
    exact ⟨_, by rw [eGroup_succ, List.foldl_append, h]; rfl⟩

theorem er_land_eGroup (r : Nat) {i : Nat} (hi : i < 32) :
    ((eGroup d n g).foldl Warp.land w).er r i = if d ≤ r ∧ r < d + n then g (r - d) i else w.er r i := by
  induction n with
  | zero => exact (if_neg (by omega)).symm
  | succ n ih =>
    rw [eGroup_succ, List.foldl_append, List.foldl_cons, List.foldl_nil, er_land_whole _ _ _ _ hi, ih]
    by_cases h : r = d + n
    · rw [if_pos h, if_pos (by omega), h, Nat.add_sub_cancel_left]
    · rw [if_neg h]
      exact if_congr (by omega) rfl rfl

theorem unpend_eGroup_frame : ∃ pe, w.unpend (eGroup d n g) = { w with pendE := pe } := by
  induction n with
  | zero => exact ⟨_, rfl⟩
  | succ n ih =>
    obtain ⟨pe, h⟩ := ih
    refine ⟨pe &&& ~~~ (1#128 <<< (d + n)), ?_⟩
    rw [eGroup_succ, unpend_append, h, unpend_oneE]

theorem eGroup_regs {b : Nat} (hb : b < 128) :
    ((eGroup d n g).any fun x => x.regs.1.getLsbD b) = false ∧
    ((eGroup d n g).any fun x => x.regs.2.1.getLsbD b) = decide (d ≤ b ∧ b < d + n) := by
  rw [← any_range_eq]
  simp [eGroup, RegWrite.regs, List.any_map, Function.comp_def, bit_single_beq hb]

end EGroup

/-! ### Landing, or not (R83) -/

section Land
variable {s : State} {q : Nat} {o : MatOp} {w : Warp} (hw : s.warp o.warp = some w)
include hw

theorem matLand_stands (x : Warp) (l : List RegWrite)
    (h : w.slotNo = o.slot ∧ s.gen o.slot = o.gen ∧ w.killed = false ∧ w.swapped = false) :
    (s.engineFreed q).matLand o x l = { s.engineFreed q with warps := s.warps.put o.warp ((l.foldl Warp.land x).unpend l) } := by
  obtain ⟨hslot, hgen, hkilled, hswapped⟩ := h
  have ho : (s.engineFreed q).owner o.warp o.slot o.gen = some w := State.owner_of hw hslot hgen hkilled hswapped
  unfold State.matLand
  rw [ho]
  rfl

/-- R83: a result of an older generation or of a killed warp is dropped and counted. -/
theorem matLand_gone (x : Warp) (l : List RegWrite) (h : s.gen o.slot ≠ o.gen ∨ w.killed = true) :
    let v := (s.engineFreed q).matLand o x l
    v = { s.engineFreed q with comps := v.comps } ∧ Claims.dropsCounted s v o.slot 1 := by
  have ho : (s.engineFreed q).owner o.warp o.slot o.gen = none := State.owner_gone (h.imp id fun hk => ⟨w, hw, hk⟩)
  have hv : (s.engineFreed q).matLand o x l = (s.engineFreed q).countDrop o.slot := by
    unfold State.matLand
    rw [ho]
    rfl
  rw [hv]
  exact ⟨rfl, dropsCounted_one _ rfl⟩

end Land

theorem vr_unpend (w : Warp) (l : List RegWrite) (r p : Nat) : (w.unpend l).vr r p = w.vr r p := by
  obtain ⟨_, _, _, h⟩ := w.unpend_frame l
  rw [h]
  rfl

theorem er_unpend (w : Warp) (l : List RegWrite) (r i : Nat) : (w.unpend l).er r i = w.er r i := by
  obtain ⟨_, _, _, h⟩ := w.unpend_frame l
  rw [h]
  rfl

/-! ### accst (R298) -/

/-- v registers that land and are pending no more. -/
theorem landed_vGroup (w : Warp) (d n : Nat) (g : Nat → Nat → Word) :
    let w1 := ((vGroup d n g).foldl Warp.land w).unpend (vGroup d n g)
    w1 = { w with v := w1.v, pendV := w1.pendV } ∧
    (∀ r, ∀ p < 128, w1.vr r p = if d ≤ r ∧ r < d + n then g (r - d) p else w.vr r p) ∧
    ∀ b < 128, w1.pendV.getLsbD b = (w.pendV.getLsbD b && !decide (d ≤ b ∧ b < d + n)) := by
  intro w1
  obtain ⟨v, hv⟩ := land_vGroup_frame w d n g
  refine ⟨?_, fun r p hp => (vr_unpend _ _ _ _).trans (vr_land_vGroup w d n g r hp), fun b hb => ?_⟩
  · obtain ⟨pv, hp⟩ := unpend_vGroup_frame ((vGroup d n g).foldl Warp.land w) d n g
    rw [show w1 = _ from hp, hv]
  · refine ((Warp.unpend_bits _ _ hb).1).trans ?_
    rw [(vGroup_regs d n g hb).1, hv]

/-! ### mrq into registers (R299) -/

/-- v registers and e registers that land together and are pending no more. -/
theorem landed_groups (w : Warp) (d n : Nat) (g : Nat → Nat → Word) (f : Nat → Nat → Byte) :
    let l := vGroup d n g ++ eGroup d n f
    let w1 := (l.foldl Warp.land w).unpend l
    w1 = { w with v := w1.v, e := w1.e, pendV := w1.pendV, pendE := w1.pendE } ∧
    (∀ r, ∀ p < 128, w1.vr r p = if d ≤ r ∧ r < d + n then g (r - d) p else w.vr r p) ∧
    (∀ r, ∀ i < 32, w1.er r i = if d ≤ r ∧ r < d + n then f (r - d) i else w.er r i) ∧
    ∀ b < 128, w1.pendV.getLsbD b = (w.pendV.getLsbD b && !decide (d ≤ b ∧ b < d + n)) ∧
      w1.pendE.getLsbD b = (w.pendE.getLsbD b && !decide (d ≤ b ∧ b < d + n)) := by
  intro l w1
  have hland : l.foldl Warp.land w = (eGroup d n f).foldl Warp.land ((vGroup d n g).foldl Warp.land w) := List.foldl_append
  obtain ⟨v, hv⟩ := land_vGroup_frame w d n g
  obtain ⟨e, he⟩ := land_eGroup_frame { w with v := v } d n f
  refine ⟨?_, fun r p hp => ?_, fun r i hi => ?_, fun b hb => ?_⟩
  · have hun : w1 = ((l.foldl Warp.land w).unpend (vGroup d n g)).unpend (eGroup d n f) := unpend_append _ _ _
    obtain ⟨pv, h1⟩ := unpend_vGroup_frame (l.foldl Warp.land w) d n g
    obtain ⟨pe, h2⟩ := unpend_eGroup_frame { l.foldl Warp.land w with pendV := pv } d n f
    rw [hun, h1, h2, hland, hv, he]
  · refine (vr_unpend _ _ _ _).trans ((congrArg (Warp.vr · r p) hland).trans (Eq.trans ?_ (vr_land_vGroup w d n g r hp)))
    rw [hv, he]
    rfl
  · refine (er_unpend _ _ _ _).trans ((congrArg (Warp.er · r i) hland).trans ?_)
    rw [hv]
    exact er_land_eGroup { w with v := v } d n f r hi
  · obtain ⟨h1, h2, -⟩ := Warp.unpend_bits l (l.foldl Warp.land w) hb
    obtain ⟨hv1, hv2⟩ := vGroup_regs d n g hb
    obtain ⟨he1, he2⟩ := eGroup_regs d n f hb
    have hpv : (l.foldl Warp.land w).pendV = w.pendV := by rw [hland, hv, he]
    have hpe : (l.foldl Warp.land w).pendE = w.pendE := by rw [hland, hv, he]
    rw [List.any_append, hv1, he1, Bool.or_false, hpv] at h1
    rw [List.any_append, hv2, he2, Bool.false_or, hpe] at h2
    exact ⟨h1, h2⟩

section Rows
variable (c d n : Nat) {row : Nat → Nat × List Nat × FFlags}

/-- R190: the scale of a row, none past the last. -/
theorem scale_of_rows (row : Nat → Nat × List Nat × FFlags) (i b : Nat) :
    BitVec.ofNat 8 (if i < 4 * matEpl c then (((List.range 32).map row).map fun x => x.1).getD b 0 else 0) =
      if i < 4 * matEpl c ∧ b < 32 then BitVec.ofNat 8 (((List.range 32).map row).getD b (0, [], 0)).1 else 0 := by
  by_cases hi : i < 4 * matEpl c
  · by_cases hb : b < 32
    · rw [if_pos hi, if_pos ⟨hi, hb⟩, List.getD_eq_getElem _ _ (by simpa using hb),
        List.getD_eq_getElem _ _ (by simpa using hb), List.getElem_map]
    · rw [if_pos hi, if_neg (fun h => hb h.2), List.getD_eq_default _ _ (by simpa using hb)]
      rfl
  · rw [if_neg hi, if_neg (fun h => hi h.1)]
    rfl

theorem packScales_eq (row : Nat → Nat × List Nat × FFlags) :
    packScales c d n (((List.range 32).map row).map fun x => x.1) = eGroup d n fun j i =>
      if i < 4 * matEpl c ∧ 4 * matEpl c * j + i < 32
        then BitVec.ofNat 8 (((List.range 32).map row).getD (4 * matEpl c * j + i) (0, [], 0)).1 else 0 := by
  unfold packScales eGroup
  dsimp only
  simp only [scale_of_rows]

variable (hrow : ∀ m, (row m).2.1.length = 32)
include hrow

/-- R98, R299: a code of the group that rows are packed into, zero past the last. -/
theorem code_of_rows (i : Nat) : (((List.range 32).map row).flatMap fun x => x.2.1).getD i 0 =
    if i < 1024 then (((List.range 32).map row).getD (i / 32) (0, [], 0)).2.1.getD (i % 32) 0 else 0 := by
  rw [List.flatMap_map, getD_flatMap_range _ _ hrow]
  by_cases h : i < 1024
  · rw [if_pos h, if_pos h, List.getD_eq_getElem ((List.range 32).map row) _ (by simp; omega), List.getElem_map,
      List.getElem_range]
  · rw [if_neg h, if_neg h]

theorem packRegs_eq : packRegs c d n (((List.range 32).map row).flatMap fun x => x.2.1) = vGroup d n fun j p =>
    slotsWord (matWidth c) ((List.range (matEpl c)).map fun i =>
      if (128 * j + p) * matEpl c + i < 1024 then
        (((List.range 32).map row).getD (((128 * j + p) * matEpl c + i) / 32) (0, [], 0)).2.1.getD
          (((128 * j + p) * matEpl c + i) % 32) 0
      else 0) := by
  unfold packRegs vGroup
  dsimp only
  simp only [slotsWord_drop_take, code_of_rows hrow]

end Rows

end Sys2Proof.Machine
end

section
/-! SUPPORT. What a matrix engine leaves (R83, R103, R188, R297 to R304, R398): mrq into lines, and each instruction. -/

namespace Sys2Proof.Machine

/-! ### mrq into lines (R299, R300, R398) -/

/-- A line of an mrq, with its number. -/
abbrev MrqLine := Nat × Nat × Bool × DWord

/-- Lines with their numbers. -/
def mrqNumbered (lines : List (Nat × Bool × DWord)) : List MrqLine := (List.range lines.length).zip lines

theorem mrqNumbered_snd (lines : List (Nat × Bool × DWord)) : (mrqNumbered lines).map (·.2) = lines :=
  List.map_snd_zip (by simp)

theorem mem_mrqNumbered {lines : List (Nat × Bool × DWord)} {x : MrqLine} (h : x ∈ mrqNumbered lines) : x.2 ∈ lines :=
  (List.of_mem_zip h).2

/-- R300, R398: one line written, or failed. -/
def State.mrqStep (o : MatOp) (w : Warp) (c : Nat) (blocks : List (Nat × List Nat × FFlags)) (s : State) (p : MrqLine) : State :=
  if s.broken w.core p.2.1 then s.storeFail o.warp w none p.2.2.2 else s.writeLine p.2.1 p.2.2.1 (mrqLine c blocks p.1)

section Mrq
variable {o : MatOp} {w : Warp} {c : Nat} {blocks : List (Nat × List Nat × FFlags)}

theorem mrqStore_eq (s : State) (lines : List (Nat × Bool × DWord)) : s.mrqStore o w c blocks lines =
    let s1 := (mrqNumbered lines).foldl (State.mrqStep o w c blocks) s
    if (lines.filter fun p => !isPad p.1).length = 0 then s1
    else { s1.tick1 with
      acks := s1.acks.put s1.nextId
        ⟨o.warp, o.slot, o.gen, none, (lines.filter fun p => !isPad p.1).length, lines.any fun p => !isLocal p.1⟩ } := rfl

/-- R299: the sideband of a line of an mrq. -/
def mrqSide (c : Nat) (blocks : List (Nat × List Nat × FFlags)) (n b : Nat) : Byte :=
  let per := mxLine (matType c) / 32
  BitVec.ofNat 8 (match ((blocks.drop (per * n)).take per)[b]? with | some x => x.1 | none => 0)

theorem mrqSide_eq (n b : Nat) : mrqSide c blocks n b =
    match ((blocks.drop (mxLine (matType c) / 32 * n)).take (mxLine (matType c) / 32))[b]? with
    | some x => BitVec.ofNat 8 x.1
    | none => 0 := by
  unfold mrqSide
  dsimp only
  cases ((blocks.drop (mxLine (matType c) / 32 * n)).take (mxLine (matType c) / 32))[b]? <;> rfl

theorem mrqLine_side (n : Nat) : (mrqLine c blocks n).2 = (List.range 8).map fun b => (b, mrqSide c blocks n b) := rfl

theorem fullLine_mrqLine (n : Nat) : FullLine (mrqLine c blocks n) := ⟨length_bytesOfNat _ _, _, mrqLine_side n⟩

/-- Lines none of which lies over a failed link are written one after another. -/
theorem foldl_mrqStep_unbroken {L : List MrqLine} {s : State} (h : ∀ x ∈ L, s.broken w.core x.2.1 = false) :
    L.foldl (State.mrqStep o w c blocks) s =
      s.writeLines (fun x => x.2.1) (fun x => x.2.2.1) (fun x => mrqLine c blocks x.1) L := by
  induction L generalizing s with
  | nil => rfl
  | cons x r ih =>
    obtain ⟨hx, hr⟩ := List.forall_mem_cons.1 h
    have hstep : s.mrqStep o w c blocks x = s.writeLine x.2.1 x.2.2.1 (mrqLine c blocks x.1) :=
      if_neg (by rw [hx]; exact Bool.false_ne_true)
    rw [List.foldl_cons, hstep, ih]
    · rfl
    · intro y hy
      rw [s.writeLine_frame]
      exact hr y hy

/-- R398: a failed store marks its warp with the first address. -/
theorem storeFail_marks {s : State} {id : Nat} {x : Warp} (hx : s.warp id = some x) (w : Warp) (pos : Option Nat) (a : DWord) :
    (s.storeFail id w pos a).warp id = some { x with sfail := x.sfail.orElse fun _ => some a } := by
  unfold State.storeFail
  dsimp only
  generalize s.recordOf w { Trap.of 0x15 a with pos := pos, write := true } 0 false = r
  have hp := s.postRest_postFault r (.record none none)
  generalize (s.postFault r (.record none none)).1 = u at hp
  have hu : u.warp id = some x := by rw [State.warp, State.warps_of_postRest hp]; exact hx
  rw [State.mapWarp_of hu]
  exact State.warp_putWarp_self _ _ _

/-- R398: of the lines of an mrq the first over a failed link marks the warp. -/
theorem foldl_mrqStep_marks {L : List MrqLine} {s : State} {x : Warp} (hx : s.warp o.warp = some x) :
    (L.foldl (State.mrqStep o w c blocks) s).warp o.warp = some { x with
      sfail := x.sfail.orElse fun _ => (L.find? fun p => s.broken w.core p.2.1).map (·.2.2.2) } := by
  induction L generalizing s x with
  | nil =>
    rw [List.foldl_nil, hx]
    cases h : x.sfail <;> simp [← h]
  | cons p r ih =>
    rw [List.foldl_cons]
    by_cases hb : s.broken w.core p.2.1 = true
    · rw [show s.mrqStep o w c blocks p = s.storeFail o.warp w none p.2.2.2 from if_pos hb,
        ih (storeFail_marks hx w none p.2.2.2),
        List.find?_cons_of_pos (by exact hb)]
      cases h : x.sfail <;> rfl
    · have hw : (s.writeLine p.2.1 p.2.2.1 (mrqLine c blocks p.1)).warp o.warp = some x := by
        rw [s.writeLine_frame]
        exact hx
      have hbr (key : Nat) : (s.writeLine p.2.1 p.2.2.1 (mrqLine c blocks p.1)).broken w.core key = s.broken w.core key := by
        rw [s.writeLine_frame]
        rfl
      rw [show s.mrqStep o w c blocks p = s.writeLine p.2.1 p.2.2.1 (mrqLine c blocks p.1) from if_neg hb, ih hw,
        List.find?_cons_of_neg (by exact hb)]
      simp only [hbr]

theorem warp_mrqStore {s : State} {x : Warp} (hx : s.warp o.warp = some x) (lines : List (Nat × Bool × DWord)) :
    (s.mrqStore o w c blocks lines).warp o.warp = some { x with
      sfail := x.sfail.orElse fun _ => (lines.find? fun p => s.broken w.core p.1).map (·.2.2) } := by
  have hfind : (lines.find? fun p => s.broken w.core p.1).map (·.2.2) =
      ((mrqNumbered lines).find? fun p => s.broken w.core p.2.1).map (·.2.2.2) := by
    conv_lhs => rw [← mrqNumbered_snd lines, List.find?_map, Option.map_map]
    rfl
  rw [hfind, mrqStore_eq]
  dsimp only
  split
  · exact foldl_mrqStep_marks hx
  · exact foldl_mrqStep_marks hx

/-- What an mrq leaves of its lines where no link has failed. -/
theorem mrqStore_writes {s : State} {lines : List (Nat × Bool × DWord)} (h : ∀ p ∈ lines, s.broken w.core p.1 = false) :
    let v := s.mrqStore o w c blocks lines
    let far := (lines.filter fun p => !isPad p.1).length
    let per := mxLine (matType c) / 32
    v = { s with
      mem := v.mem, stale := v.stale, side := v.side, staleSide := v.staleSide, failed := v.failed
      acks := v.acks, nextId := if far = 0 then s.nextId else s.nextId + 1 } ∧
    (0 < far → ∃ a, v.acks.find s.nextId = some a ∧ a.warp = o.warp ∧ a.slot = o.slot ∧ a.gen = o.gen ∧ a.dc = none ∧
      a.left = far) ∧
    (∀ k, (∀ p ∈ lines, ¬ (p.1 ≤ k ∧ k < p.1 + 128)) → v.byte k = s.byte k) ∧
    ((lines.Pairwise fun p p' => p.1 / 128 ≠ p'.1 / 128) → (∀ p ∈ lines, p.1 % 128 = 0) →
      ∀ n key ms a, lines[n]? = some (key, ms, a) →
        let held := (blocks.drop (per * n)).take per
        v.lineFailed key = false ∧
        natOfBytes (v.bytes key 128) =
          (held.flatMap fun b => b.2.1).foldr (fun x acc => x + acc * 2 ^ matWidth c) 0 % 2 ^ 1024 ∧
        ∀ b < 8, v.sideByte key b = match held[b]? with | some x => BitVec.ofNat 8 x.1 | none => 0) := by
  intro v far per
  let L := mrqNumbered lines
  let t := s.writeLines (fun x : MrqLine => x.2.1) (fun x => x.2.2.1) (fun x => mrqLine c blocks x.1) L
  have hfull : ∀ x ∈ L, FullLine (mrqLine c blocks x.1) := fun x _ => fullLine_mrqLine x.1
  have hfold : L.foldl (State.mrqStep o w c blocks) s = t :=
    foldl_mrqStep_unbroken fun x hx => h x.2 (mem_mrqNumbered hx)
  obtain ⟨mem, side, stale, staleSide, failed, ht⟩ := State.writeLines_frame (fun x : MrqLine => x.2.1) (fun x => x.2.2.1)
    (fun x => mrqLine c blocks x.1) L s
  have hv : v = if far = 0 then t else { t.tick1 with
      acks := t.acks.put t.nextId ⟨o.warp, o.slot, o.gen, none, far, lines.any fun p => !isLocal p.1⟩ } := by
    rw [show v = _ from mrqStore_eq s lines]
    dsimp only
    rw [hfold]
  have hkeep {α : Type} (g : State → α) (hg : ∀ y acks n, g { y with acks := acks, nextId := n } = g y) : g v = g t := by
    rw [hv]
    split
    · rfl
    · exact hg t _ _
  refine ⟨?_, fun hfar => ?_, fun k hk => (hkeep (State.byte · k) fun _ _ _ => rfl).trans ?_, fun hd hal n key ms a hn => ?_⟩
  · by_cases hfar : far = 0
    · rw [hv.trans (if_pos hfar), if_pos hfar, show t = _ from ht]
    · rw [hv.trans (if_neg hfar), if_neg hfar, show t = _ from ht]
      rfl
  · have hid : t.nextId = s.nextId := (congrArg State.nextId ht :)
    rw [hv.trans (if_neg hfar.ne'), ← hid]
    exact ⟨_, Table.find_put_self _ _ _, rfl, rfl, rfl, rfl, rfl⟩
  · exact State.byte_writeLines_outside hfull s fun x hx => hk x.2 (mem_mrqNumbered hx)
  · intro held
    have hmem : ((n, key, ms, a) : MrqLine) ∈ L := by
      have hlt : n < lines.length := (List.getElem?_eq_some_iff.1 hn).1
      refine List.mem_of_getElem? (i := n) (List.getElem?_zip_eq_some.2 ⟨?_, hn⟩)
      rw [List.getElem?_range hlt]
    have hdL : L.Pairwise fun x y => x.2.1 / 128 ≠ y.2.1 / 128 := by
      rw [← mrqNumbered_snd lines] at hd
      exact (List.pairwise_map (f := fun x : MrqLine => x.2) (R := fun p p' => p.1 / 128 ≠ p'.1 / 128)).1 hd
    obtain ⟨h1, h2, h3⟩ := State.writeLines_holds (ms := fun x : MrqLine => x.2.2.1) hfull
      (fun x hx => hal x.2 (mem_mrqNumbered hx)) s hdL hmem (mrqLine_side n)
    have hbytes : v.bytes key 128 = t.bytes key 128 := hkeep (State.bytes · key 128) fun _ _ _ => rfl
    refine ⟨(hkeep (State.lineFailed · key) fun _ _ _ => rfl).trans h1, ?_, fun b hb =>
      ((hkeep (State.sideByte · key b) fun _ _ _ => rfl).trans (h3 b hb)).trans ?_⟩
    · rw [hbytes, show t.bytes key 128 = _ from h2]
      exact natOfBytes_payload _
    · exact mrqSide_eq n b

end Mrq

end Sys2Proof.Machine
end

section
/-! SUPPORT. MATRIX_ENGINE_COMPLETE: what each instruction leaves (R83, R103, R111, R188, R297 to R304, R398). -/

namespace Sys2Proof.Machine

section Done
variable {s : State} {q : Nat} {o : MatOp} {w : Warp} {words : List Word}

/-- An instruction of a kind, completed. -/
theorem engine_done (hr : (s.engine q).run = some o) (hw : s.warp o.warp = some w) (hh : s.matHeld o = false) {k : MatKind}
    (hk : o.kind = k) (hs : s.stepsTaken q o.kind = some words) :
    exec (.matrixEngineComplete q) s = .next ((s.engineFreed q).matDone words { o with kind := k } w) := by
  rw [engine_completes hr hh hs hw, ← hk]

theorem mrqRows_length (w : Warp) (t c rnd : Nat) (words : List Word) (m : Nat) :
    (requantise (matType c) rnd (fun i => (words.getD ((32 * m + i) / 16) 0).rotateLeft (2 * ((32 * m + i) % 16)))
      ((List.range 32).map fun n => fval (w.ar t (32 * m + n)))).2.1.length = 32 := by
  rw [length_requantise, List.length_map, List.length_range]

end Done

theorem engineEnds_hold : Claims.engineEnds := by
  intro s q o w e hr hw hh
  refine ⟨engine_waits hr hh, fun words hs => ?_⟩
  intro u flags stands word requant dropped tile
  have hdone {k : MatKind} (hk : o.kind = k) := engine_done hr hw hh hk hs
  have hmap {k : MatKind} {t : Nat} {g : Nat → Word × FFlags} (hk : o.kind = k)
      (hm : u.matDone words { o with kind := k } w = u.putWarp o.warp (w.mapTile t g)) : tile t g :=
    ⟨w.mapTile t g, (hdone hk).trans (congrArg _ hm), mapTile_frame w t g, tileWritten_mapTile w t g⟩
  have hset {k : MatKind} {t : Nat} {f : Nat → Word} (hk : o.kind = k)
      (hm : u.matDone words { o with kind := k } w = u.putWarp o.warp (w.setAcc t f)) : tile t fun i => (f i, 0) :=
    ⟨w.setAcc t f, (hdone hk).trans (congrArg _ hm), setAcc_frame w t f, tileWritten_setAcc w t f⟩
  have hdrop {k : MatKind} {x : Warp} {l : List RegWrite} (hk : o.kind = k)
      (hm : u.matDone words { o with kind := k } w = u.matLand o x l) : dropped := fun hg =>
    ⟨_, (hdone hk).trans (congrArg _ hm), matLand_gone hw x l hg⟩
  refine ⟨fun t z sh ta tb ad a sa b sb hk => hmap hk rfl, fun t hk => hset hk rfl, fun t l hk => hset hk rfl,
    fun t t2 hk => hmap hk rfl, fun t g rnd hk => hmap hk ?_, fun t d hk => ⟨hdrop hk rfl, fun hst => ?_⟩,
    fun t d c rnd hk => ⟨hdrop hk rfl, fun hst => ?_⟩, fun t c rnd lines hk => ?_⟩
  · change u.putWarp o.warp (w.mapTile t fun i => tileScaled rnd (groupWord words i) (w.ar t i) g) = _
    rw [groupWord_eq]
  · obtain ⟨h1, h2, h3⟩ := landed_vGroup w d 8 fun j p => w.ar t (128 * j + p)
    exact ⟨_, _, (hdone hk).trans (congrArg _ (matLand_stands hw w _ hst)), rfl, h1, h2, h3⟩
  · intro rows code mine
    have hrows : w.requant t c rnd words = rows := requant_eq w t c rnd words
    let x : Warp := w.raise (rows.foldl (fun fl b => fl ||| b.2.2) 0)
    have hm : u.matDone words { o with kind := .mrqReg t d c rnd } w = u.matLand o x (vGroup d (mrqRegs c) (fun j p =>
        slotsWord (matWidth c) ((List.range (matEpl c)).map fun i => code ((128 * j + p) * matEpl c + i))) ++
        eGroup d (mrqRegs c) fun j i => if i < 4 * matEpl c ∧ 4 * matEpl c * j + i < 32
          then BitVec.ofNat 8 (rows.getD (4 * matEpl c * j + i) (0, [], 0)).1 else 0) := by
      change u.matLand o (w.raise ((w.requant t c rnd words).foldl _ 0))
        (packRegs c d (mrqRegs c) ((w.requant t c rnd words).flatMap _) ++
        packScales c d (mrqRegs c) ((w.requant t c rnd words).map _)) = _
      rw [hrows, show rows = _ from rfl, packRegs_eq c d (mrqRegs c) (mrqRows_length w t c rnd words), packScales_eq]
    obtain ⟨h1, h2, h3, h4⟩ := landed_groups x d (mrqRegs c) (fun j p =>
        slotsWord (matWidth c) ((List.range (matEpl c)).map fun i => code ((128 * j + p) * matEpl c + i)))
      fun j i => if i < 4 * matEpl c ∧ 4 * matEpl c * j + i < 32
        then BitVec.ofNat 8 (rows.getD (4 * matEpl c * j + i) (0, [], 0)).1 else 0
    exact ⟨_, _, (hdone hk).trans (congrArg _ (hm.trans (matLand_stands hw x _ hst))), rfl, h1, h2, h3, h4⟩
  · intro rows raised
    have hm : u.matDone words { o with kind := .mrqMem t c rnd lines } w = (u.putWarp o.warp raised).mrqStore o w c rows lines := by
      change (u.putWarp o.warp (w.raise ((w.requant t c rnd words).foldl _ 0))).mrqStore o w c (w.requant t c rnd words) lines = _
      rw [requant_eq]
      rfl
    have hnext := (hdone hk).trans (congrArg _ hm)
    refine ⟨fun l1 p l2 hl hp hl1 hn => ⟨_, _, hnext, warp_mrqStore (State.warp_putWarp_self u o.warp raised) lines, ?_⟩,
      fun hb => ⟨_, hnext, mrqStore_writes hb⟩⟩
    have hfind : (lines.find? fun p => (u.putWarp o.warp raised).broken w.core p.1) = some p := by
      have hnone : (l1.find? fun p => (u.putWarp o.warp raised).broken w.core p.1) = none :=
        List.find?_eq_none.2 fun y hy => Bool.eq_false_iff.1 (hl1 y hy)
      rw [hl, List.find?_append, hnone, List.find?_cons_of_pos (by exact hp)]
      rfl
    have hsf : raised.sfail = none := hn
    rw [hfind, hsf]
    rfl

/-- Settles O40: an engine's instruction has its effect by `matDone`: on a tile (`mapTile`), in register groups that land whole, or
in lines written one after another. -/
theorem matrixEngineRuns : Obligations.MatrixEngineRuns :=
  ⟨engineStarts_hold, engineEnds_hold, engineDrops_hold, guidance_holds⟩

end Sys2Proof.Machine
end
